-- ==== Sys2Proof/Word.lean ====
section
/-!
DEFINITION. The word types of the machine and their plainest arithmetic (00_scope.md R3, R11).
-/

namespace Sys2Proof

/-- A scalar register or system register value (R50, R99). -/
abbrev Word := BitVec 64

/-- One 32-bit lane of a vector register (R114). -/
abbrev Lane := BitVec 32

/-- A vector register: 128 lanes of 32 bits (R114), lane 0 in the lowest bits. -/
abbrev VReg := BitVec 4096

/-- A mask register: one bit for each lane (R69, R143). -/
abbrev MaskReg := BitVec 128

/-- One byte of memory. -/
abbrev Byte := BitVec 8

/-- A 64-byte chunk, the width of one sub-bank port (R166). -/
abbrev Chunk64 := BitVec 512

/-- One 512-bit bundle (R66). -/
abbrev BundleWord := BitVec 512

/-- Sign extension of an n-bit field to 64 bits (R11). -/
def sext64 {n : Nat} (v : BitVec n) : Word := v.signExtend 64

/-- Zero extension of an n-bit field to 64 bits (R11). -/
def zext64 {n : Nat} (v : BitVec n) : Word := v.zeroExtend 64

/-- Bits [hi:lo] of a value as an unsigned field of the width asked for (R11). -/
def bits {n : Nat} (v : BitVec n) (lo w : Nat) : BitVec w := v.extractLsb' lo w

end Sys2Proof
end

