-- ==== Sys2Proof/Fields.lean ====
section
/-!
DEFINITION. The operand fields of the slot forms: sources (R69), format codes (R91, R114), and the field records of the slot layouts (R95, R96).
-/

namespace Sys2Proof

/-- A native source field (R69). -/
inductive Src where
  /-- register n of the operand's class -/
  | reg (n : BitVec 5)
  /-- bypass latch n, 0 to 15 (R71) -/
  | latch (n : BitVec 4)
  /-- literal n (R68); n is at most 4 in a well-formed field -/
  | lit (n : BitVec 3)
  /-- loop index lpn (R107); n is at most 5 in a well-formed field -/
  | loop (n : BitVec 3)
  /-- 0 in any class -/
  | zero
  /-- the number of the issuing context -/
  | ctx
  deriving DecidableEq, Repr

/-- The format codes 0 to 12 (R91, R114); codes 13 to 15 are illegal (R95). -/
inductive Fmt where
  | fp32 | bf16 | fp16 | e4m3 | e5m2 | mx4 | i32 | i16 | i8 | u8 | i4 | t2 | i64p
  deriving DecidableEq, Repr

/-- The code of a format (R91). -/
def Fmt.code : Fmt → BitVec 4
  | .fp32 => 0 | .bf16 => 1 | .fp16 => 2 | .e4m3 => 3 | .e5m2 => 4 | .mx4 => 5 | .i32 => 6
  | .i16 => 7 | .i8 => 8 | .u8 => 9 | .i4 => 10 | .t2 => 11 | .i64p => 12

/-- The width w in bits of one element of a format (R114). -/
def Fmt.width : Fmt → Nat
  | .fp32 => 32 | .bf16 => 16 | .fp16 => 16 | .e4m3 => 8 | .e5m2 => 8 | .mx4 => 4 | .i32 => 32
  | .i16 => 16 | .i8 => 8 | .u8 => 8 | .i4 => 4 | .t2 => 2 | .i64p => 64

/-- N(F), the number of elements of a vector register (R114). -/
def Fmt.count (f : Fmt) : Nat := 4096 / f.width

/-- The fields of the vector layout (R95). -/
structure VOps where
  /-- the slot: false V0, true V1 -/
  v1 : Bool
  fmt : Fmt
  a : Src
  b : Src
  c : Src
  d : BitVec 5
  nw : Bool
  mask : BitVec 3
  /-- rounding code or modifier [8:6] -/
  md : BitVec 3
  /-- function or small immediate [5:0] -/
  fn : BitVec 6
  deriving DecidableEq, Repr

/-- The fields of the matrix layout (R96). -/
structure MOps where
  fmt : Fmt
  a : Src
  b : Src
  c : Src
  acc : BitVec 5
  fl : BitVec 4
  imm : BitVec 9
  deriving DecidableEq, Repr

/-- The fields of the load layout (R96). -/
structure LdOps where
  a : Src
  b : Src
  d : BitVec 5
  nw : Bool
  mask : BitVec 3
  k : Bool
  part : BitVec 2
  off : BitVec 11
  deriving DecidableEq, Repr

/-- The fields of the store layout (R96). -/
structure StOps where
  a : Src
  b : Src
  c : Src
  d : BitVec 5
  mask : BitVec 3
  k : Bool
  nb : Bool
  fp : Bool
  fn : BitVec 3
  deriving DecidableEq, Repr

/-- The fields of the copy layout (R96). -/
structure COps where
  a : Src
  b : Src
  c : Src
  d : BitVec 5
  nw : Bool
  fmt : Fmt
  fn : BitVec 4
  inplace : Bool
  imm : BitVec 10
  deriving DecidableEq, Repr

end Sys2Proof
end

