-- ==== Sys2Proof/Machine/Numfmt.lean ====
section
/-!
DEFINITION. Number formats, rounding, sticky flags and stochastic rounding (06_number_formats.md R114 to R140).
-/

namespace Sys2Proof.Machine

/-! ### Sticky flags (R129) -/

/-- The flag bits of FPFLAGS [8:0] (R129). -/
abbrev Flags := BitVec 9

def flNX : Flags := 0x001
def flUF : Flags := 0x002
def flOF : Flags := 0x004
def flDZ : Flags := 0x008
def flNV : Flags := 0x010
def flMSAT : Flags := 0x080
def flFMTERR : Flags := 0x100

/-- `fl` when the condition holds, no flag otherwise. -/
def Flags.when (c : Bool) (fl : Flags) : Flags := if c then fl else 0

/-! ### Elements (R114) -/

/-- Element k of a register of elements of width w (R114). -/
def elemNat (w : Nat) {n : Nat} (v : BitVec n) (k : Nat) : Nat := (v.toNat >>> (k * w)) % 2 ^ w

/-- The first n elements of width w of a value, element 0 first (R114). -/
def unpackNat (w n : Nat) (v : Nat) : List Nat :=
  match n with
  | 0 => []
  | k + 1 => v % 2 ^ w :: unpackNat w k (v >>> w)

/-- Elements of width w packed, the first in the lowest bits (R114). -/
def packNat (w : Nat) : List Nat → Nat
  | [] => 0
  | e :: es => e % 2 ^ w + (packNat w es) <<< w

/-- The lane that holds element e of format width w (R141). -/
def laneOf (w e : Nat) : Nat := e * w / 32

/-- gov(l, F) (R115, R141): the lane whose mask bit governs lane l. -/
def govLane (w l : Nat) : Nat := if w = 64 then l - l % 2 else l

/-- An n-bit pattern read as a two's complement number (R116). -/
def toSigned (w v : Nat) : Int := if v < 2 ^ (w - 1) then (v : Int) else (v : Int) - (2 ^ w : Nat)

/-- An integer reduced modulo 2^w (R116). -/
def wrapNat (w : Nat) (x : Int) : Nat := (x % ((2 ^ w : Nat) : Int)).toNat

/-! ### Exact values -/

/-- A floating value: NaN, an infinity, or the exact dyadic number ±m × 2^e (R11, R118); a zero keeps its sign (R120). -/
inductive Num where
  | nan
  | inf (neg : Bool)
  | fin (neg : Bool) (m : Nat) (e : Int)
  deriving DecidableEq, Repr

/-- How a format uses its top exponent (R118). -/
inductive TopUse where
  /-- infinities and NaNs at the top exponent -/
  | ieee
  /-- E4M3: one NaN pattern, no infinity -/
  | oneNan
  /-- E2M1: neither -/
  | none
  deriving DecidableEq, Repr

/-- A floating format by its mantissa width, exponent width and bias (R118). -/
structure FpF where
  mb : Nat
  eb : Nat
  bias : Int
  top : TopUse
  deriving DecidableEq, Repr

def fp32F : FpF := ⟨23, 8, 127, .ieee⟩
def bf16F : FpF := ⟨7, 8, 127, .ieee⟩
def fp16F : FpF := ⟨10, 5, 15, .ieee⟩
def e5m2F : FpF := ⟨2, 5, 15, .ieee⟩
def e4m3F : FpF := ⟨3, 4, 7, .oneNan⟩
def e2m1F : FpF := ⟨1, 2, 1, .none⟩

/-- The wide word W of R139: a 48-bit significand and an exponent from −32,766 to 32,767. -/
def wideF : FpF := ⟨47, 16, 32767, .ieee⟩

/-- The floating format behind a format code, none for the integer formats (R118). -/
def fpOf : Fmt → Option FpF
  | .fp32 => some fp32F
  | .bf16 => some bf16F
  | .fp16 => some fp16F
  | .e4m3 => some e4m3F
  | .e5m2 => some e5m2F
  | .mx4 => some e2m1F
  | _ => none

/-- Is the integer format signed (R116)? -/
def intSigned : Fmt → Bool
  | .u8 => false
  | _ => true

/-- P(F) of R123. -/
def FpF.prec (F : FpF) : Nat := F.mb + 1

/-- emin(F) of R123: the exponent of the smallest normal. -/
def FpF.emin (F : FpF) : Int := 1 - F.bias

/-- The width of a pattern of the format. -/
def FpF.width (F : FpF) : Nat := 1 + F.eb + F.mb

/-- The value of a bit pattern (R118). -/
def FpF.value (F : FpF) (p : Nat) : Num :=
  let neg := (p >>> (F.eb + F.mb)) % 2 = 1
  let e := (p >>> F.mb) % 2 ^ F.eb
  let m := p % 2 ^ F.mb
  let normal : Num := .fin neg (2 ^ F.mb + m) ((e : Int) - F.bias - F.mb)
  if e = 0 then .fin neg m (1 - F.bias - F.mb)
  else if e = 2 ^ F.eb - 1 then
    match F.top with
    | .ieee => if m = 0 then .inf neg else .nan
    | .oneNan => if m = 2 ^ F.mb - 1 then .nan else normal
    | .none => normal
  else normal

/-- The canonical NaN pattern of a format (R119); E2M1 has none and the value is never used. -/
def FpF.canonNan (F : FpF) : Nat :=
  match F.top with
  | .ieee => (2 ^ F.eb - 1) <<< F.mb + 2 ^ (F.mb - 1)
  | .oneNan => (2 ^ F.eb - 1) <<< F.mb + (2 ^ F.mb - 1)
  | .none => 0

/-- The largest finite value as significand and unit exponent (R118). -/
def FpF.maxFin (F : FpF) : Nat × Int :=
  match F.top with
  | .ieee => (2 ^ F.prec - 1, (2 ^ F.eb - 2 : Int) - F.bias - F.mb)
  | .oneNan => (2 ^ F.prec - 2, (2 ^ F.eb - 1 : Int) - F.bias - F.mb)
  | .none => (2 ^ F.prec - 1, (2 ^ F.eb - 1 : Int) - F.bias - F.mb)

/-- The sign bit of a pattern. -/
def FpF.signBit (F : FpF) (neg : Bool) : Nat := if neg then 2 ^ (F.eb + F.mb) else 0

/-- The pattern of a value that the format represents exactly (R118). -/
def FpF.encodeExact (F : FpF) : Num → Nat
  | .nan => F.canonNan
  | .inf neg => F.signBit neg + (2 ^ F.eb - 1) <<< F.mb
  | .fin neg m e =>
    if m = 0 then F.signBit neg
    else
      let lg : Int := (Nat.log2 m : Int) + e
      if lg < F.emin then
        -- subnormal: unit 2^(emin - mb)
        let d := e - (F.emin - F.mb)
        F.signBit neg + (if d ≥ 0 then m <<< d.toNat else m >>> (-d).toNat)
      else
        let d := e - (lg - F.mb)
        let sig := if d ≥ 0 then m <<< d.toNat else m >>> (-d).toNat
        F.signBit neg + ((lg + F.bias).toNat <<< F.mb) + (sig - 2 ^ F.mb)

/-! ### Rounding (R122 to R124) -/

/-- The six rounding modes (R122). -/
inductive RM where
  | rne | rtz | rdn | rup | rna | sr
  deriving DecidableEq, Repr

/-- The mode of a rounding code; codes 6 and 7 are illegal (R122). -/
def rmOf (c : BitVec 3) : RM :=
  match c.toNat with
  | 0 => .rne | 1 => .rtz | 2 => .rdn | 3 => .rup | 4 => .rna | _ => .sr

/-- The up decision of R123 for the exact magnitude (n + rem / 2^d), with the draw r of SR. -/
def roundUp (mode : RM) (neg : Bool) (n rem d r : Nat) : Bool :=
  match mode with
  | .rne => decide (2 * rem > 2 ^ d) || (decide (2 * rem = 2 ^ d) && decide (n % 2 = 1))
  | .rna => decide (2 * rem ≥ 2 ^ d)
  | .rtz => false
  | .rdn => decide (rem > 0) && neg
  | .rup => decide (rem > 0) && !neg
  | .sr => decide (rem > 0) && decide ((rem * 65536) >>> d + r ≥ 65536)

/-- A magnitude m × 2^e in units of 2^q: the integer part, and the remainder over 2^d (R123). -/
def scaleTo (m : Nat) (e q : Int) : Nat × Nat × Nat :=
  if e ≥ q then (m <<< (e - q).toNat, 0, 0)
  else
    let d := (q - e).toNat
    (m >>> d, m % 2 ^ d, d)

/-- round_fp of R123 on an exact value, with the draw r that SR uses; the rounded value and the flags. -/
def roundNum (F : FpF) (mode : RM) (r : Nat) (x : Num) : Num × Flags :=
  match x with
  | .nan => (.nan, 0)
  | .inf s => if F.top = .ieee then (.inf s, 0) else (.nan, flNV)
  | .fin s m e =>
    if m = 0 then (.fin s 0 0, 0)
    else
      let lg : Int := (Nat.log2 m : Int) + e
      let q := max lg F.emin - (F.prec : Int) + 1
      let (n, rem, d) := scaleTo m e q
      let n' := if roundUp mode s n rem d r then n + 1 else n
      let inexact := decide (rem > 0)
      let fNX := Flags.when inexact flNX
      let (n2, q2) : Nat × Int := if n' = 2 ^ F.prec then (2 ^ F.mb, q + 1) else (n', q)
      let (mx, mq) := F.maxFin
      if q2 > mq || (decide (q2 = mq) && decide (n2 > mx)) then
        let fl := flOF ||| flNX
        if F.top ≠ .ieee then (.fin s mx mq, fl)
        else
          match mode with
          | .rtz => (.fin s mx mq, fl)
          | .rdn => if s then (.inf s, fl) else (.fin s mx mq, fl)
          | .rup => if s then (.fin s mx mq, fl) else (.inf s, fl)
          | _ => (.inf s, fl)
      else
        -- underflow: inexact, and the value rounded with unbounded exponent lies below 2^emin
        let tiny :=
          if lg < F.emin then
            let (u, urem, ud) := scaleTo m e (lg - (F.prec : Int) + 1)
            let u' := if roundUp mode s u urem ud r then u + 1 else u
            !(decide (u' = 2 ^ F.prec) && decide (lg + 1 = F.emin))
          else false
        (.fin s n2 q2, fNX ||| Flags.when (inexact && tiny) flUF)

/-- round_int of R124: the nearest representable integer of a range, with the draw r that SR uses. -/
def roundInt (lo hi : Int) (mode : RM) (r : Nat) (x : Num) : Int × Flags :=
  match x with
  | .nan => (0, flNV)
  | .inf s => (if s then lo else hi, flNV)
  | .fin s m e =>
    let (n, rem, d) := scaleTo m e 0
    let n' := if roundUp mode s n rem d r then n + 1 else n
    let v : Int := if s then -(n' : Int) else n'
    let nx := Flags.when (decide (rem > 0)) flNX
    if v < lo then (lo, flNV ||| nx)
    else if v > hi then (hi, flNV ||| nx)
    else (v, nx)

/-- The least and greatest value of an integer format (R116). -/
def intRange (w : Nat) (signed : Bool) : Int × Int :=
  if signed then (-((2 ^ (w - 1) : Nat) : Int), ((2 ^ (w - 1) : Nat) : Int) - 1)
  else (0, ((2 ^ w : Nat) : Int) - 1)

/-- A value clamped to a range (R116). -/
def clampInt (lo hi x : Int) : Int := if x < lo then lo else if x > hi then hi else x

/-! ### Stochastic rounding (R125, R126) -/

/-- lfsr_step of R125. -/
def lfsrStep (s : BitVec 16) : BitVec 16 :=
  let b := s.getLsbD 0 ^^ (s.getLsbD 2 ^^ (s.getLsbD 3 ^^ s.getLsbD 5))
  (s >>> 1) ||| ((if b then 1 else 0 : BitVec 16) <<< 15)

/-- The 128 LFSR states of a context, lane 0 in the lowest bits (R125). -/
abbrev Lfsrs := BitVec 2048

/-- The state of one lane's LFSR (R125). -/
def lfsrGet (l : Lfsrs) (lane : Nat) : BitVec 16 := l.extractLsb' (lane * 16) 16

/-- Replace the state of one lane's LFSR (R125). -/
def lfsrSet (l : Lfsrs) (lane : Nat) (v : BitVec 16) : Lfsrs :=
  (l &&& ~~~((0xFFFF : Lfsrs) <<< (lane * 16))) ||| (v.setWidth 2048 <<< (lane * 16))

/-- The states after a syswr of SRSEED (R127); the value at the start cycle is that of seed 1 (R50). -/
def lfsrSeed (seed : BitVec 16) : Lfsrs :=
  BitVec.ofNat 2048 (packNat 16 ((List.range 128).map fun i =>
    let v := (seed.toNat + i) % 65536
    if v = 0 then 0xFFFF else v))

/-- What a rounding changes beside its result: the LFSR states and the flags gathered (R126, R130). -/
structure FpEnv where
  lfsr : Lfsrs
  fl : Flags
  deriving DecidableEq, Repr

/-- Gather flags. -/
def FpEnv.flag (v : FpEnv) (f : Flags) : FpEnv := { v with fl := v.fl ||| f }

/-- sr_draw of R125 when the mode is SR; no draw otherwise (R126). -/
def FpEnv.draw (v : FpEnv) (mode : RM) (lane : Nat) : Nat × FpEnv :=
  if mode = .sr then
    let r := lfsrGet v.lfsr lane
    (r.toNat, { v with lfsr := lfsrSet v.lfsr lane (lfsrStep r) })
  else (0, v)

/-- round_fp of R123 to a value: draws, rounds and gathers the flags. -/
def FpEnv.roundN (v : FpEnv) (F : FpF) (mode : RM) (lane : Nat) (x : Num) : Num × FpEnv :=
  let (r, v) := v.draw mode lane
  let (y, fl) := roundNum F mode r x
  (y, v.flag fl)

/-- round_fp of R123 to a bit pattern. -/
def FpEnv.round (v : FpEnv) (F : FpF) (mode : RM) (lane : Nat) (x : Num) : Nat × FpEnv :=
  let (y, v) := v.roundN F mode lane x
  (F.encodeExact y, v)

/-- round_int of R124 to a bit pattern of width w. -/
def FpEnv.roundI (v : FpEnv) (w : Nat) (signed : Bool) (mode : RM) (lane : Nat) (x : Num) : Nat × FpEnv :=
  let (r, v) := v.draw mode lane
  let (lo, hi) := intRange w signed
  let (y, fl) := roundInt lo hi mode r x
  (wrapNat w y, v.flag fl)

/-! ### Exact arithmetic on values (R119, R120, R148) -/

/-- The value with its sign inverted. -/
def Num.neg : Num → Num
  | .nan => .nan
  | .inf s => .inf (!s)
  | .fin s m e => .fin (!s) m e

/-- The value without its sign. -/
def Num.abs : Num → Num
  | .nan => .nan
  | .inf _ => .inf false
  | .fin _ m e => .fin false m e

/-- Is the value a NaN? -/
def Num.isNan : Num → Bool
  | .nan => true
  | _ => false

/-- Is the value an infinity? -/
def Num.isInf : Num → Bool
  | .inf _ => true
  | _ => false

/-- Is the value a zero of either sign? -/
def Num.isZero : Num → Bool
  | .fin _ m _ => m == 0
  | _ => false

/-- Is the value's sign negative? -/
def Num.isNeg : Num → Bool
  | .nan => false
  | .inf s => s
  | .fin s _ _ => s

/-- A signed significand. -/
def signedM (s : Bool) (m : Nat) : Int := if s then -(m : Int) else m

/-- The exact sum; an exact zero sum of opposite signs is −0 in RDN and +0 otherwise (R120); ∞ − ∞ sets NV (R119). -/
def addNum (mode : RM) (x y : Num) : Num × Flags :=
  match x, y with
  | .nan, _ => (.nan, 0)
  | _, .nan => (.nan, 0)
  | .inf s, .inf t => if s = t then (.inf s, 0) else (.nan, flNV)
  | .inf s, _ => (.inf s, 0)
  | _, .inf t => (.inf t, 0)
  | .fin s m e, .fin t n f =>
    let q := min e f
    let a := signedM s (m <<< (e - q).toNat) + signedM t (n <<< (f - q).toNat)
    if a = 0 then
      if m = 0 && n = 0 && s == t then (.fin s 0 0, 0)
      else (.fin (mode == .rdn) 0 0, 0)
    else (.fin (decide (a < 0)) a.natAbs q, 0)

/-- The exact product; 0 × ∞ sets NV (R119). -/
def mulNum (x y : Num) : Num × Flags :=
  match x, y with
  | .nan, _ => (.nan, 0)
  | _, .nan => (.nan, 0)
  | .inf s, .inf t => (.inf (s != t), 0)
  | .inf s, .fin t n _ => if n = 0 then (.nan, flNV) else (.inf (s != t), 0)
  | .fin s m _, .inf t => if m = 0 then (.nan, flNV) else (.inf (s != t), 0)
  | .fin s m e, .fin t n f => (.fin (s != t) (m * n) (e + f), 0)

/-- The exact x × y + z (R148): a NaN z gives NaN without a flag, whatever the product. -/
def fmaNum (mode : RM) (x y z : Num) : Num × Flags :=
  if x.isNan || y.isNan || z.isNan then (.nan, 0)
  else
    let (p, fp) := mulNum x y
    if p.isNan then (.nan, fp)
    else addNum mode p z

/-- Order of two values that are not NaN, with −0 equal to +0 (R120). -/
def ltNum (x y : Num) : Bool :=
  match x, y with
  | .nan, _ => false
  | _, .nan => false
  | .inf s, .inf t => s && !t
  | .inf s, .fin .. => s
  | .fin .., .inf t => !t
  | .fin s m e, .fin t n f =>
    let q := min e f
    decide (signedM s (m <<< (e - q).toNat) < signedM t (n <<< (f - q).toNat))

/-- Equality of two values that are not NaN, with −0 equal to +0 (R120). -/
def eqNum (x y : Num) : Bool :=
  if x.isNan || y.isNan then false else !ltNum x y && !ltNum y x

/-- Order for maximum and minimum: −0 below +0 (R120). -/
def ltMinMax (x y : Num) : Bool :=
  ltNum x y || (eqNum x y && x.isZero && y.isZero && x.isNeg && !y.isNeg)

/-- The exact value times 2^k. -/
def Num.scale (x : Num) (k : Int) : Num :=
  match x with
  | .fin s m e => .fin s m (e + k)
  | y => y

/-- floor(log₂ |x|) of a finite non-zero value (R123, R158). -/
def Num.log2 : Num → Int
  | .fin _ m e => (Nat.log2 m : Int) + e
  | _ => 0

/-- An integer as an exact value; zero is +0. -/
def Num.ofInt (x : Int) : Num := .fin (decide (x < 0)) x.natAbs 0

/-- The value of an E8M0 scale, none for 0xFF (R121): the exponent of two. -/
def e8m0 (e : Nat) : Option Int := if e = 255 then none else some ((e : Int) - 127)

/-- The value of one element of any format (R114 to R118), a UINT8 or a T2 included. -/
def elemNum (f : Fmt) (p : Nat) : Num :=
  match fpOf f with
  | some F => F.value p
  | none =>
    match f with
    | .u8 => .ofInt p
    | .t2 => if p = 1 then .ofInt 1 else if p = 3 then .ofInt (-1) else .ofInt 0
    | g => .ofInt (toSigned g.width p)

/-- The integer value of one element of an integer format (R116, R117). -/
def elemInt (f : Fmt) (p : Nat) : Int :=
  match f with
  | .u8 => p
  | .t2 => if p = 1 then 1 else if p = 3 then -1 else 0
  | g => toSigned g.width p

/-- Every lane. -/
def allLanes : MaskReg := BitVec.allOnes 128

end Sys2Proof.Machine
end

