-- ==== Sys2Proof/Machine/Special.lean ====
section
/-!
DEFINITION. The special functions of R164 as exact values, or as values with a sticky lowest bit that round as the exact real does.

Reading (DEDUCED, log entry 20): "correctly rounded" means that the exact real result is rounded once, in RNE. An irrational result is given here by its first 400 or more binary places and one further bit that is set, because the exact value lies strictly between two neighbours of that grid.
-/

namespace Sys2Proof.Machine

/-- Fixed-point places used inside the series. -/
def fxPrec : Nat := 560

/-- Places kept of a result before its sticky bit. -/
def fxKeep : Nat := 400

/-- Integer square root by bits from the highest, with k bits left (structural). -/
def isqrtGo (n : Nat) : Nat → Nat → Nat
  | 0, acc => acc
  | k + 1, acc =>
    let t := acc + 2 ^ k
    isqrtGo n k (if t * t ≤ n then t else acc)

/-- ⌊√n⌋. -/
def isqrt (n : Nat) : Nat := isqrtGo n (Nat.log2 n / 2 + 1) 0

/-- Σ z^(2i+1) / (2i+1), with zp = z^(2i+1) and z2 = z² in fixed point: atanh z (structural). -/
def atanhGo (z2 : Nat) : Nat → Nat → Nat → Nat → Nat
  | 0, _, _, acc => acc
  | k + 1, i, zp, acc => atanhGo z2 k (i + 1) ((zp * z2) >>> fxPrec) (acc + zp / (2 * i + 1))

/-- ln((a + b) / (a − b)) / 2 = atanh(b / a) in fixed point, for 0 ≤ b/a ≤ 1/3. -/
def fxAtanh (b a : Nat) : Nat :=
  let z := (b <<< fxPrec) / a
  atanhGo ((z * z) >>> fxPrec) 190 0 z 0

/-- ln 2 in fixed point. -/
def fxLn2 : Nat := 2 * fxAtanh 1 3

/-- Σ y^i / i! in fixed point (structural). -/
def expGo (y : Nat) : Nat → Nat → Nat → Nat → Nat
  | 0, _, _, acc => acc
  | k + 1, i, term, acc => expGo y k (i + 1) (((term * y) >>> fxPrec) / i) (acc + term)

/-- 2^f in fixed point, for a fraction f < 1 in fixed point. -/
def fxExp2 (f : Nat) : Nat := expGo ((f * fxLn2) >>> fxPrec) 130 1 (2 ^ fxPrec) 0

/-- log₂ r in fixed point for r = m / 2^p in [1, 2). -/
def fxLog2 (m p : Nat) : Nat :=
  ((2 * fxAtanh (m - 2 ^ p) (m + 2 ^ p)) <<< fxPrec) / fxLn2

/-- 2^x of a finite x (R164); the result is exact only for an integer x. -/
def exp2Fin (s : Bool) (m : Nat) (e : Int) : Num :=
  if m = 0 then .fin false 1 0
  else if (Nat.log2 m : Int) + e ≥ 12 then
    -- |x| ≥ 4096: far outside the range of FP32 on either side
    .fin false 3 (if s then -4097 else 4096)
  else
    let (n, rem, d) := scaleTo m e 0
    if rem = 0 then .fin false 1 (signedM s n)
    else
      -- x = i + f with 0 < f < 1; d ≤ 149 for an FP32 operand
      let i : Int := if s then -(n : Int) - 1 else n
      let f := (if s then 2 ^ d - rem else rem) <<< fxPrec >>> d
      let v := fxExp2 f >>> (fxPrec - fxKeep)
      .fin false (2 * v + 1) (i - fxKeep - 1)

/-- log₂ of a positive finite value m × 2^e (R164). -/
def log2Fin (m : Nat) (e : Int) : Num :=
  let p := Nat.log2 m
  let k : Int := (p : Int) + e
  if m = 2 ^ p then .ofInt k
  else
    let l := fxLog2 m p >>> (fxPrec - fxKeep)
    let v : Int := k * ((2 ^ fxKeep : Nat) : Int) + l
    if v ≥ 0 then .fin false (2 * v.toNat + 1) (-(fxKeep : Int) - 1)
    else .fin true (2 * (v.natAbs - 1) + 1) (-(fxKeep : Int) - 1)

/-- 1 / (m × 2^e) (R164). -/
def rcpFin (s : Bool) (m : Nat) (e : Int) : Num :=
  let k := Nat.log2 m + 64
  let q := 2 ^ k / m
  .fin s (2 * q + (if 2 ^ k % m = 0 then 0 else 1)) (-e - (k : Int) - 1)

/-- 1 / √(m × 2^e) (R164). -/
def rsqrtFin (m : Nat) (e : Int) : Num :=
  let (m, e) := if e % 2 = 0 then (m, e) else (2 * m, e - 1)
  let k := Nat.log2 m + 100
  let q := isqrt (2 ^ (2 * k) / m)
  .fin false (2 * q + (if q * q * m = 2 ^ (2 * k) then 0 else 1)) (-(e / 2) - (k : Int) - 1)

/-- vexp2 of R164. -/
def exp2Num : Num → Num × Flags
  | .nan => (.nan, 0)
  | .inf s => (if s then .fin false 0 0 else .inf false, 0)
  | .fin s m e => (exp2Fin s m e, 0)

/-- vlog2 of R164. -/
def log2Num : Num → Num × Flags
  | .nan => (.nan, 0)
  | .inf s => if s then (.nan, flNV) else (.inf false, 0)
  | .fin s m e =>
    if m = 0 then (.inf true, flDZ)
    else if s then (.nan, flNV)
    else (log2Fin m e, 0)

/-- vrcp of R164. -/
def rcpNum : Num → Num × Flags
  | .nan => (.nan, 0)
  | .inf s => (.fin s 0 0, 0)
  | .fin s m e => if m = 0 then (.inf s, flDZ) else (rcpFin s m e, 0)

/-- vrsqrt of R164. -/
def rsqrtNum : Num → Num × Flags
  | .nan => (.nan, 0)
  | .inf s => if s then (.nan, flNV) else (.fin false 0 0, 0)
  | .fin s m e =>
    if m = 0 then (.inf s, flDZ)
    else if s then (.nan, flNV)
    else (rsqrtFin m e, 0)

end Sys2Proof.Machine
end

