-- ==== Sys2Proof/Machine/VecOps.lean ====
section
/-!
DEFINITION. The results of the vector forms as functions of their operand values (07_vector_slots.md R141 to R165, 10_rank_coded.md R214 to R221). Nothing here reads or writes the machine state.
-/

namespace Sys2Proof.Machine

/-- The operand values of a vector form, read at its issue (R141). -/
structure VIn where
  fmt : Fmt
  md : BitVec 3
  fn : BitVec 6
  /-- the mask M (R143) -/
  mask : MaskReg
  a : VReg
  b : VReg
  c : VReg
  /-- LFSR states at the form's turn to draw (R126) -/
  lfsr : Lfsrs
  deriving DecidableEq, Repr

/-- The result of a vector form: the value, the lanes it writes (wen of R144), flags and LFSR states. -/
structure VOut where
  val : VReg
  wen : MaskReg
  env : FpEnv
  deriving DecidableEq, Repr

/-- The environment a form starts with: no flag gathered. -/
def VIn.env (i : VIn) : FpEnv := ⟨i.lfsr, 0⟩

/-- Element k of operand value v. -/
def VIn.el (i : VIn) (v : VReg) (k : Nat) : Nat := elemNat i.fmt.width v k

/-- The lanes whose governing mask bit is set (R143, R144). -/
def govLanes (w : Nat) (m : MaskReg) : MaskReg :=
  if w = 64 then
    let ev := m &&& 0x55555555555555555555555555555555
    ev ||| (ev <<< 1)
  else m

/-- Does the mask allow element e of width w (R143)? -/
def allows (w : Nat) (m : MaskReg) (e : Nat) : Bool := m.getLsbD (govLane w (laneOf w e))

/-- Run f over elements e, e+1, …, n of them, in ascending order; a skipped element is 0 (R144). -/
def elemRun (keep : Nat → Bool) (f : Nat → FpEnv → Nat × FpEnv) : Nat → Nat → FpEnv → List Nat × FpEnv
  | 0, _, v => ([], v)
  | n + 1, e, v =>
    let (x, v1) := if keep e then f e v else (0, v)
    let (xs, v2) := elemRun keep f n (e + 1) v1
    (x :: xs, v2)

/-- A register value from its elements. -/
def pack (w : Nat) (es : List Nat) : VReg := BitVec.ofNat 4096 (packNat w es)

/-- A form of mask role D that computes element e by f (R143, R144). -/
def mapD (i : VIn) (f : Nat → FpEnv → Nat × FpEnv) : VOut :=
  let w := i.fmt.width
  let (es, v) := elemRun (allows w i.mask) f i.fmt.count 0 i.env
  ⟨pack w es, govLanes w i.mask, v⟩

/-- A form that writes every element, computed by f. -/
def mapAll (i : VIn) (f : Nat → FpEnv → Nat × FpEnv) : VOut :=
  let w := i.fmt.width
  let (es, v) := elemRun (fun _ => true) f i.fmt.count 0 i.env
  ⟨pack w es, allLanes, v⟩

/-- A form without rounding or flag: only the bits. -/
def pureEl (f : Nat → Nat) : Nat → FpEnv → Nat × FpEnv := fun e v => (f e, v)

/-! ### Element arithmetic (R147, R148) -/

/-- Round one exact result into the form's format; `x` carries the flags of the exact operation. -/
def rndEl (i : VIn) (F : FpF) (e : Nat) (v : FpEnv) (x : Num × Flags) : Nat × FpEnv :=
  (v.flag x.2).round F (rmOf i.md) (laneOf i.fmt.width e) x.1

/-- A two-operand form: fl on exact values of a floating format, or an integer operation that wraps. -/
def arith2 (i : VIn) (fl : RM → Num → Num → Num × Flags) (int : Int → Int → Int) : VOut :=
  mapD i fun e v =>
    let x := i.el i.a e
    let y := i.el i.b e
    match fpOf i.fmt with
    | some F => rndEl i F e v (fl (rmOf i.md) (F.value x) (F.value y))
    | none => (wrapNat i.fmt.width (int (elemInt i.fmt x) (elemInt i.fmt y)), v)

/-- A floating form of three operands with one rounding. -/
def arith3 (i : VIn) (fl : RM → Num → Num → Num → Num × Flags) : VOut :=
  mapD i fun e v =>
    match fpOf i.fmt with
    | some F => rndEl i F e v (fl (rmOf i.md) (F.value (i.el i.a e)) (F.value (i.el i.b e)) (F.value (i.el i.c e)))
    | none => (0, v)

def vAdd (i : VIn) : VOut := arith2 i addNum (· + ·)
def vSub (i : VIn) : VOut := arith2 i (fun m x y => addNum m x y.neg) (· - ·)
def vMul (i : VIn) : VOut := arith2 i (fun _ x y => mulNum x y) (· * ·)
def vFma (i : VIn) : VOut := arith3 i fmaNum
def vFms (i : VIn) : VOut := arith3 i fun m x y z => fmaNum m x y z.neg
def vFnma (i : VIn) : VOut := arith3 i fun m x y z => fmaNum m x.neg y z

/-- The larger (or smaller) of two patterns of a format: NaN if either is NaN, −0 below +0, signed or UINT8 (R120, R147). -/
def maxEl (f : Fmt) (isMax : Bool) (x y : Nat) : Nat :=
  match fpOf f with
  | some F =>
    let a := F.value x
    let b := F.value y
    if a.isNan || b.isNan then F.canonNan
    else if ltMinMax a b then (if isMax then y else x) else (if isMax then x else y)
  | none => if elemInt f x < elemInt f y then (if isMax then y else x) else (if isMax then x else y)

def vMax (i : VIn) : VOut := mapD i (pureEl fun e => maxEl i.fmt true (i.el i.a e) (i.el i.b e))
def vMin (i : VIn) : VOut := mapD i (pureEl fun e => maxEl i.fmt false (i.el i.a e) (i.el i.b e))

/-- A sign operation of a floating format (R147, R148), or a wrapping integer operation. -/
def signEl (f : Fmt) (fl : Num → Num) (int : Int → Int) (x : Nat) : Nat :=
  match fpOf f with
  | some F => F.encodeExact (fl (F.value x))
  | none => wrapNat f.width (int (elemInt f x))

def vAbs (i : VIn) : VOut := mapD i (pureEl fun e => signEl i.fmt Num.abs (fun x => x.natAbs) (i.el i.a e))
def vNeg (i : VIn) : VOut := mapD i (pureEl fun e => signEl i.fmt Num.neg (fun x => -x) (i.el i.a e))

/-- An integer result clamped to the format's range (R116). -/
def clampEl (f : Fmt) (x : Int) : Nat :=
  let (lo, hi) := intRange f.width (intSigned f)
  wrapNat f.width (clampInt lo hi x)

def vAddSat (i : VIn) : VOut :=
  mapD i (pureEl fun e => clampEl i.fmt (elemInt i.fmt (i.el i.a e) + elemInt i.fmt (i.el i.b e)))
def vSubSat (i : VIn) : VOut :=
  mapD i (pureEl fun e => clampEl i.fmt (elemInt i.fmt (i.el i.a e) - elemInt i.fmt (i.el i.b e)))
def vMulHi (i : VIn) : VOut :=
  mapD i (pureEl fun e =>
    wrapNat i.fmt.width ((elemInt i.fmt (i.el i.a e) * elemInt i.fmt (i.el i.b e)) >>> i.fmt.width))

/-! ### Logic and shifts (R149) -/

/-- A whole-register value under mask role D. -/
def lanesD (i : VIn) (x : VReg) : VOut :=
  mapD i (pureEl fun e => elemNat i.fmt.width x e)

def vAnd (i : VIn) : VOut := lanesD i (i.a &&& i.b)
def vOr (i : VIn) : VOut := lanesD i (i.a ||| i.b)
def vXor (i : VIn) : VOut := lanesD i (i.a ^^^ i.b)
def vNot (i : VIn) : VOut := lanesD i (~~~i.a)

/-- The shift amount of an element: the low log₂ w bits of element y of b (R149). -/
def shAmt (i : VIn) (e : Nat) : Nat := i.el i.b e % i.fmt.width

def vShl (i : VIn) : VOut := mapD i (pureEl fun e => (i.el i.a e <<< shAmt i e) % 2 ^ i.fmt.width)
def vShr (i : VIn) : VOut := mapD i (pureEl fun e => i.el i.a e >>> shAmt i e)
def vSra (i : VIn) : VOut :=
  mapD i (pureEl fun e => wrapNat i.fmt.width (toSigned i.fmt.width (i.el i.a e) >>> shAmt i e))

/-! ### Compare, select and masks (R150 to R154) -/

/-- The relation of a vcmp function code (R150, R151). -/
def cmpEl (f : Fmt) (fn : Nat) (x y : Nat) : Bool :=
  let (lt, eq, ord) : Bool × Bool × Bool :=
    match fpOf f with
    | some F => (ltNum (F.value x) (F.value y), eqNum (F.value x) (F.value y),
        !(F.value x).isNan && !(F.value y).isNan)
    | none => (decide (elemInt f x < elemInt f y), decide (elemInt f x = elemInt f y), true)
  match fn with
  | 0 => eq
  | 1 => !eq
  | 2 => lt
  | 3 => lt || eq
  | 4 => ord && !lt && !eq
  | _ => ord && !lt

/-- A mask from the bits of lanes 0 to 127. -/
def maskOf (p : Nat → Bool) : MaskReg := BitVec.ofNat 128 (packNat 1 ((List.range 128).map fun l => (p l).toNat))

/-- The 128-bit result of vcmp (R151). -/
def vCmp (i : VIn) : MaskReg :=
  let w := i.fmt.width
  maskOf fun l =>
    let e := if w = 64 then l / 2 else 32 * l / w + i.md.toNat
    i.mask.getLsbD (govLane w l) && cmpEl i.fmt i.fn.toNat (i.el i.a e) (i.el i.b e)

/-- Each mask bit widened to the 32 bits of its lane. -/
def laneBits (m : MaskReg) : VReg :=
  pack 32 ((List.range 128).map fun l => if m.getLsbD l then 0xFFFFFFFF else 0)

/-- vsel (R152). -/
def vSel (i : VIn) : VOut :=
  let m := laneBits (govLanes i.fmt.width i.mask)
  ⟨(i.a &&& m) ||| (i.b &&& ~~~m), allLanes, i.env⟩

/-- The number of set bits among the first n. -/
def popUpTo (m : MaskReg) : Nat → Nat
  | 0 => 0
  | n + 1 => popUpTo m n + (m.getLsbD n).toNat

/-- The lowest set bit at or above k, with n bits left to look at; k + n if none is set. -/
def firstSet (m : MaskReg) : Nat → Nat → Nat
  | 0, k => k
  | n + 1, k => if m.getLsbD k then k else firstSet m n (k + 1)

/-- One 32-bit word in every lane (R69). -/
def splat (x : Lane) : VReg := pack 32 (List.replicate 128 x.toNat)

/-! ### Conversions (R155 to R157) -/

/-- The format of a code, if legal (R95). -/
def fmtOfCode (n : Nat) : Option Fmt :=
  match n with
  | 0 => some .fp32 | 1 => some .bf16 | 2 => some .fp16 | 3 => some .e4m3 | 4 => some .e5m2
  | 5 => some .mx4 | 6 => some .i32 | 7 => some .i16 | 8 => some .i8 | 9 => some .u8
  | 10 => some .i4 | 11 => some .t2 | 12 => some .i64p | _ => none

/-- The source format of a conversion, function bits [3:0] (R142); FP32 stands for a code that is refused at decode. -/
def VIn.srcFmt (i : VIn) : Fmt := (fmtOfCode (i.fn.toNat % 16)).getD .fp32

/-- One rounded conversion into the destination format on lane l (R156). -/
def cvtEl (src dst : Fmt) (mode : RM) (lane p : Nat) (v : FpEnv) : Nat × FpEnv :=
  let x := elemNum src p
  match fpOf dst with
  | some F => v.round F mode lane x
  | none => v.roundI dst.width (intSigned dst) mode lane x

def vCvt (i : VIn) : VOut :=
  mapD i fun e v => cvtEl i.srcFmt i.fmt (rmOf i.md) (laneOf i.fmt.width e) (elemNat i.srcFmt.width i.a e) v

/-- vnarrow (R155, R157): floating pairs round, integer pairs clamp without a flag. -/
def vNarrow (i : VIn) : VOut :=
  let ws := i.srcFmt.width
  let ns := i.srcFmt.count
  mapD i fun e v =>
    let p := if e < ns then elemNat ws i.a e else elemNat ws i.b (e - ns)
    match fpOf i.fmt with
    | some _ => cvtEl i.srcFmt i.fmt (rmOf i.md) (laneOf i.fmt.width e) p v
    | none => (clampEl i.fmt (elemInt i.srcFmt p), v)

/-- vwiden (R155 to R157): exact; a T2 pattern 0b10 gives 0 and sets FMTERR. -/
def vWiden (i : VIn) : VOut :=
  let ws := i.srcFmt.width
  let h := if i.md.getLsbD 0 then i.fmt.count else 0
  mapD i fun e v =>
    let p := elemNat ws i.a (e + h)
    match fpOf i.fmt, fpOf i.srcFmt with
    | some F, some G => (F.encodeExact (G.value p), v)
    | _, _ =>
      let v := if i.srcFmt = .t2 ∧ p = 2 then v.flag flFMTERR else v
      (wrapNat i.fmt.width (elemInt i.srcFmt p), v)

/-! ### Block quantisation (R158, R159) -/

/-- emax of the element format (07, block quantisation). -/
def mxEmax : Fmt → Int
  | .mx4 => 2
  | .e4m3 => 8
  | _ => 15

/-- The FP32 values of block j of a, excluded lanes as +0 (R158). -/
def mxVals (i : VIn) (j : Nat) : List Num :=
  (List.range 32).map fun k =>
    let l := 32 * j + k
    if i.mask.getLsbD l then fp32F.value (elemNat 32 i.a l) else .fin false 0 0

/-- The greatest of a list of integers above a start value. -/
def maxInts (z : Int) (xs : List Int) : Int := xs.foldl max z

/-- The scale byte of a block (mx_block of R158). -/
def mxScale (f : Fmt) (vals : List Num) : Nat :=
  if vals.any (fun x => x.isNan || x.isInf) then 0xFF
  else
    match vals.filter (fun x => !x.isZero) with
    | [] => 127
    | x :: xs =>
      (clampInt 0 254 (maxInts x.log2 (xs.map Num.log2) - mxEmax f + 127)).toNat

/-- The elements of a block under scale byte e, lanes from l (mx_block of R158). -/
def mxElems (f : Fmt) (mode : RM) (e : Nat) : List Num → Nat → FpEnv → List Nat × FpEnv
  | [], _, v => ([], v)
  | x :: xs, l, v =>
    let F := (fpOf f).getD e2m1F
    let (q, v) :=
      if e = 0xFF then (0, v)
      else
        let (r, v) := v.draw mode l
        let y := x.scale (127 - (e : Int))
        let (z, fl) := roundNum F mode r y
        match z with
        | .inf s => (F.encodeExact (.fin s F.maxFin.1 F.maxFin.2), v.flag (flOF ||| flNX))
        | z => (F.encodeExact z, v.flag fl)
    let (qs, v) := mxElems f mode e xs (l + 1) v
    (q :: qs, v)

/-- Blocks j, j+1, … of vmxq: scales, elements and environment (R158). -/
def mxBlocks (i : VIn) : Nat → Nat → FpEnv → List Nat × List Nat × FpEnv
  | 0, _, v => ([], [], v)
  | n + 1, j, v =>
    let vals := mxVals i j
    let e := mxScale i.fmt vals
    let v := if vals.any Num.isInf then v.flag flNV else v
    let (es, v) := if i.fn.getLsbD 5 then ([], v) else mxElems i.fmt (rmOf i.md) e vals (32 * j) v
    let (ss, rest, v) := mxBlocks i n (j + 1) v
    (e :: ss, es ++ rest, v)

/-- A run of n lanes from lane l. -/
def laneRun (l n : Nat) : MaskReg := BitVec.ofNat 128 ((2 ^ n - 1) <<< l)

/-- vmxq (R158): S = 0 writes element part q, S = 1 writes the scales to lane q. -/
def vMxq (i : VIn) : VOut :=
  let q := i.fn.toNat % 8
  let (ss, es, v) := mxBlocks i 4 0 i.env
  if i.fn.getLsbD 5 then
    ⟨BitVec.ofNat 4096 (packNat 8 ss <<< (32 * q)), laneRun q 1, v⟩
  else
    let lanes := 4 * i.fmt.width
    ⟨BitVec.ofNat 4096 (packNat i.fmt.width es <<< (32 * lanes * q)), laneRun (lanes * q) lanes, v⟩

/-- vmxd (R159): lane i takes element 128q + i under scale byte 4q + ⌊i/32⌋ of b. -/
def vMxd (i : VIn) : VOut :=
  let q := i.fn.toNat % 8
  let F := (fpOf i.fmt).getD e2m1F
  let (es, v) := elemRun (fun l => i.mask.getLsbD l) (fun l v =>
    let x := F.value (elemNat i.fmt.width i.a (128 * q + l))
    match e8m0 (elemNat 8 i.b (4 * q + l / 32)) with
    | none => (fp32F.canonNan, v)
    | some k => v.round fp32F .rne l (x.scale k)) 128 0 i.env
  ⟨pack 32 es, i.mask, v⟩

/-! ### Permutes (R160) -/

/-- The first word of an operand (R141). -/
def firstWord (v : VReg) : Nat := v.toNat % 2 ^ 32

def vPerm (i : VIn) : VOut := mapD i (pureEl fun e => i.el i.a (i.el i.b e % i.fmt.count))
def vRot (i : VIn) : VOut := mapD i (pureEl fun e => i.el i.a ((e + firstWord i.b) % i.fmt.count))
def vBcast (i : VIn) : VOut := mapD i (pureEl fun _ => i.el i.a (firstWord i.b % i.fmt.count))
def vSlide (i : VIn) : VOut :=
  let n := min (firstWord i.c) i.fmt.count
  mapD i (pureEl fun e => if e + n < i.fmt.count then i.el i.a (e + n) else i.el i.b (e + n - i.fmt.count))
def vZip (i : VIn) : VOut :=
  let h := if i.md.getLsbD 0 then i.fmt.count / 2 else 0
  mapD i (pureEl fun e => i.el (if e % 2 = 0 then i.a else i.b) (e / 2 + h))
def vUnzip (i : VIn) : VOut :=
  let o := (i.md.getLsbD 0).toNat
  let h := i.fmt.count / 2
  mapD i (pureEl fun e => if e < h then i.el i.a (2 * e + o) else i.el i.b (2 * (e - h) + o))
def vIota (i : VIn) : VOut := mapD i (pureEl fun e => e)

/-! ### Reductions and scans (R132, R133, R161, R162) -/

/-- The combining operation of a reduction or scan. -/
inductive RedOp where
  | sum | max | min
  deriving DecidableEq, Repr

/-- The identity that a masked element enters with (R132). -/
def redIdent (f : Fmt) (op : RedOp) : Nat :=
  match fpOf f, op with
  | some F, .sum => F.signBit true
  | some F, .max => if F.top = .ieee then F.encodeExact (.inf true) else F.encodeExact (.fin true F.maxFin.1 F.maxFin.2)
  | some F, .min => if F.top = .ieee then F.encodeExact (.inf false) else F.encodeExact (.fin false F.maxFin.1 F.maxFin.2)
  | none, .sum => 0
  | none, .max => wrapNat f.width (intRange f.width (intSigned f)).1
  | none, .min => wrapNat f.width (intRange f.width (intSigned f)).2

/-- One node of the tree, at index k (R132, R161). -/
def redNode (i : VIn) (op : RedOp) (k x y : Nat) (v : FpEnv) : Nat × FpEnv :=
  match op with
  | .max => (maxEl i.fmt true x y, v)
  | .min => (maxEl i.fmt false x y, v)
  | .sum =>
    match fpOf i.fmt with
    | some F => rndEl i F k v (addNum (rmOf i.md) (F.value x) (F.value y))
    | none =>
      let s := elemInt i.fmt x + elemInt i.fmt y
      (if i.md = 0 then wrapNat i.fmt.width s else clampEl i.fmt s, v)

/-- Combine two lists element by element, from index k up. -/
def redZip (i : VIn) (op : RedOp) : List Nat → List Nat → Nat → FpEnv → List Nat × FpEnv
  | x :: xs, y :: ys, k, v =>
    let (z, v) := redNode i op k x y v
    let (zs, v) := redZip i op xs ys (k + 1) v
    (z :: zs, v)
  | _, _, _, v => ([], v)

/-- The levels of the tree of R132; the fuel is the number of levels. -/
def redTree (i : VIn) (op : RedOp) : Nat → List Nat → FpEnv → Nat × FpEnv
  | 0, es, v => (es.headD 0, v)
  | k + 1, es, v =>
    let h := es.length / 2
    if h = 0 then (es.headD 0, v)
    else
      let (zs, v) := redZip i op (es.take h) (es.drop h) 0 v
      redTree i op k zs v

/-- The elements a reduction or scan starts from (R132, R143 role S). -/
def redElems (i : VIn) (op : RedOp) : List Nat :=
  let w := i.fmt.width
  (List.range i.fmt.count).map fun e => if allows w i.mask e then i.el i.a e else redIdent i.fmt op

/-- vredsum, vredmax, vredmin (R161). -/
def vReduce (op : RedOp) (i : VIn) : VOut :=
  let (x, v) := redTree i op 11 (redElems i op) i.env
  ⟨pack i.fmt.width (List.replicate i.fmt.count x), allLanes, v⟩

/-- The steps of R133 from distance d; the fuel is the number of steps. -/
def scanSteps (i : VIn) (op : RedOp) : Nat → Nat → List Nat → FpEnv → List Nat × FpEnv
  | 0, _, es, v => (es, v)
  | k + 1, d, es, v =>
    if d < es.length then
      let (zs, v) := redZip i op es (es.drop d) d v
      scanSteps i op k (2 * d) (es.take d ++ zs) v
    else (es, v)

/-- A result that no node makes: a NaN is the canonical one (R119). -/
def canonEl (fm : Fmt) (x : Nat) : Nat :=
  match fpOf fm with
  | some F => if (F.value x).isNan then F.canonNan else x
  | none => x

/-- vscan, vscanmax (R162); element 0 meets no node. -/
def vScan (op : RedOp) (i : VIn) : VOut :=
  let (es, v) := scanSteps i op 11 1 (redElems i op) i.env
  ⟨pack i.fmt.width ((es.take 1).map (canonEl i.fmt) ++ es.drop 1), allLanes, v⟩

/-! ### Moves (R163) -/

/-- vfill: x is the scalar operand a. -/
def vFill (i : VIn) (x : Word) : VOut := mapD i (pureEl fun _ => x.toNat % 2 ^ i.fmt.width)

/-- vext: n is the scalar operand b. -/
def vExt (i : VIn) (n : Word) : Word :=
  let p := i.el i.a (n.toNat % i.fmt.count)
  match i.fmt with
  | .i32 | .i16 | .i8 | .i64p => BitVec.ofInt 64 (toSigned i.fmt.width p)
  | _ => BitVec.ofNat 64 p

/-- vins: x and n are the scalar operands b and c. -/
def vIns (i : VIn) (x n : Word) : VOut :=
  let k := n.toNat % i.fmt.count
  mapAll { i with mask := allLanes } (pureEl fun e => if e = k then x.toNat % 2 ^ i.fmt.width else i.el i.a e)

def vMov (i : VIn) : VOut := lanesD i i.a

/-! ### Special functions and classes (R164, R165) -/

/-- A special function of FP32 elements, rounded in RNE. -/
def vSpecial (f : Num → Num × Flags) (i : VIn) : VOut :=
  mapD i fun e v =>
    let (x, fl) := f (fp32F.value (i.el i.a e))
    (v.flag fl).round fp32F .rne e x

/-- The class bit of an element (R165). -/
def classBit (F : FpF) (p : Nat) : Nat :=
  match F.value p with
  | .nan => 8
  | .inf s => if s then 0 else 7
  | .fin s m e =>
    if m = 0 then (if s then 3 else 4)
    else if (Nat.log2 m : Int) + e < F.emin then (if s then 2 else 5)
    else if s then 1 else 6

def vClass (i : VIn) : VOut :=
  mapD i (pureEl fun e => 2 ^ classBit ((fpOf i.fmt).getD fp32F) (i.el i.a e))

/-! ### Rank streams (R214 to R221) -/

/-- An eligible lane put into its place: descending value, ascending lane (R217). `gt x y` says that value x is above y. -/
def rankInsert (gt : Nat → Nat → Bool) (l : Nat) : List Nat → List Nat
  | [] => [l]
  | k :: ks => if gt l k then l :: k :: ks else k :: rankInsert gt l ks

/-- vrank (R217): the 512-byte stream value. -/
def vRank (i : VIn) : VReg :=
  let q := (i.md.getLsbD 1).toNat * 64 + i.fn.toNat + 1
  let x (l : Nat) := elemNat 32 i.a l
  let t := firstWord i.b
  let (nan, gt) : (Nat → Bool) × (Nat → Nat → Bool) :=
    match i.fmt with
    | .fp32 => (fun p => (fp32F.value p).isNan, fun p r => ltNum (fp32F.value r) (fp32F.value p))
    | _ => (fun _ => false, fun p r => decide (toSigned 32 r < toSigned 32 p))
  let el := (List.range 128).filter fun l =>
    i.mask.getLsbD l && !nan (x l) && (!i.md.getLsbD 0 || gt (x l) t)
  let ord := el.foldl (fun acc l => rankInsert (fun a b => gt (x a) (x b)) l acc) []
  let top := ord.take q
  BitVec.ofNat 4096 (packNat 8 (top.length :: top))

/-- parse_stream of R215: the ranks from r up put at their lanes; FMTERR if a byte is skipped. -/
def parseRanks : List Nat → Nat → List (Nat × Nat) → Bool → List (Nat × Nat) × Bool
  | [], _, acc, err => (acc, err)
  | x :: xs, r, acc, err =>
    if x > 127 || acc.any (fun p => p.1 == x) then parseRanks xs (r + 1) acc true
    else parseRanks xs (r + 1) ((x, r) :: acc) err

/-- parse_stream of R215 on the bytes of a value: (lane, rank) pairs, and FMTERR. -/
def parseStream (v : Nat) : List (Nat × Nat) × Bool :=
  let c := v % 256
  let n := min c 128
  parseRanks ((unpackNat 8 129 v).tail.take n) 0 [] (decide (c > 128))

/-- The rank held by a lane (R215). -/
def rankOf (pos : List (Nat × Nat)) (l : Nat) : Option Nat :=
  (pos.find? fun p => p.1 == l).map Prod.snd

/-- vrecon (R221): tbl holds the 128 FP16 entries of the table. -/
def vRecon (i : VIn) (tbl : BitVec 2048) : VOut :=
  let (pos, err) := parseStream i.a.toNat
  let F := (fpOf i.fmt).getD fp32F
  let es := (List.range 128).map fun k =>
    match rankOf pos k with
    | none => 0
    | some r => F.encodeExact (fp16F.value (elemNat 16 tbl r))
  ⟨pack i.fmt.width es, allLanes, i.env.flag (Flags.when err flFMTERR)⟩

end Sys2Proof.Machine
end

