-- ==== Sys2Proof/Machine/Atomic.lean ====
section
/-!
DEFINITION. The arithmetic of atomic operations (R186) and of the haul updates (R283).
-/

namespace Sys2Proof.Machine

/-- A signed 32-bit operation. -/
def int32 (f : Int → Int → Int) (a b : BitVec 32) : BitVec 32 := BitVec.ofInt 32 (f a.toInt b.toInt)

/-- The sum of two FP32 patterns, RNE, without flags (R186). -/
def fpAdd32 (a b : BitVec 32) : BitVec 32 :=
  let (x, _) := addNum .rne (fp32F.value a.toNat) (fp32F.value b.toNat)
  BitVec.ofNat 32 (FpEnv.round ⟨0, 0⟩ fp32F .rne 0 x).1

/-- amo_value: 0 add, 1 max, 2 min, 3 and, 4 or, 5 xchg (R186). -/
def amoValue (op : Nat) (fp : Bool) (old b : BitVec 32) : BitVec 32 :=
  match op, fp with
  | 0, false => old + b
  | 1, false => int32 max old b
  | 2, false => int32 min old b
  | 3, _ => old &&& b
  | 4, _ => old ||| b
  | 0, true => fpAdd32 old b
  | 1, true => BitVec.ofNat 32 (maxEl .fp32 true old.toNat b.toNat)
  | 2, true => BitVec.ofNat 32 (maxEl .fp32 false old.toNat b.toNat)
  | _, _ => b

/-- What an atomic operation writes: amo.cas compares bit patterns (R186). -/
def amoNew (op : Nat) (fp cas : Bool) (old b c : BitVec 32) : BitVec 32 :=
  if cas then (if old = b then c else old) else amoValue op fp old b

/-- The old value as it reaches an x register (R186, R242). -/
def amoOld (fp : Bool) (old : BitVec 32) : Word := if fp then zext64 old else sext64 old

/-! ### The log-sum-exp merge (R283) -/

/-- term of R283: y × 2^(x − M), an exact real value (log entry 20). -/
def lseTerm (x y m : Num) : Num :=
  if eqNum x m then y
  else
    match x, m with
    | .inf true, _ => .fin false 0 0
    | _, .inf false => .fin false 0 0
    | _, _ => (mulNum y (exp2Num (addNum .rne x m.neg).1).1).1

/-- lse of R283 on FP32 patterns: (m, s) merged with (m2, s2). -/
def lse (m s m2 s2 : BitVec 32) : BitVec 32 × BitVec 32 :=
  let v (p : BitVec 32) : Num := fp32F.value p.toNat
  if (v m).isNan || (v s).isNan || (v m2).isNan || (v s2).isNan then (0x7FC00000, 0x7FC00000)
  else
    let big : BitVec 32 := BitVec.ofNat 32 (maxEl .fp32 true m.toNat m2.toNat)
    let sum := (addNum .rne (lseTerm (v m) (v s) (v big)) (lseTerm (v m2) (v s2) (v big))).1
    (big, BitVec.ofNat 32 (FpEnv.round ⟨0, 0⟩ fp32F .rne 0 sum).1)

end Sys2Proof.Machine
end

