-- ==== Sys2Proof/Events.lean ====
section
/-!
DEFINITION. What an event of the package carries: images and their chunks (01_vaxel_image.md), as the inputs of the machine bring them.
-/

namespace Sys2Proof

/-- A chunk of an image: its 32-byte header and its payload in 64-byte words (R12, R13). -/
structure Chunk where
  hdr : BitVec 256
  payload : List (BitVec 512)
  deriving DecidableEq, Repr

/-- An image: the 128-byte header and the chunks in file order (R12, R13). -/
structure Image where
  hdr : BitVec 1024
  chunks : List Chunk
  deriving DecidableEq, Repr

/-- A field of a chunk header given by its first byte and its bytes (R13). -/
def Chunk.field (c : Chunk) (byte w : Nat) : Nat := (c.hdr.toNat >>> (8 * byte)) % 2 ^ (8 * w)

/-- KIND of a chunk (R13). -/
def Chunk.kind (c : Chunk) : Nat := c.field 0 1
/-- PKG of a chunk (R13). -/
def Chunk.pkg (c : Chunk) : Nat := c.field 2 2
/-- CORE of a chunk (R13). -/
def Chunk.core (c : Chunk) : Nat := c.field 4 2
/-- FIRSTUSE of a chunk (R13). -/
def Chunk.firstUse (c : Chunk) : Nat := c.field 8 8
/-- DEST of a chunk (R13). -/
def Chunk.dest (c : Chunk) : Nat := c.field 16 4
/-- LEN of a chunk (R13). -/
def Chunk.len (c : Chunk) : Nat := c.field 20 4
/-- KEY of a chunk (R13). -/
def Chunk.key (c : Chunk) : Nat := c.field 24 4

/-- The payload as one number, byte 0 lowest (R3). -/
def Chunk.data (c : Chunk) : Nat := c.payload.foldr (fun w acc => w.toNat + acc <<< 512) 0

/-- A field of the image header given by its first byte and its bytes (R13). -/
def Image.field (i : Image) (byte w : Nat) : Nat := (i.hdr.toNat >>> (8 * byte)) % 2 ^ (8 * w)

/-- The one chunk of a kind that stands at most once. -/
def Image.chunkOf (i : Image) (k : Nat) : Option Chunk := i.chunks.find? (fun c => c.kind == k)

/-! ### What agents and the fabric bring -/

/-- The management agents (R30): the PF 0 driver is agent 1, the MCTP path agent 2. -/
inductive Agent where
  | pf0 | mctp
  deriving DecidableEq, Repr

/-- The number of an agent in OWNER, PENDING and TARGET (R30). -/
def Agent.num : Agent → Nat
  | .pf0 => 1 | .mctp => 2

/-- Where a register write goes (R30): PF 0 by an agent, or a VF by its tenant runtime. -/
inductive RegSpace where
  | pf (a : Agent)
  | vf (n : Fin 9)
  deriving DecidableEq, Repr

/-- A fault notice (R311): partition and launch, the link key or the lost logical package index, and the detection tick. -/
structure Notice where
  part : Nat
  launch : BitVec 16
  /-- the link key of R13, or none for a peer loss -/
  link : Option (BitVec 16)
  /-- the logical package index that is lost, or that of the package that detected a link fault -/
  peer : Nat
  tick : Nat
  deriving DecidableEq, Repr

/-- Who makes an untimed access (R267, R268): global context identifier, SIN at issue, ATICK of levels 2 to 4. -/
structure Who where
  gcid : Nat
  sin : BitVec 16
  atick : Vector Nat 3
  deriving DecidableEq, Repr

/-- What an open packet carries (R297, R345, R308). -/
inductive PacketBody where
  /-- untimed requests of another package (R240 to R242): core, entry, generation, pod addresses -/
  | read (core entry : Nat) (gen : BitVec 4) (pas : List Nat) (who : Who)
  | write (core entry : Nat) (gen : BitVec 4) (chunks : List (Nat × BitVec 512 × BitVec 8)) (who : Who)
  | atom (core entry : Nat) (gen : BitVec 4) (pa op : Nat) (fp : Bool) (b : BitVec 32) (who : Who)
  /-- their replies -/
  | readReply (core entry : Nat) (gen : BitVec 4) (data : List (BitVec 512 × BitVec 8)) (race : Option (BitVec 64))
  | writeAck (core entry : Nat) (gen : BitVec 4) (race : Option (BitVec 64))
  | atomReply (core entry : Nat) (gen : BitVec 4) (old : BitVec 32) (race : Option (BitVec 64))
  /-- the announcement of a release event to homes of another package: context, RSIN and RTICK, the homes as a bit each (R267) -/
  | release (gcid : Nat) (rsin : Vector (BitVec 16) 3) (rtick : Vector Nat 3) (homes : BitVec 9)
  /-- those homes hold the announcement of a context's event, named by its SIN (R267; log entry 104) -/
  | releaseHeld (gcid : Nat) (sin : BitVec 16)
  | notice (n : Notice)
  /-- an announced incarnation (R308) -/
  | announce (inc : BitVec 16)
  /-- a request of a child to its parent, with t1, and the answer with t1, t2, t3 (R298) -/
  | timeReq (t1 : Nat)
  | timeRep (t1 t2 t3 : Nat)
  /-- a forwarded debug command: issuing partition, DBGCMD word, DBGDATA (R345) -/
  | dbg (part : Nat) (cmd data : BitVec 64)
  | dbgReply (part : Nat) (err : BitVec 3) (data : BitVec 64)
  /-- a completion record for a pod address, with its queue; and whether it could be written (R40; log entry 124) -/
  | record (pa queue : Nat) (data : BitVec 256)
  | recordDone (queue : Nat) (ok : Bool)
  deriving DecidableEq, Repr

/-- An open packet as it travels: in clear, or sealed under its partition's key, with its IV (R310). -/
inductive PacketWire where
  | clear (b : PacketBody)
  | sealed (iv : BitVec 96) (text : List Nat)
  deriving DecidableEq, Repr

/-- A flit or packet header (R296). -/
abbrev FlitHdr := BitVec 128
def hdrSrc (h : FlitHdr) : Nat := (bits h 0 12 : BitVec 12).toNat
def hdrKind (h : FlitHdr) : Nat := (bits h 12 4 : BitVec 4).toNat
def hdrDst (h : FlitHdr) : Nat := (bits h 16 12 : BitVec 12).toNat
def hdrPart (h : FlitHdr) : Nat := (bits h 28 4 : BitVec 4).toNat
def hdrSinc (h : FlitHdr) : BitVec 16 := bits h 32 16
def hdrDinc (h : FlitHdr) : BitVec 16 := bits h 48 16
def hdrTag (h : FlitHdr) : BitVec 64 := bits h 64 64
/-- A header from its fields (R296). -/
def mkHdr (src kind dst part : Nat) (sinc dinc : BitVec 16) (tag : BitVec 64) : FlitHdr :=
  tag ++ dinc ++ sinc ++ BitVec.ofNat 4 part ++ BitVec.ofNat 12 dst ++ BitVec.ofNat 4 kind ++ BitVec.ofNat 12 src

/-- The TDISP requests that move a VF (R357). -/
inductive TdispReq where
  | lock | start | stop
  deriving DecidableEq, Repr

/-- The stored words that a bit error strikes (R328). -/
inductive ErrLoc where
  /-- a 64-bit word of a scratchpad, by core and local address -/
  | pad (core : Fin 324) (addr : Nat)
  /-- a 64-bit word of HBM, by package-local address -/
  | hbm (addr : Nat)
  /-- a 32-bit word of the accumulators of a launch on a core: launch key, name, row, column -/
  | acc (core : Fin 324) (lk name row col : Nat)
  /-- a 64-bit word of a row of weight cells, by T2 bank, face row and word; of a block of the scale store -/
  | face (core : Fin 324) (bank : Bool) (row word : Nat)
  | scale (core : Fin 324) (block word : Nat)
  /-- a 64-bit word of an attenuation table: words 0 to 15 hold eight entries each, word 16 the scale -/
  | att (core : Fin 324) (table word : Nat)
  /-- a 32-bit word of a register: class 0 x, 1 v, 2 m, 3 th; copy true for the checkpoint copy -/
  | reg (core : Fin 324) (ctx : Fin 4) (cls num word : Nat) (copy : Bool)
  /-- a 64-bit word of a physical bundle-store slot -/
  | store (core : Fin 324) (slot word : Nat)
  deriving DecidableEq, Repr

end Sys2Proof
end

