-- ==== Sys2Proof/Syntax.lean ====
section
/-!
DEFINITION. The rows of spec/opcode_table.json: the 62 scalar forms (R94, R99), the forms of the native slots (R95 to R97), and the events that the part performs as one indivisible step (95_what_each_step_holds.md).

A slot form carries the fields of its encoding. An event carries the number of the core, context, launch, port or agent it concerns, and what reaches the package with it. Immediates stand as the bits of the encoding: a branch carries imm[12:1], jal imm[20:1], lui and auipc imm[31:12].
-/

namespace Sys2Proof

/-- One instruction: one row of the table. -/
inductive Instr where
  /-- LUI (R99): Writes the sign-extended upper immediate to rd one cycle after issue. -/
  | lui (rd : BitVec 5) (imm : BitVec 20)
  /-- AUIPC (R99): Writes PCB plus the sign-extended upper immediate to rd. -/
  | auipc (rd : BitVec 5) (imm : BitVec 20)
  /-- JAL (R102): Writes the link and redirects fetch to PCB plus imm after one delay bundle. -/
  | jal (rd : BitVec 5) (imm : BitVec 20)
  /-- JALR (R103): Writes the link and redirects fetch to x[rs1] plus imm after one delay bundle. -/
  | jalr (rd rs1 : BitVec 5) (imm : BitVec 12)
  /-- BEQ (R102): Branches when the two registers are equal. -/
  | beq (rs1 rs2 : BitVec 5) (imm : BitVec 12)
  /-- BNE (R102): Branches when the two registers differ. -/
  | bne (rs1 rs2 : BitVec 5) (imm : BitVec 12)
  /-- BLT (R102): Branches when rs1 is below rs2, signed. -/
  | blt (rs1 rs2 : BitVec 5) (imm : BitVec 12)
  /-- BGE (R102): Branches when rs1 is at or above rs2, signed. -/
  | bge (rs1 rs2 : BitVec 5) (imm : BitVec 12)
  /-- BLTU (R102): Branches when rs1 is below rs2, unsigned. -/
  | bltu (rs1 rs2 : BitVec 5) (imm : BitVec 12)
  /-- BGEU (R102): Branches when rs1 is at or above rs2, unsigned. -/
  | bgeu (rs1 rs2 : BitVec 5) (imm : BitVec 12)
  /-- LB (R104): Loads a sign-extended byte from the local scratchpad. -/
  | lb (rd rs1 : BitVec 5) (imm : BitVec 12)
  /-- LH (R104): Loads a sign-extended halfword from the local scratchpad. -/
  | lh (rd rs1 : BitVec 5) (imm : BitVec 12)
  /-- LW (R104): Loads a sign-extended word from the local scratchpad. -/
  | lw (rd rs1 : BitVec 5) (imm : BitVec 12)
  /-- LD (R104): Loads a doubleword from the local scratchpad. -/
  | ldd (rd rs1 : BitVec 5) (imm : BitVec 12)
  /-- LBU (R104): Loads a zero-extended byte from the local scratchpad. -/
  | lbu (rd rs1 : BitVec 5) (imm : BitVec 12)
  /-- LHU (R104): Loads a zero-extended halfword from the local scratchpad. -/
  | lhu (rd rs1 : BitVec 5) (imm : BitVec 12)
  /-- LWU (R104): Loads a zero-extended word from the local scratchpad. -/
  | lwu (rd rs1 : BitVec 5) (imm : BitVec 12)
  /-- SB (R105): Takes a withhold entry for a byte store to the local scratchpad. -/
  | sb (rs1 rs2 : BitVec 5) (imm : BitVec 12)
  /-- SH (R105): Takes a withhold entry for a halfword store. -/
  | shh (rs1 rs2 : BitVec 5) (imm : BitVec 12)
  /-- SW (R105): Takes a withhold entry for a word store. -/
  | sw (rs1 rs2 : BitVec 5) (imm : BitVec 12)
  /-- SD (R105): Takes a withhold entry for a doubleword store. -/
  | sd (rs1 rs2 : BitVec 5) (imm : BitVec 12)
  /-- ADDI (R99): Adds a sign-extended immediate to rs1. -/
  | addi (rd rs1 : BitVec 5) (imm : BitVec 12)
  /-- SLTI (R99): Sets rd to 1 when rs1 is below the immediate, signed. -/
  | slti (rd rs1 : BitVec 5) (imm : BitVec 12)
  /-- SLTIU (R99): Sets rd to 1 when rs1 is below the immediate, unsigned. -/
  | sltiu (rd rs1 : BitVec 5) (imm : BitVec 12)
  /-- XORI (R99): Exclusive-ors rs1 with the immediate. -/
  | xori (rd rs1 : BitVec 5) (imm : BitVec 12)
  /-- ORI (R99): Ors rs1 with the immediate. -/
  | ori (rd rs1 : BitVec 5) (imm : BitVec 12)
  /-- ANDI (R99): Ands rs1 with the immediate. -/
  | andi (rd rs1 : BitVec 5) (imm : BitVec 12)
  /-- SLLI (R99): Shifts rs1 left by a 6-bit amount. -/
  | slli (rd rs1 : BitVec 5) (sh : BitVec 6)
  /-- SRLI (R99): Shifts rs1 right logically by a 6-bit amount. -/
  | srli (rd rs1 : BitVec 5) (sh : BitVec 6)
  /-- SRAI (R99): Shifts rs1 right arithmetically by a 6-bit amount. -/
  | srai (rd rs1 : BitVec 5) (sh : BitVec 6)
  /-- ADD (R99): Adds two registers. -/
  | add (rd rs1 rs2 : BitVec 5)
  /-- SUB (R99): Subtracts rs2 from rs1. -/
  | sub (rd rs1 rs2 : BitVec 5)
  /-- SLL (R99): Shifts rs1 left by rs2[5:0]. -/
  | sll (rd rs1 rs2 : BitVec 5)
  /-- SLT (R99): Sets rd when rs1 is below rs2, signed. -/
  | slt (rd rs1 rs2 : BitVec 5)
  /-- SLTU (R99): Sets rd when rs1 is below rs2, unsigned. -/
  | sltu (rd rs1 rs2 : BitVec 5)
  /-- XOR (R99): Bitwise exclusive or of two registers. -/
  | xorR (rd rs1 rs2 : BitVec 5)
  /-- SRL (R99): Shifts rs1 right logically by rs2[5:0]. -/
  | srl (rd rs1 rs2 : BitVec 5)
  /-- SRA (R99): Shifts rs1 right arithmetically by rs2[5:0]. -/
  | sra (rd rs1 rs2 : BitVec 5)
  /-- OR (R99): Bitwise or of two registers. -/
  | orR (rd rs1 rs2 : BitVec 5)
  /-- AND (R99): Bitwise and of two registers. -/
  | andR (rd rs1 rs2 : BitVec 5)
  /-- MUL (R99): Writes the low 64 bits of the product after 3 cycles. -/
  | mul (rd rs1 rs2 : BitVec 5)
  /-- MULH (R99): Writes the high 64 bits of the signed product. -/
  | mulh (rd rs1 rs2 : BitVec 5)
  /-- MULHSU (R99): Writes the high 64 bits of the signed by unsigned product. -/
  | mulhsu (rd rs1 rs2 : BitVec 5)
  /-- MULHU (R99): Writes the high 64 bits of the unsigned product. -/
  | mulhu (rd rs1 rs2 : BitVec 5)
  /-- DIV (R101): Signed division after 20 cycles with fixed results for zero and overflow. -/
  | div (rd rs1 rs2 : BitVec 5)
  /-- DIVU (R101): Unsigned division after 20 cycles. -/
  | divu (rd rs1 rs2 : BitVec 5)
  /-- REM (R101): Signed remainder after 20 cycles. -/
  | rem (rd rs1 rs2 : BitVec 5)
  /-- REMU (R101): Unsigned remainder after 20 cycles. -/
  | remu (rd rs1 rs2 : BitVec 5)
  /-- ADDIW (R99): Adds an immediate and sign-extends the low 32 bits. -/
  | addiw (rd rs1 : BitVec 5) (imm : BitVec 12)
  /-- SLLIW (R99): Shifts the low word left by a 5-bit amount and sign-extends. -/
  | slliw (rd rs1 : BitVec 5) (sh : BitVec 5)
  /-- SRLIW (R99): Shifts the low word right logically and sign-extends. -/
  | srliw (rd rs1 : BitVec 5) (sh : BitVec 5)
  /-- SRAIW (R99): Shifts the low word right arithmetically and sign-extends. -/
  | sraiw (rd rs1 : BitVec 5) (sh : BitVec 5)
  /-- ADDW (R99): Adds two registers and sign-extends the low word. -/
  | addw (rd rs1 rs2 : BitVec 5)
  /-- SUBW (R99): Subtracts two registers and sign-extends the low word. -/
  | subw (rd rs1 rs2 : BitVec 5)
  /-- SLLW (R99): Shifts the low word left by rs2[4:0] and sign-extends. -/
  | sllw (rd rs1 rs2 : BitVec 5)
  /-- SRLW (R99): Shifts the low word right logically by rs2[4:0]. -/
  | srlw (rd rs1 rs2 : BitVec 5)
  /-- SRAW (R99): Shifts the low word right arithmetically by rs2[4:0]. -/
  | sraw (rd rs1 rs2 : BitVec 5)
  /-- MULW (R99): Multiplies and sign-extends the low 32 bits. -/
  | mulw (rd rs1 rs2 : BitVec 5)
  /-- DIVW (R101): 32-bit signed division. -/
  | divw (rd rs1 rs2 : BitVec 5)
  /-- DIVUW (R101): 32-bit unsigned division. -/
  | divuw (rd rs1 rs2 : BitVec 5)
  /-- REMW (R101): 32-bit signed remainder. -/
  | remw (rd rs1 rs2 : BitVec 5)
  /-- REMUW (R101): 32-bit unsigned remainder. -/
  | remuw (rd rs1 rs2 : BitVec 5)
  /-- NOP_Y (R96): The sync slot does nothing. -/
  | nopY
  /-- LOOP (R109): Pushes a loop entry with a body of 1 to 256 bundles, or skips the body on a zero count. -/
  | loop (a : Src) (len : BitVec 8)
  /-- LOOPX (R109): Pushes a loop entry with a body length taken from operand b. -/
  | loopx (a b : Src)
  /-- LBRK (R109): Pops the innermost loop and redirects past its end when the condition is not zero. -/
  | lbrk (a : Src)
  /-- LBRK_U (R109): Pops the innermost loop and redirects past its end unconditionally. -/
  | lbrkU
  /-- BANK_ACQ (R276): Waits until every named bank is Owned by the launch. -/
  | bankAcq (a : Src)
  /-- BANK_REL (R276): Makes each named Owned bank Released at issue plus 3, in a CK bundle only. -/
  | bankRel (a : Src)
  /-- BAR (R272): Ends a computation or communication phase of a domain and waits for the barrier. -/
  | bar (comm : Bool) (level : BitVec 2)
  /-- GUARD (R246): Repays DEBT by idling n minus DEBT cycles, or traps 0x13 when DEBT exceeds n. -/
  | guard (a : Src)
  /-- FENCE (R264): Freezes the core until covered untimed writes or reads of its scope have completed. -/
  | fence (kind : BitVec 2) (scope : BitVec 3)
  /-- BANK_TST (R276): Writes the ownership state and retention bit of a bank to rd. -/
  | bankTst (a : Src) (d : BitVec 5) (nw : Bool)
  /-- HAUL_BOARD (R285): Waits at the station to claim a free user skip with an initial payload. -/
  | haulBoard (b : Src) (d : BitVec 5) (nw : Bool)
  /-- HAUL_ALIGHT (R286): Frees a held skip at its withheld trigger passage, optionally capturing its payload first. -/
  | haulAlight (a b : Src) (sv : Bool)
  /-- HAUL_LD (R287): Waits for the skip's passage and loads its payload into a vector register. -/
  | haulLd (a : Src) (d : BitVec 5) (nw : Bool)
  /-- HAUL_ST (R283): Withheld write of one lane or all lanes of a skip. -/
  | haulSt (a b : Src) (all : Bool) (lane : BitVec 4)
  /-- HAUL_OP (R283): Withheld atomic operation on one lane of a skip, returning the old value. -/
  | haulOp (a b : Src) (d : BitVec 5) (nw fp : Bool) (op : BitVec 3) (lane : BitVec 4)
  /-- HAUL_XCHG (R283): Withheld exchange of one lane of a skip. -/
  | haulXchg (a b : Src) (d : BitVec 5) (nw : Bool) (lane : BitVec 4)
  /-- HAUL_CAS (R283): Withheld compare-and-swap of one lane of a skip. -/
  | haulCas (a b : Src) (d : BitVec 5) (nw : Bool) (lane : BitVec 4)
  /-- HAUL_LSE (R283): Withheld log-sum-exp merge into a lane pair of a skip. -/
  | haulLse (a b : Src) (d : BitVec 5) (nw : Bool) (lane : BitVec 4)
  /-- HAUL_BAR (R287): Sets a member bit of the skip and waits until bits 0 to n minus 1 all equal V. -/
  | haulBar (a b : Src) (v : Bool)
  /-- HAUL_PASS (R287): Waits for the skip's next passage and returns its tick. -/
  | haulPass (a : Src) (d : BitVec 5) (nw : Bool)
  /-- CODE_LOCK (R89): Requests locks on launch windows and writes a status. -/
  | codeLock (a : Src) (d : BitVec 5) (nw : Bool)
  /-- CODE_LOCK_W (R89): Requests locks on launch windows and waits on refusal for lack of room. -/
  | codeLockW (a : Src) (d : BitVec 5) (nw : Bool)
  /-- CODE_UNLOCK (R89): Releases the named window locks and retries waiting code.lock.w requests. -/
  | codeUnlock (a : Src)
  /-- SYSRD (R290): Reads a system register into rd at issue plus 2. -/
  | sysrd (d : BitVec 5) (nw : Bool) (k : BitVec 8)
  /-- SYSWR (R290): Writes a system register at issue plus 2. -/
  | syswr (a : Src) (k : BitVec 8)
  /-- TRAP (R291): Raises trap 0x50 carrying operand a. -/
  | trap (a : Src)
  /-- EBRK (R291): Raises trap 0x61, or halts the core when the debug policy opens halts. -/
  | ebrk
  /-- END (R292): The context leaves Running and issues nothing more, in a CK bundle only. -/
  | endCtx
  /-- VADD (R147): Elementwise addition. -/
  | vadd (o : VOps)
  /-- VSUB (R147): Elementwise subtraction. -/
  | vsub (o : VOps)
  /-- VMUL (R147): Elementwise multiplication. -/
  | vmul (o : VOps)
  /-- VFMA (R147): Fused a times b plus c with one rounding. -/
  | vfma (o : VOps)
  /-- VFMS (R147): Fused a times b minus c with one rounding. -/
  | vfms (o : VOps)
  /-- VFNMA (R147): Fused c minus a times b with one rounding. -/
  | vfnma (o : VOps)
  /-- VMAX (R147): Elementwise maximum. -/
  | vmax (o : VOps)
  /-- VMIN (R147): Elementwise minimum. -/
  | vmin (o : VOps)
  /-- VABS (R147): Elementwise absolute value. -/
  | vabs (o : VOps)
  /-- VNEG (R147): Elementwise negation. -/
  | vneg (o : VOps)
  /-- VADDSAT (R147): Saturating integer addition. -/
  | vaddsat (o : VOps)
  /-- VSUBSAT (R147): Saturating integer subtraction. -/
  | vsubsat (o : VOps)
  /-- VMULHI (R147): High half of the integer product. -/
  | vmulhi (o : VOps)
  /-- VAND (R149): Bitwise and of lanes. -/
  | vand (o : VOps)
  /-- VOR (R149): Bitwise or of lanes. -/
  | vor (o : VOps)
  /-- VXOR (R149): Bitwise exclusive or of lanes. -/
  | vxor (o : VOps)
  /-- VNOT (R149): Bitwise complement of lanes. -/
  | vnot (o : VOps)
  /-- VSHL (R149): Elementwise left shift. -/
  | vshl (o : VOps)
  /-- VSHR (R149): Elementwise logical right shift. -/
  | vshr (o : VOps)
  /-- VSRA (R149): Elementwise arithmetic right shift. -/
  | vsra (o : VOps)
  /-- VCMP (R151): Compares elements and writes a 128-bit mask. -/
  | vcmp (o : VOps)
  /-- VSEL (R152): Selects each lane from a or b by the mask. -/
  | vsel (o : VOps)
  /-- MAND (R153): Bitwise and of two masks. -/
  | mand (o : VOps)
  /-- MOR (R153): Bitwise or of two masks. -/
  | mor (o : VOps)
  /-- MXOR (R153): Bitwise exclusive or of two masks. -/
  | mxor (o : VOps)
  /-- MNOT (R153): Complement of a mask. -/
  | mnot (o : VOps)
  /-- MPOP (R154): Writes the number of set mask bits into every lane. -/
  | mpop (o : VOps)
  /-- MFIRST (R154): Writes the index of the lowest set mask bit into every lane. -/
  | mfirst (o : VOps)
  /-- VCVT (R155): Converts elements between formats of one width. -/
  | vcvt (o : VOps)
  /-- VNARROW (R155): Converts two source registers into one of half the element width. -/
  | vnarrow (o : VOps)
  /-- VWIDEN (R155): Converts half of a register to elements of double width. -/
  | vwiden (o : VOps)
  /-- VMXQ (R158): Quantises FP32 blocks into block-scaled elements or their scales. -/
  | vmxq (o : VOps)
  /-- VMXD (R159): Dequantises block-scaled elements to FP32. -/
  | vmxd (o : VOps)
  /-- VPERM (R160): Permutes elements by an index vector. -/
  | vperm (o : VOps)
  /-- VROT (R160): Rotates elements by a scalar amount. -/
  | vrot (o : VOps)
  /-- VBCAST (R160): Broadcasts one element to every element. -/
  | vbcast (o : VOps)
  /-- VSLIDE (R160): Takes a window of the concatenation of a and b. -/
  | vslide (o : VOps)
  /-- VZIP (R160): Interleaves halves of two registers. -/
  | vzip (o : VOps)
  /-- VUNZIP (R160): De-interleaves even or odd elements of two registers. -/
  | vunzip (o : VOps)
  /-- VIOTA (R160): Writes each element's own index. -/
  | viota (o : VOps)
  /-- VREDSUM (R161): Sums all elements by the fixed tree. -/
  | vredsum (o : VOps)
  /-- VREDMAX (R161): Maximum of all elements by the fixed tree. -/
  | vredmax (o : VOps)
  /-- VREDMIN (R161): Minimum of all elements by the fixed tree. -/
  | vredmin (o : VOps)
  /-- VSCAN (R162): Prefix sum in Hillis-Steele order. -/
  | vscan (o : VOps)
  /-- VSCANMAX (R162): Prefix maximum in Hillis-Steele order. -/
  | vscanmax (o : VOps)
  /-- VFILL (R163): Fills every allowed element with a scalar value. -/
  | vfill (o : VOps)
  /-- VEXT (R163): Extracts one element into an x register. -/
  | vext (o : VOps)
  /-- VINS (R163): Copies a register with one element replaced. -/
  | vins (o : VOps)
  /-- VMOV (R163): Copies allowed lanes. -/
  | vmov (o : VOps)
  /-- VEXP2 (R164): Correctly rounded base-2 exponential. -/
  | vexp2 (o : VOps)
  /-- VLOG2 (R164): Correctly rounded base-2 logarithm. -/
  | vlog2 (o : VOps)
  /-- VRCP (R164): Correctly rounded reciprocal. -/
  | vrcp (o : VOps)
  /-- VRSQRT (R164): Correctly rounded reciprocal square root. -/
  | vrsqrt (o : VOps)
  /-- VCLASS (R165): Writes a one-hot class code of each element. -/
  | vclass (o : VOps)
  /-- VRANK (R217): Builds a rank stream of the largest eligible lanes up to a cut-off. -/
  | vrank (o : VOps)
  /-- VRECON (R221): Rebuilds a dense vector from a rank stream through a reconstruction table. -/
  | vrecon (o : VOps)
  /-- VRTAB (R220): Loads a reconstruction table from 128 FP16 elements. -/
  | vrtab (o : VOps)
  /-- MCFG (R204): Sets the face arrangement, K and KV, clearing the face when the arrangement changes. -/
  | mcfg (o : MOps)
  /-- MWLD (R205): Loads blocks of weight rows into the face and dresses them. -/
  | mwld (o : MOps)
  /-- MWBANK (R206): Selects the T2 weight bank for later products. -/
  | mwbank (o : MOps)
  /-- MSC (R207): Loads B block scales into the scale store. -/
  | msc (o : MOps)
  /-- MMA (R208): Multiplies M local A rows by the face into accumulator names. -/
  | mma (o : MOps)
  /-- MMA_R (R209): Multiplies A rows prefetched from another core's scratchpad by the face. -/
  | mmaR (o : MOps)
  /-- MMA_T (R210): Multiplies A rows stored transposed by the face. -/
  | mmaT (o : MOps)
  /-- MMR (R225): Turns rank streams into attenuated A rows and multiplies them by the face. -/
  | mmr (o : MOps)
  /-- MATT (R223): Loads an attenuation table and its scale. -/
  | matt (o : MOps)
  /-- MXT (R211): Moves a 32 by 32 block into an accumulator name, transposed. -/
  | mxt (o : MOps)
  /-- MDR (R212): Drains accumulator rows with conversion to the scratchpad. -/
  | mdr (o : MOps)
  /-- MREL (R213): Releases the accumulator names set in a mask. -/
  | mrel (o : MOps)
  /-- MATRIX_ROW_LAND (R208): A row of an mma-family form lands in its accumulator names and sets its flags. -/
  | matrixRowLand (core : Fin 324)
  /-- VLD (R180): Loads 512 B, optionally checking the tile tag. -/
  | vld (o : LdOps)
  /-- VLDB (R180): Loads one element and broadcasts it. -/
  | vldb (o : LdOps)
  /-- VLDS (R180): Loads eight strided chunks. -/
  | vlds (o : LdOps)
  /-- VLDM (R180): Loads 512 B with bytes at or above a bound reading zero. -/
  | vldm (o : LdOps)
  /-- VLDH (R180): Loads 256 B into one half of a register. -/
  | vldh (o : LdOps)
  /-- LDTAG (R180): Reads the sequence tag of a tile. -/
  | ldtag (o : LdOps)
  /-- VST (R183): Withheld store of 512 B, optionally setting the tile tag. -/
  | vst (o : StOps)
  /-- VSTM (R184): Withheld byte- or nibble-masked store. -/
  | vstm (o : StOps)
  /-- VSTS (R183): Withheld strided store of eight chunks. -/
  | vsts (o : StOps)
  /-- VSTH (R183): Withheld store of one half of a register. -/
  | vsth (o : StOps)
  /-- TZERO (R183): Withheld zeroing of a tile with a new tag. -/
  | tzero (o : StOps)
  /-- AMO (R186): Withheld atomic operation on a local word, applied after the release. -/
  | amo (o : StOps)
  /-- AMO_CAS (R186): Withheld compare-and-swap on a local word. -/
  | amoCas (o : StOps)
  /-- WITHHOLD_RELEASE (R175): At the next CK bundle plus 2 the interval's withheld entries perform. -/
  | withholdRelease (core : Fin 324) (ctx : Fin 4)
  /-- CP (R231): Engine command that copies a shaped block locally. -/
  | cp (o : COps)
  /-- CP_RED (R232): Engine command that combines a stream source with a local source. -/
  | cpRed (o : COps)
  /-- RWR (R234): Engine command that writes a block into another core's scratchpad. -/
  | rwr (o : COps)
  /-- RRD (R235): Engine command that reads a block from another core's scratchpad. -/
  | rrd (o : COps)
  /-- RAMO (R237): Withheld atomic applied at a remote core's scratchpad. -/
  | ramo (o : COps)
  /-- XLAT (R238): Walks the translation tables and writes a handle. -/
  | xlat (o : COps)
  /-- GLD (R240): Untimed read of chunks landing in the scratchpad at issue plus L. -/
  | gld (o : COps)
  /-- GST (R241): Untimed write of chunks acknowledged by issue plus L. -/
  | gst (o : COps)
  /-- GATOM (R242): Withheld untimed atomic on HBM returning the old value. -/
  | gatom (o : COps)
  /-- MCAST (R248): Sends chunks to up to 16 member cores and returns a failure bitmap. -/
  | mcast (o : COps)
  /-- LNK_RUN (R249): Starts a transfer program at a tick and writes a status. -/
  | lnkRun (o : COps)
  /-- LNK_SEL (R249): Makes a route variant current from a tick and writes a status. -/
  | lnkSel (o : COps)
  /-- ENGINE_PIECE (R230): The copy engine reads and writes one piece of a command at its engine slot. -/
  | enginePiece (core : Fin 324)
  /-- CP_RED_INPLACE_ENQUEUE (R233): A released in-place cp.red takes a place in the engine queue when one is free. -/
  | cpRedInplaceEnqueue (core : Fin 324)
  /-- TIMED_REMOTE_ARRIVAL (R244): A timed access from another core performs at its target on its scheduled tick. -/
  | timedRemoteArrival (core : Fin 324)
  /-- REMOTE_FAILURE_REPORT (R236): A failed timed access is reported back and raises the trap at the issuing core. -/
  | remoteFailureReport (core : Fin 324)
  /-- GLD_LANDING (R240): A gld reply is written to the local destination at its due cycle and its entry is freed. -/
  | gldLanding (core : Fin 324) (entry : Fin 64)
  /-- GST_ACK (R241): A gst acknowledgement arrives and frees its landing entry. -/
  | gstAck (core : Fin 324) (entry : Fin 64)
  /-- GATOM_VALUE (R242): A gatom's old value lands in its register and checkpoint copy. -/
  | gatomValue (core : Fin 324) (entry : Fin 64)
  /-- MCAST_OUTCOME (R248): The mcast failure bitmap is written at issue plus L. -/
  | mcastOutcome (core : Fin 324)
  /-- WALK_END (R238): A translation walk ends and writes its handle or raises a translation trap. -/
  | walkEnd (core : Fin 324)
  /-- LANDING_TIMEOUT (R247): A request unanswered 2^20 periods after its due cycle frees its entry and traps 0x14. -/
  | landingTimeout (core : Fin 324) (entry : Fin 64)
  /-- SPOIL (R247): A reply with a stale generation or for a free entry is dropped and counted. -/
  | spoil (core : Fin 324)
  /-- HOME_APPLY_WRITE (R259): A home applies a queued untimed write once its causal conditions hold. -/
  | homeApplyWrite (n : Nat)
  /-- HOME_SERVE_READ (R259): A home serves a queued untimed read once its causal vector is covered. -/
  | homeServeRead (n : Nat)
  /-- HAUL_PASSAGE (R282): A skip passes a station, which performs reads, updates, checks and boarding in order. -/
  | haulPassage (core : Fin 324)
  /-- BOARD_EXHAUSTED (R285): A haul.board that finds no free skip in 360 passages returns status 1. -/
  | boardExhausted (core : Fin 324)
  /-- FALLBACK_CHECK (R288): A fallback haul.bar reads its record every 360 cycles until the bits agree. -/
  | fallbackCheck (core : Fin 324)
  /-- POD_BARRIER_SLOT (R307): At a barrier slot a package sends its D3 or D4 arrival. -/
  | podBarrierSlot (lk : Nat)
  /-- POD_BARRIER_COMPLETE (R274): A D3 or D4 barrier completes at slot tick plus BLAT and wakes its contexts. -/
  | podBarrierComplete (lk : Nat)
  /-- ROLLBACK (R320): A replayable trap makes the context Trapped and discards its newer work. -/
  | rollback (core : Fin 324) (ctx : Fin 4)
  /-- ROLLBACK_COMPLETE (R320): Once older work has landed, the checkpoint is restored and a trap record posted. -/
  | rollbackComplete (core : Fin 324) (ctx : Fin 4)
  /-- ABORT (R325): A launch stops on a package and its in-flight work is discarded. -/
  | abort (lk : Nat)
  /-- RETIREMENT_POINT (R340): Once all work of a launch has landed, contexts free, banks hand over and the completion record is written. -/
  | retirementPoint (lk : Nat)
  /-- START_VECTOR (R35): A 64-byte start vector write is checked and enters its launch queue. -/
  | startVector (vf : Fin 9) (off : Nat) (data : List (BitVec 8))
  /-- AGING_STEP (R36): A head's wait passes a multiple of 65,536 microseconds and triggers selection. -/
  | agingStep (vf : Fin 9) (queue : Fin 16)
  /-- START_CYCLE (R49): At the start cycle each bound context holds its start state and may issue. -/
  | startCycle (lk : Nat)
  /-- YIELD_SAVE (R333): When all contexts reach the yield wait, they become Saved at Ys. -/
  | yieldSave (lk : Nat)
  /-- PREEMPT_RESUME (R334): A Saved launch is restored and its contexts become Ready at Yr. -/
  | preemptResume (lk : Nat)
  /-- IMAGE_PREFIX_CHECK (R26): The loader checks the validation prefix as soon as it has arrived. -/
  | imagePrefixCheck (img : Nat)
  /-- CHUNK_LANDS (R14): A kind 6 to 8 chunk lands, is checked or decoded, and is written or refused. -/
  | chunkLands (img : Nat)
  /-- FULL_DIGEST_DECIDED (R27): The full-image digest is decided at the last byte and may refuse the image. -/
  | fullDigestDecided (img : Nat)
  /-- REUSING_CHUNK_WRITE (R87): A held reusing chunk is written at FIRSTUSE minus 2,048. -/
  | reusingChunkWrite (core : Fin 324) (lk : Nat)
  /-- LATE_LANDING (R86): A fetch or read whose content has not landed freezes the core until it is rewritten. -/
  | lateLanding (core : Fin 324)
  /-- WATCH_REPORT (R351): An imprecise watchpoint hit posts its record after its skid and may halt. -/
  | watchReport (core : Fin 324)
  /-- THERMAL_TRIP (R364): A sensor at 105 degrees stops the cores and ends every launch. -/
  | thermalTrip (die : Fin 9)
  /-- REGISTER_WRITE (R30): A write to a register without its own behaviour, ignored for non-owners. -/
  | registerWrite (where_ : RegSpace) (off : Nat) (val : BitVec 64)
  /-- BANK_RETENTION_ENTRY (R330): A bank unowned for 2^20 cycles begins re-encoding into retention mode. -/
  | bankRetentionEntry (core : Fin 324) (bank : Fin 48)
  /-- RETENTION_CONVERSION_DONE (R330): A retention entry or exit conversion completes. -/
  | retentionConversionDone (core : Fin 324) (bank : Fin 48)
  /-- TIME_EXCHANGE (R298): Every 65,536 ticks a child exchanges timestamps with its parent and trims TBNOW. -/
  | timeExchange (t1 t2 t3 t4 : Nat)
  /-- PROGRAM_START (R306): A transfer program starts at its effective start tick, ending any running program. -/
  | programStart (lk : Nat)
  /-- SEND (R304): A SEND entry places its flits in scheduled slots. -/
  | send (lk entry : Nat)
  /-- FWD (R304): A FWD entry forwards arrived flits, or void flits for missing ones. -/
  | fwd (lk entry : Nat)
  /-- RECV (R304): A RECV entry writes an arrived flit at its arrival tick plus 128. -/
  | recv (lk entry : Nat)
  /-- LINK_FAULT (R311): A missing flit at expected tick plus 64 raises a link fault and floods a notice. -/
  | linkFault (lk entry : Nat)
  /-- ELASTIC_BUFFER_FAULT (R300): A receiver buffer outside 4 to 28 flits raises a link fault. -/
  | elasticBufferFault (port : Fin 12)
  /-- FAULT_NOTICE (R311): A fault or peer-loss notice arrives and is forwarded once. -/
  | faultNotice (port : Fin 12) (notice : Notice)
  /-- CONTAINMENT (R313): At the containment tick the variant is chosen and every context rolls back. -/
  | containment (lk : Nat)
  /-- CONTAINMENT_RESUME (R338): At RES the steward resumes every context of the launch. -/
  | containmentResume (lk : Nat)
  /-- GUARD_INTERVAL (R300): A port receiver's elastic buffer re-centres to 16 flits in a guard interval, the span of a GUARD entry or 512 ticks without scheduled flits. -/
  | guardInterval (port : Fin 12)
  /-- DBG_FORWARD_TIMEOUT (R345): A forwarded debug command whose reply is missing for 2^20 ticks ends with ERR 4 and clears BUSY. -/
  | dbgForwardTimeout (vf : Fin 9)
  /-- MGMT_CLAIM (R31): An agent claims package ownership. -/
  | mgmtClaim (agent : Agent)
  /-- PARTMAP_WRITE (R32): A write assigns dies to partitions when they are idle. -/
  | partmapWrite (agent : Agent) (val : BitVec 64)
  /-- FLIT_ARRIVAL (R308): A flit arrives and is checked for incarnation and authentication. -/
  | flitArrival (port : Fin 12) (slot : Nat) (hdr : BitVec 128) (payload : BitVec 1024) (mark : BitVec 16)
  /-- OPEN_PACKET_ARRIVAL (R297): An open packet arrives and is routed or dropped at a full queue. -/
  | openPacketArrival (port : Fin 12) (hdr : BitVec 128) (body : PacketWire)
  /-- RETRAINING_DONE (R309): After retraining, the link ends exchange views and hold it down on disagreement. -/
  | retrainingDone (port : Fin 12) (near far : BitVec 32) (flight : BitVec 12)
  /-- TDISP_REQUEST (R357): A TDISP message moves a VF through CONFIG_UNLOCKED, CONFIG_LOCKED and RUN, and leaving RUN erases keys, clears HWBASE and closes the debug policy. -/
  | tdispRequest (vf : Fin 9) (req : TdispReq)
  /-- LQPRIO (R39): A priority change for a queued launch is applied or refused. -/
  | lqprio (vf : Fin 9) (val : BitVec 64)
  /-- MGMT_RELEASE (R31): The owner releases package ownership. -/
  | mgmtRelease (agent : Agent)
  /-- MGMT_HAND_OVER (R31): The owner names an agent to take ownership. -/
  | mgmtHandOver (agent : Agent) (target : BitVec 4)
  /-- HWBASE_WRITE (R55): Sets the partition's host window base unless a launch is bound. -/
  | hwbaseWrite (vf : Fin 9) (val : BitVec 64)
  /-- WCINV (R65): Invalidates cached translations of the partition on all its dies. -/
  | wcinv (vf : Fin 9) (val : BitVec 64)
  /-- BSINV (R90): Marks bundle-store content of the partition stale. -/
  | bsinv (vf : Fin 9) (val : BitVec 64)
  /-- RACEPOL_WRITE (R269): Sets the race detector mode and log, clearing shadow entries when enabled. -/
  | racepolWrite (vf : Fin 9) (val : BitVec 64)
  /-- PODCFG_WRITE (R315): Writes pod lengths, incarnation, parent and package number unless a launch is bound. -/
  | podcfgWrite (agent : Agent) (val : BitVec 64)
  /-- LINKCMD_RETRAIN (R309): Retrains a named port, also from held down. -/
  | linkcmdRetrain (agent : Agent) (val : BitVec 64)
  /-- TRAPCMD_RESUME (R326): Resumes a Trapped context whose rollback has completed. -/
  | trapcmdResume (vf : Fin 9) (val : BitVec 64)
  /-- TRAPCMD_ABORT (R326): Aborts the launch of a Trapped context. -/
  | trapcmdAbort (vf : Fin 9) (val : BitVec 64)
  /-- SWAP_OUT (R336): Parks a partition after its launches yield at node boundaries. -/
  | swapOut (agent : Agent) (part : BitVec 4)
  /-- SWAP_IN (R337): Restores a parked partition onto the same dies. -/
  | swapIn (agent : Agent) (part : BitVec 4)
  /-- DBG_HALT (R348): Command 1 halts a core at its next bundle boundary. -/
  | dbgHalt (vf : Fin 9) (cmd : BitVec 64)
  /-- DBG_RESUME (R346): Command 2 resumes a halted core. -/
  | dbgResume (vf : Fin 9) (cmd : BitVec 64)
  /-- DBG_READ_REG (R344): Command 3 reads a context register of a halted core. -/
  | dbgReadReg (vf : Fin 9) (cmd : BitVec 64)
  /-- DBG_WRITE_REG (R344): Command 4 writes a context register of a halted core. -/
  | dbgWriteReg (vf : Fin 9) (cmd : BitVec 64)
  /-- DBG_READ_MEM (R343): Command 5 reads 8 scratchpad bytes of a halted core. -/
  | dbgReadMem (vf : Fin 9) (cmd : BitVec 64)
  /-- DBG_WRITE_MEM (R343): Command 6 writes 8 scratchpad bytes of a halted core. -/
  | dbgWriteMem (vf : Fin 9) (cmd : BitVec 64)
  /-- DBG_READ_DEBUG_REG (R343): Command 7 reads a core debug register. -/
  | dbgReadDebugReg (vf : Fin 9) (cmd : BitVec 64)
  /-- DBG_WRITE_DEBUG_REG (R343): Command 8 writes a core debug register. -/
  | dbgWriteDebugReg (vf : Fin 9) (cmd : BitVec 64)
  /-- DBG_HALT_LAUNCH (R348): Command 9 halts every core of a launch at a tick. -/
  | dbgHaltLaunch (vf : Fin 9) (cmd : BitVec 64)
  /-- DBG_RESUME_LAUNCH (R343): Command 10 resumes every core of a launch. -/
  | dbgResumeLaunch (vf : Fin 9) (cmd : BitVec 64)
  /-- DBGPOL_COMMIT (R361): Checks the debug policy record and opens debug access or refuses it. -/
  | dbgpolCommit (vf : Fin 9)
  /-- STOPALL (R353): Stops every clock domain and TBNOW of the package. -/
  | stopall (agent : Agent) (val : BitVec 64)
  /-- PROFCTL_CLR (R354): Zeroes the matrix profile table. -/
  | profctlClr (vf : Fin 9) (cmd : BitVec 64)
  /-- PWRBUD_WRITE (R363): Sets the power budget for launches, clamped to 3,000 W. -/
  | pwrbudWrite (agent : Agent) (val : BitVec 64)
  /-- THERMST_CLEAR (R364): Clears the thermal trip only when every sensor reads below 85 degrees. -/
  | thermstClear (agent : Agent) (val : BitVec 64)
  /-- GET_VERSION (R355): SPDM request answered by the security engine. -/
  | getVersion (fn : Fin 10)
  /-- GET_CAPABILITIES (R355): SPDM request answered by the security engine. -/
  | getCapabilities (fn : Fin 10)
  /-- NEGOTIATE_ALGORITHMS (R355): SPDM request answered by the security engine. -/
  | negotiateAlgorithms (fn : Fin 10)
  /-- GET_DIGESTS (R355): SPDM request answered by the security engine. -/
  | getDigests (fn : Fin 10)
  /-- GET_CERTIFICATE (R355): SPDM request returning the certificate chain. -/
  | getCertificate (fn : Fin 10) (off len : Nat)
  /-- CHALLENGE (R355): SPDM challenge signed with the identity key. -/
  | challenge (fn : Fin 10) (nonce : BitVec 256)
  /-- GET_MEASUREMENTS (R356): Returns the measurement blocks visible to the function. -/
  | getMeasurements (fn : Fin 10) (index : BitVec 8)
  /-- KEY_EXCHANGE (R355): SPDM key exchange opening a secured session. -/
  | keyExchange (fn : Fin 10) (share : List (BitVec 8))
  /-- FINISH (R355): SPDM finish of a key exchange. -/
  | finish (fn : Fin 10) (mac : List (BitVec 8))
  /-- END_SESSION (R355): SPDM end of a secured session. -/
  | endSession (fn : Fin 10)
  /-- KEYSET (R358): Vendor-defined request installing a partition key in a slot. -/
  | keyset (fn : Fin 10) (slot : BitVec 8) (key : BitVec 256)
  /-- UNSUPPORTED_REQUEST (R355): Any other SPDM request receives ERROR with UnsupportedRequest. -/
  | unsupportedRequest (fn : Fin 10) (code : BitVec 8)
  /-- TLP_OUTSIDE_STREAM (R357): A TLP of a running VF outside its IDE stream is dropped and the VF enters ERROR. -/
  | tlpOutsideStream (vf : Fin 9)
  /-- IDE_KM_REQUEST (R357): The security engine sets the keys of a selective IDE stream under IDE_KM. -/
  | ideKmRequest (fn : Fin 10) (key : BitVec 256)
  /-- TENANT_PUBLIC_KEY_DELIVERY (R360): The tenant delivers in its SPDM session the public key against which debug policy signatures are checked. -/
  | tenantPublicKeyDelivery (vf : Fin 9) (key : BitVec 512)
  /-- SOFT_ERROR (R328): A stored word of an on-die memory or HBM takes a bit error that later reads correct or mark as poisoned. -/
  | softError (loc : ErrLoc) (hard : Bool)
  /-- PACKAGE_RESET (R7): Package reset sets every register and state to its reset value. -/
  | packageReset
  /-- CHECKPOINT (R316): A CK bundle takes the checkpoint copy and schedules the release. -/
  | checkpoint
  /-- YIELD_POINT (R332): A YP bundle under a yield request checkpoints and enters the yield wait. -/
  | yieldPoint
  /-- LOOP_END_COUNT (R109): An LE bundle counts the innermost loops and redirects or pops them. -/
  | loopEndCount
  /-- DECODE_TRAP (R92): A bundle that fails its checks raises trap 0x01 and performs nothing. -/
  | decodeTrap
  /-- SELECTION_PASS (R36): The distributor serves partitions in rotation and selects a queue head. -/
  | selectionPass
  /-- LOCK_LOSS (R299): A time offset above 2 ticks clears LOCK and faults the parent link of a running program. -/
  | lockLoss
  /-- TMAX_UPDATE (R364): Every 65,536 ticks THERMST.TMAX is updated with the hottest sensor reading. -/
  | tmaxUpdate
  deriving DecidableEq, Repr

end Sys2Proof
end

