-- ==== Sys2Proof/WellFormed.lean ====
section
/-!
DEFINITION. Which field values a slot form may hold (R68 to R70, R93, R142, R155, R179, R182, R194, R202, R216, R224, R227, R262, R270, R108, R89). A word whose fields break this raises trap 0x01 (R93). What depends on the header, on the machine state or on operand values is checked at issue (Machine/Issue.lean).
-/

namespace Sys2Proof

/-- A source field that the form does not use must be zero (R93). -/
def Src.unused (s : Src) : Bool := s == .reg 0

/-- A literal or loop index that exists (R68, R69). -/
def Src.exists_ : Src → Bool
  | .lit n => n.toNat ≤ 4
  | .loop n => n.toNat ≤ 5
  | _ => true

/-- A source of class x or v (R69). -/
def Src.okX (s : Src) : Bool := s.exists_

/-- A source of class m (R69). -/
def Src.okM : Src → Bool
  | .reg n => n.toNat ≤ 7
  | s => s.exists_

/-- A source of class th: a register 0 to 7 and nothing else (R69). -/
def Src.okTh : Src → Bool
  | .reg n => n.toNat ≤ 7
  | _ => false

/-- A destination of class x or v with an NW bit (R70). -/
def okDest (d : BitVec 5) (nw : Bool) : Bool := !nw || d == 0

/-- A destination of class m with an NW bit (R70). -/
def okDestM (d : BitVec 5) (nw : Bool) : Bool := d.toNat ≤ 7 && okDest d nw

/-- A form without destination (R70). -/
def noDest (d : BitVec 5) (nw : Bool) : Bool := d == 0 && !nw

/-! ### Format groups of R142 -/

def Fmt.isFL : Fmt → Bool
  | .fp32 | .bf16 | .fp16 => true
  | _ => false
def Fmt.isF8 : Fmt → Bool
  | .e4m3 | .e5m2 => true
  | _ => false
def Fmt.isIN : Fmt → Bool
  | .i32 | .i16 | .i8 | .u8 => true
  | _ => false
def Fmt.isP (f : Fmt) : Bool := f == .i64p
def Fmt.isAll (f : Fmt) : Bool := f.isFL || f.isF8 || f.isIN || f.isP

/-- A rounding code 0 to 5 (R122). -/
def okRm (m : BitVec 3) : Bool := m.toNat ≤ 5

/-- rm for FL and 0 otherwise (R142). -/
def okRmFL (f : Fmt) (m : BitVec 3) : Bool := if f.isFL then okRm m else m == 0

/-- The mask role "none" and the zero mask fields of R143, R216. -/
def VOps.noMask (o : VOps) : Bool := o.mask == 0

/-- Two v sources and a v destination. -/
def VOps.vv (o : VOps) : Bool := o.a.okX && o.b.okX && o.c.unused && okDest o.d o.nw
/-- One v source and a v destination. -/
def VOps.v1s (o : VOps) : Bool := o.a.okX && o.b.unused && o.c.unused && okDest o.d o.nw
/-- Three v sources and a v destination. -/
def VOps.vvv (o : VOps) : Bool := o.a.okX && o.b.okX && o.c.okX && okDest o.d o.nw
/-- Modifier and function fields both zero. -/
def VOps.plain (o : VOps) : Bool := o.md == 0 && o.fn == 0

/-- The legal conversion pairs of R155 with the rule for the rounding field: source, destination, "rm". -/
def cvtPairs : List (Fmt × Fmt) :=
  [(.fp32, .i32), (.fp16, .i16), (.bf16, .i16), (.e4m3, .i8), (.e5m2, .i8), (.i32, .fp32), (.i16, .fp16),
   (.i16, .bf16), (.i8, .e4m3), (.i8, .e5m2), (.fp16, .bf16), (.bf16, .fp16), (.e4m3, .e5m2), (.e5m2, .e4m3)]
def narrowPairs : List (Fmt × Fmt) :=
  [(.fp32, .bf16), (.fp32, .fp16), (.fp16, .e4m3), (.fp16, .e5m2), (.bf16, .e4m3), (.bf16, .e5m2)]
def narrowInt : List (Fmt × Fmt) :=
  [(.i32, .i16), (.i16, .i8), (.i16, .u8), (.i8, .i4), (.i64p, .i32)]
def widenPairs : List (Fmt × Fmt) :=
  [(.bf16, .fp32), (.fp16, .fp32), (.e4m3, .fp16), (.e5m2, .fp16), (.e4m3, .bf16), (.e5m2, .bf16),
   (.i16, .i32), (.i8, .i16), (.i4, .i8), (.t2, .i4), (.i32, .i64p), (.u8, .i16)]

/-- Does a pair list hold the source code [3:0] with this destination? -/
def pairIn (ps : List (Fmt × Fmt)) (src : BitVec 4) (dst : Fmt) : Bool :=
  ps.any fun p => p.1.code == src && p.2 == dst

/-- The part q of vmxq and vmxd: 0 to 7 for MXFP4, 0 to 3 otherwise (R158). -/
def okPart (f : Fmt) (q : BitVec 3) : Bool := f == .mx4 || q.toNat ≤ 3

/-- The element formats of vmxq and vmxd (R142). -/
def Fmt.isMX : Fmt → Bool
  | .mx4 | .e4m3 | .e5m2 => true
  | _ => false

/-- The three integer formats of the moving permutes (R142). -/
def Fmt.isI : Fmt → Bool
  | .i32 | .i16 | .i8 => true
  | _ => false

/-- Legal fields of the forms of 07_vector_slots.md and 10_rank_coded.md (R142, R216); none for another constructor. -/
def wfV : Instr → Option (VOps × Bool)
  | .vadd o => some (o, o.vv && (o.fmt.isFL || o.fmt.isIN || o.fmt.isP) && okRmFL o.fmt o.md && o.fn == 0)
  | .vsub o => some (o, o.vv && (o.fmt.isFL || o.fmt.isIN || o.fmt.isP) && okRmFL o.fmt o.md && o.fn == 0)
  | .vmul o => some (o, o.vv && (o.fmt.isFL || o.fmt.isIN) && okRmFL o.fmt o.md && o.fn == 0)
  | .vfma o => some (o, o.vvv && o.fmt.isFL && okRm o.md && o.fn == 0)
  | .vfms o => some (o, o.vvv && o.fmt.isFL && okRm o.md && o.fn == 0)
  | .vfnma o => some (o, o.vvv && o.fmt.isFL && okRm o.md && o.fn == 0)
  | .vmax o => some (o, o.vv && o.fmt.isAll && o.plain)
  | .vmin o => some (o, o.vv && o.fmt.isAll && o.plain)
  | .vabs o => some (o, o.v1s && o.fmt.isAll && o.plain)
  | .vneg o => some (o, o.v1s && o.fmt.isAll && o.plain)
  | .vaddsat o => some (o, o.vv && o.fmt.isIN && o.plain)
  | .vsubsat o => some (o, o.vv && o.fmt.isIN && o.plain)
  | .vmulhi o => some (o, o.vv && o.fmt.isIN && o.plain)
  | .vand o => some (o, o.vv && o.fmt == .i32 && o.plain)
  | .vor o => some (o, o.vv && o.fmt == .i32 && o.plain)
  | .vxor o => some (o, o.vv && o.fmt == .i32 && o.plain)
  | .vnot o => some (o, o.v1s && o.fmt == .i32 && o.plain)
  | .vshl o => some (o, o.vv && (o.fmt.isIN || o.fmt.isP) && o.plain)
  | .vshr o => some (o, o.vv && (o.fmt.isIN || o.fmt.isP) && o.plain)
  | .vsra o => some (o, o.vv && (o.fmt.isI || o.fmt.isP) && o.plain)
  | .vcmp o => some (o, o.a.okX && o.b.okX && o.c.unused && okDestM o.d o.nw && o.fmt.isAll && o.fn.toNat ≤ 5 &&
      (if o.fmt.isP then o.md == 0 else o.md.toNat < 32 / o.fmt.width))
  | .vsel o => some (o, o.vv && (o.fmt == .i32 || o.fmt.isP) && o.plain)
  | .mand o => some (o, o.a.okM && o.b.okM && o.c.unused && okDestM o.d o.nw && o.fmt == .fp32 && o.plain && o.noMask)
  | .mor o => some (o, o.a.okM && o.b.okM && o.c.unused && okDestM o.d o.nw && o.fmt == .fp32 && o.plain && o.noMask)
  | .mxor o => some (o, o.a.okM && o.b.okM && o.c.unused && okDestM o.d o.nw && o.fmt == .fp32 && o.plain && o.noMask)
  | .mnot o => some (o, o.a.okM && o.b.unused && o.c.unused && okDestM o.d o.nw && o.fmt == .fp32 && o.plain && o.noMask)
  | .mpop o => some (o, o.a.okM && o.b.unused && o.c.unused && okDest o.d o.nw && o.fmt == .i32 && o.plain && o.noMask)
  | .mfirst o => some (o, o.a.okM && o.b.unused && o.c.unused && okDest o.d o.nw && o.fmt == .i32 && o.plain && o.noMask)
  | .vcvt o => some (o, o.v1s && bits o.fn 4 2 == 0 && pairIn cvtPairs (bits o.fn 0 4) o.fmt && okRm o.md)
  | .vnarrow o => some (o, o.vv && bits o.fn 4 2 == 0 &&
      ((pairIn narrowPairs (bits o.fn 0 4) o.fmt && okRm o.md) || (pairIn narrowInt (bits o.fn 0 4) o.fmt && o.md == 0)))
  | .vwiden o => some (o, o.v1s && bits o.fn 4 2 == 0 && pairIn widenPairs (bits o.fn 0 4) o.fmt && bits o.md 1 2 == 0)
  | .vmxq o => some (o, o.v1s && o.fmt.isMX && okRm o.md && bits o.fn 3 2 == 0 && okPart o.fmt (bits o.fn 0 3))
  | .vmxd o => some (o, o.vv && o.fmt.isMX && o.md == 0 && bits o.fn 3 3 == 0 && okPart o.fmt (bits o.fn 0 3))
  | .vperm o => some (o, o.vv && (o.fmt == .i32 || o.fmt == .i16) && o.plain && !o.v1)
  | .vrot o => some (o, o.vv && o.fmt.isI && o.plain && !o.v1)
  | .vbcast o => some (o, o.vv && o.fmt.isI && o.plain && !o.v1)
  | .vslide o => some (o, o.vvv && o.fmt.isI && o.plain && !o.v1)
  | .vzip o => some (o, o.vv && o.fmt.isI && bits o.md 1 2 == 0 && o.fn == 0 && !o.v1)
  | .vunzip o => some (o, o.vv && o.fmt.isI && bits o.md 1 2 == 0 && o.fn == 0 && !o.v1)
  | .viota o => some (o, o.a.unused && o.b.unused && o.c.unused && okDest o.d o.nw &&
      (o.fmt == .i32 || o.fmt == .i16) && o.plain && !o.v1)
  | .vredsum o => some (o, o.v1s && (o.fmt.isFL || o.fmt.isIN || o.fmt.isP) &&
      (if o.fmt.isFL then okRm o.md else o.md.toNat ≤ 1) && o.fn == 0)
  | .vredmax o => some (o, o.v1s && o.fmt.isAll && o.plain)
  | .vredmin o => some (o, o.v1s && o.fmt.isAll && o.plain)
  | .vscan o => some (o, o.v1s && (o.fmt.isFL || o.fmt.isIN || o.fmt.isP) &&
      (if o.fmt.isFL then okRm o.md else o.md.toNat ≤ 1) && o.fn == 0)
  | .vscanmax o => some (o, o.v1s && o.fmt.isAll && o.plain)
  | .vfill o => some (o, o.v1s && o.fmt.isAll && o.plain)
  | .vext o => some (o, o.vv && o.fmt.isAll && o.plain && o.noMask)
  | .vins o => some (o, o.vvv && o.fmt.isAll && o.plain && o.noMask)
  | .vmov o => some (o, o.v1s && o.fmt == .i32 && o.plain)
  | .vexp2 o => some (o, o.v1s && o.fmt == .fp32 && o.plain && o.v1)
  | .vlog2 o => some (o, o.v1s && o.fmt == .fp32 && o.plain && o.v1)
  | .vrcp o => some (o, o.v1s && o.fmt == .fp32 && o.plain && o.v1)
  | .vrsqrt o => some (o, o.v1s && o.fmt == .fp32 && o.plain && o.v1)
  | .vclass o => some (o, o.v1s && o.fmt.isFL && o.plain && o.v1)
  | .vrank o => some (o, o.vv && (o.fmt == .fp32 || o.fmt == .i32) && bits o.md 2 1 == 0 && o.v1)
  | .vrecon o => some (o, o.v1s && (o.fmt == .fp32 || o.fmt == .fp16) && o.md == 0 && bits o.fn 2 4 == 0 && o.noMask && o.v1)
  | .vrtab o => some (o, o.a.okX && o.b.unused && o.c.unused && noDest o.d o.nw && o.fmt == .fp16 && o.md == 0 &&
      bits o.fn 2 4 == 0 && o.noMask && o.v1)
  | _ => none

/-- A formats of the mma-family forms (R194). -/
def Fmt.isA : Fmt → Bool
  | .mx4 | .i4 | .e4m3 | .e5m2 | .bf16 | .i8 | .u8 | .i16 | .i32 => true
  | _ => false

/-- Face formats (R205). -/
def Fmt.isFace : Fmt → Bool
  | .t2 | .i4 | .mx4 | .i8 | .e4m3 | .e5m2 | .bf16 => true
  | _ => false

/-- The .w and .s modifiers that the A format allows in every row of R194. -/
def okWS (f : Fmt) (w s : Bool) : Bool :=
  match f with
  | .mx4 => !w && s
  | .e4m3 | .e5m2 => !w
  | .bf16 => !w && !s
  | _ => !s

/-- The conversions of mdr (R212): source type, destination, whether the rounding field counts. -/
def okDrain (ty : BitVec 2) (f : Fmt) (rm : BitVec 3) : Bool :=
  match ty.toNat, f with
  | 0, .fp32 => rm == 0
  | 0, .bf16 | 0, .fp16 | 0, .e4m3 | 0, .e5m2 | 0, .i32 | 0, .i16 | 0, .i8 => okRm rm
  | 1, .i32 | 1, .i16 | 1, .i8 | 1, .u8 => rm == 0
  | 1, .fp32 | 1, .bf16 => okRm rm
  | 2, .i64p | 2, .i32 => rm == 0
  | 2, .fp32 => okRm rm
  | _, _ => false

/-- Legal fields of the matrix forms (R202, R204 to R213, R224); none for another constructor. -/
def wfM : Instr → Option (MOps × Bool)
  | .mcfg o => some (o, o.fmt == .fp32 && o.a.okX && o.b.okX && o.c.unused && o.acc == 0 && o.fl == 0 &&
      bits o.imm 3 6 == 0 && (bits o.imm 0 3).toNat ≤ 4)
  | .mwld o => some (o, o.fmt.isFace && o.a.okX && o.b.okX && o.c.okX && o.acc == 0 && bits o.fl 1 3 == 0 &&
      (o.fmt == .t2 || o.fl == 0) && bits o.imm 6 3 == 0)
  | .mwbank o => some (o, o.fmt == .fp32 && o.a.unused && o.b.unused && o.c.unused && o.acc == 0 &&
      bits o.fl 1 3 == 0 && o.imm == 0)
  | .msc o => some (o, o.fmt == .fp32 && o.a.okX && o.b.okX && o.c.okX && o.acc == 0 && o.fl == 0 && bits o.imm 6 3 == 0)
  | .mma o => some (o, o.fmt.isA && o.a.okX && o.b.okX && (if o.fl.getLsbD 1 then o.c.okX else o.c.unused) &&
      o.acc.toNat ≤ 23 && !o.fl.getLsbD 0 && okWS o.fmt (o.fl.getLsbD 2) (o.fl.getLsbD 1) && bits o.imm 6 3 == 0)
  | .mmaR o => some (o, o.fmt.isA && o.fmt != .mx4 && o.a.okTh && o.b.okX && o.c.okX && o.acc.toNat ≤ 23 &&
      bits o.fl 0 2 == 0 && okWS o.fmt (o.fl.getLsbD 2) false)
  | .mmaT o => some (o, o.fmt.isA && o.fmt != .i32 && o.a.okX && o.b.okX &&
      (if o.fl.getLsbD 1 then o.c.okX else o.c.unused) && o.acc.toNat ≤ 23 && !o.fl.getLsbD 0 &&
      okWS o.fmt (o.fl.getLsbD 2) (o.fl.getLsbD 1) && bits o.imm 6 3 == 0)
  | .mmr o => some (o, o.fmt == .u8 && o.a.okX && o.b.okX && o.c.okX && o.acc.toNat ≤ 23 && !o.fl.getLsbD 0 &&
      bits o.imm 8 1 == 0)
  | .matt o => some (o, o.fmt == .fp32 && o.a.okX && o.b.unused && o.c.unused && o.acc == 0 && o.fl == 0 &&
      bits o.imm 8 1 == 0 && bits o.imm 0 6 == 0)
  | .mxt o => some (o, (o.fmt == .fp32 || o.fmt == .i32) && o.a.okX && o.b.okX && o.c.unused && o.acc.toNat ≤ 23 &&
      bits o.fl 0 3 == 0 && bits o.imm 3 6 == 0)
  | .mdr o => some (o, o.a.okX && o.b.okX && (if o.fl.getLsbD 3 then o.c.okX else o.c.unused) && o.acc.toNat ≤ 23 &&
      bits o.imm 6 1 == 0 && okDrain (bits o.imm 7 2) o.fmt (bits o.fl 0 3))
  | .mrel o => some (o, o.fmt == .fp32 && o.a.okX && o.b.unused && o.c.unused && o.acc == 0 && o.fl == 0 && o.imm == 0)
  | _ => none

/-- Legal fields of the load forms (R179); none for another constructor. -/
def wfL : Instr → Option (LdOps × Bool)
  | .vld o => some (o, o.a.okX && (if o.k then o.b.okX else o.b.unused) && okDest o.d o.nw && o.part == 0)
  | .vldb o => some (o, o.a.okX && o.b.unused && okDest o.d o.nw && o.mask == 0 && !o.k)
  | .vlds o => some (o, o.a.okX && o.b.okX && okDest o.d o.nw && !o.k && o.part == 0)
  | .vldm o => some (o, o.a.okX && o.b.okX && okDest o.d o.nw && !o.k && o.part == 0)
  | .vldh o => some (o, o.a.okX && o.b.unused && okDest o.d o.nw && !o.k && bits o.part 1 1 == 0)
  | .ldtag o => some (o, o.a.okX && o.b.unused && okDest o.d o.nw && o.mask == 0 && !o.k && o.part == 0)
  | _ => none

/-- The function codes of amo, with FP (R186). -/
def okAmo (fp : Bool) (op : Nat) : Bool := op ≤ 5 && !(fp && (op == 3 || op == 4))

/-- Legal fields of the store forms (R182, R184, R186); none for another constructor. -/
def wfS : Instr → Option (StOps × Bool)
  | .vst o => some (o, o.a.okX && o.b.okX && (if o.k then o.c.okX else o.c.unused) && o.d == 0 && !o.nb && !o.fp && o.fn == 0)
  | .vstm o => some (o, o.a.okX && o.b.okX && o.c.unused && o.d == 0 && !o.k && !o.fp && (o.nb || o.fn.toNat ≤ 3))
  | .vsts o => some (o, o.a.okX && o.b.okX && o.c.okX && o.d == 0 && !o.k && !o.nb && !o.fp && o.fn == 0)
  | .vsth o => some (o, o.a.okX && o.b.okX && o.c.unused && o.d == 0 && !o.k && !o.nb && !o.fp && o.fn.toNat ≤ 1)
  | .tzero o => some (o, o.a.okX && o.b.unused && o.c.okX && o.d == 0 && o.mask == 0 && !o.k && !o.nb && !o.fp && o.fn == 0)
  | .amo o => some (o, o.a.okX && o.b.okX && o.c.unused && o.mask == 0 && !o.k && !o.nb && okAmo o.fp o.fn.toNat)
  | .amoCas o => some (o, o.a.okX && o.b.okX && o.c.okX && o.mask == 0 && !o.k && !o.nb && !o.fp && o.fn == 0)
  | _ => none

/-- The formats of cp.red (R227). -/
def Fmt.isRed : Fmt → Bool
  | .fp32 | .bf16 | .fp16 | .i32 | .i16 | .i8 => true
  | _ => false

/-- Legal fields of the copy forms (R227); none for another constructor. -/
def wfC : Instr → Option (COps × Bool)
  | .cp o => some (o, o.a.okX && o.b.okX && o.c.unused && !o.nw && o.fmt == .fp32 && bits o.fn 0 3 == 0 && !o.inplace && o.imm == 0)
  | .cpRed o => some (o, o.a.okX && o.b.okX && (if o.inplace then o.c.unused else o.c.okX) && !o.nw && o.fmt.isRed &&
      (bits o.fn 0 3).toNat ≤ 2 && o.imm == 0)
  | .rwr o => some (o, o.a.okX && o.b.okTh && o.c.okX && !o.nw && o.fmt == .fp32 && bits o.fn 0 3 == 0 && !o.inplace && o.imm == 0)
  | .rrd o => some (o, o.a.okTh && o.b.okX && o.c.okX && !o.nw && o.fmt == .fp32 && bits o.fn 0 3 == 0 && !o.inplace && o.imm == 0)
  | .ramo o => some (o, o.a.okTh && o.b.okX && o.c.okX && noDest o.d o.nw && (o.fmt == .fp32 || o.fmt == .i32) &&
      okAmo (o.fmt == .fp32) o.fn.toNat && !o.inplace && o.imm == 0)
  | .xlat o => some (o, o.a.okX && o.b.unused && o.c.unused && o.d.toNat ≤ 7 && !o.nw && o.fmt == .fp32 && o.fn == 0 &&
      !o.inplace && o.imm == 0)
  | .gld o => some (o, o.a.okTh && o.b.okX && o.c.okX && noDest o.d o.nw && o.fmt == .fp32 && o.fn == 0 && !o.inplace)
  | .gst o => some (o, o.a.okTh && o.b.okX && o.c.okX && noDest o.d o.nw && o.fmt == .fp32 && o.fn == 0 && !o.inplace)
  | .gatom o => some (o, o.a.okTh && o.b.okX && o.c.okX && okDest o.d o.nw && (o.fmt == .fp32 || o.fmt == .i32) &&
      okAmo (o.fmt == .fp32) o.fn.toNat && !o.inplace && bits o.imm 0 3 == 0)
  | .mcast o => some (o, o.a.okX && o.b.okX && o.c.okX && okDest o.d o.nw && o.fmt == .fp32 && o.fn == 0 && !o.inplace)
  | .lnkRun o => some (o, o.a.okX && o.b.okX && o.c.unused && okDest o.d o.nw && o.fmt == .fp32 && o.fn == 0 && !o.inplace && o.imm == 0)
  | .lnkSel o => some (o, o.a.okX && o.b.okX && o.c.unused && okDest o.d o.nw && o.fmt == .fp32 && o.fn == 0 && !o.inplace && o.imm == 0)
  | _ => none

/-- System registers that sysrd accepts (R290). -/
def sysReadable (k : BitVec 8) : Bool :=
  [0x01, 0x02, 0x03, 0x04, 0x05, 0x06, 0x07, 0x08, 0x09, 0x0C, 0x0D, 0x0E, 0x0F, 0x10, 0x11, 0x18, 0x19, 0x1A, 0x1B].contains k

/-- System registers with a writable field (R290). -/
def sysWritable (k : BitVec 8) : Bool := k == 0x10 || k == 0x11

/-- Legal fields of the sync forms (R89, R108, R262, R270, R290); none for another constructor. -/
def wfY : Instr → Option Bool
  | .nopY => some true
  | .loop a _ => some a.okX
  | .loopx a b => some (a.okX && b.okX)
  | .lbrk a => some a.okX
  | .lbrkU => some true
  | .bankAcq a => some a.okX
  | .bankRel a => some a.okX
  | .bar _ _ => some true
  | .guard a => some a.okX
  | .fence k s => some (k != 0 && s.toNat ≤ 4)
  | .bankTst a d nw => some (a.okX && okDest d nw)
  | .haulBoard b d nw => some (b.okX && okDest d nw)
  | .haulAlight a b sv => some (a.okX && (if sv then b.okX else b.unused))
  | .haulLd a d nw => some (a.okX && okDest d nw)
  | .haulSt a b all lane => some (a.okX && b.okX && (!all || lane == 0))
  | .haulOp a b d nw fp op _ => some (a.okX && b.okX && okDest d nw && op.toNat ≤ 4 && !(fp && (op == 3 || op == 4)))
  | .haulXchg a b d nw _ => some (a.okX && b.okX && okDest d nw)
  | .haulCas a b d nw _ => some (a.okX && b.okX && okDest d nw)
  | .haulLse a b d nw lane => some (a.okX && b.okX && okDest d nw && !lane.getLsbD 0)
  | .haulBar a b _ => some (a.okX && b.okX)
  | .haulPass a d nw => some (a.okX && okDest d nw)
  | .codeLock a d nw => some (a.okX && okDest d nw)
  | .codeLockW a d nw => some (a.okX && okDest d nw)
  | .codeUnlock a => some a.okX
  | .sysrd d nw k => some (okDest d nw && sysReadable k)
  | .syswr a k => some (a.okX && sysWritable k)
  | .trap a => some a.okX
  | .ebrk => some true
  | .endCtx => some true
  | _ => none

/-- Is the instruction a well-formed slot form? A scalar form always is; an event has no encoding and none to break. -/
def Instr.wf (i : Instr) : Bool :=
  match wfV i, wfM i, wfL i, wfS i, wfC i, wfY i with
  | some (_, b), _, _, _, _, _ => b
  | _, some (_, b), _, _, _, _ => b
  | _, _, some (_, b), _, _, _ => b
  | _, _, _, some (_, b), _, _ => b
  | _, _, _, _, some (_, b), _ => b
  | _, _, _, _, _, some b => b
  | _, _, _, _, _, _ => true

end Sys2Proof
end

