-- ==== Sys2Proof/Decode.lean ====
section
/-!
DEFINITION. The decoder of each slot, total on every word (R92 to R98), and the encoder of every slot form. A word that no form has is rejected by name.
-/

namespace Sys2Proof

/-- What a slot of a bundle holds. -/
inductive SlotOp where
  /-- the all-zero encoding of a native slot (R95, R96): nothing to do -/
  | idle
  | form (i : Instr)
  /-- no form: trap 0x01 (R93, R94) -/
  | illegal
  deriving DecidableEq, Repr

/-- The words of the eight slots (R66). -/
inductive SlotWord where
  | s (w : BitVec 32)
  | v0 (w : BitVec 48)
  | v1 (w : BitVec 48)
  | m (w : BitVec 48)
  | ld (w : BitVec 40)
  | st (w : BitVec 40)
  | c (w : BitVec 48)
  | y (w : BitVec 32)
  deriving DecidableEq, Repr

/-! ### Fields -/

/-- A native source field (R69). -/
def decodeSrc (f : BitVec 6) : Src :=
  if f.getLsbD 5 == false then .reg (bits f 0 5)
  else if f.getLsbD 4 == false then .latch (bits f 0 4)
  else if f.getLsbD 3 == false then .lit (bits f 0 3)
  else if f == 0b111110 then .zero
  else if f == 0b111111 then .ctx
  else .loop (bits f 0 3)

/-- The field of a source (R69). -/
def encodeSrc : Src → BitVec 6
  | .reg n => 0#1 ++ n
  | .latch n => 0b10#2 ++ n
  | .lit n => 0b110#3 ++ n
  | .loop n => 0b111#3 ++ n
  | .zero => 0b111110
  | .ctx => 0b111111

/-- The format of a code; 13 to 15 are illegal (R95). -/
def decodeFmt (c : BitVec 4) : Option Fmt :=
  match c.toNat with
  | 0 => some .fp32 | 1 => some .bf16 | 2 => some .fp16 | 3 => some .e4m3 | 4 => some .e5m2
  | 5 => some .mx4 | 6 => some .i32 | 7 => some .i16 | 8 => some .i8 | 9 => some .u8
  | 10 => some .i4 | 11 => some .t2 | 12 => some .i64p | _ => none

/-- One bit as a one-bit field. -/
def bit1 (b : Bool) : BitVec 1 := if b then 1 else 0

/-! ### Scalar slot (R94, R98) -/

/-- The scalar decoder: one of the 62 encodings, or none (R94). -/
def decodeS (w : BitVec 32) : Option Instr :=
  let rd : BitVec 5 := bits w 7 5
  let rs1 : BitVec 5 := bits w 15 5
  let rs2 : BitVec 5 := bits w 20 5
  let f3 := (bits w 12 3 : BitVec 3).toNat
  let f7 := (bits w 25 7 : BitVec 7).toNat
  let immI : BitVec 12 := bits w 20 12
  let immS : BitVec 12 := (bits w 25 7 : BitVec 7) ++ (bits w 7 5 : BitVec 5)
  let immB : BitVec 12 := (bits w 31 1 : BitVec 1) ++ (bits w 7 1 : BitVec 1) ++ (bits w 25 6 : BitVec 6) ++ (bits w 8 4 : BitVec 4)
  let immJ : BitVec 20 := (bits w 31 1 : BitVec 1) ++ (bits w 12 8 : BitVec 8) ++ (bits w 20 1 : BitVec 1) ++ (bits w 21 10 : BitVec 10)
  match (bits w 0 7 : BitVec 7).toNat with
  | 0x37 => some (.lui rd (bits w 12 20))
  | 0x17 => some (.auipc rd (bits w 12 20))
  | 0x6F => some (.jal rd immJ)
  | 0x67 => if f3 = 0 then some (.jalr rd rs1 immI) else none
  | 0x63 =>
    match f3 with
    | 0 => some (.beq rs1 rs2 immB)
    | 1 => some (.bne rs1 rs2 immB)
    | 4 => some (.blt rs1 rs2 immB)
    | 5 => some (.bge rs1 rs2 immB)
    | 6 => some (.bltu rs1 rs2 immB)
    | 7 => some (.bgeu rs1 rs2 immB)
    | _ => none
  | 0x03 =>
    match f3 with
    | 0 => some (.lb rd rs1 immI)
    | 1 => some (.lh rd rs1 immI)
    | 2 => some (.lw rd rs1 immI)
    | 3 => some (.ldd rd rs1 immI)
    | 4 => some (.lbu rd rs1 immI)
    | 5 => some (.lhu rd rs1 immI)
    | 6 => some (.lwu rd rs1 immI)
    | _ => none
  | 0x23 =>
    match f3 with
    | 0 => some (.sb rs1 rs2 immS)
    | 1 => some (.shh rs1 rs2 immS)
    | 2 => some (.sw rs1 rs2 immS)
    | 3 => some (.sd rs1 rs2 immS)
    | _ => none
  | 0x13 =>
    match f3 with
    | 0 => some (.addi rd rs1 immI)
    | 2 => some (.slti rd rs1 immI)
    | 3 => some (.sltiu rd rs1 immI)
    | 4 => some (.xori rd rs1 immI)
    | 6 => some (.ori rd rs1 immI)
    | 7 => some (.andi rd rs1 immI)
    | 1 => if f7 / 2 = 0 then some (.slli rd rs1 (bits w 20 6)) else none
    | 5 =>
      if f7 / 2 = 0 then some (.srli rd rs1 (bits w 20 6))
      else if f7 / 2 = 0x10 then some (.srai rd rs1 (bits w 20 6)) else none
    | _ => none
  | 0x33 =>
    match f7, f3 with
    | 0, 0 => some (.add rd rs1 rs2)
    | 0, 1 => some (.sll rd rs1 rs2)
    | 0, 2 => some (.slt rd rs1 rs2)
    | 0, 3 => some (.sltu rd rs1 rs2)
    | 0, 4 => some (.xorR rd rs1 rs2)
    | 0, 5 => some (.srl rd rs1 rs2)
    | 0, 6 => some (.orR rd rs1 rs2)
    | 0, 7 => some (.andR rd rs1 rs2)
    | 32, 0 => some (.sub rd rs1 rs2)
    | 32, 5 => some (.sra rd rs1 rs2)
    | 1, 0 => some (.mul rd rs1 rs2)
    | 1, 1 => some (.mulh rd rs1 rs2)
    | 1, 2 => some (.mulhsu rd rs1 rs2)
    | 1, 3 => some (.mulhu rd rs1 rs2)
    | 1, 4 => some (.div rd rs1 rs2)
    | 1, 5 => some (.divu rd rs1 rs2)
    | 1, 6 => some (.rem rd rs1 rs2)
    | 1, 7 => some (.remu rd rs1 rs2)
    | _, _ => none
  | 0x1B =>
    match f3 with
    | 0 => some (.addiw rd rs1 immI)
    | 1 => if f7 = 0 then some (.slliw rd rs1 rs2) else none
    | 5 =>
      if f7 = 0 then some (.srliw rd rs1 rs2)
      else if f7 = 0x20 then some (.sraiw rd rs1 rs2) else none
    | _ => none
  | 0x3B =>
    match f7, f3 with
    | 0, 0 => some (.addw rd rs1 rs2)
    | 0, 1 => some (.sllw rd rs1 rs2)
    | 0, 5 => some (.srlw rd rs1 rs2)
    | 32, 0 => some (.subw rd rs1 rs2)
    | 32, 5 => some (.sraw rd rs1 rs2)
    | 1, 0 => some (.mulw rd rs1 rs2)
    | 1, 4 => some (.divw rd rs1 rs2)
    | 1, 5 => some (.divuw rd rs1 rs2)
    | 1, 6 => some (.remw rd rs1 rs2)
    | 1, 7 => some (.remuw rd rs1 rs2)
    | _, _ => none
  | _ => none

/-- R layout (R98). -/
def encR (op : BitVec 7) (f3 : BitVec 3) (f7 : BitVec 7) (rd rs1 rs2 : BitVec 5) : BitVec 32 :=
  f7 ++ rs2 ++ rs1 ++ f3 ++ rd ++ op
/-- I layout (R98). -/
def encI (op : BitVec 7) (f3 : BitVec 3) (rd rs1 : BitVec 5) (imm : BitVec 12) : BitVec 32 :=
  imm ++ rs1 ++ f3 ++ rd ++ op
/-- I layout with a 6-bit shift amount (R98). -/
def encSh (f3 : BitVec 3) (f6 : BitVec 6) (rd rs1 : BitVec 5) (sh : BitVec 6) : BitVec 32 :=
  f6 ++ sh ++ rs1 ++ f3 ++ rd ++ 0x13#7
/-- S layout (R98). -/
def encS (f3 : BitVec 3) (rs1 rs2 : BitVec 5) (imm : BitVec 12) : BitVec 32 :=
  (bits imm 5 7 : BitVec 7) ++ rs2 ++ rs1 ++ f3 ++ (bits imm 0 5 : BitVec 5) ++ 0x23#7
/-- B layout; imm is imm[12:1] (R98). -/
def encB (f3 : BitVec 3) (rs1 rs2 : BitVec 5) (imm : BitVec 12) : BitVec 32 :=
  (bits imm 11 1 : BitVec 1) ++ (bits imm 4 6 : BitVec 6) ++ rs2 ++ rs1 ++ f3 ++ (bits imm 0 4 : BitVec 4) ++
    (bits imm 10 1 : BitVec 1) ++ 0x63#7
/-- U layout; imm is imm[31:12] (R98). -/
def encU (op : BitVec 7) (rd : BitVec 5) (imm : BitVec 20) : BitVec 32 := imm ++ rd ++ op
/-- J layout; imm is imm[20:1] (R98). -/
def encJ (rd : BitVec 5) (imm : BitVec 20) : BitVec 32 :=
  (bits imm 19 1 : BitVec 1) ++ (bits imm 0 10 : BitVec 10) ++ (bits imm 10 1 : BitVec 1) ++ (bits imm 11 8 : BitVec 8) ++ rd ++ 0x6F#7

/-- The word of a scalar form (R94, R98). -/
def encodeS : Instr → Option (BitVec 32)
  | .lui rd imm => some (encU 0x37 rd imm)
  | .auipc rd imm => some (encU 0x17 rd imm)
  | .jal rd imm => some (encJ rd imm)
  | .jalr rd rs1 imm => some (encI 0x67 0 rd rs1 imm)
  | .lb rd rs1 imm => some (encI 0x3 0 rd rs1 imm)
  | .lh rd rs1 imm => some (encI 0x3 1 rd rs1 imm)
  | .lw rd rs1 imm => some (encI 0x3 2 rd rs1 imm)
  | .ldd rd rs1 imm => some (encI 0x3 3 rd rs1 imm)
  | .lbu rd rs1 imm => some (encI 0x3 4 rd rs1 imm)
  | .lhu rd rs1 imm => some (encI 0x3 5 rd rs1 imm)
  | .lwu rd rs1 imm => some (encI 0x3 6 rd rs1 imm)
  | .addi rd rs1 imm => some (encI 0x13 0 rd rs1 imm)
  | .slti rd rs1 imm => some (encI 0x13 2 rd rs1 imm)
  | .sltiu rd rs1 imm => some (encI 0x13 3 rd rs1 imm)
  | .xori rd rs1 imm => some (encI 0x13 4 rd rs1 imm)
  | .ori rd rs1 imm => some (encI 0x13 6 rd rs1 imm)
  | .andi rd rs1 imm => some (encI 0x13 7 rd rs1 imm)
  | .addiw rd rs1 imm => some (encI 0x1b 0 rd rs1 imm)
  | .beq rs1 rs2 imm => some (encB 0 rs1 rs2 imm)
  | .bne rs1 rs2 imm => some (encB 1 rs1 rs2 imm)
  | .blt rs1 rs2 imm => some (encB 4 rs1 rs2 imm)
  | .bge rs1 rs2 imm => some (encB 5 rs1 rs2 imm)
  | .bltu rs1 rs2 imm => some (encB 6 rs1 rs2 imm)
  | .bgeu rs1 rs2 imm => some (encB 7 rs1 rs2 imm)
  | .sb rs1 rs2 imm => some (encS 0 rs1 rs2 imm)
  | .shh rs1 rs2 imm => some (encS 1 rs1 rs2 imm)
  | .sw rs1 rs2 imm => some (encS 2 rs1 rs2 imm)
  | .sd rs1 rs2 imm => some (encS 3 rs1 rs2 imm)
  | .slli rd rs1 sh => some (encSh 1 0x0 rd rs1 sh)
  | .srli rd rs1 sh => some (encSh 5 0x0 rd rs1 sh)
  | .srai rd rs1 sh => some (encSh 5 0x10 rd rs1 sh)
  | .slliw rd rs1 sh => some (encR 0x1B 1 0x0 rd rs1 sh)
  | .srliw rd rs1 sh => some (encR 0x1B 5 0x0 rd rs1 sh)
  | .sraiw rd rs1 sh => some (encR 0x1B 5 0x20 rd rs1 sh)
  | .add rd rs1 rs2 => some (encR 0x33 0 0x0 rd rs1 rs2)
  | .sll rd rs1 rs2 => some (encR 0x33 1 0x0 rd rs1 rs2)
  | .slt rd rs1 rs2 => some (encR 0x33 2 0x0 rd rs1 rs2)
  | .sltu rd rs1 rs2 => some (encR 0x33 3 0x0 rd rs1 rs2)
  | .xorR rd rs1 rs2 => some (encR 0x33 4 0x0 rd rs1 rs2)
  | .srl rd rs1 rs2 => some (encR 0x33 5 0x0 rd rs1 rs2)
  | .orR rd rs1 rs2 => some (encR 0x33 6 0x0 rd rs1 rs2)
  | .andR rd rs1 rs2 => some (encR 0x33 7 0x0 rd rs1 rs2)
  | .sub rd rs1 rs2 => some (encR 0x33 0 0x20 rd rs1 rs2)
  | .sra rd rs1 rs2 => some (encR 0x33 5 0x20 rd rs1 rs2)
  | .mul rd rs1 rs2 => some (encR 0x33 0 0x1 rd rs1 rs2)
  | .mulh rd rs1 rs2 => some (encR 0x33 1 0x1 rd rs1 rs2)
  | .mulhsu rd rs1 rs2 => some (encR 0x33 2 0x1 rd rs1 rs2)
  | .mulhu rd rs1 rs2 => some (encR 0x33 3 0x1 rd rs1 rs2)
  | .div rd rs1 rs2 => some (encR 0x33 4 0x1 rd rs1 rs2)
  | .divu rd rs1 rs2 => some (encR 0x33 5 0x1 rd rs1 rs2)
  | .rem rd rs1 rs2 => some (encR 0x33 6 0x1 rd rs1 rs2)
  | .remu rd rs1 rs2 => some (encR 0x33 7 0x1 rd rs1 rs2)
  | .addw rd rs1 rs2 => some (encR 0x3B 0 0x0 rd rs1 rs2)
  | .sllw rd rs1 rs2 => some (encR 0x3B 1 0x0 rd rs1 rs2)
  | .srlw rd rs1 rs2 => some (encR 0x3B 5 0x0 rd rs1 rs2)
  | .subw rd rs1 rs2 => some (encR 0x3B 0 0x20 rd rs1 rs2)
  | .sraw rd rs1 rs2 => some (encR 0x3B 5 0x20 rd rs1 rs2)
  | .mulw rd rs1 rs2 => some (encR 0x3B 0 0x1 rd rs1 rs2)
  | .divw rd rs1 rs2 => some (encR 0x3B 4 0x1 rd rs1 rs2)
  | .divuw rd rs1 rs2 => some (encR 0x3B 5 0x1 rd rs1 rs2)
  | .remw rd rs1 rs2 => some (encR 0x3B 6 0x1 rd rs1 rs2)
  | .remuw rd rs1 rs2 => some (encR 0x3B 7 0x1 rd rs1 rs2)
  | _ => none

/-! ### Vector slots (R95) -/

/-- The form of an opcode (R95, R97). -/
def consV (op : Nat) : Option (VOps → Instr) :=
  match op with
  | 0x1 => some .vadd
  | 0x2 => some .vsub
  | 0x3 => some .vmul
  | 0x4 => some .vfma
  | 0x5 => some .vfms
  | 0x6 => some .vfnma
  | 0x7 => some .vmax
  | 0x8 => some .vmin
  | 0x9 => some .vabs
  | 0xa => some .vneg
  | 0xb => some .vaddsat
  | 0xc => some .vsubsat
  | 0xd => some .vmulhi
  | 0x10 => some .vand
  | 0x11 => some .vor
  | 0x12 => some .vxor
  | 0x13 => some .vnot
  | 0x14 => some .vshl
  | 0x15 => some .vshr
  | 0x16 => some .vsra
  | 0x18 => some .vcmp
  | 0x19 => some .vsel
  | 0x1a => some .mand
  | 0x1b => some .mor
  | 0x1c => some .mxor
  | 0x1d => some .mnot
  | 0x1e => some .mpop
  | 0x1f => some .mfirst
  | 0x20 => some .vcvt
  | 0x21 => some .vnarrow
  | 0x22 => some .vwiden
  | 0x23 => some .vmxq
  | 0x24 => some .vmxd
  | 0x28 => some .vperm
  | 0x29 => some .vrot
  | 0x2a => some .vbcast
  | 0x2b => some .vslide
  | 0x2c => some .vzip
  | 0x2d => some .vunzip
  | 0x2e => some .viota
  | 0x30 => some .vredsum
  | 0x31 => some .vredmax
  | 0x32 => some .vredmin
  | 0x33 => some .vscan
  | 0x34 => some .vscanmax
  | 0x38 => some .vfill
  | 0x39 => some .vext
  | 0x3a => some .vins
  | 0x3b => some .vmov
  | 0x40 => some .vexp2
  | 0x41 => some .vlog2
  | 0x42 => some .vrcp
  | 0x43 => some .vrsqrt
  | 0x44 => some .vclass
  | 0x45 => some .vrank
  | 0x46 => some .vrecon
  | 0x47 => some .vrtab
  | _ => none

/-- The opcode and the fields of a form; none for another constructor. -/
def opcodeV : Instr → Option (BitVec 8 × VOps)
  | .vadd o => some (0x1, o)
  | .vsub o => some (0x2, o)
  | .vmul o => some (0x3, o)
  | .vfma o => some (0x4, o)
  | .vfms o => some (0x5, o)
  | .vfnma o => some (0x6, o)
  | .vmax o => some (0x7, o)
  | .vmin o => some (0x8, o)
  | .vabs o => some (0x9, o)
  | .vneg o => some (0xa, o)
  | .vaddsat o => some (0xb, o)
  | .vsubsat o => some (0xc, o)
  | .vmulhi o => some (0xd, o)
  | .vand o => some (0x10, o)
  | .vor o => some (0x11, o)
  | .vxor o => some (0x12, o)
  | .vnot o => some (0x13, o)
  | .vshl o => some (0x14, o)
  | .vshr o => some (0x15, o)
  | .vsra o => some (0x16, o)
  | .vcmp o => some (0x18, o)
  | .vsel o => some (0x19, o)
  | .mand o => some (0x1a, o)
  | .mor o => some (0x1b, o)
  | .mxor o => some (0x1c, o)
  | .mnot o => some (0x1d, o)
  | .mpop o => some (0x1e, o)
  | .mfirst o => some (0x1f, o)
  | .vcvt o => some (0x20, o)
  | .vnarrow o => some (0x21, o)
  | .vwiden o => some (0x22, o)
  | .vmxq o => some (0x23, o)
  | .vmxd o => some (0x24, o)
  | .vperm o => some (0x28, o)
  | .vrot o => some (0x29, o)
  | .vbcast o => some (0x2a, o)
  | .vslide o => some (0x2b, o)
  | .vzip o => some (0x2c, o)
  | .vunzip o => some (0x2d, o)
  | .viota o => some (0x2e, o)
  | .vredsum o => some (0x30, o)
  | .vredmax o => some (0x31, o)
  | .vredmin o => some (0x32, o)
  | .vscan o => some (0x33, o)
  | .vscanmax o => some (0x34, o)
  | .vfill o => some (0x38, o)
  | .vext o => some (0x39, o)
  | .vins o => some (0x3a, o)
  | .vmov o => some (0x3b, o)
  | .vexp2 o => some (0x40, o)
  | .vlog2 o => some (0x41, o)
  | .vrcp o => some (0x42, o)
  | .vrsqrt o => some (0x43, o)
  | .vclass o => some (0x44, o)
  | .vrank o => some (0x45, o)
  | .vrecon o => some (0x46, o)
  | .vrtab o => some (0x47, o)
  | _ => none

/-- The vector layout (R95). -/
def fieldsV (v1 : Bool) (f : Fmt) (w : BitVec 48) : VOps :=
  ⟨v1, f, decodeSrc (bits w 30 6), decodeSrc (bits w 24 6), decodeSrc (bits w 18 6), bits w 13 5, w.getLsbD 12,
    bits w 9 3, bits w 6 3, bits w 0 6⟩

/-- The word of the vector layout (R95). -/
def packV (op : BitVec 8) (o : VOps) : BitVec 48 :=
  op ++ o.fmt.code ++ encodeSrc o.a ++ encodeSrc o.b ++ encodeSrc o.c ++ o.d ++ bit1 o.nw ++ o.mask ++ o.md ++ o.fn

/-- A form if its fields are legal (R93). -/
def checked (i : Instr) : SlotOp := if i.wf then .form i else .illegal

/-- The decoder of a vector slot (R95). -/
def decodeV (v1 : Bool) (w : BitVec 48) : SlotOp :=
  if w = 0 then .idle
  else
    match consV (bits w 40 8 : BitVec 8).toNat, decodeFmt (bits w 36 4) with
    | some k, some f => checked (k (fieldsV v1 f w))
    | _, _ => .illegal

/-! ### Matrix slot (R96, R97) -/

/-- The form of an opcode (R95, R97). -/
def consM (op : Nat) : Option (MOps → Instr) :=
  match op with
  | 0x1 => some .mcfg
  | 0x2 => some .mwld
  | 0x3 => some .mwbank
  | 0x4 => some .msc
  | 0x8 => some .mma
  | 0x9 => some .mmaR
  | 0xa => some .mmaT
  | 0xb => some .mmr
  | 0xc => some .mxt
  | 0xd => some .mdr
  | 0xe => some .mrel
  | 0x10 => some .matt
  | _ => none

/-- The opcode and the fields of a form; none for another constructor. -/
def opcodeM : Instr → Option (BitVec 8 × MOps)
  | .mcfg o => some (0x1, o)
  | .mwld o => some (0x2, o)
  | .mwbank o => some (0x3, o)
  | .msc o => some (0x4, o)
  | .mma o => some (0x8, o)
  | .mmaR o => some (0x9, o)
  | .mmaT o => some (0xa, o)
  | .mmr o => some (0xb, o)
  | .mxt o => some (0xc, o)
  | .mdr o => some (0xd, o)
  | .mrel o => some (0xe, o)
  | .matt o => some (0x10, o)
  | _ => none

/-- The matrix layout (R96). -/
def fieldsM (f : Fmt) (w : BitVec 48) : MOps :=
  ⟨f, decodeSrc (bits w 30 6), decodeSrc (bits w 24 6), decodeSrc (bits w 18 6), bits w 13 5, bits w 9 4, bits w 0 9⟩

/-- The word of the matrix layout (R96). -/
def packM (op : BitVec 8) (o : MOps) : BitVec 48 :=
  op ++ o.fmt.code ++ encodeSrc o.a ++ encodeSrc o.b ++ encodeSrc o.c ++ o.acc ++ o.fl ++ o.imm

/-- The decoder of the matrix slot (R96). -/
def decodeM (w : BitVec 48) : SlotOp :=
  if w = 0 then .idle
  else
    match consM (bits w 40 8 : BitVec 8).toNat, decodeFmt (bits w 36 4) with
    | some k, some f => checked (k (fieldsM f w))
    | _, _ => .illegal

/-! ### Load slot (R96, R97) -/

/-- The form of an opcode (R95, R97). -/
def consL (op : Nat) : Option (LdOps → Instr) :=
  match op with
  | 0x1 => some .vld
  | 0x2 => some .vldb
  | 0x3 => some .vlds
  | 0x4 => some .vldm
  | 0x5 => some .vldh
  | 0x6 => some .ldtag
  | _ => none

/-- The opcode and the fields of a form; none for another constructor. -/
def opcodeL : Instr → Option (BitVec 5 × LdOps)
  | .vld o => some (0x1, o)
  | .vldb o => some (0x2, o)
  | .vlds o => some (0x3, o)
  | .vldm o => some (0x4, o)
  | .vldh o => some (0x5, o)
  | .ldtag o => some (0x6, o)
  | _ => none

/-- The load layout (R96). -/
def fieldsL (w : BitVec 40) : LdOps :=
  ⟨decodeSrc (bits w 29 6), decodeSrc (bits w 23 6), bits w 18 5, w.getLsbD 17, bits w 14 3, w.getLsbD 13, bits w 11 2, bits w 0 11⟩

/-- The word of the load layout (R96). -/
def packL (op : BitVec 5) (o : LdOps) : BitVec 40 :=
  op ++ encodeSrc o.a ++ encodeSrc o.b ++ o.d ++ bit1 o.nw ++ o.mask ++ bit1 o.k ++ o.part ++ o.off

/-- The decoder of the load slot (R96). -/
def decodeL (w : BitVec 40) : SlotOp :=
  if w = 0 then .idle
  else
    match consL (bits w 35 5 : BitVec 5).toNat with
    | some k => checked (k (fieldsL w))
    | none => .illegal

/-! ### Store slot (R96, R97) -/

/-- The form of an opcode (R95, R97). -/
def consT (op : Nat) : Option (StOps → Instr) :=
  match op with
  | 0x1 => some .vst
  | 0x2 => some .vstm
  | 0x3 => some .vsts
  | 0x4 => some .vsth
  | 0x5 => some .tzero
  | 0x6 => some .amo
  | 0x7 => some .amoCas
  | _ => none

/-- The opcode and the fields of a form; none for another constructor. -/
def opcodeT : Instr → Option (BitVec 5 × StOps)
  | .vst o => some (0x1, o)
  | .vstm o => some (0x2, o)
  | .vsts o => some (0x3, o)
  | .vsth o => some (0x4, o)
  | .tzero o => some (0x5, o)
  | .amo o => some (0x6, o)
  | .amoCas o => some (0x7, o)
  | _ => none

/-- The store layout (R96). -/
def fieldsT (w : BitVec 40) : StOps :=
  ⟨decodeSrc (bits w 29 6), decodeSrc (bits w 23 6), decodeSrc (bits w 17 6), bits w 12 5, bits w 9 3, w.getLsbD 8,
    w.getLsbD 7, w.getLsbD 6, bits w 3 3⟩

/-- The word of the store layout, reserved bits [2:0] zero (R96). -/
def packT (op : BitVec 5) (o : StOps) : BitVec 40 :=
  op ++ encodeSrc o.a ++ encodeSrc o.b ++ encodeSrc o.c ++ o.d ++ o.mask ++ bit1 o.k ++ bit1 o.nb ++ bit1 o.fp ++ o.fn ++ 0#3

/-- The decoder of the store slot (R96). -/
def decodeT (w : BitVec 40) : SlotOp :=
  if w = 0 then .idle
  else
    match consT (bits w 35 5 : BitVec 5).toNat with
    | some k => if (bits w 0 3 : BitVec 3) = 0 then checked (k (fieldsT w)) else .illegal
    | none => .illegal

/-! ### Copy slot (R96, R97) -/

/-- The form of an opcode (R95, R97). -/
def consC (op : Nat) : Option (COps → Instr) :=
  match op with
  | 0x1 => some .cp
  | 0x2 => some .cpRed
  | 0x3 => some .rwr
  | 0x4 => some .rrd
  | 0x5 => some .ramo
  | 0x6 => some .xlat
  | 0x7 => some .gld
  | 0x8 => some .gst
  | 0x9 => some .gatom
  | 0xa => some .mcast
  | 0xb => some .lnkRun
  | 0xc => some .lnkSel
  | _ => none

/-- The opcode and the fields of a form; none for another constructor. -/
def opcodeC : Instr → Option (BitVec 5 × COps)
  | .cp o => some (0x1, o)
  | .cpRed o => some (0x2, o)
  | .rwr o => some (0x3, o)
  | .rrd o => some (0x4, o)
  | .ramo o => some (0x5, o)
  | .xlat o => some (0x6, o)
  | .gld o => some (0x7, o)
  | .gst o => some (0x8, o)
  | .gatom o => some (0x9, o)
  | .mcast o => some (0xa, o)
  | .lnkRun o => some (0xb, o)
  | .lnkSel o => some (0xc, o)
  | _ => none

/-- The copy layout (R96). -/
def fieldsC (f : Fmt) (w : BitVec 48) : COps :=
  ⟨decodeSrc (bits w 37 6), decodeSrc (bits w 31 6), decodeSrc (bits w 25 6), bits w 20 5, w.getLsbD 19, f, bits w 11 4,
    w.getLsbD 10, bits w 0 10⟩

/-- The word of the copy layout (R96). -/
def packC (op : BitVec 5) (o : COps) : BitVec 48 :=
  op ++ encodeSrc o.a ++ encodeSrc o.b ++ encodeSrc o.c ++ o.d ++ bit1 o.nw ++ o.fmt.code ++ o.fn ++ bit1 o.inplace ++ o.imm

/-- The decoder of the copy slot (R96). -/
def decodeC (w : BitVec 48) : SlotOp :=
  if w = 0 then .idle
  else
    match consC (bits w 43 5 : BitVec 5).toNat, decodeFmt (bits w 15 4) with
    | some k, some f => checked (k (fieldsC f w))
    | _, _ => .illegal

/-! ### Sync slot (R96, R97) -/

/-- The word of the sync layout (R96). -/
def packY (op : BitVec 6) (a b : BitVec 6) (d : BitVec 5) (nw : Bool) (imm : BitVec 8) : BitVec 32 :=
  op ++ a ++ b ++ d ++ bit1 nw ++ imm

/-- The word of a sync form (R89, R108, R262, R270). -/
def encodeY : Instr → Option (BitVec 32)
  | .nopY => some (packY 0x0 0 0 0 false 0)
  | .loop a len => some (packY 0x1 (encodeSrc a) 0 0 false len)
  | .loopx a b => some (packY 0x2 (encodeSrc a) (encodeSrc b) 0 false 0)
  | .lbrk a => some (packY 0x3 (encodeSrc a) 0 0 false 0)
  | .lbrkU => some (packY 0x3 0 0 0 false 1)
  | .bankAcq a => some (packY 0x8 (encodeSrc a) 0 0 false 0)
  | .bankRel a => some (packY 0x9 (encodeSrc a) 0 0 false 0)
  | .bar comm level => some (packY 0xa 0 0 0 false (0#5 ++ bit1 comm ++ level))
  | .guard a => some (packY 0xb (encodeSrc a) 0 0 false 0)
  | .fence kind scope => some (packY 0xc 0 0 0 false (0#3 ++ kind ++ scope))
  | .bankTst a d nw => some (packY 0xd (encodeSrc a) 0 d nw 0)
  | .haulBoard b d nw => some (packY 0x10 0 (encodeSrc b) d nw 0)
  | .haulAlight a b sv => some (packY 0x11 (encodeSrc a) (encodeSrc b) 0 false (0#7 ++ bit1 sv))
  | .haulLd a d nw => some (packY 0x12 (encodeSrc a) 0 d nw 0)
  | .haulSt a b all lane => some (packY 0x13 (encodeSrc a) (encodeSrc b) 0 false (bit1 all ++ 0#3 ++ lane))
  | .haulOp a b d nw fp op lane => some (packY 0x14 (encodeSrc a) (encodeSrc b) d nw (bit1 fp ++ op ++ lane))
  | .haulXchg a b d nw lane => some (packY 0x15 (encodeSrc a) (encodeSrc b) d nw (0#4 ++ lane))
  | .haulCas a b d nw lane => some (packY 0x16 (encodeSrc a) (encodeSrc b) d nw (0#4 ++ lane))
  | .haulLse a b d nw lane => some (packY 0x17 (encodeSrc a) (encodeSrc b) d nw (0#4 ++ lane))
  | .haulBar a b v => some (packY 0x18 (encodeSrc a) (encodeSrc b) 0 false (0#7 ++ bit1 v))
  | .haulPass a d nw => some (packY 0x19 (encodeSrc a) 0 d nw 0)
  | .codeLock a d nw => some (packY 0x20 (encodeSrc a) 0 d nw 0)
  | .codeLockW a d nw => some (packY 0x20 (encodeSrc a) 0 d nw 1)
  | .codeUnlock a => some (packY 0x21 (encodeSrc a) 0 0 false 0)
  | .sysrd d nw k => some (packY 0x28 0 0 d nw k)
  | .syswr a k => some (packY 0x29 (encodeSrc a) 0 0 false k)
  | .trap a => some (packY 0x30 (encodeSrc a) 0 0 false 0)
  | .ebrk => some (packY 0x31 0 0 0 false 0)
  | .endCtx => some (packY 0x3f 0 0 0 false 0)
  | _ => none

/-- The sync decoder (R96, R97): the form whose layout the word fits, with its fixed fields zero. -/
def formY (w : BitVec 32) : Option Instr :=
  let fa : BitVec 6 := bits w 20 6
  let fb : BitVec 6 := bits w 14 6
  let a := decodeSrc fa
  let b := decodeSrc fb
  let d : BitVec 5 := bits w 9 5
  let nw := w.getLsbD 8
  let imm : BitVec 8 := bits w 0 8
  let lane : BitVec 4 := bits w 0 4
  let noA := fa == 0
  let noB := fb == 0
  let noD := d == 0 && !nw
  let hi4 := (bits imm 4 4 : BitVec 4) == 0
  match (bits w 26 6 : BitVec 6).toNat with
  | 0x00 => if w = 0 then some .nopY else none
  | 0x01 => if noB && noD then some (.loop a imm) else none
  | 0x02 => if noD && imm == 0 then some (.loopx a b) else none
  | 0x03 =>
    if noB && noD then
      if imm == 0 then some (.lbrk a)
      else if imm == 1 && noA then some .lbrkU else none
    else none
  | 0x08 => if noB && noD && imm == 0 then some (.bankAcq a) else none
  | 0x09 => if noB && noD && imm == 0 then some (.bankRel a) else none
  | 0x0A => if noA && noB && noD && (bits imm 3 5 : BitVec 5) == 0 then some (.bar (imm.getLsbD 2) (bits imm 0 2)) else none
  | 0x0B => if noB && noD && imm == 0 then some (.guard a) else none
  | 0x0C => if noA && noB && noD && (bits imm 5 3 : BitVec 3) == 0 then some (.fence (bits imm 3 2) (bits imm 0 3)) else none
  | 0x0D => if noB && imm == 0 then some (.bankTst a d nw) else none
  | 0x10 => if noA && imm == 0 then some (.haulBoard b d nw) else none
  | 0x11 => if noD && (bits imm 1 7 : BitVec 7) == 0 then some (.haulAlight a b (imm.getLsbD 0)) else none
  | 0x12 => if noB && imm == 0 then some (.haulLd a d nw) else none
  | 0x13 => if noD && (bits imm 4 3 : BitVec 3) == 0 then some (.haulSt a b (imm.getLsbD 7) lane) else none
  | 0x14 => some (.haulOp a b d nw (imm.getLsbD 7) (bits imm 4 3) lane)
  | 0x15 => if hi4 then some (.haulXchg a b d nw lane) else none
  | 0x16 => if hi4 then some (.haulCas a b d nw lane) else none
  | 0x17 => if hi4 then some (.haulLse a b d nw lane) else none
  | 0x18 => if noD && (bits imm 1 7 : BitVec 7) == 0 then some (.haulBar a b (imm.getLsbD 0)) else none
  | 0x19 => if noB && imm == 0 then some (.haulPass a d nw) else none
  | 0x20 =>
    if noB then
      if imm == 0 then some (.codeLock a d nw)
      else if imm == 1 then some (.codeLockW a d nw) else none
    else none
  | 0x21 => if noB && noD && imm == 0 then some (.codeUnlock a) else none
  | 0x28 => if noA && noB then some (.sysrd d nw imm) else none
  | 0x29 => if noB && noD then some (.syswr a imm) else none
  | 0x30 => if noB && noD && imm == 0 then some (.trap a) else none
  | 0x31 => if noA && noB && noD && imm == 0 then some .ebrk else none
  | 0x3F => if noA && noB && noD && imm == 0 then some .endCtx else none
  | _ => none

/-- The decoder of the sync slot: a form with legal fields, or none (R93). -/
def decodeY (w : BitVec 32) : Option Instr :=
  match formY w with
  | some i => if i.wf then some i else none
  | none => none

/-! ### All slots -/

/-- The word of a slot form in its slot; none for an event. -/
def encode (i : Instr) : Option SlotWord :=
  match encodeS i, opcodeV i, opcodeM i, opcodeL i, opcodeT i, opcodeC i, encodeY i with
  | some w, _, _, _, _, _, _ => some (.s w)
  | _, some (op, o), _, _, _, _, _ => some (if o.v1 then .v1 (packV op o) else .v0 (packV op o))
  | _, _, some (op, o), _, _, _, _ => some (.m (packM op o))
  | _, _, _, some (op, o), _, _, _ => some (.ld (packL op o))
  | _, _, _, _, some (op, o), _, _ => some (.st (packT op o))
  | _, _, _, _, _, some (op, o), _ => some (.c (packC op o))
  | _, _, _, _, _, _, some w => some (.y w)
  | _, _, _, _, _, _, _ => none

/-- The decoder of each slot. -/
def decodeSlot : SlotWord → SlotOp
  | .s w => (decodeS w).elim .illegal .form
  | .v0 w => decodeV false w
  | .v1 w => decodeV true w
  | .m w => decodeM w
  | .ld w => decodeL w
  | .st w => decodeT w
  | .c w => decodeC w
  | .y w => (decodeY w).elim .illegal .form

/-- The slots of a bundle, parts 1 to 8 in the order of R92. -/
def bundleSlot (b : BundleWord) (part : Nat) : SlotWord :=
  match part with
  | 1 => .s (bits b 16 32)
  | 2 => .v0 (bits b 48 48)
  | 3 => .v1 (bits b 96 48)
  | 4 => .m (bits b 144 48)
  | 5 => .ld (bits b 192 40)
  | 6 => .st (bits b 232 40)
  | 7 => .c (bits b 272 48)
  | _ => .y (bits b 320 32)

/-- What part p of a bundle holds. -/
def bundleOp (b : BundleWord) (part : Nat) : SlotOp := decodeSlot (bundleSlot b part)

/-- The instruction of a table word: only rows of 32 bits have one word of their own. It is a scalar form if the word is one of the 62 encodings, else a sync form (log entry 4). -/
def decodeTableWord (nbits w : Nat) : Option Instr :=
  if nbits = 32 ∧ w < 2 ^ 32 then
    match decodeS (BitVec.ofNat 32 w) with
    | some i => some i
    | none => decodeY (BitVec.ofNat 32 w)
  else none

end Sys2Proof
end

