-- ==== Sys2Proof/Config.lean ====
section
/-!
DEFINITION. What an implementation fixes and the spec leaves open: free values (R9, R10) and undocumented times. Each is an opaque constant: no proof can see its value. The step applies it to State.freeCtr, a counter it advances at every use (log entry 2).
-/

namespace Sys2Proof.Config

/-- A value called undefined (R9), up to the width of a vector register: undefined latches (R50, R73) and other undefined results. -/
opaque freeValue : Nat → BitVec 4096

/-- The ticks a request takes to its home, beyond one (R240, R241, R257). -/
opaque homeDelay : Nat → Nat

/-- The ticks a reply or acknowledgement takes back (R240, R241, R257). -/
opaque replyDelay : Nat → Nat

/-- The ticks a translation walk takes (R64, R238). -/
opaque walkTime : Nat → Nat

/-- The ticks a refetch of a bundle-store slot takes (R86). -/
opaque refetchTime : Nat → Nat

/-- The ticks the steward takes for an action whose time the spec does not fix (R333, R334, R336, R337, R26). -/
opaque stewardDelay : Nat → Nat

/-- The one-way and remote read times between packages whose pair stands in no time table (R234, R302). -/
opaque undeclaredTime : Nat → Nat

/-- Which of the free physical accumulator slots is taken, by counter and item: its place in the free list, modulo the list's length (R195, R196). -/
opaque freeSlot : Nat → Nat → Nat

/-- A byte of HBM that no write has reached since the partition's key number g was installed (R358). -/
opaque scrambledByte : Nat → Nat → BitVec 8

/-- The keystream of an open packet under the partition's key, by IV and word (R310). -/
opaque openPad : Option (BitVec 256) → BitVec 96 → Nat → BitVec 1024

/-- The tag of an open packet under the partition's key, for its IV and sealed words (R310, R329). -/
opaque openTag : Option (BitVec 256) → BitVec 96 → List Nat → BitVec 64

/-- Does the security engine find that DIGEST agrees with the prefix digest of an image that goes on beyond its prefix (R26, R27)? -/
opaque prefixAgrees : BitVec 512 → BitVec 512 → Bool

/-- Depth in the time-base tree of a package with a parent port (R298): the pod's configuration fixes it. -/
opaque treeDepth : BitVec 4 → Nat

/-- The ticks a die takes to acknowledge a WCINV or BSINV write (R65, R90). -/
opaque ackDelay : Nat → Nat → Nat

/-- Does an SLH-DSA-SHAKE-256f signature of a policy record verify under a public key (R355, R360, R361)? -/
opaque verifies : BitVec 512 → BitVec 1024 → Nat → Bool

/-- A nonce of the security engine (R355, R361). -/
opaque nonceOf : Nat → BitVec 256

/-- What the security engine answers to a request that the spec leaves to SPDM: request code, the state it depends on, a counter (R355). -/
opaque spdmAnswer : Nat → List (BitVec 512) → Nat → List (BitVec 512)

/-- Does the security engine accept an SPDM key share or message authentication code (R355)? -/
opaque spdmAccepts : Nat → List (BitVec 8) → Nat → Bool

/-- A measurement digest of firmware: block number and die (R356). -/
opaque firmwareDigest : Nat → Nat → BitVec 512

/-- The keystream of a scheduled flit under the fabric key, by IV (R310): AES-256-GCM adds it to the payload. -/
opaque flitPad : Option (BitVec 256) → BitVec 96 → BitVec 1024

/-- The tag of a scheduled flit under the fabric key, for its IV and encrypted payload (R310). -/
opaque flitTag : Option (BitVec 256) → BitVec 96 → BitVec 1024 → BitVec 64

end Sys2Proof.Config
end

