-- ==== Sys2Proof/Machine/State.lean ====
section
/-!
DEFINITION. The state of one MWC9-A package as plain data, and the state after package reset. Each field's comment names the rule and file of spec/ that gives it, its width, and its reset value. A field marked MODEL is the model's own bookkeeping and no state the spec names.
-/

namespace Sys2Proof.Machine

/-- A package core number, 0 to 323 (R46). -/
abbrev CoreId := Fin 324

/-- A context number of a core, 0 to 3 (R1, R80). -/
abbrev CtxId := Fin 4

/-- Memory as address and byte pairs, strictly rising addresses, no byte 0 (an unlisted byte reads as 0, log entry 1). -/
abbrev Memory := List Host.Cell

/-- The canonical form of a memory. -/
abbrev Memory.wf (m : Memory) : Prop :=
  m.Pairwise (fun p q => p.1 < q.1) ∧ ∀ p ∈ m, p.2 ≠ 0

/-! ## Stops -/

/-- Why a step stops. -/
inductive Fault where
  /-- an event row executed although the event it names is not pending; step never raises it. Safe -/
  | notDue (event : String)
  deriving DecidableEq, Repr

/-- Why a meaning is refused. -/
inductive Refusal where
  /-- the instruction has no meaning in this model yet. Safe -/
  | notModelled (mnemonic : String)
  deriving DecidableEq, Repr

/-! ## Contexts -/

/-- The two classes of program-reachable addresses (R54, R64). -/
inductive AddrClass where
  | timed | untimed
  deriving DecidableEq, Repr

/-- A translation handle (R64). -/
structure Handle where
  /-- first virtual address of the span (R63) -/
  va : Nat
  /-- bytes of the span (R60, R61) -/
  size : Nat
  /-- pod address of a page or run (R60, R61) -/
  pa : Nat
  /-- the leaf of a tile region (R62), none for a page -/
  tile : Option (BitVec 128)
  rd : Bool
  wr : Bool
  cls : AddrClass
  deriving DecidableEq, Repr

/-- An entry of the loop stack (R107). -/
structure LoopEntry where
  start : BitVec 12
  stop : BitVec 12
  count : BitVec 32
  idx : BitVec 32
  deriving DecidableEq, Repr

/-- A write to one 64-byte chunk of a scratchpad: local address, data, and which nibbles it names (R167, R185). -/
structure ChunkW where
  addr : Nat
  data : BitVec 512
  mask : BitVec 128
  /-- poison marks of the eight 64-bit words it carries (R329) -/
  poison : BitVec 8
  deriving DecidableEq, Repr

/-- An update of a haul skip (R283), or the free step of haul.alight (R286), or a haul.bar arrival (R287). -/
inductive HaulKind where
  | st (all : Bool)
  | op (code : Nat) (fp : Bool)
  | xchg
  | cas
  | lse
  | free
  | barArrive (i n : Nat) (v : Bool)
  /-- haul.bar's wait after its arrival -/
  | barCheck (n : Nat) (v : Bool)
  | ld
  | pass
  | capture (dst : Nat)
  | board
  /-- a skip to be freed at the next passage (R285, R289) -/
  | unclaim
  /-- a trap that falls due at a tick, two after the passage of a form that may not act (R284) -/
  | fail
  deriving DecidableEq, Repr

/-- A haul action waiting for its passage or application (R282, R288). -/
structure HaulOp where
  ctx : CtxId
  lk : Nat
  /-- issue cycle of the form (R319) -/
  issued : Nat
  bundle : BitVec 12
  kind : HaulKind
  /-- the skip operand (R284, R288) -/
  skip : Nat
  ring : Bool
  lane : Nat
  b : BitVec 512
  d : BitVec 5
  nw : Bool
  /-- ticks up to and including this one are too early for the trigger passage (R282); of a fallback haul.bar, the cycle of the next check (R288) -/
  after : Nat
  deriving DecidableEq, Repr

/-- The five engine commands (R230). -/
inductive EngKind where
  | cp | cpRed | rwr | rrd | mcast
  deriving DecidableEq, Repr

/-- A command of the copy engine (R229, R230). -/
structure EngCmd where
  ctx : CtxId
  lk : Nat
  issued : Nat
  bundle : BitVec 12
  kind : EngKind
  /-- local source, stream source, or VA of rrd -/
  src : Nat
  /-- local source of cp.red, or member table of mcast -/
  src2 : Nat
  /-- local destination, VA of rwr, or member address -/
  dst : Nat
  hnd : Option Handle
  shape : Word
  k : Bool
  fmt : Fmt
  op : Nat
  inplace : Bool
  /-- release cycle of an in-place cp.red (R233) -/
  rel : Nat
  /-- first engine slot s (R230); for a waiting in-place form, the first cycle it may enter -/
  slot : Nat
  /-- pieces P -/
  pieces : Nat
  /-- the next piece -/
  next : Nat
  /-- mcast: chunks, members in table order as (word, package, core), status due cycle and register (R248) -/
  n : Nat
  members : List (Nat × Nat × Nat)
  due : Nat
  d : BitVec 5
  nw : Bool
  /-- mcast: failed members so far, members whose outcome is not known, and whether the table has been read (R248) -/
  failed : BitVec 16
  open_ : BitVec 16
  tabled : Bool
  /-- what it writes is undefined: its bank was released before it (R10, R178) -/
  undef : Bool
  deriving DecidableEq, Repr

/-- What a withheld operation does at its release (R174, R175). -/
inductive WKind where
  | store (wr : List ChunkW) (tag : Option (Nat × BitVec 16))
  | tzero (tile : Nat) (tag : BitVec 16)
  | amo (ea : Nat) (op : Nat) (fp cas : Bool) (b c : BitVec 32) (d : BitVec 5)
  | ramo (pa : Nat) (va : Nat) (op : Nat) (fp : Bool) (b : BitVec 32)
  /-- entry number of the landing buffer (R239) -/
  | gatom (entry : Nat)
  | cpRed (cmd : EngCmd)
  | haul (u : HaulOp)
  /-- haul.alight: the destination and the captured payload when SV = 1 (R286) -/
  | alight (u : HaulOp) (dst : Option Nat) (cap : Option (BitVec 512))
  deriving DecidableEq, Repr

/-- One entry of a withhold buffer (R174). -/
structure WEntry where
  issued : Nat
  part : Nat
  bundle : BitVec 12
  kind : WKind
  /-- release cycle, once the CK bundle that ends its interval has issued (R175) -/
  rel : Option Nat
  deriving DecidableEq, Repr

/-- Why a context waits (R80). -/
inductive Wait where
  /-- bank.acq: its mask, issue cycle and bundle (R276) -/
  | bankAcq (mask : BitVec 48) (issued : Nat) (bundle : BitVec 12)
  | bar (level : Nat) (inst : Nat)
  | haul
  /-- code.lock.w: the windows asked for, the destination, the issue cycle (R89) -/
  | lock (req : BitVec 16) (d : BitVec 5) (nw : Bool) (issued : Nat)
  | yield
  /-- a completed barrier waits until other packages hold its announcement: scope and completion tick (R267) -/
  | heard (scope : Nat) (tick : Nat)
  | none
  deriving DecidableEq, Repr

/-- The states of a context (R80); `ended` is a context that has executed end (R292, R339). -/
inductive CtxSt where
  | free | ready | running | waiting | trapped | saved | ended
  deriving DecidableEq, Repr

/-- Where a result goes (R74, R144, R290). -/
inductive Dest where
  | x (d : BitVec 5)
  | v (d : BitVec 5)
  | m (d : BitVec 3)
  | th (d : BitVec 3) (h : Handle)
  | rtab (t : Nat)
  | fpflags
  | srseed
  | none
  deriving DecidableEq, Repr

/-- The checkpoint copy of a context (R316). -/
structure Ckpt where
  /-- cycle of the CK bundle's issue, the start cycle before the first (R319, R50) -/
  issued : Nat
  /-- TBNOW at the CK bundle's issue (R313) -/
  tick : Nat
  pc : BitVec 12
  pending : Option (BitVec 12)
  loops : List LoopEntry
  x : Vector Word 32
  v : Vector VReg 32
  m : Vector MaskReg 8
  th : Vector (Option Handle) 8
  debt : BitVec 32
  fpflags : Flags
  lfsr : Lfsrs
  rtab : Vector (BitVec 2048) 4
  barcnt : Vector (BitVec 32) 4
  /-- registers that a result had yet to reach at the CK bundle (R78) MODEL -/
  open_ : List Dest
  deriving DecidableEq, Repr

/-- A trap raised but not yet taken (R319), and the fields of its record (R323). -/
structure Trap where
  ctx : CtxId
  lk : Nat
  cause : Nat
  /-- part or slot 0 to 9 (R92, R323) -/
  part : Nat
  /-- engine 0 to 7 (R323) -/
  eng : Nat
  addr : Word
  bundle : BitVec 12
  /-- origin cycle (R319) -/
  origin : Nat
  pslot : BitVec 8
  frow : BitVec 16
  /-- a pod episode, which the origin test does not concern (R338) -/
  pod : Bool
  deriving DecidableEq, Repr

/-- One context of a core. -/
structure Ctx where
  /-- context state (R80, 04_bundle.md); 7 values; reset free -/
  st : CtxSt
  /-- launch the context is bound to (R47, 03_placement.md), by the model's launch key; reset none -/
  lk : Option Nat
  /-- program counter, launch index (R83, 04_bundle.md); 12 bits; reset DESIGN CHOICE 0 (log entry 3) -/
  pc : BitVec 12
  /-- pending redirect (R77, R109, 05_scalar_slot.md); 12 bits when present; reset none -/
  pending : Option (BitVec 12)
  /-- loop stack, innermost first (R107, 05_scalar_slot.md); six entries of 12 + 12 + 32 + 32 bits; reset empty -/
  loops : List LoopEntry
  /-- scalar registers x0 to x31 (R50, R98, 05_scalar_slot.md); 64 bits each; reset DESIGN CHOICE 0 (log entry 3) -/
  x : Vector Word 32
  /-- vector registers v0 to v31 (R114, R141, 07_vector_slots.md); 128 lanes of 32 bits each; reset DESIGN CHOICE 0 (log entry 3) -/
  v : Vector VReg 32
  /-- mask registers m0 to m7 (R69, R143, 07_vector_slots.md); 128 bits each; m0 all ones; reset DESIGN CHOICE as at a start cycle (log entry 3) -/
  m : Vector MaskReg 8
  /-- translation handles th0 to th7 (R64, 03_placement.md); reset invalid -/
  th : Vector (Option Handle) 8
  /-- DEBT (R245, 11_copy_slot.md); 32 bits; reset 0 -/
  debt : BitVec 32
  /-- FPFLAGS [8:0] (R129, 06_number_formats.md); 9 bits; reset 0 -/
  fpflags : Flags
  /-- the 128 stochastic-rounding states (R125, 06_number_formats.md); 16 bits each; reset DESIGN CHOICE as at a start cycle (log entry 3) -/
  lfsr : Lfsrs
  /-- reconstruction tables 0 to 3 (R219, 10_rank_coded.md); 128 entries of 16 bits each; reset DESIGN CHOICE 0 (log entry 3) -/
  rtab : Vector (BitVec 2048) 4
  /-- BARCNT1 to BARCNT4 (R271, 13_sync_slot.md); 32 bits each; reset 0 -/
  barcnt : Vector (BitVec 32) 4
  /-- MEMBER1 to MEMBER4 (R52, 03_placement.md); 64 bits each; reset 0 -/
  member : Vector Word 4
  /-- causal vector CV (R258, 12_memory_model.md); nine entries of 16 bits; reset DESIGN CHOICE 0 (log entry 3) -/
  cv : Vector (BitVec 16) 9
  /-- synchronisation interval number SIN (R267, 12_memory_model.md); 16 bits; reset DESIGN CHOICE 0 (log entry 3) -/
  sin : BitVec 16
  /-- ATICK for scope levels 2 to 4 (R267, 12_memory_model.md); a tick each; reset DESIGN CHOICE 0 (log entry 3) -/
  atick : Vector Nat 3
  /-- RSIN for scope levels 2 to 4 (R267, 12_memory_model.md); 16 bits each; reset DESIGN CHOICE 0 (log entry 3) -/
  rsin : Vector (BitVec 16) 3
  /-- RTICK for scope levels 2 to 4 (R267, 12_memory_model.md); a tick each; reset DESIGN CHOICE 0 (log entry 3) -/
  rtick : Vector Nat 3
  /-- homes that hold untimed writes since the last release event, per scope level 2 to 4 (R267, 12_memory_model.md); nine bits each; reset 0 -/
  sentTo : Vector (BitVec 9) 3
  /-- homes of other packages that hold untimed writes since the last release event, as package and die, per scope level 2 to 4 (R267, 12_memory_model.md); reset empty -/
  sentPkg : Vector (List (Nat × Nat)) 3
  /-- announcements of release events that another package has yet to hold: package and SIN of the event (R267, 12_memory_model.md); reset empty -/
  unheard : List (Nat × BitVec 16)
  /-- withhold buffer, oldest first (R174, 08_scratchpad.md); up to 128 entries; reset empty -/
  wh : List WEntry
  /-- checkpoint copy (R316, 15_interruption.md); reset DESIGN CHOICE the copy of the registers as they are after reset (log entry 3); the start cycle of a launch writes it anew -/
  ck : Ckpt
  /-- issue cycle of the last CK bundle (R73, 04_bundle.md) MODEL; reset none -/
  lastCk : Option Nat
  /-- the wait the context is in (R80, 04_bundle.md) -/
  wait : Wait
  /-- tick at which a completed wait makes the context Ready (R273, R287, 13_sync_slot.md) MODEL; reset none -/
  wakeTick : Option Nat
  /-- cycle at which a completed wait makes the context Ready (R89, R276) MODEL; reset none -/
  wakeCyc : Option Nat
  /-- cycle of its core on which the context last became Ready (R81) MODEL; reset 0 -/
  since : Nat
  /-- the trap that a Trapped context took and, once its rollback has completed, true (R320, R326, 15_interruption.md); reset none -/
  rb : Option (Trap × Bool)
  /-- cycle at which the rollback began (R320) MODEL; reset 0 -/
  rbAt : Nat
  /-- FPFLAGS bits of matrix rows issued before the checkpoint that landed after it (R131, 06_number_formats.md); 9 bits; reset 0 -/
  lateFl : Flags
  deriving DecidableEq, Repr

/-! ## Launches on a core -/

/-- Bank states of a launch (R275), and `foreign` for a bank outside BANKS. -/
inductive BankSt where
  | owned | awaited | released | lost | foreign
  deriving DecidableEq, Repr

/-- A station's view of one barrier level of a launch (R273). -/
structure BarView where
  /-- the station's own bit -/
  own : Bool
  /-- last-seen bits of the member cores, by package core number -/
  seen : List (Nat × Bool)
  /-- since its own last inversion the station has seen every member's bit equal to its own (R273) -/
  met : Bool
  /-- instances completed at the station (R272) -/
  done : Nat
  /-- tick and level of the core's arrival, while its bit is still to be inverted -/
  arrived : Option (Nat × Nat)
  /-- level of the instance of the last inversion (R273, R274) -/
  lvl : Nat
  deriving DecidableEq, Repr

/-- One launch on one core. -/
structure LaunchCore where
  /-- the launch, by the model's launch key MODEL -/
  lk : Nat
  /-- CTXLO (R18, 01_vaxel_image.md); 2 bits -/
  ctxlo : Nat
  /-- CTX (R18, 01_vaxel_image.md); 1 to 4 -/
  nctx : Nat
  /-- VREGS (R18, R19, 01_vaxel_image.md); 0 to 32 -/
  vregs : Nat
  /-- ACCS (R18, R19, R195, 09_matrix_unit.md); 0 to 24 -/
  accs : Nat
  /-- BANKS (R18, 01_vaxel_image.md); 48 bits -/
  banks : BitVec 48
  /-- INHERIT (R18, 01_vaxel_image.md); 48 bits -/
  inherit : BitVec 48
  /-- RELEASE (R18, 01_vaxel_image.md); 48 bits -/
  release : BitVec 48
  /-- bank states (R275, 13_sync_slot.md); 48 entries -/
  bst : Vector BankSt 48
  /-- banks that become Owned at a cycle: (bank, cycle) (R276) MODEL -/
  own : List (Nat × Nat)
  /-- banks that become Released at a cycle: (bank, cycle) (R276) MODEL -/
  rel : List (Nat × Nat)
  /-- schedule cycle SCYC (R85, 04_bundle.md) -/
  scyc : Nat
  /-- FRZCNT and PAIDCNT of the core at binding (R245, R40) -/
  frz0 : BitVec 32
  paid0 : BitVec 32
  /-- window map: physical window of each launch window (R84, 04_bundle.md); 16 entries of 4 bits -/
  wmap : Vector (BitVec 4) 16
  /-- locked launch windows (R88, R89, 04_bundle.md); 16 bits -/
  locks : BitVec 16
  /-- positions in the fetch of the launch's chunks: index of the next chunk of this core and 64-byte words of it already written (R15, R86) -/
  fchunk : Nat
  fpos : Nat
  /-- accumulator rows of the checkpoint version: key 64 × name + row (R195, R196, 09_matrix_unit.md); 4,096 bits each -/
  accBase : List (Nat × VReg)
  /-- accumulator rows written in the current interval (R196) -/
  accOver : List (Nat × VReg)
  /-- names released by mrel in the current interval, which read zero (R213) -/
  accClr : BitVec 24
  /-- the context that holds each name (R197) -/
  holder : Vector (Option CtxId) 24
  /-- the context that last wrote each name (R199) -/
  lastW : Vector (Option CtxId) 24
  /-- physical slots reserved for the launch on the core (R195); none before binding -/
  slots : List Nat
  /-- physical slots of the checkpoint's and of the current version of names (R196); none before a write -/
  slotCk : List (Nat × Nat)
  slotCur : List (Nat × Nat)
  /-- rows written on cycle wasAt, with what a read on that cycle sees: content and error (R196) MODEL -/
  was : List (Nat × VReg × List Nat)
  wasAt : Nat
  /-- since the last YP bundle of the launch on the core the face, and each attenuation table, has not been reloaded (R190, R222); reset no -/
  stale : Bool
  tblStale : BitVec 4
  /-- words of the checkpoint versions that hold an uncorrectable error, by 129 × row key + column, and poisoned rows, by 129 × row key + 128 (R200, R328); reset none -/
  accErr : List Nat
  /-- the same of the versions of the current interval (R196, R200); reset none -/
  accErrOver : List Nat
  /-- D1 and D2 barrier views of the station (R273, 13_sync_slot.md) -/
  bar1 : BarView
  bar2 : BarView
  /-- instances of D3 and D4 completed (R272, R274) -/
  done34 : Vector Nat 2
  /-- instances of levels 3 and 4 at which the core has arrived (R272) -/
  came34 : Vector Nat 2
  /-- every context of the launch on the core has reached the start cycle (R49) -/
  started : Bool
  deriving DecidableEq, Repr

/-! ## Units of a core -/

/-- A result that has yet to reach its register and latch (R74). -/
structure Result where
  ctx : CtxId
  lk : Nat
  issued : Nat
  /-- part of the bundle, for the order of R76 -/
  part : Nat
  /-- cycle, or tick when byTick is set, at which it lands -/
  due : Nat
  byTick : Bool
  dest : Dest
  val : VReg
  /-- lanes written, for a vector destination (R144) -/
  wen : MaskReg
  /-- the bypass latch unit 0 to 7 of R71, none for no latch -/
  latch : Option (Fin 8)
  /-- flags set with the result (R130) -/
  fl : Flags
  /-- also written to the checkpoint copy (R177) -/
  toCk : Bool
  deriving DecidableEq, Repr

/-- One bypass latch: ages .0 and .1, each a value and the cycle it arrived; none is undefined (R71, R72). -/
structure LatchPair where
  a0 : Option (VReg × Nat)
  a1 : Option (VReg × Nat)
  deriving DecidableEq, Repr

/-- The parties of R168. -/
inductive Party where
  | load | scalar | release (ctx : CtxId) | matrix | engine | landing | remote (pkg core : Nat) | link (port : Nat) | station
  deriving DecidableEq, Repr

/-- What a load does with the bytes it reads (R104, R180). -/
inductive LdKind where
  /-- scalar load of w bytes -/
  | scal (w : Nat) (signed : Bool)
  | vld
  /-- w bytes broadcast -/
  | vldb (w : Nat)
  | vlds (stride : Word)
  | vldm (bound : Nat)
  | vldh (h : Nat)
  | ldtag
  deriving DecidableEq, Repr

/-- A load-slot or scalar load between its issue and its result (R180). -/
structure LdRec where
  kind : LdKind
  /-- effective address -/
  ea : Nat
  dest : Dest
  /-- lanes the mask allows -/
  wen : MaskReg
  /-- tag that the tile must carry (R173) -/
  tagWant : Option (BitVec 16)
  /-- latch unit: bs or bl; none for a scalar load to x0 -/
  unit : Option (Fin 8)
  deriving DecidableEq, Repr

/-- A remote party's way home: where a failure or a reply goes (R235, R236). -/
structure Origin where
  /-- issuing package and core -/
  pkg : Nat
  core : Nat
  ctx : CtxId
  lk : Nat
  issued : Nat
  bundle : BitVec 12
  part : Nat
  eng : Nat
  /-- one-way time T (R234) -/
  t : Nat
  /-- cycle of the issuing core at which a reply is used: the local write of rrd, the broadcast of mma.r, the result of a fallback haul form -/
  back : Nat
  /-- tick on which the access left its core -/
  sent : Nat
  deriving DecidableEq, Repr

/-- An atomic application on its three held cycles (R186, R237). -/
structure AmoRec where
  /-- 0, 1 or 2: cycles a, a + 1, a + 2 -/
  stage : Nat
  ea : Nat
  op : Nat
  fp : Bool
  cas : Bool
  b : BitVec 32
  c : BitVec 32
  d : BitVec 5
  old : BitVec 32
  deriving DecidableEq, Repr

/-- What an access does once its ports are judged (R166 to R169). -/
inductive Act where
  | load (l : LdRec)
  /-- writes the chunks and tags of the access; imprecise writers are told by eng (R351) -/
  | write
  /-- the plain writes of a release; chunks that haul.alight writes, with their bundles (R175, R286) -/
  | release (late : List (ChunkW × BitVec 12))
  | amo (r : AmoRec)
  /-- copy engine piece: read (R231, R232, R234, R248) -/
  | piece (c : EngCmd) (k : Nat)
  /-- gst reads its local source (R241) -/
  | gstRd (entry : Nat)
  /-- mcast reads its member table (R248) -/
  | table (c : EngCmd)
  /-- row or block i of a matrix form reads (R191) -/
  | mrow (form : Nat) (i : Nat)
  /-- target read of rrd, with destination chunks, place in the engine command, and tag of its tiles (R235) -/
  | remRd (o : Origin) (dst : List Nat) (tag : Option (BitVec 16))
  /-- target read of row i of mma.r (R209) -/
  | remRow (o : Origin) (form i : Nat)
  /-- target write of rwr, or of mcast with the member word (R234, R248) -/
  | remWr (o : Origin) (member : Option Nat)
  | remAmo (o : Origin) (r : AmoRec)
  /-- the rest of the hold of an atomic application that lost a port, and the cycles after this one (R169) -/
  | spent (left : Nat)
  /-- fallback haul accesses (R288): a read, and an update on its three held cycles with the record as read -/
  | hauRd (o : Origin) (u : HaulOp)
  | hauUpd (o : Origin) (u : HaulOp) (stage : Nat) (old : BitVec 512)
  /-- link-engine accesses (R305): port, launch, entry, flit -/
  | linkRd (port lk entry flit : Nat)
  | linkWr (port : Nat)
  deriving DecidableEq, Repr

/-- One scratchpad access on its perform cycle or tick (R167, R244). -/
structure Access where
  due : Nat
  byTick : Bool
  party : Party
  /-- always performs under R169 -/
  always : Bool
  /-- precedence among those that always perform, the least first (R169) MODEL -/
  prio : Nat
  ctx : CtxId
  lk : Nat
  issued : Nat
  part : Nat
  eng : Nat
  bundle : BitVec 12
  /-- local addresses of the 64-byte chunks read, in the order the act expects -/
  rd : List Nat
  wr : List ChunkW
  tagR : Option Nat
  tagW : List (Nat × BitVec 16)
  /-- tiles zeroed whole (R183) -/
  zero : List Nat
  /-- bank whose every port is held (R168) -/
  hold : Option Nat
  act : Act
  /-- ports it lost on its cycle, as judged (R168, R169) MODEL -/
  lost : List Nat
  deriving DecidableEq, Repr

/-- The matrix forms; `cfg` stands for mcfg and mwbank, which occupy one cycle. -/
inductive MKind where
  | cfg | mma | mmaR | mmaT | mmr | mwld | msc | matt | mxt | mdr
  deriving DecidableEq, Repr

/-- A row on its way to the accumulators (R208, R211): row number, landing cycle, the value of each output column, its flags. -/
structure RowLand where
  i : Nat
  at_ : Nat
  vals : List Nat
  fl : Flags
  deriving DecidableEq, Repr

/-- A matrix form in flight (R191, R192). -/
structure MForm where
  /-- number in order of issue on the core MODEL -/
  id : Nat
  ctx : CtxId
  lk : Nat
  issued : Nat
  /-- issue cycle of the checkpoint in force at its issue: the interval it belongs to (R196, R198) -/
  ival : Nat
  bundle : BitVec 12
  kind : MKind
  fmt : Fmt
  /-- face format, arrangement, K and KV at issue -/
  ffmt : Fmt
  arr : Nat
  /-- planes p (R194) -/
  p : Nat
  /-- rows M or blocks n -/
  rows : Nat
  base : Nat
  pitch : Nat
  /-- scale address (R193), first face row or block, or mdr's tag -/
  aux : Nat
  /-- first accumulator name and how many it writes or reads -/
  first : Nat
  names : Nat
  z : Bool
  w : Bool
  s : Bool
  /-- T2 bank at issue, or bank loaded -/
  bank : Bool
  k : Nat
  kv : Nat
  /-- attenuation table, mxt's h, mdr's source type -/
  sel : Nat
  /-- mmr: the attenuation table as it stands for the form (R225) -/
  tbl : BitVec 1032
  /-- mmr's face block g, mxt's q -/
  blk : Nat
  rm : BitVec 3
  /-- broadcast or read cycle of each row (R208 to R212) -/
  at_ : List Nat
  /-- mma.r: package, core and chunk addresses of each row, and its request cycle (R209) -/
  tgt : List (Nat × Nat × List Nat)
  req : List Nat
  /-- rows captured and not yet used: row number, its bytes and its scale chunk -/
  got : List (Nat × Nat × Nat)
  lands : List RowLand
  /-- rows that have landed, been written or been loaded, and the cycle of the last one -/
  done : Nat
  doneAt : Nat
  /-- LFSR states for the rows still to be drained (R126) -/
  lfsr : Lfsrs
  /-- cycle after the last of the form's occupancy -/
  until_ : Nat
  /-- mmr: the bad entries of its table, once a later matt has replaced that table (R225, R226) -/
  attKeep : Option (List Nat)
  /-- the face, or an mmr's table, was not reloaded after a YP bundle of the launch: what the form computes is undefined (R10, R190, R222) -/
  stale : Bool
  /-- first poisoned sources: scratchpad address, slot and face row (R200, R323) -/
  poisA : Option Nat
  poisS : Option (BitVec 8)
  poisF : Option (BitVec 16)
  deriving DecidableEq, Repr

/-- The weight face of a core (R188 to R190). -/
structure Face where
  /-- arrangement (R188, R190, 09_matrix_unit.md); codes 0 to 4; reset 0 -/
  arr : Nat
  /-- K depth (R190, 09_matrix_unit.md); reset 2,048 -/
  k : Nat
  /-- valid depth KV (R190, 09_matrix_unit.md); reset 2,048 -/
  kv : Nat
  /-- FFMT (R190, 09_matrix_unit.md); reset none -/
  ffmt : Option Fmt
  /-- selected T2 bank (R190, R206, 09_matrix_unit.md); 1 bit; reset 0 -/
  bank : Bool
  /-- cells, by bank × 2,048 + face row: the row's weights as loaded (R189, R190, R205, 09_matrix_unit.md); 16,384 bits each; reset zero -/
  rows : List (Nat × BitVec 16384)
  /-- scale store, by block: one byte for each output column (R189, R207, 09_matrix_unit.md); reset 0x7F in every byte, an unlisted block -/
  scales : List (Nat × BitVec 16384)
  /-- face rows that hold an uncorrectable error, and blocks of the scale store that do (R328) -/
  errRows : List Nat
  errScales : List Nat
  /-- partition whose launch last wrote the face (R190); reset 0 -/
  part : Nat
  deriving DecidableEq, Repr

/-- The untimed forms (R239). -/
inductive UKind where
  | gld | gst | gatom
  deriving DecidableEq, Repr

/-- What came back for an untimed request (R240 to R242, R247, R269). -/
structure Reply where
  data : List (BitVec 512 × BitVec 8)
  old : BitVec 32
  race : Option Word
  deriving DecidableEq, Repr

/-- A request that holds a landing entry (R239). -/
structure UReq where
  kind : UKind
  ctx : CtxId
  lk : Nat
  issued : Nat
  bundle : BitVec 12
  va : Nat
  /-- pod address of each chunk -/
  pas : List Nat
  /-- local address of the landing or source -/
  loc : Nat
  /-- due cycle, once known (gatom: a + L) -/
  due : Option Nat
  l : Nat
  d : BitVec 5
  nw : Bool
  op : Nat
  fp : Bool
  b : BitVec 32
  /-- SIN of its context at its issue (R266) -/
  sin : BitVec 16
  /-- the request has left the core (R263) -/
  left : Bool
  /-- tick at which it leaves (gatom) or left -/
  leaveAt : Option Nat
  reply : Option Reply
  /-- clock periods that have begun since the due cycle, its own among them (R247) -/
  late : Nat
  deriving DecidableEq, Repr

/-- One entry of the landing buffer (R239). -/
structure LandEntry where
  gen : BitVec 4
  req : Option UReq
  /-- cycle on which the entry is freed (R239) -/
  freeAt : Option Nat
  deriving DecidableEq, Repr

/-- A translation walk (R238). -/
structure Walk where
  ctx : CtxId
  lk : Nat
  issued : Nat
  bundle : BitVec 12
  d : BitVec 3
  va : Nat
  /-- tick at which the walk ends -/
  ends : Nat
  /-- the result, once the walk has ended: a handle, or a trap cause -/
  res : Option (Option Handle × Nat)
  deriving DecidableEq, Repr

/-- A failure of a remote access on its way back (R236). -/
structure Report where
  due : Nat
  trap : Trap
  /-- mcast: member word that failed (R248) -/
  member : Option Nat
  /-- the access that it concerns -/
  org : Origin
  deriving DecidableEq, Repr

/-- The part a bundle's performance has reached, and what it was decoded to (R92, R347). -/
structure Focus where
  core : CoreId
  ctx : CtxId
  idx : BitVec 12
  word : BundleWord
  /-- loop stack as the bundle's sources read it (R107) -/
  loops : List LoopEntry
  /-- target of a taken branch of this bundle (R77) -/
  jump : Option (BitVec 12)
  /-- loop-stack redirect (R109) -/
  lr : Option (BitVec 12)
  /-- next part to perform, 0 to 8; 9 when all have -/
  part : Nat
  /-- done mask (R347) -/
  done : BitVec 9
  /-- watchpoints that hit the part that caused a halt (R347) -/
  exempt : BitVec 4
  /-- the bundle enters the yield wait: only its checkpoint performs (R332) -/
  yield : Bool
  /-- its sync form blocked (R82) -/
  blocked : Bool
  /-- steps of the header that are done (R109, R316, R347): 1 the checkpoint, 2 the loop-end count, 3 the loop form -/
  hdr : Nat
  /-- which free values its undefined latches show (R73; log entry 2) MODEL -/
  seed : Nat
  deriving DecidableEq, Repr

/-- A watch record waiting to be posted (R350, R351). -/
structure WatchRec where
  due : Nat
  words : Vector Word 4
  halt : Bool
  deriving DecidableEq, Repr

/-- An entry of the matrix profile table (R354). -/
structure ProfEntry where
  launch : BitVec 16
  bundle : BitVec 12
  counts : Vector (BitVec 64) 5
  deriving DecidableEq, Repr

/-- The debug registers of a core (R343 to R354). -/
structure Debug where
  /-- WPADDR0 to 3, bits [22:4] (R349, 16_retire_debug.md); reset 0 -/
  wpaddr : Vector Word 4
  /-- WPCTL0 to 3 (R349, 16_retire_debug.md); reset 0 -/
  wpctl : Vector Word 4
  /-- HALTREC words 0 and 1 (R348, 16_retire_debug.md); reset 0 -/
  rec0 : Word
  rec1 : Word
  /-- HALTCNT (R346, R348, 16_retire_debug.md); 64 bits; reset 0 -/
  haltcnt : Word
  /-- watch log: 16 records of four words (R352, 16_retire_debug.md); reset DESIGN CHOICE 0 (log entry 3) -/
  wlog : Vector (Vector Word 4) 16
  /-- WLOGST.NEXT and TOTAL (R352, 16_retire_debug.md); reset DESIGN CHOICE 0 (log entry 3) -/
  wnext : BitVec 4
  wtotal : BitVec 16
  /-- PROFCTL.EN (R354, 16_retire_debug.md); 1 bit; reset 0 -/
  profEn : Bool
  /-- profile entries in order of first charge (R354, 16_retire_debug.md); 256; reset empty -/
  prof : List ProfEntry
  /-- address of the form that set the last class (R201, R354) -/
  profLast : Option (BitVec 16 × BitVec 12)
  /-- partition of the launch last bound on the core (R354) MODEL; reset 0 -/
  profPart : Nat
  /-- the core is halted (R346, 16_retire_debug.md); reset false -/
  halted : Bool
  /-- halts to be taken before the next bundle: REASON, and the tick from which (R348); reset none -/
  req : List (Nat × Nat)
  /-- imprecise records waiting for their tick (R351) -/
  pend : List WatchRec
  deriving DecidableEq, Repr

/-- Retention states of a bank (R330). -/
inductive RetSt where
  | active
  /-- re-encoding until a cycle; a waiter asks for the exit after it -/
  | entering (until_ : Nat) (wanted : Bool)
  | retained
  | leaving (until_ : Nat)
  deriving DecidableEq, Repr

/-- A physical bank of a core. -/
structure Bank where
  /-- retention mode (R330, 15_interruption.md); reset DESIGN CHOICE active (log entry 3) -/
  ret : RetSt
  /-- cycle from which no launch has owned it (R277, R330); reset 0 -/
  idle : Nat
  /-- hand-over mark naming a launch (R278, 13_sync_slot.md); reset none -/
  mark : Option Nat
  deriving DecidableEq, Repr

/-- The content tag of a physical bundle-store slot (R86): the launch, the chunk, and the launch index that the bundle is of, which tells windows of one chunk apart (R84; log entry 134). -/
structure SlotTag where
  lk : Nat
  chunk : Nat
  idx : BitVec 12
  stale : Bool
  deriving DecidableEq, Repr

/-- A remote application that leaves its core on a cycle (R237, R288): its target and the one-way time. -/
structure Leave where
  at_ : Nat
  pkg : Nat
  core : Nat
  t : Nat
  acc : Access
  deriving DecidableEq, Repr

/-- A fence that the core checks at the start of its cycles (R263, R264, R267). -/
structure FenceSt where
  ctx : CtxId
  /-- it waits for writes, and for reads -/
  rel : Bool
  acq : Bool
  scope : Nat
  /-- what it covers is answered, and its release event is announced -/
  told : Bool
  deriving DecidableEq, Repr

/-- One core. -/
structure Core where
  /-- unfrozen cycles since package reset (R5, R243, 11_copy_slot.md) MODEL; reset 0 -/
  cyc : Nat
  /-- the context that holds or last held the issue port (R81, 04_bundle.md); 2 bits; reset DESIGN CHOICE 3, so that context 0 comes first (log entry 3) -/
  port : CtxId
  /-- the port was given up on the last cycle (R81) MODEL; reset false -/
  vacated : Bool
  /-- first cycle on which the running context may issue (R81, R246) MODEL; reset 0 -/
  issueFrom : Nat
  /-- contexts 0 to 3 (R80, 04_bundle.md) -/
  ctxs : Vector Ctx 4
  /-- bypass latches bs, bv0, bv1, bl, bm, bc, by, bk (R71, 04_bundle.md); two ages of 4,096 bits each; reset undefined -/
  latches : Vector LatchPair 8
  /-- cycle of each context's last issue (R73) MODEL; reset none -/
  lastIssue : Vector (Option Nat) 4
  /-- cycle of the last issue of a WT bundle (R73) MODEL; reset none -/
  lastWt : Option Nat
  /-- launches bound or Saved on the core (R47, R84, R195) -/
  lcs : List LaunchCore
  /-- results on their way to registers, in order of issue and part (R74, R76) -/
  results : List Result
  /-- scratchpad accesses on their way to their perform cycle (R167, R253) -/
  acc : List Access
  /-- copy-engine queue (R230, 11_copy_slot.md); 16 commands; reset empty -/
  cmds : List EngCmd
  /-- released in-place cp.red forms waiting for a place (R233) -/
  cmdWait : List EngCmd
  /-- mcast commands whose outcome is due (R248) -/
  mcasts : List EngCmd
  /-- landing buffer (R239, 11_copy_slot.md); 64 entries with 4-bit generations; reset DESIGN CHOICE generation 0 (log entry 3) -/
  land : Vector LandEntry 64
  /-- walks pending (R238) -/
  walks : List Walk
  /-- matrix forms in flight, in order of issue (R192) -/
  mforms : List MForm
  /-- number of the next matrix form MODEL; reset 0 -/
  mnext : Nat
  /-- weight face (R188 to R190, 09_matrix_unit.md) -/
  face : Face
  /-- first cycle on which the face path is free (R191, 09_matrix_unit.md); reset 0 -/
  faceFree : Nat
  /-- first cycle on which the drain path is free (R191, 09_matrix_unit.md); reset 0 -/
  drainFree : Nat
  /-- first cycle after the running background mwld (R205, 09_matrix_unit.md); reset 0 -/
  bgFree : Nat
  /-- attenuation tables: 128 bytes and the scale byte each (R222, 10_rank_coded.md); reset entries 0, scale 0x7F -/
  att : Vector (BitVec 1032) 4
  /-- attenuation entries that hold an uncorrectable error, by table × 256 + entry, the scale as entry 128 (R226, R328) -/
  attErr : List Nat
  /-- FRZCNT (R245, 11_copy_slot.md); 32 bits; reset 0 -/
  frzcnt : BitVec 32
  /-- PAIDCNT (R245, 11_copy_slot.md); 32 bits; reset 0 -/
  paidcnt : BitVec 32
  /-- SPOILCNT.SPOIL (R247, 11_copy_slot.md); 32 bits; reset 0 -/
  spoil : BitVec 32
  /-- SPOILCNT.TIMEOUT (R247, 11_copy_slot.md); 32 bits; reset 0 -/
  timeout : BitVec 32
  /-- haul actions waiting at the station (R282) -/
  haul : List HaulOp
  /-- content tags of the physical bundle-store slots that hold one (R86, 04_bundle.md); 4,096 slots; reset empty -/
  store : List (Nat × SlotTag)
  /-- slots of the bundle store that hold an uncorrectable error (R328) -/
  storeErr : List Nat
  /-- a refetch in progress: launch key, launch index, tick of landing (R86) -/
  refetch : Option (Nat × BitVec 12 × Nat)
  /-- tick since which the core waits for a late landing (R86, R88, R171) MODEL; reset none -/
  lateSince : Option Nat
  /-- a fence that the core checks before its next cycle (R264) -/
  fence : Option FenceSt
  /-- physical banks (R166, R330, 08_scratchpad.md); 48 -/
  banks : Vector Bank 48
  /-- remote applications of a release that leave on a later cycle (R237, R288) -/
  leaving : List Leave
  /-- traps raised on this cycle (R319) -/
  traps : List Trap
  /-- failures of remote accesses on their way back (R236) -/
  reports : List Report
  /-- squashed engine work whose replies may still be on their way: context, first cycle of issue, tick of the squash (R250, R335) -/
  squashed : List (CtxId × Nat × Nat)
  /-- frozen on this tick (R243) MODEL; reset false -/
  frozen : Bool
  /-- debug registers (R343 to R354, 16_retire_debug.md) -/
  dbg : Debug
  /-- bundle held by a halt in the middle (R347) -/
  held : Option Focus
  /-- a halt in the middle of a bundle has left a cycle open: on resume only the undone parts remain of it (R347) MODEL; reset false -/
  mid : Bool
  /-- a halt has ended, and the traps that it held are taken before a bundle performs (R346) MODEL; reset false -/
  woke : Bool
  /-- tick on which the fetch engine rewrote a slot for a late landing (R86) MODEL; reset none -/
  rewrote : Option Nat
  /-- shadow storage: contexts of Saved launches, with launch key and context number (R331, R333, 15_interruption.md); 8 context states; reset empty -/
  shadow : List (Nat × CtxId × Ctx)
  /-- engine commands to be reissued on resume (R251, R335) -/
  reissue : List EngCmd
  /-- registers that hold an uncorrectable error: context, class 0 x 1 v 2 m, number, lane or word (R328) -/
  regErr : List (Nat × Nat × Nat × Nat)
  /-- words of checkpoint copies that hold an uncorrectable error, likewise (R328) -/
  ckErr : List (Nat × Nat × Nat × Nat)
  /-- words outside the scratchpad that hold a correctable error (R328) -/
  weakLoc : List ErrLoc
  /-- register words with an uncorrectable error in the shadow and parked storage: launch key, context, class, register, word (R328, R333) MODEL; reset none -/
  shadowErr : List (Nat × Nat × Nat × Nat × Nat)
  deriving DecidableEq, Repr

/-! ## Dies -/

/-- A cached translation of a die's walk cache (R61, R65). -/
structure Cached where
  part : Nat
  va : Nat
  size : Nat
  /-- the leaf entry as read -/
  leaf : BitVec 128
  level : Nat
  /-- pod address at the start of the page or run, and its rights (R60, R61) -/
  base : Nat
  rd : Bool
  wr : Bool
  deriving DecidableEq, Repr

/-- One compute die. -/
structure Die where
  /-- write counter NW (R258, 12_memory_model.md); 16 bits; reset DESIGN CHOICE 0 (log entry 3) -/
  nw : BitVec 16
  /-- DONE (R259, 12_memory_model.md); nine entries of 16 bits; reset DESIGN CHOICE 0 (log entry 3) -/
  done : Vector (BitVec 16) 9
  /-- numbers applied ahead of DONE for writes of this die (R259) MODEL; reset empty -/
  ahead : List (BitVec 16)
  /-- walk cache, newest first (R65, 03_placement.md); 4,096 translations; reset DESIGN CHOICE empty (log entry 3) -/
  cache : List Cached
  /-- DIEERRn.UNCOR (R330, 15_interruption.md); 16 bits; reset 0 -/
  uncor : BitVec 16
  /-- DIEERRn.CORR (R330, 15_interruption.md); 32 bits; reset 0 -/
  corr : BitVec 32
  /-- DIEERRn.DROP (R330, 15_interruption.md); 16 bits; reset 0 -/
  drop : BitVec 16
  /-- partition parked in the die's storage (R336, 15_interruption.md); reset none -/
  parked : Option Nat
  /-- announcements of release events held for the die's homes: context, SIN, levels 2 to 4 of RSIN and RTICK, newest first (R267, 12_memory_model.md); 4,096 entries; reset empty -/
  announce : List (Nat × Vector (BitVec 16) 3 × Vector Nat 3)
  deriving DecidableEq, Repr

/-! ## Launches and partitions -/

/-- States of a launch (R36, R331, R336). -/
inductive LaunchSt where
  | queued | bound | saved | ended
  deriving DecidableEq, Repr

/-- A yield request (R331, R336). -/
inductive Yreq where
  | iteration | node
  deriving DecidableEq, Repr

/-- A resource record of a core of this package (R18). -/
structure ResRec where
  core : Nat
  nctx : Nat
  vregs : Nat
  accs : Nat
  ctxlo : Nat
  banks : BitVec 48
  inherit : BitVec 48
  release : BitVec 48
  deriving DecidableEq, Repr

/-- A flit that a link engine holds: its number in its entry, the tick of its reading or arrival, its header on arrival, and its payload with its poison marks, or none for a void flit (R304, R311, R329). -/
structure HeldFlit where
  n : Nat
  at_ : Nat
  hdr : Option FlitHdr
  data : Option (BitVec 1024 × BitVec 16)
  deriving DecidableEq, Repr

/-- One entry of a running transfer program (R303, R304). -/
structure Flow where
  /-- entry index in its program -/
  idx : Nat
  /-- the entry's 128 bits (R303) -/
  entry : BitVec 128
  /-- TOFF of the entry that sends to it, and the flight time F of the link of IPORT (R303, R304) -/
  feed : Nat
  inF : Nat
  /-- flits read from the source, sent, judged on arrival and written so far -/
  rd : Nat
  sent : Nat
  seen : Nat
  wrote : Nat
  /-- flits held -/
  buf : List HeldFlit
  deriving DecidableEq, Repr

/-- A running transfer program (R306). -/
structure Run where
  prog : Nat
  /-- effective start tick -/
  b : Nat
  variant : Nat
  flows : List Flow
  deriving DecidableEq, Repr

/-- The pod side of a launch on this package (R249, R306, R307, R311 to R313). -/
structure PodSt where
  /-- current variant (R249, R301); reset 0 -/
  variant : Nat
  /-- containment count (R310, R313); reset 0 -/
  contained : Nat
  /-- program starts (R310); reset 0 -/
  starts : Nat
  /-- pending start: program and effective tick (R249) -/
  pendRun : Option (Nat × Nat)
  /-- pending selection: variant and tick (R249) -/
  pendSel : Option (Nat × Nat)
  /-- the pending start, prepared for its first reads (R304) MODEL -/
  ready : Option Run
  /-- the program last started (R306) -/
  running : Option Run
  /-- fabric origin (R306) -/
  fo : Option Nat
  /-- notices of the episode, in order of arrival (R312) -/
  notices : List Notice
  /-- D0 of the last episode that has been decided (R312) -/
  lastEp : Option Nat
  /-- faults detected after D0 + 8,192 and before C, which belong to no episode (R312) -/
  strays : Nat
  /-- resume tick (R313) -/
  res : Option Nat
  /-- outcome of a containment that ends the launch: cause (R312) -/
  endCause : Option Nat
  /-- the trap records of the episode are posted -/
  lost : Option Nat
  /-- D2 part complete at this tick for levels 3 and 4 (R274, R307) -/
  part : Vector (Option Nat) 2
  /-- arrivals carried: level, instance, logical index, slot (R307) -/
  heard : List (Nat × Nat × Nat × Nat)
  /-- completion tick of levels 3 and 4, once decided (R307) -/
  due : Vector (Option Nat) 2
  deriving DecidableEq, Repr

/-- A launch. -/
structure Launch where
  /-- the model's launch key: position of arrival MODEL -/
  key : Nat
  /-- launch identifier (R34, 02_launch.md); 16 bits -/
  id : BitVec 16
  /-- partition 1 to 9 (R32, 02_launch.md) -/
  part : Nat
  /-- queue 0 to 15 (R34, 02_launch.md) -/
  queue : Nat
  /-- PRIO (R34, R39, 02_launch.md); 2 bits -/
  prio : Nat
  /-- the start vector (R34, 02_launch.md); 64 bytes -/
  sv : BitVec 512
  /-- key of the predecessor (R35 check 6, R36) -/
  pred : Option Nat
  /-- handle of the image (R34) -/
  image : Nat
  st : LaunchSt
  /-- TBNOW when the vector became head of its queue (R36) -/
  headSince : Nat
  /-- aging steps that have passed since it became head (R36) -/
  aged : Nat
  /-- resource records of this package (R18) -/
  recs : List ResRec
  /-- entry bundle indices: core, context, index (R20) -/
  entries : List (Nat × Nat × Nat)
  /-- TBNOW at binding and at the start cycle (R49); 0 if never bound -/
  bound : Nat
  start : Nat
  /-- end status, cause and core of the completion record (R40, R42) -/
  status : Nat
  cause : Nat
  core : Nat
  /-- an abort decided: status, cause, core (R325) -/
  abort : Option (Nat × Nat × Nat)
  /-- the abort has been carried out: no context of it issues (R325) -/
  stopped : Bool
  /-- YREQ (R331, R336) -/
  yreq : Option Yreq
  /-- Ys and Yr, once fixed (R333, R334) -/
  ys : Option Nat
  yr : Option Nat
  /-- the launch is parked by a partition swap (R336) -/
  parked : Bool
  /-- pod package number of each logical index (R34) -/
  podmap : List Nat
  /-- the arrival tick of the last context in the yield wait (R333, R337) -/
  yieldAt : Option Nat
  /-- Saved by the partition swap in progress, at node-boundary yield points (R336) -/
  swapSaved : Bool
  /-- skips it may hold (R13) and its power class -/
  skips : Nat
  power : Nat
  /-- tick of the last trap 0x30 and 0x31 places per core: core, cause, address, slot, row (R324) -/
  places : List (Nat × Nat × Word × Nat × Nat)
  /-- logical package index LPKG (R34, 02_launch.md); 16 bits -/
  lpkg : Nat
  /-- order of ending among ended launches (R35, R36) -/
  endSeq : Nat
  /-- TBNOW at the retirement point or the rejection (R40) -/
  ended : Nat
  /-- the completion record has been written or has failed (R40) -/
  recorded : Bool
  /-- FRZCNT less PAIDCNT summed over its cores, of the cores it has left (R245, R40) -/
  freeze : Int
  pod : PodSt
  deriving DecidableEq, Repr

/-- An image the loader knows. -/
structure LoadedImage where
  /-- handle (R34) -/
  handle : Nat
  /-- partition whose tenant loaded it -/
  part : Nat
  img : Image
  /-- chunks that have arrived whole -/
  arrived : Nat
  /-- the prefix has been checked (R26) -/
  checked : Bool
  /-- refusal: loader's code (R26 to R28, R14) -/
  refused : Option Nat
  /-- full-image digest decided (R27) -/
  digested : Bool
  /-- the prefix has passed every check (R26, R356) -/
  passed : Bool
  deriving DecidableEq, Repr

/-- TDISP states of a VF (R357). -/
inductive Tdisp where
  | unlocked | locked | run | error
  deriving DecidableEq, Repr

/-- The registers of one virtual function and its partition. -/
structure Vf where
  /-- the 16 launch queues, heads first, by launch key (R34, 02_launch.md); up to 64 vectors each; reset empty -/
  queues : Vector (List Nat) 16
  /-- LQSTATn.LQDROP (R39, 02_launch.md); 16 bits each; reset 0 -/
  lqdrop : Vector (BitVec 16) 16
  /-- LQSTATn.CRFAIL (R39, R40, 02_launch.md); 1 bit each; reset 0 -/
  crfail : BitVec 16
  /-- LQIRQEN (R40, 02_launch.md); 16 bits used; reset 0 -/
  lqirqen : BitVec 16
  /-- LQPRIOST (R39, 02_launch.md); 2 bits; reset DESIGN CHOICE 0 (log entry 3) -/
  lqpriost : BitVec 2
  /-- PTROOT: EN and ROOT (R59, 03_placement.md); reset 0 -/
  ptroot : Word
  /-- HWBASE.BASE (R55, 03_placement.md); 28 bits; reset 0 -/
  hwbase : BitVec 28
  /-- WCINV writes not yet done: operand, and dies still to acknowledge with the tick on which they do (R65, 03_placement.md); reset none, so that WCINVST.DONE reads 1 DESIGN CHOICE (log entry 3) -/
  wcinv : List (Word × List (Nat × Nat))
  /-- RACEPOL (R269, 12_memory_model.md); 64 bits; reset 0 -/
  racepol : Word
  /-- RACELOGST.TOTAL (R269, 12_memory_model.md); 32 bits; reset 0 -/
  raceTotal : BitVec 32
  /-- RACELOGST.NEXT (R269, 12_memory_model.md); 7 bits; reset 0 -/
  raceNext : BitVec 7
  /-- TRAPBASE (R326, 15_interruption.md); 64 bits; reset 0 -/
  trapbase : Word
  /-- TRAPSTAT.TOTAL (R326, 15_interruption.md); 32 bits; reset 0 -/
  trapTotal : BitVec 32
  /-- TRAPSTAT.BADCMD (R326, 15_interruption.md); 1 bit; reset 0 -/
  badcmd : Bool
  /-- TRAPSTAT.NEXT (R326, 15_interruption.md); 7 bits; reset 0 -/
  trapNext : BitVec 7
  /-- SEQ of the next trap record (R323, 15_interruption.md); 16 bits; reset DESIGN CHOICE 0 (log entry 3) -/
  trapSeq : BitVec 16
  /-- DBGDATA (R343, 16_retire_debug.md); 64 bits; reset 0 -/
  dbgdata : Word
  /-- DBGSTAT.ERR (R343, 16_retire_debug.md); 3 bits; reset 0 -/
  dbgerr : BitVec 3
  /-- DBGSTAT.BUSY (R343, 16_retire_debug.md); 1 bit; reset 0 -/
  dbgbusy : Bool
  /-- a forwarded command waiting for replies: the tick it was sent, how many are missing, and its number (R345); reset none -/
  dbgfwd : Option (Nat × Nat × Nat)
  /-- TDISP state (R357, 17_trust_package.md); reset DESIGN CHOICE CONFIG_UNLOCKED (log entry 3) -/
  tdisp : Tdisp
  /-- key of the VF's IDE stream (R357, 17_trust_package.md); reset none -/
  ide : Option (BitVec 256)
  /-- key slots 1 to 4 (R358, 17_trust_package.md); 256 bits each; reset erased -/
  keys : Vector (Option (BitVec 256)) 4
  /-- number of the partition's HBM key, advanced by each new key (R358) MODEL; reset 0 -/
  keyGen : Nat
  /-- tenant public key (R360, 17_trust_package.md); 512 bits; reset none -/
  pubkey : Option (BitVec 512)
  /-- policy window at VF offset 0x1_0000 (R360, 17_trust_package.md); 64 KiB; reset DESIGN CHOICE 0 (log entry 3) -/
  window : Memory
  /-- DBGPOL.OPEN (R361, 17_trust_package.md); 5 bits; reset 0 -/
  open_ : BitVec 5
  /-- DBGPOL.STATE (R361, 17_trust_package.md); 2 bits; reset 0 -/
  polst : BitVec 2
  /-- the accepted policy record (R356, R360); 1,024 bits; reset none -/
  policy : Option (BitVec 1024)
  /-- nonce (R361, 17_trust_package.md); 256 bits; reset DESIGN CHOICE 0 (log entry 3) -/
  nonce : BitVec 256
  /-- LNKSHIFT (R306, R313, 14_pod_fabric.md); 64 bits; reset 0 -/
  lnkshift : Nat
  /-- counter of open packets sent, the IV (R310, 14_pod_fabric.md); 96 bits; reset DESIGN CHOICE 0 (log entry 3) -/
  openCtr : BitVec 96
  deriving DecidableEq, Repr

/-! ## Untimed homes -/

/-- A write on its way to a home of another package (R261). -/
structure FarWrite where
  core : Nat
  entry : Nat
  gen : BitVec 4
  lk : Nat
  /-- tick from which, for an aborted launch, it counts as lost (log entry 131) -/
  until_ : Nat
  deriving DecidableEq, Repr

/-- A request on its way to its home or queued there (R257 to R259). -/
structure HomeReq where
  /-- what it does -/
  kind : UKind
  /-- the launch that a request of this package belongs to, 0 of another package (R261) -/
  lk : Nat
  /-- a write that waits at its core for a number (R260) -/
  held : Bool
  /-- the requester: package, core, landing entry, generation -/
  pkg : Nat
  core : Nat
  entry : Nat
  gen : BitVec 4
  /-- pod address and data of each chunk -/
  chunks : List (Nat × BitVec 512 × BitVec 8)
  /-- atomics: function, FP, operand -/
  op : Nat
  fp : Bool
  b : BitVec 32
  /-- stamp of a write: the die that numbered it, and the vector; or the vector a read carries; none from another package (R258, R261) -/
  die : Option Nat
  vec : Option (Vector (BitVec 16) 9)
  /-- tick from which the home may perform it -/
  at_ : Nat
  /-- race detector: accessing context, its SIN at issue and ATICK for levels 2 to 4 (R266 to R268) -/
  who : Who
  part : Nat
  /-- the data of a gst have been read; a request not ready is not yet on its way (R241) -/
  ready : Bool
  deriving DecidableEq, Repr

/-- A reply on its way to its core (R240 to R242). -/
structure ReplyMsg where
  core : Nat
  entry : Nat
  gen : BitVec 4
  at_ : Nat
  reply : Reply
  /-- stamps to be merged into the context's CV (R258) -/
  stamps : List (Vector (BitVec 16) 9)
  deriving DecidableEq, Repr

/-- A shadow entry of the race detector (R266). -/
structure Shadow where
  atomic : Bool
  wsc : Nat
  wr : Nat
  wsin : BitVec 16
  deriving DecidableEq, Repr

/-- A haul skip (R281). -/
structure Skip where
  /-- payload lanes 0 to 15 (R281, 13_sync_slot.md); 512 bits; reset 0 -/
  payload : BitVec 512
  /-- OWNER (R281, 13_sync_slot.md); 16 bits; reset 0 -/
  owner : BitVec 16
  /-- PART (R281, 13_sync_slot.md); 4 bits; reset 0 -/
  part : Nat
  /-- KIND (R281, 13_sync_slot.md); 0 free, 1 held, 2 system; reset 0 for user skips, 2 for skips 0 to 7 -/
  kind : Nat
  /-- SEQ (R281, 13_sync_slot.md); 16 bits; reset 0 -/
  seq : BitVec 16
  /-- launch key of the holder and, for a claim, 4 × core + context and the release cycle from which it is no longer provisional, once known (R285) MODEL; reset none -/
  lk : Option Nat
  prov : Option (Nat × Option Nat)
  deriving DecidableEq, Repr

/-- Where the silent sequencing of a tick stands MODEL. -/
inductive Phase where
  /-- inputs that are due -/
  | inputs
  /-- steward, loader, fabric and homes -/
  | package
  /-- haul passages, by core -/
  | haul (core : Nat)
  /-- a core: its start of cycle, its due rows, its ports, its accesses, its issue, its traps -/
  | begin (core : Nat)
  | rows (core : Nat)
  | ports (core : Nat)
  | issue (core : Nat)
  | part (core : Nat)
  | finish (core : Nat)
  | tickEnd
  deriving DecidableEq, Repr

/-! ## The package -/

/-- A timed access on its way to a core of this package (R234 to R237, R244): target core and the access, due on its tick. -/
structure Wire where
  target : CoreId
  acc : Access
  /-- partition of the issuer (R236) -/
  part : Nat
  deriving DecidableEq, Repr

/-- An input that waits for its tick: a row of the table, or what the surroundings do. -/
inductive Input where
  | ev (i : Instr)
  /-- the host writes its own memory or HBM of the package (R261) -/
  | hostWrite (host : Bool) (addr : Nat) (data : List Byte)
  /-- an image begins to stream for a partition (R26): handle, partition, the image as it will arrive -/
  | image (handle part : Nat) (img : Image)
  /-- one more chunk of an image has arrived whole; after the prefix chunks, kinds 6 to 8 (R27) -/
  | chunk (handle : Nat)
  /-- reading of junction sensor n of a die in degrees Celsius (R364) -/
  | sensor (die : Fin 9) (n : Fin 4) (t : Nat)
  /-- a timed access of a core of another package, on its way (R244) -/
  | remote (w : Wire)
  /-- the answer to a timed access at another package: data of a read with its poison marks, or a failure: cause and ADDR (R235, R236, R329) -/
  | answer (core : CoreId) (a : Access) (data : List (BitVec 512 × BitVec 8)) (fail : Option (Nat × Nat))
  /-- occupancy of a port's elastic buffer (R300) -/
  | elastic (port : Fin 12) (n : Nat)
  /-- a link of this package goes down, or trains (R309, R311) -/
  | link (port : Fin 12) (st : Nat)
  deriving DecidableEq, Repr

/-- What leaves the package (R26 to R28, R40, R236, R297, R304, R326, R355). -/
inductive Output where
  /-- a loader's reply: image handle and code (R26) -/
  | loader (handle code : Nat)
  /-- an MSI-X vector of a VF (R40, R326) -/
  | msix (vf vector : Nat)
  /-- an open packet on a port (R297) -/
  | packet (port : Nat) (hdr : FlitHdr) (body : PacketWire)
  /-- a scheduled flit on a port, in a slot (R295, R304), with the poison marks of its words (R329) -/
  | flit (port slot : Nat) (hdr : FlitHdr) (payload : BitVec 1024) (mark : BitVec 16)
  /-- a timed access to a core of another package, as its target sees it (R234, R235) -/
  | remote (pkg : Nat) (w : Wire)
  /-- the outcome of a timed access of another package: data with its poison marks, or a failure: cause and ADDR (R236, R329) -/
  | answer (pkg : Nat) (core : Nat) (a : Access) (data : List (BitVec 512 × BitVec 8)) (fail : Option (Nat × Nat))
  /-- an SPDM or TDISP response: function, request code, payload (R355 to R358) -/
  | spdm (fn : Nat) (code : Nat) (payload : List (BitVec 512))
  deriving DecidableEq, Repr

/-! ## Package registers -/

/-- One Taltik port. -/
structure Port where
  /-- LINKSTATn.INCDROP (R308, 14_pod_fabric.md); 16 bits; reset 0 -/
  incdrop : BitVec 16
  /-- LINKSTATn.OPENDROP (R297, 14_pod_fabric.md); 16 bits; reset 0 -/
  opendrop : BitVec 16
  /-- LINKSTATn.FLIGHT (R301, 14_pod_fabric.md); 12 bits; reset 0 -/
  flight : BitVec 12
  /-- LINKSTATn.RETRAIN (R309, 14_pod_fabric.md); 8 bits; reset 0 -/
  retrain : BitVec 8
  /-- LINKSTATn.STATE (R309, 14_pod_fabric.md); 2 bits; reset 0 -/
  st : BitVec 2
  /-- LINKSTATn.FAULT (R311, 14_pod_fabric.md); 1 bit; reset 0 -/
  fault : Bool
  /-- open packets queued to leave, oldest first (R297, 14_pod_fabric.md); up to 64; reset empty -/
  outq : List (FlitHdr × PacketWire)
  /-- flits in the elastic buffer (R300, 14_pod_fabric.md); 0 to 32; reset DESIGN CHOICE 16 (log entry 3) -/
  elastic : Nat
  /-- tick of the last scheduled flit in either direction (R300) MODEL; reset 0 -/
  lastSched : Nat
  /-- slots that barrier flits have taken, those whose tick + 512 has passed left out (R300, R303, R307) MODEL; reset empty -/
  barSlots : List Nat
  /-- the last slot whose barrier flit has come in or is known to be missing (R307, R311) MODEL; reset 0 -/
  barSeen : Nat
  deriving DecidableEq, Repr

/-- A port after package reset. -/
def Port.reset : Port := ⟨0, 0, 0, 0, 0, false, [], 16, 0, [], 0⟩

/-- The management registers (PF 0). -/
structure Pf0 where
  /-- MGMTOWN.MGMTDENY (R30, 02_launch.md); 8 bits; reset 0 -/
  deny : BitVec 8
  /-- MGMTOWN.PENDING (R30, 02_launch.md); 4 bits; reset 0 -/
  pending : BitVec 4
  /-- MGMTOWN.OWNER (R30, 02_launch.md); 4 bits; reset 0 -/
  owner : BitVec 4
  /-- PARTMAP.DIEn, n = 0 to 8 (R32, 02_launch.md); 4 bits each; reset 0 -/
  partmap : Vector (BitVec 4) 9
  /-- PARTSTAT.BUSY (R32, 02_launch.md); 1 bit; reset 0 -/
  busy : Bool
  /-- PODCFG.LEN (R293, 14_pod_fabric.md); 12 bits; reset 0 -/
  len : BitVec 12
  /-- PODCFG.INC (R308, 14_pod_fabric.md); 16 bits; reset 0 -/
  inc : BitVec 16
  /-- PODCFG.PARENT (R298, 14_pod_fabric.md); 4 bits; reset 15 -/
  parent : BitVec 4
  /-- PODCFG.PKG (R293, 14_pod_fabric.md); 12 bits; reset 0 -/
  pkg : BitVec 12
  /-- TBSTAT.OFFSET (R298, 14_pod_fabric.md); 32 bits, signed sixteenths; reset 0 -/
  tbOffset : Int
  /-- TBSTAT.DELAY (R298, 14_pod_fabric.md); 16 bits; reset 0 -/
  tbDelay : BitVec 16
  /-- TBSTAT.LOCK (R299, 14_pod_fabric.md); 1 bit; reset 0 -/
  lock : Bool
  /-- consecutive exchanges with an offset below a quarter tick (R299) MODEL; reset 0 -/
  streak : Nat
  /-- latest incarnation announced by each package: (package, incarnation) (R308); reset empty -/
  incs : List (Nat × BitVec 16)
  /-- SWAPST.CYCLES (R337, 15_interruption.md); 32 bits; reset 0 -/
  swapCycles : BitVec 32
  /-- SWAPST.RESULT (R336, 15_interruption.md); 3 bits; reset 0 -/
  swapResult : BitVec 3
  /-- SWAPST.PART (R336, 15_interruption.md); 4 bits; reset 0 -/
  swapPart : BitVec 4
  /-- a swap in progress: partition, whether it swaps out, the tick it began, and, once fixed, the tick it ends (R336, R337) MODEL; reset none -/
  swap : Option (Nat × Bool × Nat × Option Nat)
  /-- PWRBUD.BUDGET (R363, 17_trust_package.md); 12 bits; reset 3,000 -/
  budget : BitVec 12
  /-- THERMST.TMAX (R364, 17_trust_package.md); 8 bits; reset 0 -/
  tmax : BitVec 8
  /-- THERMST.DIE (R364, 17_trust_package.md); 4 bits; reset 0 -/
  tripDie : BitVec 4
  /-- dies whose reading of 105 °C or above has brought its trip (R364) -/
  hot : BitVec 9
  /-- THERMST.TRIP (R364, 17_trust_package.md); 1 bit; reset 0 -/
  trip : Bool
  /-- STOPALL has been written: everything stands still (R353, 16_retire_debug.md); reset false -/
  stopped : Bool
  /-- the tick from which a written STOPALL acts (R353) MODEL; reset none -/
  stopAt : Option Nat
  /-- DBGCFG.MASTER (R345, 16_retire_debug.md); 1 bit; reset 0 -/
  master : Bool
  /-- fault notices already forwarded (R311) MODEL; reset empty -/
  seen : List Notice
  /-- secured SPDM sessions by function number 0 to 9: 0 none, 1 in key exchange, 2 established (R355, 17_trust_package.md); reset 0 -/
  session : Vector Nat 10
  /-- key of PF 0's IDE stream (R357, 17_trust_package.md); reset none -/
  ide : Option (BitVec 256)
  deriving DecidableEq, Repr

/-- The management registers after package reset. -/
def Pf0.reset : Pf0 where
  deny := 0
  pending := 0
  owner := 0
  partmap := Vector.replicate 9 0
  busy := false
  len := 0
  inc := 0
  parent := 15
  pkg := 0
  tbOffset := 0
  tbDelay := 0
  lock := false
  streak := 0
  incs := []
  swapCycles := 0
  swapResult := 0
  swapPart := 0
  swap := none
  budget := 3000
  tmax := 0
  tripDie := 0
  hot := 0
  trip := false
  stopped := false
  stopAt := none
  master := false
  seen := []
  session := Vector.replicate 10 0
  ide := none

/-- A parked partition (R336): the dies it held, Ys, the reduced contexts by core and context, and the launch-core records by core. -/
structure Parked where
  part : Nat
  dies : List Nat
  ys : Nat
  ctxs : List (CoreId × CtxId × Ctx)
  lcs : List (CoreId × LaunchCore)
  deriving DecidableEq, Repr

/-- The machine: one MWC9-A package with its inputs and outputs. -/
structure State where
  /-- TBNOW (R5, 00_scope.md, R290); 64 bits when read; reset DESIGN CHOICE 0 (log entry 3) -/
  now : Nat
  /-- where the sequencing of the tick stands MODEL; reset DESIGN CHOICE inputs (log entry 5) -/
  phase : Phase
  /-- the bundle in issue MODEL; reset none -/
  focus : Option Focus
  /-- event rows of this phase still to run MODEL; reset empty -/
  todo : List Instr
  /-- counter that the free values are taken at MODEL, not the spec's; reset DESIGN CHOICE 0 (log entry 2) -/
  freeCtr : Nat
  /-- cores 0 to 323 (R46, 03_placement.md) -/
  cores : Vector Core 324
  /-- dies 0 to 8 (R43, 03_placement.md) -/
  dies : Vector Die 9
  /-- HBM and scratchpads by package-local address (R53, R54, 03_placement.md); 40-bit addresses; reset DESIGN CHOICE reads 0 (log entry 1) -/
  mem : Memory
  /-- host memory behind the host window by host address (R55, 03_placement.md): surroundings; reset DESIGN CHOICE reads 0 (log entry 1) -/
  hostMem : Memory
  /-- tile tags that are not 0, by core × 1,536 + tile (R172, 08_scratchpad.md); 16 bits each; reset DESIGN CHOICE 0 (log entry 3) -/
  tags : List (Nat × BitVec 16)
  /-- poisoned 64-bit words, by package-local address / 8, ascending (R328, R329, 15_interruption.md); reset none -/
  poison : List Nat
  /-- HBM ranges, and above 2^48 shadow entries, that read as free values since a new key, as first address, first address after it, and number of the key (R358, R359, 17_trust_package.md); reset empty -/
  scrambled : List (Nat × Nat × Nat)
  /-- words with a correctable bit error, by package-local address / 8, ascending (R328, 15_interruption.md); reset none -/
  weak : List Nat
  /-- user and system skips 0 to 359 (R281, 13_sync_slot.md) -/
  skips : Vector Skip 360
  /-- untimed requests on their way or queued at a home, in order of leaving (R257) -/
  homeQ : List HomeReq
  /-- writes on their way to homes of other packages that have not been acknowledged (R261) -/
  farW : List FarWrite
  /-- replies on their way (R240 to R242) -/
  replies : List ReplyMsg
  /-- shadow entries of watched HBM, by sector address / 32 (R266, 12_memory_model.md); reset empty -/
  shadows : List (Nat × Shadow)
  /-- stamp of the last write of each 4-byte word of untimed memory, by address / 4; host memory above 2^40 (R258) MODEL -/
  stamps : List (Nat × Vector (BitVec 16) 9)
  /-- virtual functions 1 to 9, at index n − 1 (R30, 02_launch.md) -/
  vfs : Vector Vf 9
  /-- BSINV writes not yet done, oldest first: partition, operand, and for the first the dies still to acknowledge with the tick on which they do (R90, 04_bundle.md); reset none, so that BSINVST.DONE is 1 in every VF -/
  bsinv : List (Nat × Word × List (Nat × Nat))
  /-- launches in order of arrival (R34 to R36) -/
  launches : List Launch
  /-- images the loader knows (R26) -/
  images : List LoadedImage
  /-- partition of the launch most recently bound or resumed (R36) MODEL; reset DESIGN CHOICE 9 (log entry 3) -/
  lastPart : Nat
  /-- a selection pass is due (R36) MODEL; reset false -/
  selectDue : Bool
  /-- inputs with the tick from which they may arrive: surroundings; reset DESIGN CHOICE empty (log entry 5) -/
  inputs : List (Nat × Input)
  /-- what has left the package, newest first: surroundings; reset empty -/
  outbox : List (Nat × Output)
  /-- management registers (02_launch.md, 14_pod_fabric.md to 17_trust_package.md) -/
  pf : Pf0
  /-- Taltik ports 0 to 11 (R45, 03_placement.md) -/
  ports : Vector Port 12
  /-- timed accesses on their way to a core of the package (R244) -/
  wire : List Wire
  /-- timed accesses that other packages have yet to perform: launch key, and the last tick on which they concern it (R339) -/
  away : List (Nat × Nat)
  /-- readings of the four junction sensors of each die: surroundings (R364, 17_trust_package.md); reset DESIGN CHOICE 0 (log entry 3) -/
  sensors : Vector Nat 36
  /-- parked partitions (R336, 15_interruption.md); reset empty -/
  parked : List Parked
  /-- launches that have ended so far MODEL; reset 0 -/
  endCount : Nat
  /-- key of the next launch to arrive; 0 is no launch's key MODEL; reset 1 -/
  nextKey : Nat
  deriving DecidableEq, Repr

/-! ## Reset -/

/-- The checkpoint copy after reset: the registers as they are then. -/
def Ckpt.reset : Ckpt where
  issued := 0
  tick := 0
  pc := 0
  pending := none
  loops := []
  x := Vector.replicate 32 0
  v := Vector.replicate 32 0
  m := (Vector.replicate 8 0).set 0 (BitVec.allOnes 128)
  th := Vector.replicate 8 none
  debt := 0
  fpflags := 0
  lfsr := lfsrSeed 1
  rtab := Vector.replicate 4 0
  barcnt := Vector.replicate 4 0
  open_ := []

/-- A context after package reset (R80; log entry 3). -/
def Ctx.reset : Ctx where
  st := .free
  lk := none
  pc := 0
  pending := none
  loops := []
  x := Vector.replicate 32 0
  v := Vector.replicate 32 0
  m := (Vector.replicate 8 0).set 0 (BitVec.allOnes 128)
  th := Vector.replicate 8 none
  debt := 0
  fpflags := 0
  lfsr := lfsrSeed 1
  rtab := Vector.replicate 4 0
  barcnt := Vector.replicate 4 0
  member := Vector.replicate 4 0
  cv := Vector.replicate 9 0
  sin := 0
  atick := Vector.replicate 3 0
  rsin := Vector.replicate 3 0
  rtick := Vector.replicate 3 0
  sentTo := Vector.replicate 3 0
  sentPkg := Vector.replicate 3 []
  unheard := []
  wh := []
  ck := Ckpt.reset
  lastCk := none
  wait := .none
  wakeTick := none
  wakeCyc := none
  rb := none
  since := 0
  rbAt := 0
  lateFl := 0

/-- The face after package reset (R190). -/
def Face.reset : Face where
  arr := 0
  k := 2048
  kv := 2048
  ffmt := none
  bank := false
  rows := []
  scales := []
  errRows := []
  errScales := []
  part := 0

/-- An attenuation table after package reset: entries 0, scale 0x7F (R222). -/
def attReset : BitVec 1032 := 0x7F <<< 1024

/-- The debug registers after package reset (R343 to R354). -/
def Debug.reset : Debug where
  wpaddr := Vector.replicate 4 0
  wpctl := Vector.replicate 4 0
  rec0 := 0
  rec1 := 0
  haltcnt := 0
  wlog := Vector.replicate 16 (Vector.replicate 4 0)
  wnext := 0
  wtotal := 0
  profEn := false
  prof := []
  profLast := none
  profPart := 0
  halted := false
  req := []
  pend := []

/-- A core after package reset (R7). -/
def Core.reset : Core where
  cyc := 0
  port := 3
  vacated := false
  issueFrom := 0
  ctxs := Vector.replicate 4 Ctx.reset
  latches := Vector.replicate 8 ⟨none, none⟩
  lastIssue := Vector.replicate 4 none
  lastWt := none
  lcs := []
  results := []
  acc := []
  cmds := []
  cmdWait := []
  mcasts := []
  land := Vector.replicate 64 ⟨0, none, none⟩
  walks := []
  mforms := []
  mnext := 0
  face := Face.reset
  faceFree := 0
  drainFree := 0
  bgFree := 0
  att := Vector.replicate 4 attReset
  attErr := []
  frzcnt := 0
  paidcnt := 0
  spoil := 0
  timeout := 0
  haul := []
  store := []
  storeErr := []
  refetch := none
  lateSince := none
  fence := none
  banks := Vector.replicate 48 ⟨.active, 0, none⟩
  leaving := []
  traps := []
  reports := []
  squashed := []
  frozen := false
  dbg := Debug.reset
  held := none
  mid := false
  woke := false
  rewrote := none
  shadow := []
  reissue := []
  regErr := []
  ckErr := []
  weakLoc := []
  shadowErr := []

/-- A die after package reset. -/
def Die.reset : Die where
  nw := 0
  done := Vector.replicate 9 0
  ahead := []
  cache := []
  uncor := 0
  corr := 0
  drop := 0
  parked := none
  announce := []

/-- A virtual function after package reset. -/
def Vf.reset : Vf where
  queues := Vector.replicate 16 []
  lqdrop := Vector.replicate 16 0
  crfail := 0
  lqirqen := 0
  lqpriost := 0
  ptroot := 0
  hwbase := 0
  wcinv := []
  racepol := 0
  raceTotal := 0
  raceNext := 0
  trapbase := 0
  trapTotal := 0
  badcmd := false
  trapNext := 0
  trapSeq := 0
  dbgdata := 0
  dbgerr := 0
  dbgbusy := false
  dbgfwd := none
  tdisp := .unlocked
  ide := none
  keys := Vector.replicate 4 none
  keyGen := 0
  pubkey := none
  window := []
  open_ := 0
  polst := 0
  policy := none
  nonce := 0
  lnkshift := 0
  openCtr := 0

/-- Skip n after package reset (R281). -/
def Skip.reset (n : Nat) : Skip where
  payload := 0
  owner := 0
  part := 0
  kind := if n < 8 then 2 else 0
  seq := 0
  lk := none
  prov := none

/-- The machine right after package reset (R7). -/
def State.reset : State where
  now := 0
  phase := .inputs
  focus := none
  todo := []
  freeCtr := 0
  cores := Vector.replicate 324 Core.reset
  dies := Vector.replicate 9 Die.reset
  mem := []
  hostMem := []
  tags := []
  poison := []
  scrambled := []
  weak := []
  skips := Vector.ofFn fun n => Skip.reset n.val
  homeQ := []
  farW := []
  replies := []
  shadows := []
  stamps := []
  vfs := Vector.replicate 9 Vf.reset
  bsinv := []
  launches := []
  images := []
  lastPart := 9
  selectDue := false
  inputs := []
  outbox := []
  pf := Pf0.reset
  ports := Vector.replicate 12 Port.reset
  wire := []
  away := []
  sensors := Vector.replicate 36 0
  parked := []
  endCount := 0
  nextKey := 1

end Sys2Proof.Machine
end

