-- ==== Sys2Proof/Machine/Sparse.lean ====
section
/-!
DEFINITION. Sparse tables in one canonical form, and the byte memory: reading a span and writing a span (R3, R53, R54).
-/

namespace Sys2Proof.Machine

/-! ### Tables keyed by numbers, strictly rising -/

/-- The entry at a key. -/
def tabGet {α : Type} (l : List (Nat × α)) (k : Nat) (dflt : α) : α :=
  match l.find? (fun p => p.1 == k) with
  | some p => p.2
  | none => dflt

/-- The entry at a key, if listed. -/
def tabGet? {α : Type} (l : List (Nat × α)) (k : Nat) : Option α :=
  (l.find? (fun p => p.1 == k)).map Prod.snd

/-- The table without a key. -/
def tabDel {α : Type} (l : List (Nat × α)) (k : Nat) : List (Nat × α) := l.filter (fun p => p.1 != k)

/-- The table with an entry at a key. -/
def tabSet {α : Type} (l : List (Nat × α)) (k : Nat) (v : α) : List (Nat × α) :=
  l.filter (fun p => decide (p.1 < k)) ++ (k, v) :: l.filter (fun p => decide (k < p.1))

/-- A number put into an ascending list without repeats. -/
def setIns (k : Nat) (l : List Nat) : List Nat :=
  l.filter (fun p => decide (p < k)) ++ k :: l.filter (fun p => decide (k < p))

/-- A number taken out of a list. -/
def setDel (k : Nat) (l : List Nat) : List Nat := l.filter (fun p => p != k)

/-! ### Bytes -/

/-- The byte at an address; an unlisted byte reads as 0 (log entry 1). -/
def Memory.byte (m : Memory) (a : Nat) : Byte := tabGet m a 0

/-- n bytes from address a as one number, the lowest address in the lowest bits (R3). -/
def Memory.span (m : Memory) (a n : Nat) : Nat :=
  m.foldl (fun acc p => if a ≤ p.1 ∧ p.1 < a + n then acc + p.2.toNat <<< (8 * (p.1 - a)) else acc) 0

/-- The cells of n bytes from address a, byte i being f i; a zero byte is not listed. -/
def cellsOf (a n : Nat) (f : Nat → Byte) : Memory :=
  (List.range n).filterMap fun i => if f i = 0 then none else some (a + i, f i)

/-- Bytes a to a + n − 1 replaced, byte i by f i. -/
def Memory.put (m : Memory) (a n : Nat) (f : Nat → Byte) : Memory :=
  m.filter (fun p => decide (p.1 < a)) ++ cellsOf a n f ++ m.filter (fun p => decide (a + n ≤ p.1))

/-- Byte i of a number. -/
def byteOf (v i : Nat) : Byte := BitVec.ofNat 8 (v >>> (8 * i))

/-- n bytes written from a number (R3). -/
def Memory.write (m : Memory) (a n v : Nat) : Memory := m.put a n (byteOf v)

/-- One byte changed only in the nibbles that the two mask bits name (R167, R185). -/
def mergeNibbles (lo hi : Bool) (new old : Byte) : Byte :=
  (if lo then new &&& 0x0F else old &&& 0x0F) ||| (if hi then new &&& 0xF0 else old &&& 0xF0)

/-- n bytes written from a number under a nibble mask: mask bits 2i and 2i + 1 govern byte i (R184). -/
def Memory.writeMask (m : Memory) (a n v : Nat) (mask : Nat) : Memory :=
  m.put a n fun i => mergeNibbles (mask.testBit (2 * i)) (mask.testBit (2 * i + 1)) (byteOf v i) (m.byte (a + i))

/-- A nibble mask with both nibbles of n bytes from byte i set. -/
def fullMask (i n : Nat) : Nat := (2 ^ (2 * n) - 1) <<< (2 * i)

end Sys2Proof.Machine
end

