-- ==== Sys2Proof/Machine/Ops.lean ====
section
/-!
DEFINITION. The named operations over the state: cores, contexts, registers, scratchpad chunks, results, traps, and taking a trap (R52 to R54, R69 to R74, R114, R141, R166 to R170, R316 to R325).
-/

namespace Sys2Proof.Machine

/-- The outcome of a meaning. -/
abbrev Out := Host.Outcome State Fault Refusal

/-! ### Cores and contexts -/

def State.core (s : State) (c : CoreId) : Core := s.cores[c]
def State.setCore (s : State) (c : CoreId) (k : Core) : State := { s with cores := s.cores.set c k }
def State.modCore (s : State) (c : CoreId) (f : Core → Core) : State := s.setCore c (f (s.core c))
def Core.ctx (k : Core) (n : CtxId) : Ctx := k.ctxs[n]
def Core.setCtx (k : Core) (n : CtxId) (x : Ctx) : Core := { k with ctxs := k.ctxs.set n x }
def Core.modCtx (k : Core) (n : CtxId) (f : Ctx → Ctx) : Core := k.setCtx n (f (k.ctx n))
def State.ctx (s : State) (c : CoreId) (n : CtxId) : Ctx := (s.core c).ctx n
def State.setCtx (s : State) (c : CoreId) (n : CtxId) (x : Ctx) : State := s.modCore c (fun k => k.setCtx n x)
def State.modCtx (s : State) (c : CoreId) (n : CtxId) (f : Ctx → Ctx) : State := s.modCore c (fun k => k.modCtx n f)
def State.die (s : State) (d : Fin 9) : Die := s.dies[d]
def State.modDie (s : State) (d : Fin 9) (f : Die → Die) : State := { s with dies := s.dies.set d (f s.dies[d]) }
def State.modVf (s : State) (n : Fin 9) (f : Vf → Vf) : State := { s with vfs := s.vfs.set n (f s.vfs[n]) }

/-- A core number, if the part has it (R46). -/
def coreOf (n : Nat) : Option CoreId := if h : n < 324 then some ⟨n, h⟩ else none
/-- A die number, if the part has it (R43). -/
def dieOf? (n : Nat) : Option (Fin 9) := if h : n < 9 then some ⟨n, h⟩ else none
/-- The die of a core (R46). -/
def dieOf (c : CoreId) : Fin 9 := ⟨c.val / 36, by omega⟩
/-- Index of partition p, 1 to 9, in the list of virtual functions. -/
def vfOf (p : Nat) : Option (Fin 9) := if h : 1 ≤ p ∧ p ≤ 9 then some ⟨p - 1, by omega⟩ else none

/-- Die distance (R43). -/
def dieDist (a b : Nat) : Nat :=
  (max (a / 3) (b / 3) - min (a / 3) (b / 3)) + (max (a % 3) (b % 3) - min (a % 3) (b % 3))
/-- Grid row and column of a core (R46). -/
def gridRow (c : Nat) : Nat := 6 * (c / 36 / 3) + c % 36 / 6
def gridCol (c : Nat) : Nat := 6 * (c / 36 % 3) + c % 36 % 6
/-- Hop count (R46). -/
def hops (a b : Nat) : Nat :=
  (max (gridRow a) (gridRow b) - min (gridRow a) (gridRow b)) + (max (gridCol a) (gridCol b) - min (gridCol a) (gridCol b))
/-- O(a, b) of R58. -/
def meshO (a b : Nat) : Nat := 2 * hops a b + 10 * dieDist (a / 36) (b / 36)

/-- The home die of each HBM stack (R45). -/
def stackDie (st : Nat) : Nat :=
  match st with
  | 0 => 0 | 1 => 0 | 2 => 1 | 3 => 2 | 4 => 2 | 5 => 3 | 6 => 5 | 7 => 6 | 8 => 6 | 9 => 7 | _ => 8

/-- The launch of a key. -/
def State.launch (s : State) (lk : Nat) : Option Launch := s.launches.find? (fun l => l.key == lk)
/-- Change the launch of a key. -/
def State.modLaunch (s : State) (lk : Nat) (f : Launch → Launch) : State :=
  { s with launches := s.launches.map fun l => if l.key = lk then f l else l }
/-- Partition of a launch, 0 if there is none. -/
def State.partOf (s : State) (lk : Nat) : Nat := ((s.launch lk).map Launch.part).getD 0
/-- The record of a launch on a core. -/
def Core.lc (k : Core) (lk : Nat) : Option LaunchCore := k.lcs.find? (fun l => l.lk == lk)
/-- Change the record of a launch on a core. -/
def Core.modLc (k : Core) (lk : Nat) (f : LaunchCore → LaunchCore) : Core :=
  { k with lcs := k.lcs.map fun l => if l.lk = lk then f l else l }
/-- The record of the launch of a context. -/
def Core.lcOf (k : Core) (n : CtxId) : Option LaunchCore := (k.ctx n).lk.bind k.lc

/-! ### Errors of stored words (R328) -/

/-- Saturating sum of a counter. -/
def satAdd {w : Nat} (a : BitVec w) (n : Nat) : BitVec w := BitVec.ofNat w (min (a.toNat + n) (2 ^ w - 1))

/-- Corrected reads of words outside the scratchpad are counted (R328). -/
def State.noteLoc (s : State) (c : CoreId) (p : ErrLoc → Bool) : State :=
  let n := ((s.core c).weakLoc.filter p).length
  if n = 0 then s else s.modDie (dieOf c) fun x => { x with corr := satAdd x.corr n }

/-- Words that a write replaces hold no error afterwards. -/
def Core.heal (k : Core) (p : ErrLoc → Bool) : Core := { k with weakLoc := k.weakLoc.filter fun l => !p l }

/-! ### Free values (R9, log entry 2) -/

/-- The free value number n, below 4,096, of this moment. -/
def State.freeV (s : State) (n : Nat) : BitVec 4096 := Config.freeValue (4096 * s.freeCtr + n)
/-- Move on to fresh free values. -/
def State.tickFree (s : State) : State := { s with freeCtr := s.freeCtr + 1 }

/-! ### Registers (R69, R70) -/

/-- Register xn; x0 reads zero. -/
def Ctx.xr (k : Ctx) (n : BitVec 5) : Word := if n = 0 then 0 else k.x[n.toNat]
/-- Write register xn; a write to x0 is discarded. -/
def Ctx.setX (k : Ctx) (n : BitVec 5) (v : Word) : Ctx := if n = 0 then k else { k with x := k.x.set n.toNat v }
/-- Register vn. -/
def Ctx.vr (k : Ctx) (n : BitVec 5) : VReg := k.v[n.toNat]
/-- Write register vn. -/
def Ctx.setV (k : Ctx) (n : BitVec 5) (v : VReg) : Ctx := { k with v := k.v.set n.toNat v }
/-- Register mn; m0 reads all ones. -/
def Ctx.mr (k : Ctx) (n : BitVec 3) : MaskReg := if n = 0 then BitVec.allOnes 128 else k.m[n.toNat]
/-- Write register mn; a write to m0 is discarded. -/
def Ctx.setM (k : Ctx) (n : BitVec 3) (v : MaskReg) : Ctx := if n = 0 then k else { k with m := k.m.set n.toNat v }

/-- Lanes of `new` where the mask is set, of `old` elsewhere (R144). -/
def mergeLanes (wen : MaskReg) (new old : VReg) : VReg :=
  BitVec.ofNat 4096 (packNat 32 ((List.range 128).map fun l =>
    if wen.getLsbD l then elemNat 32 new l else elemNat 32 old l))

/-- The number of a latch's newer or older content to a unit (R71). -/
def latchUnit (n : BitVec 4) : Fin 8 := ⟨n.toNat / 2, by omega⟩

/-- A latch content that no event of R73 has made undefined, read by context k at cycle r. -/
def Core.latchOk (c : Core) (k : CtxId) (at_ : Nat) : Bool :=
  (List.finRange 4).all (fun j => j == k || (c.lastIssue[j]).all (fun e => decide (e < at_))) &&
  c.lastWt.all (fun e => decide (e < at_)) &&
  ((c.ctx k).lastCk).all (fun e => decide (e < at_))

/-- The content of latch n as context k reads it; undefined contents are none (R71, R73). -/
def Core.latch (c : Core) (k : CtxId) (n : BitVec 4) : Option VReg :=
  let p := c.latches[latchUnit n]
  match (if n.getLsbD 0 then p.a1 else p.a0) with
  | some (v, at_) => if c.latchOk k at_ then some v else none
  | none => none

/-- A loop index as the bundle in issue reads it (R107). -/
def Focus.lp (f : Focus) (n : BitVec 3) : BitVec 32 := ((f.loops[n.toNat]?).map LoopEntry.idx).getD 0

/-- Literal n of the bundle in issue (R66, R68). -/
def Focus.literal (f : Focus) (n : BitVec 3) : BitVec 32 := bits f.word (352 + 32 * n.toNat) 32

/-- Header bits of the bundle in issue (R67). -/
def hdrCK (b : BundleWord) : Bool := b.getLsbD 15

/-- The content of a latch, or a free value where it is undefined (R73): a CK bundle reads every latch so, whether its checkpoint has been taken yet or not. -/
def State.latchVal (s : State) (f : Focus) (n : BitVec 4) : VReg :=
  match if hdrCK f.word then none else (s.core f.core).latch f.ctx n with
  | some v => v
  | none => Config.freeValue (4096 * f.seed + 16 * f.part + n.toNat)

/-- A source of class x (R69). -/
def State.readX (s : State) (f : Focus) : Src → Word
  | .reg n => (s.ctx f.core f.ctx).xr n
  | .latch n => bits (s.latchVal f n) 0 64
  | .lit n => sext64 (f.literal n)
  | .loop n => zext64 (f.lp n)
  | .zero => 0
  | .ctx => BitVec.ofNat 64 f.ctx.val

/-- A source of class v (R69). -/
def State.readV (s : State) (f : Focus) : Src → VReg
  | .reg n => (s.ctx f.core f.ctx).vr n
  | .latch n => s.latchVal f n
  | .lit n => BitVec.ofNat 4096 (packNat 32 (List.replicate 128 (f.literal n).toNat))
  | .loop n => BitVec.ofNat 4096 (packNat 32 (List.replicate 128 (f.lp n).toNat))
  | .zero => 0
  | .ctx => BitVec.ofNat 4096 (packNat 32 (List.replicate 128 f.ctx.val))

/-- A source of class m (R69). -/
def State.readM (s : State) (f : Focus) : Src → MaskReg
  | .reg n => (s.ctx f.core f.ctx).mr (bits n 0 3)
  | .latch n => bits (s.latchVal f n) 0 128
  | .lit n => (f.literal n).zeroExtend 128
  | .loop n => (f.lp n).zeroExtend 128
  | .zero => 0
  | .ctx => BitVec.ofNat 128 f.ctx.val

/-! ### The bundle in issue -/

/-- The cycle on which the bundle issues. -/
def State.cycle (s : State) (f : Focus) : Nat := (s.core f.core).cyc

/-- PCB: the byte value of the program counter (R83, 05_scalar_slot.md). -/
def Focus.pcb (f : Focus) : Word := BitVec.ofNat 64 (64 * f.idx.toNat)

def hdrYP (b : BundleWord) : Bool := b.getLsbD 14
def hdrLE (b : BundleWord) : Bool := b.getLsbD 13
def hdrWT (b : BundleWord) : Bool := b.getLsbD 12
def hdrNL (b : BundleWord) : Nat := (bits b 9 3 : BitVec 3).toNat

/-- The launch key of the bundle in issue; 0 stands where the context is bound to none. -/
def State.focusLk (s : State) (f : Focus) : Nat := (s.ctx f.core f.ctx).lk.getD 0

/-! ### Results (R74, R76) -/

/-- Results in order of issue cycle and then of part (R76). -/
def insertResult (r : Result) : List Result → List Result
  | [] => [r]
  | q :: qs =>
    if r.issued < q.issued || (r.issued == q.issued && r.part < q.part) then r :: q :: qs
    else q :: insertResult r qs

def Core.addResult (k : Core) (r : Result) : Core := { k with results := insertResult r k.results }
def State.addResult (s : State) (c : CoreId) (r : Result) : State := s.modCore c (fun k => k.addResult r)

/-- A result of the bundle in issue, with latency lat (R74). -/
def State.result (s : State) (f : Focus) (part lat : Nat) (dest : Dest) (val : VReg) (wen : MaskReg)
    (latch : Option (Fin 8)) (fl : Flags) : State :=
  s.addResult f.core ⟨f.ctx, s.focusLk f, s.cycle f, part, s.cycle f + lat, false, dest, val, wen, latch, fl, false⟩

/-- The destination of a native form of class x: with NW the latch alone (R70). -/
def destX (d : BitVec 5) (nw : Bool) : Dest := if nw then .none else .x d
def destV (d : BitVec 5) (nw : Bool) : Dest := if nw then .none else .v d
def destM (d : BitVec 5) (nw : Bool) : Dest := if nw then .none else .m (bits d 0 3)

/-- A 64-bit result of a native slot (R70, R71). -/
def State.resultX (s : State) (f : Focus) (part lat : Nat) (d : BitVec 5) (nw : Bool) (unit : Fin 8) (v : Word) : State :=
  s.result f part lat (destX d nw) (v.zeroExtend 4096) allLanes (some unit) 0

/-! ### Traps (R319) -/

def Core.addTrap (k : Core) (t : Trap) : Core := { k with traps := k.traps ++ [t] }

/-- Raise a trap whose originating form is in the bundle in issue. -/
def State.raise (s : State) (f : Focus) (part cause : Nat) (addr : Word) : State :=
  s.modCore f.core fun k =>
    k.addTrap ⟨f.ctx, s.focusLk f, cause, part, 0, addr, f.idx, k.cyc, 0, 0, false⟩

/-! ### Local addresses (R53, R170) -/

/-- The bank of a local address (R53). -/
def bankOf (a : Nat) : Nat := a / 0x20000
/-- The tile of a local address, 0 to 1,535 (R53). -/
def tileOf (a : Nat) : Nat := a / 0x1000
/-- The sub-bank of a local address (R53, R166). -/
def subOf (a : Nat) : Nat := a / 64 % 8
/-- The chunk of a local address. -/
def chunkOf (a : Nat) : Nat := a / 64 * 64
/-- The package-local address of a local address of a core (R54). -/
def localPa (c : CoreId) (a : Nat) : Nat := 0xC000000000 + c.val * 0x800000 + a

/-- Is a bank in BANKS and owned by the launch now (R170 check 3, R19)? -/
def LaunchCore.ownsBank (l : LaunchCore) (b : Nat) : Bool :=
  if h : b < 48 then l.bst[b] == .owned else false

/-- The checks of R170 on one address, alignment included; true when they pass. -/
def localOk (l : Option LaunchCore) (a align : Nat) : Bool :=
  decide (a ≤ 0x5FFFFF) && decide (a % align = 0) && l.any (fun l => l.ownsBank (bankOf a))

/-- The first address of a list that fails R170. -/
def firstBad (l : Option LaunchCore) (align : Nat) (as : List Nat) : Option Nat := as.find? (fun a => !localOk l a align)

/-! ### Scratchpad contents -/

/-- n bytes of a core's scratchpad (R167). -/
def State.pad (s : State) (c : CoreId) (a n : Nat) : Nat := s.mem.span (localPa c a) n
/-- The tag of a tile (R172). -/
def State.tag (s : State) (c : CoreId) (tile : Nat) : BitVec 16 := tabGet s.tags (c.val * 1536 + tile) 0
/-- Set the tag of a tile; a tag of 0 is not listed. -/
def State.setTag (s : State) (c : CoreId) (tile : Nat) (v : BitVec 16) : State :=
  let k := c.val * 1536 + tile
  { s with tags := if v = 0 then tabDel s.tags k else tabSet s.tags k v }

/-- Is the 64-bit word at a package-local address poisoned (R329)? -/
def State.poisoned (s : State) (pa : Nat) : Bool := s.poison.contains (pa / 8)
/-- The poison marks of the eight words of a chunk. -/
def State.chunkPoison (s : State) (pa : Nat) : BitVec 8 :=
  BitVec.ofNat 8 (packNat 1 ((List.range 8).map fun i => (s.poisoned (pa + 8 * i)).toNat))

/-- Poison marks after a write to word w: replaced whole by the mark it carries, set by a partial write that carries one, else kept (R329). -/
def poisonWord (whole mark : Bool) (w : Nat) (l : List Nat) : List Nat :=
  if mark then setIns w l else if whole then setDel w l else l

/-- The poison marks after a chunk write (R329). -/
def poisonChunk (pa : Nat) (mask : BitVec 128) (marks : BitVec 8) : Nat → List Nat → List Nat
  | 0, l => l
  | n + 1, l =>
    let l := poisonChunk pa mask marks n l
    let m : BitVec 16 := bits mask (16 * n) 16
    if m = 0 then l else poisonWord (m == BitVec.allOnes 16) (marks.getLsbD n) (pa / 8 + n) l

/-- One chunk write performed on memory and poison marks (R167, R329). A whole-word write also replaces a word with a correctable error (log entry 24). -/
def State.writeChunk (s : State) (pa : Nat) (w : ChunkW) : State :=
  { s with
    mem := s.mem.writeMask pa 64 w.data.toNat w.mask.toNat
    poison := poisonChunk pa w.mask w.poison 8 s.poison
    weak := poisonChunk pa w.mask 0 8 s.weak }

/-- A local chunk write. -/
def State.writeLocal (s : State) (c : CoreId) (w : ChunkW) : State := s.writeChunk (localPa c w.addr) w

/-- The chunk writes that put a number of n bytes at a local address, under a byte mask. -/
def chunksFor (a n v : Nat) (bytes : Nat → Bool) : List ChunkW :=
  let first := a / 64
  let count := (a + n + 63) / 64 - first
  (List.range count).filterMap fun j =>
    let base := (first + j) * 64
    let mask := (List.range 64).foldl (fun acc i =>
      let p := base + i
      if a ≤ p ∧ p < a + n ∧ bytes (p - a) then acc + 3 <<< (2 * i) else acc) 0
    let data := if base ≥ a then v >>> (8 * (base - a)) else v <<< (8 * (a - base))
    if mask = 0 then none else some ⟨base, BitVec.ofNat 512 data, BitVec.ofNat 128 mask, 0⟩

/-! ### The withhold buffer (R174) -/

/-- Take a withhold entry; the 129th raises trap 0x12 and takes none. -/
def State.withhold (s : State) (f : Focus) (part : Nat) (w : WKind) : State :=
  if (s.ctx f.core f.ctx).wh.length ≥ 128 then s.raise f part 0x12 0
  else
    s.modCtx f.core f.ctx fun k => { k with wh := k.wh ++ [⟨s.cycle f, part, f.idx, w, none⟩] }

/-! ### Accesses (R167) -/

/-- A scratchpad access of the bundle in issue, on its perform cycle. -/
def Focus.access (f : Focus) (s : State) (part eng : Nat) (party : Party) (due : Nat) (rd : List Nat)
    (wr : List ChunkW) (act : Act) : Access :=
  { due := due, byTick := false, party := party, always := false, prio := 0, ctx := f.ctx, lk := s.focusLk f,
    issued := s.cycle f, part := part, eng := eng, bundle := f.idx, rd := rd, wr := wr, tagR := none, tagW := [],
    zero := [], hold := none, act := act, lost := [] }

def State.addAccess (s : State) (c : CoreId) (a : Access) : State := s.modCore c (fun k => { k with acc := k.acc ++ [a] })

/-! ### Output -/

def State.emit (s : State) (o : Output) : State := { s with outbox := (s.now, o) :: s.outbox }

end Sys2Proof.Machine
end

