-- ==== Sys2Proof/Machine/Operands.lean ====
section
/-!
DEFINITION. Which operands a slot form has, and the checks made at its issue before any slot performs: legal fields (R93), literals (R68), operand values (R79, R202), vector registers at or above VREGS (R19, R146) and register words with an uncorrectable error (R328).
-/

namespace Sys2Proof.Machine

/-- The part number of a slot form (R92); 0 for an event. -/
def partOf (i : Instr) : Nat :=
  match wfV i with
  | some (o, _) => if o.v1 then 3 else 2
  | none =>
  match wfM i with
  | some _ => 4
  | none =>
  match wfL i with
  | some _ => 5
  | none =>
  match wfS i with
  | some _ => 6
  | none =>
  match wfC i with
  | some _ => 7
  | none =>
  match wfY i with
  | some _ => 8
  | none => if (encodeS i).isSome then 1 else 0

/-- Operand classes (R69). -/
inductive Cls where
  | x | v | m | t
  deriving DecidableEq, Repr

/-- The sources of a vector form, with their classes; the mask register included (R95, R143, R216). -/
def sourcesV (i : Instr) (o : VOps) : List (Cls × Src) :=
  let mask : List (Cls × Src) := if o.mask = 0 then [] else [(.m, .reg (o.mask.zeroExtend 5))]
  let one : List (Cls × Src) := [(.v, o.a)]
  let two : List (Cls × Src) := [(.v, o.a), (.v, o.b)]
  let three : List (Cls × Src) := [(.v, o.a), (.v, o.b), (.v, o.c)]
  match i with
  | .vfma _ | .vfms _ | .vfnma _ | .vslide _ => three ++ mask
  | .vabs _ | .vneg _ | .vnot _ | .vcvt _ | .vwiden _ | .vmxq _ | .vredsum _ | .vredmax _ | .vredmin _ | .vscan _
  | .vscanmax _ | .vmov _ | .vexp2 _ | .vlog2 _ | .vrcp _ | .vrsqrt _ | .vclass _ | .vrecon _ | .vrtab _ => one ++ mask
  | .mand _ | .mor _ | .mxor _ => [(.m, o.a), (.m, o.b)]
  | .mnot _ | .mpop _ | .mfirst _ => [(.m, o.a)]
  | .viota _ => mask
  | .vfill _ => (Cls.x, o.a) :: mask
  | .vext _ => [(.v, o.a), (.x, o.b)]
  | .vins _ => [(.v, o.a), (.x, o.b), (.x, o.c)]
  | _ => two ++ mask

/-- The vector registers a vector form names as destination (R95). -/
def destsV (i : Instr) (o : VOps) : List (BitVec 5) :=
  match i with
  | .vcmp _ | .mand _ | .mor _ | .mxor _ | .mnot _ | .vext _ | .vrtab _ => []
  | _ => if o.nw then [] else [o.d]

def sourcesM (i : Instr) (o : MOps) : List (Cls × Src) :=
  let c : List (Cls × Src) := [(.x, o.c)]
  match i with
  | .mcfg _ => [(.x, o.a), (.x, o.b)]
  | .mwbank _ => []
  | .mma _ | .mmaT _ => (Cls.x, o.a) :: (Cls.x, o.b) :: (if o.fl.getLsbD 1 then c else [])
  | .mmaR _ => [(.t, o.a), (.x, o.b), (.x, o.c)]
  | .matt _ | .mrel _ => [(.x, o.a)]
  | .mxt _ => [(.x, o.a), (.x, o.b)]
  | .mdr _ => (Cls.x, o.a) :: (Cls.x, o.b) :: (if o.fl.getLsbD 3 then c else [])
  | _ => [(.x, o.a), (.x, o.b), (.x, o.c)]

def sourcesL (i : Instr) (o : LdOps) : List (Cls × Src) :=
  let mask : List (Cls × Src) := if o.mask = 0 then [] else [(.m, .reg (o.mask.zeroExtend 5))]
  match i with
  | .vld _ => (Cls.x, o.a) :: (if o.k then [(Cls.x, o.b)] else []) ++ mask
  | .vlds _ | .vldm _ => (Cls.x, o.a) :: (Cls.x, o.b) :: mask
  | _ => (Cls.x, o.a) :: mask

def sourcesT (i : Instr) (o : StOps) : List (Cls × Src) :=
  let mask : List (Cls × Src) := if o.mask = 0 then [] else [(.m, .reg (o.mask.zeroExtend 5))]
  match i with
  | .vst _ => (Cls.x, o.a) :: (Cls.v, o.b) :: (if o.k then [(Cls.x, o.c)] else []) ++ mask
  | .vstm _ | .vsth _ => (Cls.x, o.a) :: (Cls.v, o.b) :: mask
  | .vsts _ => (Cls.x, o.a) :: (Cls.v, o.b) :: (Cls.x, o.c) :: mask
  | .tzero _ => [(.x, o.a), (.x, o.c)]
  | .amo _ => [(.x, o.a), (.x, o.b)]
  | _ => [(.x, o.a), (.x, o.b), (.x, o.c)]

def sourcesC (i : Instr) (o : COps) : List (Cls × Src) :=
  let sh : Cls × Src := (.x, .reg o.d)
  match i with
  | .cp _ => [(.x, o.a), (.x, o.b), sh]
  | .cpRed _ => (Cls.x, o.a) :: (Cls.x, o.b) :: sh :: (if o.inplace then [] else [(Cls.x, o.c)])
  | .rwr _ => [(.x, o.a), (.t, o.b), (.x, o.c), sh]
  | .rrd _ => [(.t, o.a), (.x, o.b), (.x, o.c), sh]
  | .xlat _ => [(.x, o.a)]
  | .mcast _ => [(.x, o.a), (.x, o.b), (.x, o.c)]
  | .lnkRun _ | .lnkSel _ => [(.x, o.a), (.x, o.b)]
  | _ => [(.t, o.a), (.x, o.b), (.x, o.c)]

def sourcesY : Instr → List (Cls × Src)
  | .loop a _ | .lbrk a | .bankAcq a | .bankRel a | .guard a | .bankTst a _ _ | .haulLd a _ _ | .haulPass a _ _
  | .codeLock a _ _ | .codeLockW a _ _ | .codeUnlock a | .syswr a _ | .trap a => [(.x, a)]
  | .loopx a b | .haulOp a b _ _ _ _ _ | .haulXchg a b _ _ _ | .haulCas a b _ _ _ | .haulLse a b _ _ _
  | .haulBar a b _ => [(.x, a), (.x, b)]
  | .haulBoard b _ _ => [(.v, b)]
  | .haulAlight a b sv => if sv then [(.x, a), (.x, b)] else [(.x, a)]
  | .haulSt a b all _ => [(.x, a), (if all then .v else .x, b)]
  | _ => []

/-- The registers that a scalar form reads (R98). -/
def sourcesS (i : Instr) : List (Cls × Src) :=
  let r (n : BitVec 5) : Cls × Src := (.x, .reg n)
  match i with
  | .jalr _ a _ | .lb _ a _ | .lh _ a _ | .lw _ a _ | .ldd _ a _ | .lbu _ a _ | .lhu _ a _ | .lwu _ a _ | .addi _ a _
  | .slti _ a _ | .sltiu _ a _ | .xori _ a _ | .ori _ a _ | .andi _ a _ | .slli _ a _ | .srli _ a _ | .srai _ a _
  | .addiw _ a _ | .slliw _ a _ | .srliw _ a _ | .sraiw _ a _ => [r a]
  | .beq a b _ | .bne a b _ | .blt a b _ | .bge a b _ | .bltu a b _ | .bgeu a b _ | .sb a b _ | .shh a b _ | .sw a b _
  | .sd a b _ | .add _ a b | .sub _ a b | .sll _ a b | .slt _ a b | .sltu _ a b | .xorR _ a b | .srl _ a b | .sra _ a b
  | .orR _ a b | .andR _ a b | .mul _ a b | .mulh _ a b | .mulhsu _ a b | .mulhu _ a b | .div _ a b | .divu _ a b
  | .rem _ a b | .remu _ a b | .addw _ a b | .subw _ a b | .sllw _ a b | .srlw _ a b | .sraw _ a b | .mulw _ a b
  | .divw _ a b | .divuw _ a b | .remw _ a b | .remuw _ a b => [r a, r b]
  | _ => []

/-- The sources of a slot form with their classes; handles, which have no poison and are in range, are left out. -/
def sourcesOf (i : Instr) : List (Cls × Src) :=
  match wfV i, wfM i, wfL i, wfS i, wfC i with
  | some (o, _), _, _, _, _ => sourcesV i o
  | _, some (o, _), _, _, _ => sourcesM i o
  | _, _, some (o, _), _, _ => sourcesL i o
  | _, _, _, some (o, _), _ => sourcesT i o
  | _, _, _, _, some (o, _) => sourcesC i o
  | _, _, _, _, _ => sourcesY i ++ sourcesS i

/-- The vector registers a slot form names as destination. -/
def vdestsOf (i : Instr) : List (BitVec 5) :=
  match i, wfV i, wfL i with
  | _, some (o, _), _ => destsV i o
  | .ldtag _, _, _ => []
  | _, _, some (o, _) => if o.nw then [] else [o.d]
  | .haulLd _ d nw, _, _ => if nw then [] else [d]
  | _, _, _ => []

/-- The vector registers a form names (R19, R146). -/
def vregsOf (i : Instr) : List (BitVec 5) :=
  vdestsOf i ++ (sourcesOf i).filterMap fun
    | (.v, .reg n) => some n
    | _ => none

/-- Does a source name a literal at or above NL (R68)? -/
def litBad (f : Focus) : Cls × Src → Bool
  | (_, .lit n) => decide (n.toNat ≥ hdrNL f.word)
  | _ => false

/-- The register that a source reads: class 0 x, 1 v, 2 m, 3 th, and number; x0 and m0 hold no word (R69, R328). -/
def regRead : Cls × Src → Option (Nat × Nat)
  | (.x, .reg n) => if n = 0 then none else some (0, n.toNat)
  | (.v, .reg n) => some (1, n.toNat)
  | (.m, .reg n) => if n = 0 then none else some (2, n.toNat)
  | (.t, .reg n) => some (3, n.toNat % 8)
  | _ => none

/-- Does a source read a register word that holds an uncorrectable error (R328)? -/
def regBad (k : Core) (c : CtxId) (q : Cls × Src) : Bool :=
  (regRead q).any fun r => k.regErr.any fun e => e.1 == c.val && e.2.1 == r.1 && e.2.2.1 == r.2

/-- The first failing check made before any slot performs: cause and ADDR. `bad` says whether an operand value fails (R79). The spec states no ADDR for a register, so that one is a free value (log entry 2). -/
def State.formCheck (s : State) (f : Focus) (i : Instr) (bad : Bool) : Option (Nat × Word) :=
  let srcs := sourcesOf i
  if !i.wf || srcs.any (litBad f) || bad then some (0x01, 0)
  else if (vregsOf i).any (fun n => decide (n.toNat ≥ (((s.core f.core).lcOf f.ctx).map LaunchCore.vregs).getD 32)) then
    some (0x03, bits (s.freeV 240) 0 64)
  else if srcs.any (regBad (s.core f.core) f.ctx) then some (0x30, bits (s.freeV 241) 0 64)
  else none

/-- Reads of register words with a correctable error are counted (R328). -/
def State.noteRegs (s : State) (f : Focus) (i : Instr) : State :=
  s.noteLoc f.core fun
    | .reg _ c cls num _ copy => c == f.ctx && !copy && ((sourcesOf i).filterMap regRead).contains (cls, num)
    | _ => false

/-- A slot form: without a bundle in issue there is nothing to do it for; a failed check raises its trap and nothing of the form performs. -/
def slotRun (i : Instr) (name : String) (s : State) (bad : Focus → Bool) (go : Focus → State) : Out :=
  match s.focus with
  | some f =>
    match s.formCheck f i (bad f) with
    | some (c, a) => .next (s.raise f (partOf i) c a)
    | none => .next (go f)
  | none => .fault (.notDue name)

/-- A slot form whose operand values are all legal. -/
def slotGo (i : Instr) (name : String) (s : State) (go : Focus → State) : Out := slotRun i name s (fun _ => false) go

end Sys2Proof.Machine
end

