-- ==== Sys2Proof/Machine/Watch.lean ====
section
/-!
DEFINITION. Watchpoints: which bytes hit, the records, and the action of a precise hit (R342, R349 to R352); a halt in the middle of a bundle (R346 to R348).
-/

namespace Sys2Proof.Machine

/-- The global context identifier (R290). -/
def State.gcid (s : State) (c ctx : Nat) : BitVec 23 := BitVec.ofNat 23 (2048 * s.pf.pkg.toNat + 4 * c + ctx)

/-- Does the debug policy of partition p open bit b (R342, R360)? -/
def State.isOpen (s : State) (p b : Nat) : Bool := ((vfOf p).map (fun n => (s.vfs[n].open_).getLsbD b)).getD false

/-- Field values of a watchpoint (R349). -/
def wpEn (c : Word) : Bool := c.getLsbD 0
def wpKind (c : Word) : Bool := c.getLsbD 2
def wpAct (c : Word) : Nat := let a := (bits c 3 2 : BitVec 2).toNat; if a = 3 then 0 else a

/-- The selected bytes of watchpoint n that an access touches, as the HIT mask (R349, R352). -/
def Debug.hit (d : Debug) (n : Fin 4) (write : Bool) (touch : Nat → Bool) : BitVec 16 :=
  let c := d.wpctl[n]
  let a := ((d.wpaddr[n] >>> 4) <<< 4).toNat
  if wpEn c && wpKind c == write then
    BitVec.ofNat 16 (packNat 1 ((List.range 16).map fun i => (c.getLsbD (16 + i) && touch (a + i)).toNat))
  else 0

/-- The lowest selected byte hit. -/
def Debug.hitAddr (d : Debug) (n : Fin 4) (h : BitVec 16) : Nat :=
  ((d.wpaddr[n] >>> 4) <<< 4).toNat + ((List.range 16).find? (fun i => h.getLsbD i)).getD 0

/-- A watch record (R352). -/
def watchRecord (wp : Nat) (write precise : Bool) (eng part : Nat) (bundle : BitVec 12) (who : BitVec 23)
    (addr : Nat) (hit : BitVec 16) (atick rtick : Nat) : Vector Word 4 :=
  #v[who.zeroExtend 32 ++ (bundle.zeroExtend 16 : BitVec 16) ++ BitVec.ofNat 8 part ++ BitVec.ofNat 4 eng ++
      BitVec.ofBool precise ++ BitVec.ofBool write ++ BitVec.ofNat 2 wp,
    (hit.zeroExtend 32 : BitVec 32) ++ BitVec.ofNat 32 addr, BitVec.ofNat 64 atick, BitVec.ofNat 64 rtick]

/-- Put a record into the watch log (R352). -/
def Debug.post (d : Debug) (r : Vector Word 4) : Debug :=
  { d with
    wlog := d.wlog.set d.wnext.toNat r
    wnext := d.wnext + 1
    wtotal := if d.wtotal = BitVec.allOnes 16 then d.wtotal else d.wtotal + 1 }

/-- The halt record (R348). -/
def haltWord (ctx reason : Nat) (done : BitVec 9) (part : Nat) (idx : BitVec 12) : Word :=
  BitVec.ofNat 28 0 ++ BitVec.ofNat 2 ctx ++ BitVec.ofNat 4 reason ++ done ++ BitVec.ofNat 4 0 ++ BitVec.ofNat 5 part ++ idx

/-- Halt a core in the middle of the bundle in issue, at part j (R346, R347); the record shows the done bits below j, and bit j of a part that has performed (R348). -/
def State.haltMid (s : State) (f : Focus) (reason part : Nat) (done : BitVec 9) (exempt : BitVec 4) : State :=
  let s := s.modCore f.core fun k =>
    { k with
      held := some { f with part := part, done := done, exempt := exempt }
      mid := true
      dbg := { k.dbg with
        halted := true
        rec0 := haltWord f.ctx.val reason (done &&& BitVec.ofNat 9 (2 ^ (part + 1) - 1)) part f.idx
        rec1 := BitVec.ofNat 64 s.now } }
  { s with focus := none }

/-- The ACT of a watchpoint of a core that serves a partition: none halts while its halts are closed (R342). -/
def State.actOf (s : State) (part : Nat) (c : Word) : Nat := if wpAct c = 2 ∧ !s.isOpen part 0 then 0 else wpAct c

/-- A core resumes; the traps that the halt held are then taken first (R346). -/
def Core.unhalt (k : Core) : Core := { k with dbg := { k.dbg with halted := false }, woke := k.woke || k.dbg.halted }

/-- Judge a precise access and perform it, trap or halt (R350); while halts are closed an ACT 2 counts as 0 (R342; log entry 135). `perf` performs it. -/
def State.watched (s : State) (f : Focus) (part : Nat) (write : Bool) (touch : Nat → Bool) (perf : State → State) : State :=
  if !s.isOpen (s.partOf (s.focusLk f)) 2 then perf s
  else
    let d := (s.core f.core).dbg
    let hits := (List.finRange 4).filter fun n => d.hit n write touch != 0 && !f.exempt.getLsbD n.val
    let s := s.modCore f.core fun k =>
      { k with dbg := hits.foldl (fun d n =>
          d.post (watchRecord n.val write true 0 part f.idx (s.gcid f.core.val f.ctx.val)
            (d.hitAddr n (d.hit n write touch)) (d.hit n write touch) s.now s.now)) k.dbg }
    let act := hits.foldl (fun a n => max a (s.actOf (s.partOf (s.focusLk f)) d.wpctl[n])) 0
    if act = 0 then perf s
    else if act = 1 then
      let n := (hits.find? (fun n => wpAct d.wpctl[n] == 1)).getD 0
      s.raise f part 0x60 (BitVec.ofNat 64 (d.hitAddr n (d.hit n write touch)))
    else
      s.haltMid f 3 part (f.done &&& ~~~((1 : BitVec 9) <<< part)) (BitVec.ofNat 4 (packNat 1 ((List.finRange 4).map fun n => (hits.contains n).toNat)))

/-- The record that watchpoint n makes of a write of an imprecise writer (R351). -/
def Debug.lateHit (d : Debug) (n : Fin 4) (eng : Nat) (bundle : BitVec 12) (who : BitVec 23) (skid : Nat)
    (touch : Nat → Bool) (now : Nat) : Option WatchRec :=
  let h := d.hit n true touch
  if h = 0 then none
  else
    some { due := now + skid
           words := watchRecord n.val true false eng 9 bundle who (d.hitAddr n h) h now (now + skid)
           halt := wpAct d.wpctl[n] == 2 }

/-- Judge a write of an imprecise writer when it performs: its record falls due later (R351). `who` 0 and bundle 0 for engines 3 and 5. -/
def State.watchLate (s : State) (c : CoreId) (part eng : Nat) (bundle : BitVec 12) (who : BitVec 23) (skid : Nat)
    (touch : Nat → Bool) : State :=
  if !s.isOpen part 2 then s
  else
    s.modCore c fun k =>
      let recs := (List.finRange 4).filterMap fun n => k.dbg.lateHit n eng bundle who skid touch s.now
      { k with dbg := { k.dbg with pend := k.dbg.pend ++ recs } }

/-- The bytes that chunk writes change (R349: a nibble write counts as a write of its byte). -/
def touches (wr : List ChunkW) (a : Nat) : Bool :=
  wr.any fun w => decide (w.addr ≤ a) && decide (a < w.addr + 64) &&
    (w.mask.getLsbD (2 * (a - w.addr)) || w.mask.getLsbD (2 * (a - w.addr) + 1))

end Sys2Proof.Machine
end

