-- ==== Sys2Proof/Machine/Flags.lean ====
section
/-!
DEFINITION. How a result reaches its register, its bypass latch and FPFLAGS (R72, R74, R76, R100, R129, R130, R144, R177).
-/

namespace Sys2Proof.Machine

/-- The flags of FPFLAGS that exist (R129). -/
def flAll : Flags := 0x19F

/-- Set flags; they stay set until a syswr (R129). -/
def Ctx.orFlags (k : Ctx) (f : Flags) : Ctx := { k with fpflags := k.fpflags ||| (f &&& flAll) }

/-- Flags of a form issued at a cycle; those of a form before the checkpoint are kept for a rollback (R131). -/
def Ctx.lateFlags (k : Ctx) (issued : Nat) (f : Flags) : Ctx :=
  let k := k.orFlags f
  if issued < k.ck.issued then { k with lateFl := k.lateFl ||| (f &&& flAll) } else k

/-- A value reaches its destination in a register set. Lanes without a write keep their content (R144). -/
def Ctx.landDest (k : Ctx) (d : Dest) (v : VReg) (wen : MaskReg) : Ctx :=
  match d with
  | .x n => k.setX n (bits v 0 64)
  | .v n => k.setV n (mergeLanes wen v (k.vr n))
  | .m n => k.setM n (bits v 0 128)
  | .th n h => { k with th := k.th.set n.toNat (some h) }
  | .rtab t => if h : t < 4 then { k with rtab := k.rtab.set t (bits v 0 2048) } else k
  | .fpflags => { k with fpflags := bits v 0 9 &&& flAll }
  | .srseed => { k with lfsr := lfsrSeed (bits v 0 16) }
  | .none => k

/-- The same in a checkpoint copy, for a value that a withheld operation returned (R177). -/
def Ckpt.landX (k : Ckpt) (n : BitVec 5) (v : Word) : Ckpt := if n = 0 then k else { k with x := k.x.set n.toNat v }

/-- A latch takes a value and ages (R72). -/
def Core.age (k : Core) (u : Fin 8) (v : VReg) : Core :=
  { k with latches := k.latches.set u ⟨some (v, k.cyc), k.latches[u].a0⟩ }

/-- Does a destination replace a word of a register: class, number, word (R328)? -/
def Dest.replaces (d : Dest) (wen : MaskReg) (cls num word : Nat) : Bool :=
  match d with
  | .x n => cls == 0 && num == n.toNat
  | .v n => cls == 1 && num == n.toNat && wen.getLsbD word
  | .m n => cls == 2 && num == n.toNat
  | .th n _ => cls == 3 && num == n.toNat
  | _ => false

/-- The register words that a destination replaces no longer hold their error (R328). -/
def clearErr (c : CtxId) (d : Dest) (wen : MaskReg) (l : List (Nat × Nat × Nat × Nat)) : List (Nat × Nat × Nat × Nat) :=
  l.filter fun e => !(e.1 == c.val && d.replaces wen e.2.1 e.2.2.1 e.2.2.2)

/-- The weak words that a result replaces: of the register, and of its checkpoint copy when it is a returned value (R177, R328). -/
def Result.healed (r : Result) : ErrLoc → Bool
  | .reg _ c cls num word copy => c == r.ctx && r.dest.replaces r.wen cls num word && (!copy || r.toCk)
  | _ => false

/-- A result reaches its register, its checkpoint copy when it is a returned value, and its latch (R72, R74, R177). -/
def Core.landOne (k : Core) (r : Result) : Core :=
  let k := k.modCtx r.ctx fun c =>
    let c := c.landDest r.dest r.val r.wen
    match r.toCk, r.dest with
    | true, .x n => { c with ck := c.ck.landX n (bits r.val 0 64) }
    | _, _ => c
  let k := { k.heal r.healed with
    regErr := clearErr r.ctx r.dest r.wen k.regErr
    ckErr := if r.toCk then clearErr r.ctx r.dest r.wen k.ckErr else k.ckErr }
  match r.latch with
  | some u => k.age u (mergeLanes r.wen r.val 0)
  | none => k

/-- Is a result due? -/
def Result.isDue (r : Result) (cyc now : Nat) : Bool := if r.byTick then decide (r.due ≤ now) else decide (r.due ≤ cyc)

/-- Every result due reaches its register, in order of issue and part (R76); then the flags are set, so that they survive a syswr of the same cycle (R130). -/
def Core.landResults (k : Core) (now : Nat) : Core :=
  let due := k.results.filter (fun r => r.isDue k.cyc now)
  let k := { k with results := k.results.filter (fun r => !r.isDue k.cyc now) }
  let k := due.foldl Core.landOne k
  due.foldl (fun k r => k.modCtx r.ctx fun c => c.lateFlags r.issued r.fl) k

end Sys2Proof.Machine
end

