-- ==== Sys2Proof/Machine/Scalar.lean ====
section
/-!
DEFINITION. The scalar slot: arithmetic and jumps (R98 to R103). Loads and stores are in Machine/LoadStore.lean.
-/

namespace Sys2Proof.Machine

/-- Operand x[n] of the bundle in issue. -/
def State.xs (s : State) (f : Focus) (n : BitVec 5) : Word := (s.ctx f.core f.ctx).xr n

/-- A scalar result with latency lat reaches rd and latch bs; for x0 there is none (R100). -/
def State.resultS (s : State) (f : Focus) (lat : Nat) (rd : BitVec 5) (v : Word) : State :=
  if rd = 0 then s else s.result f 1 lat (.x rd) (v.zeroExtend 4096) allLanes (some 0) 0

/-- A sign-extended 12-bit immediate (R98). -/
def immI (i : BitVec 12) : Word := sext64 i
/-- The value of lui (R99). -/
def immU (i : BitVec 20) : Word := sext64 (i ++ (0 : BitVec 12))
/-- A branch offset, which carries imm[12:1] (R98). -/
def immB (i : BitVec 12) : Word := sext64 (i ++ (0 : BitVec 1))
/-- A jal offset, which carries imm[20:1] (R98). -/
def immJ (i : BitVec 20) : Word := sext64 (i ++ (0 : BitVec 1))

/-- w32 of R99. -/
def w32 (v : Word) : Word := sext64 (bits v 0 32 : BitVec 32)
/-- 1 or 0. -/
def flag01 (b : Bool) : Word := if b then 1 else 0
/-- The high 64 bits of an exact product (R99). -/
def mulHi (p : Int) : Word := BitVec.ofInt 64 (p / 2 ^ 64)

/-- Signed quotient and remainder, at any width (R101). -/
def divS {w : Nat} (a b : BitVec w) : BitVec w := if b = 0 then BitVec.allOnes w else BitVec.ofInt w (Int.tdiv a.toInt b.toInt)
def remS {w : Nat} (a b : BitVec w) : BitVec w := if b = 0 then a else BitVec.ofInt w (Int.tmod a.toInt b.toInt)
/-- Unsigned quotient and remainder, at any width (R101). -/
def divU {w : Nat} (a b : BitVec w) : BitVec w := if b = 0 then BitVec.allOnes w else BitVec.ofNat w (a.toNat / b.toNat)
def remU {w : Nat} (a b : BitVec w) : BitVec w := if b = 0 then a else BitVec.ofNat w (a.toNat % b.toNat)

/-- The low word of a register. -/
def lo32 (v : Word) : BitVec 32 := bits v 0 32

/-- A taken branch or jump: the redirect of R77, or trap 0x02 for a bad target (R83, R102). -/
def State.jumpTo (s : State) (f : Focus) (target : Word) : State :=
  if (bits target 0 6 : BitVec 6) ≠ 0 ∨ target.toNat > 0x3FFC0 then s.raise f 1 0x02 target
  else { s with focus := some { f with jump := some (bits target 6 12) } }

/-- The link value: the byte value of the bundle after the delay bundle (R103). -/
def Focus.link (f : Focus) : Word := BitVec.ofNat 64 ((f.idx.toNat + 2) % 4096 * 64)

/-- A conditional branch (R102). -/
def State.branch (s : State) (f : Focus) (imm : BitVec 12) (taken : Bool) : State :=
  if taken then s.jumpTo f (f.pcb + immB imm) else s

/-- LUI (R99). -/
def execLui (rd : BitVec 5) (imm : BitVec 20) (s : State) : Out :=
  slotGo (.lui rd imm) "LUI" s fun f => s.resultS f 1 rd (immU imm)

/-- AUIPC (R99). -/
def execAuipc (rd : BitVec 5) (imm : BitVec 20) (s : State) : Out :=
  slotGo (.auipc rd imm) "AUIPC" s fun f => s.resultS f 1 rd (f.pcb + immU imm)

/-- JAL (R99, R102, R103). -/
def execJal (rd : BitVec 5) (imm : BitVec 20) (s : State) : Out :=
  slotGo (.jal rd imm) "JAL" s fun f => (s.resultS f 1 rd f.link).jumpTo f (f.pcb + immJ imm)

/-- JALR (R99, R102, R103): x[rs1] is read before the link is written. -/
def execJalr (rd rs1 : BitVec 5) (imm : BitVec 12) (s : State) : Out :=
  slotGo (.jalr rd rs1 imm) "JALR" s fun f => (s.resultS f 1 rd f.link).jumpTo f (s.xs f rs1 + immI imm)

/-- BEQ (R99, R102). -/
def execBeq (rs1 rs2 : BitVec 5) (imm : BitVec 12) (s : State) : Out :=
  slotGo (.beq rs1 rs2 imm) "BEQ" s fun f => s.branch f imm (s.xs f rs1 == s.xs f rs2)

/-- BNE (R99, R102). -/
def execBne (rs1 rs2 : BitVec 5) (imm : BitVec 12) (s : State) : Out :=
  slotGo (.bne rs1 rs2 imm) "BNE" s fun f => s.branch f imm (s.xs f rs1 != s.xs f rs2)

/-- BLT (R99, R102). -/
def execBlt (rs1 rs2 : BitVec 5) (imm : BitVec 12) (s : State) : Out :=
  slotGo (.blt rs1 rs2 imm) "BLT" s fun f => s.branch f imm ((s.xs f rs1).slt (s.xs f rs2))

/-- BGE (R99, R102). -/
def execBge (rs1 rs2 : BitVec 5) (imm : BitVec 12) (s : State) : Out :=
  slotGo (.bge rs1 rs2 imm) "BGE" s fun f => s.branch f imm (!(s.xs f rs1).slt (s.xs f rs2))

/-- BLTU (R99, R102). -/
def execBltu (rs1 rs2 : BitVec 5) (imm : BitVec 12) (s : State) : Out :=
  slotGo (.bltu rs1 rs2 imm) "BLTU" s fun f => s.branch f imm ((s.xs f rs1).ult (s.xs f rs2))

/-- BGEU (R99, R102). -/
def execBgeu (rs1 rs2 : BitVec 5) (imm : BitVec 12) (s : State) : Out :=
  slotGo (.bgeu rs1 rs2 imm) "BGEU" s fun f => s.branch f imm (!(s.xs f rs1).ult (s.xs f rs2))

/-- ADDI (R99). -/
def execAddi (rd : BitVec 5) (rs1 : BitVec 5) (imm : BitVec 12) (s : State) : Out :=
  slotGo (.addi rd rs1 imm) "ADDI" s fun f => s.resultS f 1 rd (s.xs f rs1 + immI imm)

/-- SLTI (R99). -/
def execSlti (rd : BitVec 5) (rs1 : BitVec 5) (imm : BitVec 12) (s : State) : Out :=
  slotGo (.slti rd rs1 imm) "SLTI" s fun f => s.resultS f 1 rd (flag01 ((s.xs f rs1).slt (immI imm)))

/-- SLTIU (R99). -/
def execSltiu (rd : BitVec 5) (rs1 : BitVec 5) (imm : BitVec 12) (s : State) : Out :=
  slotGo (.sltiu rd rs1 imm) "SLTIU" s fun f => s.resultS f 1 rd (flag01 ((s.xs f rs1).ult (immI imm)))

/-- XORI (R99). -/
def execXori (rd : BitVec 5) (rs1 : BitVec 5) (imm : BitVec 12) (s : State) : Out :=
  slotGo (.xori rd rs1 imm) "XORI" s fun f => s.resultS f 1 rd (s.xs f rs1 ^^^ immI imm)

/-- ORI (R99). -/
def execOri (rd : BitVec 5) (rs1 : BitVec 5) (imm : BitVec 12) (s : State) : Out :=
  slotGo (.ori rd rs1 imm) "ORI" s fun f => s.resultS f 1 rd (s.xs f rs1 ||| immI imm)

/-- ANDI (R99). -/
def execAndi (rd : BitVec 5) (rs1 : BitVec 5) (imm : BitVec 12) (s : State) : Out :=
  slotGo (.andi rd rs1 imm) "ANDI" s fun f => s.resultS f 1 rd (s.xs f rs1 &&& immI imm)

/-- ADDIW (R99). -/
def execAddiw (rd : BitVec 5) (rs1 : BitVec 5) (imm : BitVec 12) (s : State) : Out :=
  slotGo (.addiw rd rs1 imm) "ADDIW" s fun f => s.resultS f 1 rd (w32 (s.xs f rs1 + immI imm))

/-- SLLI (R99). -/
def execSlli (rd : BitVec 5) (rs1 : BitVec 5) (sh : BitVec 6) (s : State) : Out :=
  slotGo (.slli rd rs1 sh) "SLLI" s fun f => s.resultS f 1 rd (s.xs f rs1 <<< sh.toNat)

/-- SRLI (R99). -/
def execSrli (rd : BitVec 5) (rs1 : BitVec 5) (sh : BitVec 6) (s : State) : Out :=
  slotGo (.srli rd rs1 sh) "SRLI" s fun f => s.resultS f 1 rd (s.xs f rs1 >>> sh.toNat)

/-- SRAI (R99). -/
def execSrai (rd : BitVec 5) (rs1 : BitVec 5) (sh : BitVec 6) (s : State) : Out :=
  slotGo (.srai rd rs1 sh) "SRAI" s fun f => s.resultS f 1 rd ((s.xs f rs1).sshiftRight sh.toNat)

/-- SLLIW (R99). -/
def execSlliw (rd : BitVec 5) (rs1 : BitVec 5) (sh : BitVec 5) (s : State) : Out :=
  slotGo (.slliw rd rs1 sh) "SLLIW" s fun f => s.resultS f 1 rd (sext64 (lo32 (s.xs f rs1) <<< sh.toNat))

/-- SRLIW (R99). -/
def execSrliw (rd : BitVec 5) (rs1 : BitVec 5) (sh : BitVec 5) (s : State) : Out :=
  slotGo (.srliw rd rs1 sh) "SRLIW" s fun f => s.resultS f 1 rd (sext64 (lo32 (s.xs f rs1) >>> sh.toNat))

/-- SRAIW (R99). -/
def execSraiw (rd : BitVec 5) (rs1 : BitVec 5) (sh : BitVec 5) (s : State) : Out :=
  slotGo (.sraiw rd rs1 sh) "SRAIW" s fun f => s.resultS f 1 rd (sext64 ((lo32 (s.xs f rs1)).sshiftRight sh.toNat))

/-- ADD (R99). -/
def execAdd (rd : BitVec 5) (rs1 : BitVec 5) (rs2 : BitVec 5) (s : State) : Out :=
  slotGo (.add rd rs1 rs2) "ADD" s fun f => s.resultS f 1 rd (s.xs f rs1 + s.xs f rs2)

/-- SUB (R99). -/
def execSub (rd : BitVec 5) (rs1 : BitVec 5) (rs2 : BitVec 5) (s : State) : Out :=
  slotGo (.sub rd rs1 rs2) "SUB" s fun f => s.resultS f 1 rd (s.xs f rs1 - s.xs f rs2)

/-- SLL (R99). -/
def execSll (rd : BitVec 5) (rs1 : BitVec 5) (rs2 : BitVec 5) (s : State) : Out :=
  slotGo (.sll rd rs1 rs2) "SLL" s fun f => s.resultS f 1 rd (s.xs f rs1 <<< ((s.xs f rs2).toNat % 64))

/-- SLT (R99). -/
def execSlt (rd : BitVec 5) (rs1 : BitVec 5) (rs2 : BitVec 5) (s : State) : Out :=
  slotGo (.slt rd rs1 rs2) "SLT" s fun f => s.resultS f 1 rd (flag01 ((s.xs f rs1).slt (s.xs f rs2)))

/-- SLTU (R99). -/
def execSltu (rd : BitVec 5) (rs1 : BitVec 5) (rs2 : BitVec 5) (s : State) : Out :=
  slotGo (.sltu rd rs1 rs2) "SLTU" s fun f => s.resultS f 1 rd (flag01 ((s.xs f rs1).ult (s.xs f rs2)))

/-- XOR (R99). -/
def execXorR (rd : BitVec 5) (rs1 : BitVec 5) (rs2 : BitVec 5) (s : State) : Out :=
  slotGo (.xorR rd rs1 rs2) "XOR" s fun f => s.resultS f 1 rd (s.xs f rs1 ^^^ s.xs f rs2)

/-- SRL (R99). -/
def execSrl (rd : BitVec 5) (rs1 : BitVec 5) (rs2 : BitVec 5) (s : State) : Out :=
  slotGo (.srl rd rs1 rs2) "SRL" s fun f => s.resultS f 1 rd (s.xs f rs1 >>> ((s.xs f rs2).toNat % 64))

/-- SRA (R99). -/
def execSra (rd : BitVec 5) (rs1 : BitVec 5) (rs2 : BitVec 5) (s : State) : Out :=
  slotGo (.sra rd rs1 rs2) "SRA" s fun f => s.resultS f 1 rd ((s.xs f rs1).sshiftRight ((s.xs f rs2).toNat % 64))

/-- OR (R99). -/
def execOrR (rd : BitVec 5) (rs1 : BitVec 5) (rs2 : BitVec 5) (s : State) : Out :=
  slotGo (.orR rd rs1 rs2) "OR" s fun f => s.resultS f 1 rd (s.xs f rs1 ||| s.xs f rs2)

/-- AND (R99). -/
def execAndR (rd : BitVec 5) (rs1 : BitVec 5) (rs2 : BitVec 5) (s : State) : Out :=
  slotGo (.andR rd rs1 rs2) "AND" s fun f => s.resultS f 1 rd (s.xs f rs1 &&& s.xs f rs2)

/-- MUL (R99). -/
def execMul (rd : BitVec 5) (rs1 : BitVec 5) (rs2 : BitVec 5) (s : State) : Out :=
  slotGo (.mul rd rs1 rs2) "MUL" s fun f => s.resultS f 3 rd (s.xs f rs1 * s.xs f rs2)

/-- MULH (R99). -/
def execMulh (rd : BitVec 5) (rs1 : BitVec 5) (rs2 : BitVec 5) (s : State) : Out :=
  slotGo (.mulh rd rs1 rs2) "MULH" s fun f => s.resultS f 3 rd (mulHi ((s.xs f rs1).toInt * (s.xs f rs2).toInt))

/-- MULHSU (R99). -/
def execMulhsu (rd : BitVec 5) (rs1 : BitVec 5) (rs2 : BitVec 5) (s : State) : Out :=
  slotGo (.mulhsu rd rs1 rs2) "MULHSU" s fun f => s.resultS f 3 rd (mulHi ((s.xs f rs1).toInt * (s.xs f rs2).toNat))

/-- MULHU (R99). -/
def execMulhu (rd : BitVec 5) (rs1 : BitVec 5) (rs2 : BitVec 5) (s : State) : Out :=
  slotGo (.mulhu rd rs1 rs2) "MULHU" s fun f => s.resultS f 3 rd (mulHi ((s.xs f rs1).toNat * (s.xs f rs2).toNat))

/-- DIV (R99, R101). -/
def execDiv (rd : BitVec 5) (rs1 : BitVec 5) (rs2 : BitVec 5) (s : State) : Out :=
  slotGo (.div rd rs1 rs2) "DIV" s fun f => s.resultS f 20 rd (divS (s.xs f rs1) (s.xs f rs2))

/-- DIVU (R99, R101). -/
def execDivu (rd : BitVec 5) (rs1 : BitVec 5) (rs2 : BitVec 5) (s : State) : Out :=
  slotGo (.divu rd rs1 rs2) "DIVU" s fun f => s.resultS f 20 rd (divU (s.xs f rs1) (s.xs f rs2))

/-- REM (R99, R101). -/
def execRem (rd : BitVec 5) (rs1 : BitVec 5) (rs2 : BitVec 5) (s : State) : Out :=
  slotGo (.rem rd rs1 rs2) "REM" s fun f => s.resultS f 20 rd (remS (s.xs f rs1) (s.xs f rs2))

/-- REMU (R99, R101). -/
def execRemu (rd : BitVec 5) (rs1 : BitVec 5) (rs2 : BitVec 5) (s : State) : Out :=
  slotGo (.remu rd rs1 rs2) "REMU" s fun f => s.resultS f 20 rd (remU (s.xs f rs1) (s.xs f rs2))

/-- ADDW (R99). -/
def execAddw (rd : BitVec 5) (rs1 : BitVec 5) (rs2 : BitVec 5) (s : State) : Out :=
  slotGo (.addw rd rs1 rs2) "ADDW" s fun f => s.resultS f 1 rd (w32 (s.xs f rs1 + s.xs f rs2))

/-- SUBW (R99). -/
def execSubw (rd : BitVec 5) (rs1 : BitVec 5) (rs2 : BitVec 5) (s : State) : Out :=
  slotGo (.subw rd rs1 rs2) "SUBW" s fun f => s.resultS f 1 rd (w32 (s.xs f rs1 - s.xs f rs2))

/-- SLLW (R99). -/
def execSllw (rd : BitVec 5) (rs1 : BitVec 5) (rs2 : BitVec 5) (s : State) : Out :=
  slotGo (.sllw rd rs1 rs2) "SLLW" s fun f => s.resultS f 1 rd (sext64 (lo32 (s.xs f rs1) <<< ((s.xs f rs2).toNat % 32)))

/-- SRLW (R99). -/
def execSrlw (rd : BitVec 5) (rs1 : BitVec 5) (rs2 : BitVec 5) (s : State) : Out :=
  slotGo (.srlw rd rs1 rs2) "SRLW" s fun f => s.resultS f 1 rd (sext64 (lo32 (s.xs f rs1) >>> ((s.xs f rs2).toNat % 32)))

/-- SRAW (R99). -/
def execSraw (rd : BitVec 5) (rs1 : BitVec 5) (rs2 : BitVec 5) (s : State) : Out :=
  slotGo (.sraw rd rs1 rs2) "SRAW" s fun f => s.resultS f 1 rd (sext64 ((lo32 (s.xs f rs1)).sshiftRight ((s.xs f rs2).toNat % 32)))

/-- MULW (R99). -/
def execMulw (rd : BitVec 5) (rs1 : BitVec 5) (rs2 : BitVec 5) (s : State) : Out :=
  slotGo (.mulw rd rs1 rs2) "MULW" s fun f => s.resultS f 3 rd (w32 (s.xs f rs1 * s.xs f rs2))

/-- DIVW (R99, R101). -/
def execDivw (rd : BitVec 5) (rs1 : BitVec 5) (rs2 : BitVec 5) (s : State) : Out :=
  slotGo (.divw rd rs1 rs2) "DIVW" s fun f => s.resultS f 20 rd (sext64 (divS (lo32 (s.xs f rs1)) (lo32 (s.xs f rs2))))

/-- DIVUW (R99, R101). -/
def execDivuw (rd : BitVec 5) (rs1 : BitVec 5) (rs2 : BitVec 5) (s : State) : Out :=
  slotGo (.divuw rd rs1 rs2) "DIVUW" s fun f => s.resultS f 20 rd (sext64 (divU (lo32 (s.xs f rs1)) (lo32 (s.xs f rs2))))

/-- REMW (R99, R101). -/
def execRemw (rd : BitVec 5) (rs1 : BitVec 5) (rs2 : BitVec 5) (s : State) : Out :=
  slotGo (.remw rd rs1 rs2) "REMW" s fun f => s.resultS f 20 rd (sext64 (remS (lo32 (s.xs f rs1)) (lo32 (s.xs f rs2))))

/-- REMUW (R99, R101). -/
def execRemuw (rd : BitVec 5) (rs1 : BitVec 5) (rs2 : BitVec 5) (s : State) : Out :=
  slotGo (.remuw rd rs1 rs2) "REMUW" s fun f => s.resultS f 20 rd (sext64 (remU (lo32 (s.xs f rs1)) (lo32 (s.xs f rs2))))

end Sys2Proof.Machine
end

