-- ==== Sys2Proof/Machine/LoadStore.lean ====
section
/-!
DEFINITION. Load-slot, store-slot and scalar memory forms at their issue: addresses, checks, the access or withhold entry they make (R104, R105, R170, R174, R179 to R187). What they read and write when they perform is in Machine/Perform.lean.
-/

namespace Sys2Proof.Machine

/-! ### Loads -/

/-- The address of a lane of a load, as the form lays it out (R180). -/
def LdRec.laneAddr (l : LdRec) (lane : Nat) : Option Nat :=
  match l.kind with
  | .vlds st => some ((BitVec.ofNat 64 l.ea + BitVec.ofNat 64 (lane / 16) * st).toNat + 4 * (lane % 16))
  | .vldh h => if 64 * h ≤ lane ∧ lane < 64 * h + 64 then some (l.ea + 4 * (lane - 64 * h)) else none
  | _ => some (l.ea + 4 * lane)

/-- Is a byte below the bound of vldm (R180)? -/
def LdRec.inBound (l : LdRec) (a : Nat) : Bool :=
  match l.kind with
  | .vldm b => decide (a < b)
  | _ => true

/-- The bytes that a lane of a load reads. -/
def LdRec.laneBytes (l : LdRec) (lane : Nat) : List Nat :=
  match l.wen.getLsbD lane, l.laneAddr lane with
  | true, some a => [a, a + 1, a + 2, a + 3].filter l.inBound
  | _, _ => []

/-- Every byte that a load reads (R180, R349). -/
def LdRec.bytes (l : LdRec) : List Nat :=
  match l.kind with
  | .scal w _ => (List.range w).map (l.ea + ·)
  | .vldb w => (List.range w).map (l.ea + ·)
  | .ldtag => []
  | _ => (List.range 128).flatMap l.laneBytes

/-- The chunks that hold those bytes; a chunk read by no element takes no port (R167). Each of the eight chunks of vlds is read for itself, wherever it stands (R181). -/
def LdRec.chunks (l : LdRec) : List Nat :=
  match l.kind with
  | .vlds _ => (List.range 8).flatMap fun g => (((List.range 16).flatMap fun i => l.laneBytes (16 * g + i)).map chunkOf).eraseDups
  | _ => (l.bytes.map chunkOf).eraseDups

/-- The address that a record carries for a chunk: EA when it stands there (R104, R170). -/
def addrIn (ea a : Nat) : Nat := if chunkOf ea = a then ea else a

/-- The first address that fails R170: range, alignment of EA, then ownership of the bank. -/
def accessBad (lc : Option LaunchCore) (ea align : Nat) : List Nat → Option Nat
  | [] => none
  | a :: as =>
    if a > 0x5FFFFF then some (addrIn ea a)
    else if ea % align ≠ 0 then some ea
    else if !lc.any (fun l => l.ownsBank (bankOf a)) then some (addrIn ea a)
    else accessBad lc ea align as

/-- Does a load read a tile tag (R173, R180)? -/
def LdRec.tagged (l : LdRec) : Bool := l.tagWant.isSome || l.kind == .ldtag

/-- The addresses of a load that R170 checks: its chunks, and EA where it reads a tag. -/
def LdRec.touched (l : LdRec) : List Nat := l.chunks ++ if l.tagged then [l.ea] else []

/-- The read of a load, at issue + 1 (R167). -/
def State.loadAccess (s : State) (f : Focus) (part : Nat) (party : Party) (l : LdRec) : Access :=
  { f.access s part 0 party (s.cycle f + 1) l.chunks [] (.load l) with tagR := if l.tagged then some (tileOf l.ea) else none }

/-- A load at its issue: the checks of R170, the watchpoints, and the read at issue + 1 (R167). -/
def State.load (s : State) (f : Focus) (part align : Nat) (party : Party) (l : LdRec) : State :=
  match accessBad ((s.core f.core).lcOf f.ctx) l.ea align l.touched with
  | some a => s.raise f part 0x03 (BitVec.ofNat 64 a)
  | none => s.watched f part false (fun a => l.bytes.contains a) fun s => s.addAccess f.core (s.loadAccess f part party l)

/-- A scalar load (R104). -/
def scalarLoad (i : Instr) (name : String) (rd rs1 : BitVec 5) (imm : BitVec 12) (w : Nat) (signed : Bool) (s : State) : Out :=
  slotGo i name s fun f =>
    s.load f 1 w .scalar
      { kind := .scal w signed, ea := (s.xs f rs1 + immI imm).toNat, dest := if rd = 0 then .none else .x rd,
        wen := allLanes, tagWant := none, unit := if rd = 0 then none else some 0 }

/-- LB (R99, R104). -/
def execLb (rd rs1 : BitVec 5) (imm : BitVec 12) (s : State) : Out := scalarLoad (.lb rd rs1 imm) "LB" rd rs1 imm 1 true s
/-- LH (R99, R104). -/
def execLh (rd rs1 : BitVec 5) (imm : BitVec 12) (s : State) : Out := scalarLoad (.lh rd rs1 imm) "LH" rd rs1 imm 2 true s
/-- LW (R99, R104). -/
def execLw (rd rs1 : BitVec 5) (imm : BitVec 12) (s : State) : Out := scalarLoad (.lw rd rs1 imm) "LW" rd rs1 imm 4 true s
/-- LD (R99, R104). -/
def execLdd (rd rs1 : BitVec 5) (imm : BitVec 12) (s : State) : Out := scalarLoad (.ldd rd rs1 imm) "LD" rd rs1 imm 8 true s
/-- LBU (R99, R104). -/
def execLbu (rd rs1 : BitVec 5) (imm : BitVec 12) (s : State) : Out := scalarLoad (.lbu rd rs1 imm) "LBU" rd rs1 imm 1 false s
/-- LHU (R99, R104). -/
def execLhu (rd rs1 : BitVec 5) (imm : BitVec 12) (s : State) : Out := scalarLoad (.lhu rd rs1 imm) "LHU" rd rs1 imm 2 false s
/-- LWU (R99, R104). -/
def execLwu (rd rs1 : BitVec 5) (imm : BitVec 12) (s : State) : Out := scalarLoad (.lwu rd rs1 imm) "LWU" rd rs1 imm 4 false s

/-- EA of a load-slot form (R179). -/
def State.eaL (s : State) (f : Focus) (o : LdOps) : Nat := (s.readX f o.a + sext64 o.off * 64).toNat

/-- The lanes that a mask register allows to a form of 32-bit lanes (R143). -/
def State.maskL (s : State) (f : Focus) (m : BitVec 3) : MaskReg := (s.ctx f.core f.ctx).mr m

/-- VLD (R179, R180, R173). -/
def execVld (o : LdOps) (s : State) : Out :=
  slotGo (.vld o) "VLD" s fun f =>
    s.load f 5 512 .load
      { kind := .vld, ea := s.eaL f o, dest := destV o.d o.nw, wen := s.maskL f o.mask,
        tagWant := if o.k then some (bits (s.readX f o.b) 0 16) else none, unit := some 3 }
/-- VLDB (R179, R180). -/
def execVldb (o : LdOps) (s : State) : Out :=
  slotGo (.vldb o) "VLDB" s fun f =>
    s.load f 5 (2 ^ o.part.toNat) .load
      { kind := .vldb (2 ^ o.part.toNat), ea := s.eaL f o, dest := destV o.d o.nw, wen := allLanes, tagWant := none, unit := some 3 }
/-- VLDS (R179 to R181): a stride that is no multiple of 64 raises trap 0x03. -/
def execVlds (o : LdOps) (s : State) : Out :=
  slotGo (.vlds o) "VLDS" s fun f =>
    let st := s.readX f o.b
    if st.toNat % 64 ≠ 0 then s.raise f 5 0x03 (BitVec.ofNat 64 (s.eaL f o))
    else
      s.load f 5 64 .load
        { kind := .vlds st, ea := s.eaL f o, dest := destV o.d o.nw, wen := s.maskL f o.mask, tagWant := none, unit := some 3 }
/-- VLDM (R179 to R181). -/
def execVldm (o : LdOps) (s : State) : Out :=
  slotGo (.vldm o) "VLDM" s fun f =>
    s.load f 5 512 .load
      { kind := .vldm (s.readX f o.b).toNat, ea := s.eaL f o, dest := destV o.d o.nw, wen := s.maskL f o.mask,
        tagWant := none, unit := some 3 }
/-- VLDH (R179, R180). -/
def execVldh (o : LdOps) (s : State) : Out :=
  slotGo (.vldh o) "VLDH" s fun f =>
    let h := o.part.toNat % 2
    s.load f 5 256 .load
      { kind := .vldh h, ea := s.eaL f o, dest := destV o.d o.nw,
        wen := s.maskL f o.mask &&& laneRun (64 * h) 64, tagWant := none, unit := some 3 }
/-- LDTAG (R179 to R181). -/
def execLdtag (o : LdOps) (s : State) : Out :=
  slotGo (.ldtag o) "LDTAG" s fun f =>
    s.load f 5 1 .load
      { kind := .ldtag, ea := s.eaL f o, dest := destX o.d o.nw, wen := allLanes, tagWant := none, unit := some 3 }

/-! ### Stores -/

/-- A store at its issue: the checks of R170 on every address it touches, room in the withhold buffer (R174), the watchpoints (R350), and the entry. -/
def State.storeAt (s : State) (f : Focus) (part ea align : Nat) (touched : List Nat) (touch : Nat → Bool) (w : WKind) : State :=
  match accessBad ((s.core f.core).lcOf f.ctx) ea align touched with
  | some a => s.raise f part 0x03 (BitVec.ofNat 64 a)
  | none =>
    if (s.ctx f.core f.ctx).wh.length ≥ 128 then s.raise f part 0x12 0
    else s.watched f part true touch fun s => s.withhold f part w

/-- A plain store of chunk writes, with a tag or without (R183). -/
def State.storeW (s : State) (f : Focus) (part ea align : Nat) (wr : List ChunkW) (tag : Option (BitVec 16)) : State :=
  s.storeAt f part ea align (wr.map ChunkW.addr ++ if tag.isSome then [ea] else []) (touches wr)
    (.store wr (tag.map fun t => (tileOf ea, t)))

/-- A scalar store (R104, R105). -/
def scalarStore (i : Instr) (name : String) (rs1 rs2 : BitVec 5) (imm : BitVec 12) (w : Nat) (s : State) : Out :=
  slotGo i name s fun f =>
    let ea := (s.xs f rs1 + immI imm).toNat
    s.storeW f 1 ea w (chunksFor ea w ((s.xs f rs2).toNat % 2 ^ (8 * w)) (fun _ => true)) none

/-- SB (R99, R105). -/
def execSb (rs1 rs2 : BitVec 5) (imm : BitVec 12) (s : State) : Out := scalarStore (.sb rs1 rs2 imm) "SB" rs1 rs2 imm 1 s
/-- SH (R99, R105). -/
def execShh (rs1 rs2 : BitVec 5) (imm : BitVec 12) (s : State) : Out := scalarStore (.shh rs1 rs2 imm) "SH" rs1 rs2 imm 2 s
/-- SW (R99, R105). -/
def execSw (rs1 rs2 : BitVec 5) (imm : BitVec 12) (s : State) : Out := scalarStore (.sw rs1 rs2 imm) "SW" rs1 rs2 imm 4 s
/-- SD (R99, R105). -/
def execSd (rs1 rs2 : BitVec 5) (imm : BitVec 12) (s : State) : Out := scalarStore (.sd rs1 rs2 imm) "SD" rs1 rs2 imm 8 s

/-- EA of a store-slot form (R182). -/
def State.eaT (s : State) (f : Focus) (o : StOps) : Nat := (s.readX f o.a).toNat

/-- VST (R182, R183). -/
def execVst (o : StOps) (s : State) : Out :=
  slotGo (.vst o) "VST" s fun f =>
    let m := s.maskL f o.mask
    s.storeW f 6 (s.eaT f o) 512 (chunksFor (s.eaT f o) 512 (s.readV f o.b).toNat (fun i => m.getLsbD (i / 4)))
      (if o.k then some (bits (s.readX f o.c) 0 16) else none)
/-- VSTM (R182, R184). -/
def execVstm (o : StOps) (s : State) : Out :=
  slotGo (.vstm o) "VSTM" s fun f =>
    let m := s.maskL f o.mask
    let q := o.fn.toNat
    let ea := s.eaT f o
    if o.nb then
      s.storeW f 6 ea 64 (if m = 0 then [] else [⟨ea, bits (s.readV f o.b) (512 * q) 512, m, 0⟩]) none
    else
      s.storeW f 6 ea 128 (chunksFor ea 128 ((s.readV f o.b).toNat >>> (1024 * q) % 2 ^ 1024) (fun i => m.getLsbD i)) none
/-- VSTS (R182, R183): a stride that is no multiple of 64 raises trap 0x03. -/
def execVsts (o : StOps) (s : State) : Out :=
  slotGo (.vsts o) "VSTS" s fun f =>
    let m := s.maskL f o.mask
    let st := s.readX f o.c
    let ea := s.eaT f o
    let v := s.readV f o.b
    if st.toNat % 64 ≠ 0 then s.raise f 6 0x03 (BitVec.ofNat 64 ea)
    else
      s.storeW f 6 ea 64 ((List.range 8).flatMap fun j =>
        chunksFor (BitVec.ofNat 64 ea + BitVec.ofNat 64 j * st).toNat 64 (bits v (512 * j) 512 : BitVec 512).toNat
          (fun i => m.getLsbD (16 * j + i / 4))) none
/-- VSTH (R182, R183). -/
def execVsth (o : StOps) (s : State) : Out :=
  slotGo (.vsth o) "VSTH" s fun f =>
    let m := s.maskL f o.mask
    let h := o.fn.toNat % 2
    s.storeW f 6 (s.eaT f o) 256
      (chunksFor (s.eaT f o) 256 (bits (s.readV f o.b) (2048 * h) 2048 : BitVec 2048).toNat (fun i => m.getLsbD (64 * h + i / 4))) none
/-- TZERO (R182, R183). -/
def execTzero (o : StOps) (s : State) : Out :=
  slotGo (.tzero o) "TZERO" s fun f =>
    let ea := s.eaT f o
    s.storeAt f 6 ea 4096 [ea] (fun a => decide (ea ≤ a) && decide (a < ea + 4096)) (.tzero (tileOf ea) (bits (s.readX f o.c) 0 16))
/-- AMO (R182, R186). -/
def execAmo (o : StOps) (s : State) : Out :=
  slotGo (.amo o) "AMO" s fun f =>
    let ea := s.eaT f o
    s.storeAt f 6 ea 4 [ea] (fun a => decide (ea ≤ a) && decide (a < ea + 4))
      (.amo ea o.fn.toNat o.fp false (lo32 (s.readX f o.b)) 0 o.d)
/-- AMO_CAS (R182, R186). -/
def execAmoCas (o : StOps) (s : State) : Out :=
  slotGo (.amoCas o) "AMO_CAS" s fun f =>
    let ea := s.eaT f o
    s.storeAt f 6 ea 4 [ea] (fun a => decide (ea ≤ a) && decide (a < ea + 4))
      (.amo ea 0 false true (lo32 (s.readX f o.b)) (lo32 (s.readX f o.c)) o.d)

end Sys2Proof.Machine
end

