-- ==== Sys2Proof/Machine/Ports.lean ====
section
/-!
DEFINITION. Scratchpad ports: which an access takes (R166, R167), how collisions are judged (R168, R169), where a failure goes (R236), and how reads and writes of chunks perform (R167, R172, R176, R328, R329).
-/

namespace Sys2Proof.Machine

/-! ### Reading -/

/-- The 512 data bits that a nibble mask governs (R184, R185). -/
def nibMask (m : BitVec 128) : BitVec 512 :=
  BitVec.ofNat 512 (packNat 4 ((List.range 128).map fun i => if m.getLsbD i then 15 else 0))

/-- A chunk after a write under a nibble mask. -/
def mergeChunk (m : BitVec 128) (new old : BitVec 512) : BitVec 512 := (new &&& nibMask m) ||| (old &&& ~~~nibMask m)

/-- A chunk of a scratchpad as memory stands. -/
def State.chunk (s : State) (c : CoreId) (a : Nat) : BitVec 512 := BitVec.ofNat 512 (s.pad c a 64)

/-- A withhold entry forwarded into a chunk (R176). -/
def fwdEntry (a : Nat) (v : BitVec 512) (e : WEntry) : BitVec 512 :=
  match e.kind with
  | .store wr _ => wr.foldl (fun v w => if w.addr = a then mergeChunk w.mask w.data v else v) v
  | .tzero t _ => if tileOf a = t then 0 else v
  | _ => v

/-- A release that performs on this cycle, forwarded into a chunk (R176: before the release and after it alike). -/
def fwdRelease (a : Nat) (v : BitVec 512) (r : Access) : BitVec 512 :=
  r.wr.foldl (fun v w => if w.addr = a then mergeChunk w.mask w.data v else v) (if r.zero.contains (tileOf a) then 0 else v)

/-- The release of a context that performs on this cycle. -/
def Core.releasing (k : Core) (ctx : CtxId) : List Access :=
  k.acc.filter fun a => a.party == .release ctx && match a.act with
    | .release _ => true
    | _ => false

/-- Entries of a context that a load issued at a cycle sees (R105, R176). -/
def Ctx.seen (k : Ctx) (issued : Nat) : List WEntry := k.wh.filter fun e => decide (e.issued + 2 ≤ issued)

/-- A chunk as a load of a context issued at a cycle sees it: its own stores issued two cycles before are forwarded (R105, R176). -/
def State.fwdChunk (s : State) (c : CoreId) (ctx : CtxId) (issued a : Nat) : BitVec 512 :=
  ((s.ctx c ctx).seen issued).foldl (fwdEntry a) (((s.core c).releasing ctx).foldl (fwdRelease a) (s.chunk c a))

/-- A withhold entry's tag forwarded (R173, R176). -/
def fwdTagEntry (tile : Nat) (v : BitVec 16) (e : WEntry) : BitVec 16 :=
  match e.kind with
  | .store _ (some (t, g)) => if t = tile then g else v
  | .tzero t g => if t = tile then g else v
  | _ => v

/-- The tag of a tile after own forwarding (R173). -/
def State.fwdTag (s : State) (c : CoreId) (ctx : CtxId) (issued tile : Nat) : BitVec 16 :=
  let v := ((s.core c).releasing ctx).foldl (fun v r => r.tagW.foldl (fun v t => if t.1 = tile then t.2 else v) v) (s.tag c tile)
  ((s.ctx c ctx).seen issued).foldl (fwdTagEntry tile) v

/-- The first 64-bit word, by local address, that holds one of these bytes and is poisoned (R170, R329). -/
def State.poisonIn (s : State) (c : CoreId) (bytes : List Nat) : Option Nat :=
  (bytes.find? fun a => s.poisoned (localPa c a)).map fun a => a / 8 * 8

/-- Corrected reads of words at package-local addresses are counted (R328). -/
def State.noteReads (s : State) (d : Fin 9) (words : List Nat) : State :=
  let n := (words.filter fun w => s.weak.contains w).length
  if n = 0 then s else s.modDie d fun x => { x with corr := satAdd x.corr n }

/-- The words of a chunk at a package-local address. -/
def wordsOf (pa : Nat) : List Nat := (List.range 8).map (pa / 8 + ·)

/-- Reads of whole local chunks are counted. -/
def State.noteChunks (s : State) (c : CoreId) (as : List Nat) : State :=
  s.noteReads (dieOf c) (as.flatMap fun a => wordsOf (localPa c a))

/-- The poison marks of local chunks. -/
def State.padPoison (s : State) (c : CoreId) (a : Nat) : BitVec 8 := s.chunkPoison (localPa c a)

/-- A whole chunk to write, with the marks it carries (R329). -/
def wholeChunk (a : Nat) (d : BitVec 512) (p : BitVec 8) : ChunkW := ⟨a, d, BitVec.allOnes 128, p⟩

/-! ### Failures -/

/-- The issuing core of a remote access. -/
def Act.origin : Act → Option Origin
  | .remRd o _ _ | .remRow o _ _ | .remWr o _ | .remAmo o _ | .hauRd o _ | .hauUpd o _ _ _ => some o
  | _ => none

/-- Does a remote access belong to an engine command or a matrix form, which a rollback or a pre-emption squashes (R250, R335)? -/
def Origin.squashes (o : Origin) : Bool := o.eng == 1 || o.eng == 2

/-- Was a remote access squashed after it left (R250, R335)? -/
def Core.isSquashed (k : Core) (o : Origin) : Bool :=
  o.squashes && k.squashed.any fun q => q.1 == o.ctx && decide (q.2.1 ≤ o.issued) && decide (o.sent ≤ q.2.2)

/-- The trap of a remote access at its own core (R236). -/
def Origin.trap (o : Origin) (cause : Nat) (addr : Word) : Trap :=
  { ctx := o.ctx, lk := o.lk, cause := cause, part := o.part, eng := 5, addr := addr, bundle := o.bundle, origin := o.issued,
    pslot := 0, frow := 0, pod := false }

/-- Send a failure back: it is reported T after the target's cycle (R236); of mcast, it only sets the member's bit (R248). -/
def State.report (s : State) (o : Origin) (a : Access) (cause : Nat) (addr : Word) : State :=
  let member := match a.act with | .remWr _ m => m | _ => none
  if o.pkg = s.pf.pkg.toNat then
    match coreOf o.core with
    | some c => s.modCore c fun k => { k with reports := k.reports ++ [⟨s.now + o.t, o.trap cause addr, member, o⟩] }
    | none => s
  else s.emit (.answer o.pkg o.core a [] (some (cause, addr.toNat)))

/-- An access fails: its own core traps, at once for a local party and by report for a remote one (R168, R236). -/
def State.failAcc (s : State) (c : CoreId) (a : Access) (cause : Nat) (addr : Nat) : State :=
  match a.act.origin with
  | some o => s.report o a cause (BitVec.ofNat 64 addr)
  | none =>
    s.modCore c fun k => k.addTrap
      { ctx := a.ctx, lk := a.lk, cause := cause, part := a.part, eng := a.eng, addr := BitVec.ofNat 64 addr, bundle := a.bundle,
        origin := a.issued, pslot := 0, frow := 0, pod := false }

/-! ### Ports (R166) -/

def rdPort (a : Nat) : Nat := bankOf a * 18 + subOf a
def wrPort (a : Nat) : Nat := bankOf a * 18 + 8 + subOf a
def tagRPort (tile : Nat) : Nat := tile / 32 * 18 + 16
def tagWPort (tile : Nat) : Nat := tile / 32 * 18 + 17

/-- The address that a hold concerns. -/
def Act.ea : Act → Nat
  | .amo r | .remAmo _ r => r.ea
  | .hauUpd _ u _ _ | .hauRd _ u => u.skip % 2 ^ 23
  | _ => 0

/-- The ports an access takes, each with the address that needs it (R166, R167, R183, R186). -/
def Access.claims (a : Access) : List (Nat × Nat) :=
  a.rd.map (fun x => (rdPort x, x)) ++ a.wr.map (fun w => (wrPort w.addr, w.addr)) ++
    a.tagR.toList.map (fun t => (tagRPort t, t * 0x1000)) ++ a.tagW.map (fun t => (tagWPort t.1, t.1 * 0x1000)) ++
    a.zero.flatMap (fun t => (List.range 8).map fun i => (wrPort (t * 0x1000 + 64 * i), t * 0x1000)) ++
    a.hold.toList.flatMap (fun b => (List.range 18).map fun i => (b * 18 + i, a.act.ea))

/-- Does a party other than the release need one port twice (R168, R181, R231)? Chunks of a load that stand at one address need it once each (R181). -/
def Access.twice (a : Access) (p : Nat) : Bool :=
  let load := match a.act with
    | .load _ => true
    | _ => false
  match (a.claims.filter fun q => q.1 == p).map Prod.snd with
  | [] => false
  | x :: xs => xs.any fun y => load || y != x

/-- Is an access a read that a bundle's load slot or its matrix form makes of local chunks? -/
def Access.feeds (a : Access) : Bool :=
  match a.party, a.act with
  | .load, .load _ | .matrix, .mrow _ _ => true
  | _, _ => false

/-- Do two accesses of one bundle need a port once: the load slot and a matrix form of one bundle that read one chunk there (R378 to R380; log entry 97)? -/
def Access.shares (a b : Access) (p : Nat) : Bool :=
  let at_ (x : Access) := ((x.claims.filter fun q => q.1 == p).map Prod.snd).eraseDups
  a.feeds && b.feeds && a.ctx == b.ctx && a.issued == b.issued && a.party != b.party && at_ a == at_ b

/-- The ports that access number i of those of a cycle loses (R168, R169). -/
def lostPorts (all : List (Nat × Access)) (i : Nat) (a : Access) : List Nat :=
  ((a.claims.map Prod.fst).eraseDups).filter fun p =>
    let others := all.filter fun q => q.1 != i && (q.2.claims.any fun c => c.1 == p)
    if a.always then others.any fun q => q.2.always && (decide (q.2.prio < a.prio) || (q.2.prio == a.prio && decide (q.1 < i)))
    else (others.any fun q => !a.shares q.2 p) || a.twice p

/-- Is an access due on this cycle or tick? A frozen or halted core has only remote parties (R243, R244, R305). -/
def Access.isDue (a : Access) (k : Core) (now : Nat) : Bool :=
  if a.byTick then decide (a.due ≤ now) else decide (a.due ≤ k.cyc) && !k.frozen

/-- The accesses of a cycle, judged: each with the ports it loses. -/
def judged (as : List Access) : List Access :=
  let idx := (List.range as.length).zip as
  idx.map fun q => { q.2 with lost := q.2.lost ++ lostPorts idx q.1 q.2 }

/-- The address of the first port lost. -/
def Access.lostAddr (a : Access) : Nat := ((a.claims.find? fun c => a.lost.contains c.1).map Prod.snd).getD 0

/-! ### Writing -/

/-- The partition of a core's die (R32). -/
def State.partOfCore (s : State) (c : CoreId) : Nat := (s.pf.partmap[dieOf c]).toNat

/-- A tile written zero (R183). -/
def State.zeroTile (s : State) (c : CoreId) (lost : List Nat) (t : Nat) : State :=
  (List.range 64).foldl (fun s i =>
    let a := t * 0x1000 + 64 * i
    if lost.contains (wrPort a) then s else s.writeLocal c (wholeChunk a 0 0)) s

/-- The watchpoint judgement of an imprecise writer (R351). -/
def State.watchWrites (s : State) (c : CoreId) (a : Access) (wr : List ChunkW) : State :=
  match a.act with
  | .remWr o (some _) =>
    if o.pkg = s.pf.pkg.toNat ∧ o.core = c.val then s.watchLate c (s.partOfCore c) 1 a.bundle (s.gcid c.val a.ctx.val) 32 (touches wr)
    else s.watchLate c (s.partOfCore c) 5 0 (BitVec.ofNat 23 (2048 * o.pkg + 4 * o.core)) 64 (touches wr)
  | .remWr o none | .remAmo o _ | .hauUpd o _ _ _ =>
    s.watchLate c (s.partOfCore c) 5 0 (BitVec.ofNat 23 (2048 * o.pkg + 4 * o.core)) 64 (touches wr)
  | .linkWr _ => s.watchLate c (s.partOfCore c) 3 0 0 32 (touches wr)
  | .release late =>
    late.foldl (fun s w => s.watchLate c (s.partOfCore c) 4 w.2 (s.gcid c.val a.ctx.val) 32 (touches [w.1])) s
  | .write =>
    if a.eng = 1 ∨ a.eng = 2 then s.watchLate c (s.partOfCore c) a.eng a.bundle (s.gcid c.val a.ctx.val) 32 (touches wr) else s
  | _ => s

/-- The chunk and tag writes of an access perform, on the ports it has not lost (R167, R169, R172). -/
def State.writeAcc (s : State) (c : CoreId) (a : Access) : State :=
  let s := a.zero.foldl (fun s t => s.zeroTile c a.lost t) s
  let wr := a.wr.filter fun w => !a.lost.contains (wrPort w.addr)
  let s := wr.foldl (fun s w => s.writeLocal c w) s
  let s := a.tagW.foldl (fun s t => if a.lost.contains (tagWPort t.1) then s else s.setTag c t.1 t.2) s
  s.watchWrites c a wr

end Sys2Proof.Machine
end

