-- ==== Sys2Proof/Machine/Remote.lean ====
section
/-!
DEFINITION. Reaching beyond the core: the package-local address map (R54), handles and their checks (R56, R62 to R64), the tables of a route plan (R301, R302), and the times of timed traffic (R58, R234, R244).
-/

namespace Sys2Proof.Machine

/-! ### The address map -/

/-- What a package-local address reaches (R54). -/
inductive Region where
  | hbm (die : Nat)
  | pad (core : CoreId) (addr : Nat)
  | host (off : Nat)
  | none
  deriving DecidableEq, Repr

/-- The region of a package-local address (R45, R54). -/
def regionOf (a : Nat) : Region :=
  if a < 0xC000000000 then .hbm (stackDie (a / 0x1000000000))
  else if a < 0xC0A2000000 then
    match coreOf ((a - 0xC000000000) / 0x800000) with
    | some c => if (a - 0xC000000000) % 0x800000 < 0x600000 then .pad c ((a - 0xC000000000) % 0x800000) else .none
    | none => .none
  else if 0xD000000000 ≤ a ∧ a < 0xE000000000 then .host (a - 0xD000000000)
  else .none

/-- The pod package number of a pod address (R56). -/
def podPkg (pa : Nat) : Nat := pa / 2 ^ 40 % 4096
/-- The package-local part of a pod address (R56). -/
def podLoc (pa : Nat) : Nat := pa % 2 ^ 40
/-- A pod address (R56). -/
def podAddr (pkg loc : Nat) : Nat := pkg * 2 ^ 40 + loc

/-- The class of a pod address (R54); an address that nothing backs counts as untimed, which matters on another package only. -/
def classOf (pa : Nat) : AddrClass :=
  match regionOf (podLoc pa) with
  | .pad _ _ => .timed
  | _ => .untimed

/-- Does partition p hold die d (R32)? -/
def State.holdsDie (s : State) (p d : Nat) : Bool :=
  match dieOf? d with
  | some d => s.pf.partmap[d].toNat == p && p != 0
  | none => false

/-- RACEPOL.MODE of a partition (R269). -/
def State.raceMode (s : State) (part : Nat) : Nat :=
  match vfOf part with
  | some n => (bits (s.vfs[n].racepol) 0 2 : BitVec 2).toNat
  | none => 0

/-- Does an HBM address stand in the shadow state of its stack (R266)? -/
def inShadow (loc : Nat) : Bool := decide (loc % 0x1000000000 ≥ 0xD00000000)

/-- The own package's test of an address for a partition: false where trap 0x21 results (R63, R266). -/
def State.reachable (s : State) (part loc : Nat) : Bool :=
  match regionOf loc with
  | .hbm d => s.holdsDie part d && !(s.raceMode part != 0 && inShadow loc)
  | .pad c _ => s.holdsDie part (dieOf c).val
  | .host _ => true
  | .none => false

/-! ### HBM contents -/

/-- The key number of a byte that no write has reached since that key (R358). -/
def State.scramble (s : State) (a : Nat) : Option Nat :=
  (s.scrambled.find? fun r => decide (r.1 ≤ a) && decide (a < r.2.1)).map fun r => r.2.2

/-- n bytes of HBM from a package-local address. -/
def State.hbm (s : State) (a n : Nat) : Nat :=
  if s.scrambled.isEmpty then s.mem.span a n
  else packNat 8 ((List.range n).map fun i =>
    match s.scramble (a + i) with
    | some g => (Config.scrambledByte g (a + i)).toNat
    | none => (s.mem.byte (a + i)).toNat)

/-- Ranges without the addresses lo to hi − 1. -/
def carve (lo hi : Nat) (l : List (Nat × Nat × Nat)) : List (Nat × Nat × Nat) :=
  l.flatMap fun r =>
    (if r.1 < min r.2.1 lo then [(r.1, min r.2.1 lo, r.2.2)] else []) ++
      (if max r.1 hi < r.2.1 then [(max r.1 hi, r.2.1, r.2.2)] else [])

/-- Where the shadow entry of a sector stands among the ranges that read as undefined values: above every address (R266, R359). -/
def shadowAddr (k : Nat) : Nat := 2 ^ 48 + 8 * k

/-- The HBM stacks of dies, with their shadow state, read as undefined values under key number g, until they are written (R358, R359). -/
def State.scrambleStacks (s : State) (p : Nat → Bool) (g : Nat) : State :=
  { s with scrambled := (List.range 12).foldl (fun l st =>
      if p (stackDie st) then
        let a := st * 0x1000000000
        let b := a + 0x1000000000
        (a, b, g) :: (shadowAddr (a / 32), shadowAddr (b / 32), g) :: carve a b (carve (shadowAddr (a / 32)) (shadowAddr (b / 32)) l)
      else l) s.scrambled }

/-- The HBM key pair of a partition (R358). -/
def State.hbmKeys (s : State) (part : Nat) : Option (BitVec 256) × Option (BitVec 256) :=
  match vfOf part with
  | some n => (s.vfs[n].keys[0], s.vfs[n].keys[1])
  | none => (none, none)

/-- The stacks of dies come under other keys than a VF's, or lose them: a new key number (R359; log entry 7). -/
def State.otherKeys (s : State) (n : Fin 9) (p : Nat → Bool) : State :=
  let g := s.vfs[n].keyGen + 1
  (s.modVf n fun v => { v with keyGen := g }).scrambleStacks p (16 * g + n.val + 1)

/-- A write of n bytes within one chunk of HBM, with the poison marks it carries (R329, R358). -/
def State.putHbm (s : State) (a n v : Nat) (marks : BitVec 8) : State :=
  let i := a % 64
  let s := s.writeChunk (a / 64 * 64) ⟨0, BitVec.ofNat 512 (v <<< (8 * i)), BitVec.ofNat 128 (fullMask i n), marks⟩
  { s with scrambled := carve a (a + n) s.scrambled }

/-! ### Tile regions (R62) -/

/-- tile_pa of R62: the pod address, or the cause of a trap. -/
def tilePa (e : BitVec 128) (va : Nat) : Except Nat Nat :=
  let A := (bits e 15 4 : BitVec 4).toNat
  let b1 := (bits e 19 5 : BitVec 5).toNat
  let a := A + 6
  if A > 10 ∨ a + b1 > 26 ∨ e.getLsbD 5 then .error 0x20
  else
    let off := va % 2 ^ 26
    let c0 := off % 2 ^ a
    let c1 := off / 2 ^ a % 2 ^ b1
    let c2 := off / 2 ^ (a + b1)
    if c1 > (bits e 64 12 : BitVec 12).toNat ∨ c2 > (bits e 76 12 : BitVec 12).toNat then .error 0x22
    else
      let base := (bits e 24 40 : BitVec 40).toNat
      let loc := base % 2 ^ 28 * 4096 + c0 +
        64 * (c1 * (bits e 88 20 : BitVec 20).toNat + c2 * (bits e 108 20 : BitVec 20).toNat)
      if loc ≥ 2 ^ 40 then .error 0x22 else .ok (podAddr (base / 2 ^ 28) loc)

/-! ### Handles (R63, R64) -/

/-- The pod address of a VA through a handle, without the checks of its class and rights. -/
def Handle.pod (h : Handle) (va : Nat) : Except Nat Nat :=
  if va < h.va ∨ va ≥ h.va + h.size then .error 0x20
  else
    match h.tile with
    | some e => tilePa e va
    | none => .ok (h.pa + (va - h.va))

/-- A VA reached through a handle, with every check of R63: the pod address or the cause. -/
def State.reach (s : State) (part : Nat) (h : Option Handle) (rd wr : Bool) (va : Nat) : Except Nat Nat :=
  match h with
  | none => .error 0x20
  | some h =>
    let barred := (rd && !h.rd) || (wr && !h.wr)
    match h.pod va with
    | .error c => .error (if barred then min c 0x21 else c)
    | .ok pa =>
      if barred then .error 0x21
      else if classOf pa != h.cls then .error 0x21
      else if podPkg pa = s.pf.pkg.toNat ∧ !s.reachable part (podLoc pa) then .error 0x21
      else .ok pa

/-- Every VA of a list reached through a handle, or the first cause with the VA. -/
def State.reachAll (s : State) (part : Nat) (h : Option Handle) (rd wr : Bool) : List Nat → Except (Nat × Nat) (List Nat)
  | [] => .ok []
  | va :: vas =>
    match s.reach part h rd wr va with
    | .error c => .error (c, va)
    | .ok pa =>
      match s.reachAll part h rd wr vas with
      | .error e => .error e
      | .ok pas => .ok (pa :: pas)

/-- Is a handle of another class than the form takes (R234, R240)? An invalid handle is judged by R50. -/
def wrongClass (h : Option Handle) (c : AddrClass) : Bool := h.any fun h => h.cls != c

/-! ### Route plans (R301, R302) -/

/-- The image of a launch. -/
def State.imageOf (s : State) (l : Launch) : Option LoadedImage :=
  s.images.find? fun i => i.handle == l.image && i.part == l.part

/-- The plans of an image: variant 0, the detour variants, the survivor variants (R301). -/
def imagePlans (i : Image) : List Chunk :=
  i.chunks.filter (fun c => c.kind == 3) ++ i.chunks.filter (fun c => c.kind == 4) ++ i.chunks.filter (fun c => c.kind == 5)

/-- The number of detour variants NL (R301). -/
def imageDetours (i : Image) : Nat := (i.chunks.filter (fun c => c.kind == 4)).length

/-- A field of a plan payload. -/
def planFld (d byte w : Nat) : Nat := (d >>> (8 * byte)) % 2 ^ (8 * w)

/-- The payload of a launch's plan variant. -/
def State.plan (s : State) (l : Launch) (variant : Nat) : Option Nat :=
  (s.imageOf l).bind fun i => ((imagePlans i.img)[variant]?).map Chunk.data

/-- T and RRD of the time table for an ordered pair of logical indices (R302). -/
def planTimes (d src dst : Nat) : Option (Nat × Nat) :=
  ((List.range (planFld d 52 4)).find? fun i =>
    let o := planFld d 40 8 + 16 * i
    planFld d o 2 == src && planFld d (o + 2) 2 == dst).map fun i =>
      let o := planFld d 40 8 + 16 * i
      (planFld d (o + 8) 4, planFld d (o + 12) 4)

/-- The D3 group of a logical index (R302). -/
def planGroup (d i : Nat) : Nat := planFld d (planFld d 24 8 + 2 * i) 2

/-- The logical index of a pod package in a launch (R34). -/
def Launch.indexOf (l : Launch) (pkg : Nat) : Option Nat :=
  (List.range l.podmap.length).find? fun i => l.podmap[i]? == some pkg

/-- T and RRD from this package to another for a launch, under its current variant (R234, R301); a pair without a record takes undeclared times (log entry 2). -/
def State.planTime (s : State) (lk pkg : Nat) : Nat × Nat :=
  let open_ := (Config.undeclaredTime (2 * pkg), Config.undeclaredTime (2 * pkg + 1))
  match s.launch lk with
  | some l =>
    match s.plan l l.pod.variant, l.indexOf pkg with
    | some d, some j => (planTimes d l.lpkg j).getD open_
    | _, _ => open_
  | none => open_

/-! ### Times of timed traffic -/

/-- The one-way time T to a core (R234). -/
def State.oneWay (s : State) (c : CoreId) (lk pkg core : Nat) : Nat :=
  if pkg = s.pf.pkg.toNat then meshO c.val core + 4 else (s.planTime lk pkg).1

/-- The timed round trip D (R209). -/
def State.roundTrip (s : State) (c : CoreId) (lk pkg core : Nat) : Nat :=
  if pkg = s.pf.pkg.toNat then 2 * meshO c.val core + 8 else (s.planTime lk pkg).2

/-- Ticks from its leaving until a timed access has performed, or has brought its data home (R339). -/
def Access.span (a : Access) (t : Nat) : Nat :=
  match a.act with
  | .remRd .. | .remRow .. => 2 * t
  | _ => t

/-- A timed access sent off now: on this package it waits for its tick, to another package it leaves, where it is no launch's (R234, R244). -/
def State.sendTimed (s : State) (lk pkg core t : Nat) (a : Access) : State :=
  let a := { a with due := s.now + t, byTick := true }
  match coreOf core with
  | none => s
  | some k =>
    if pkg = s.pf.pkg.toNat then { s with wire := s.wire ++ [⟨k, a, s.partOf lk⟩] }
    else
      { s.emit (.remote pkg ⟨k, { a with lk := 0 }, s.partOf lk⟩) with
        away := (s.away.filter fun q => decide (s.now ≤ q.2)) ++ [(lk, s.now + a.span t)] }

/-- A timed access's core and local address. -/
def padOf (pa : Nat) : Option (Nat × Nat) :=
  match regionOf (podLoc pa) with
  | .pad c a => some (c.val, a)
  | _ => none

/-- The origin of a timed access of a form in the bundle in issue. -/
def Focus.origin (f : Focus) (s : State) (part eng t back : Nat) : Origin :=
  { pkg := s.pf.pkg.toNat, core := f.core.val, ctx := f.ctx, lk := s.focusLk f, issued := s.cycle f, bundle := f.idx,
    part := part, eng := eng, t := t, back := back, sent := s.now }

/-! ### Checks at issue -/

/-- The failing check with the lowest cause code; of several with one code, the first (R319). -/
def lowest : List (Nat × Word) → Option (Nat × Word)
  | [] => none
  | x :: xs =>
    match lowest xs with
    | some y => if y.1 < x.1 then some y else some x
    | none => some x

/-- The failing checks of VAs through a handle that must be of a class (R63, R229, R234, R240). -/
def State.reachFails (s : State) (part : Nat) (h : Option Handle) (want : AddrClass) (rd wr : Bool) (vas : List Nat) : List (Nat × Word) :=
  (if wrongClass h want then [(0x21, BitVec.ofNat 64 (vas.headD 0))] else []) ++
    vas.filterMap fun va =>
      match s.reach part h rd wr va with
      | .error c => some (c, BitVec.ofNat 64 va)
      | .ok _ => none

/-- A base that is no multiple of n. -/
def misaligned (base n : Nat) : List (Nat × Word) := if base % n = 0 then [] else [(0x03, BitVec.ofNat 64 base)]

end Sys2Proof.Machine
end

