-- ==== Sys2Proof/Machine/MatArith.lean ====
section
/-!
DEFINITION. The arithmetic of the matrix unit: the face and its weights (R188, R189), dressing (R134 to R136), the products of one row (R137 to R140, R225), and the conversions of mdr (R212).
-/

namespace Sys2Proof.Machine

/-! ### The face -/

/-- Kmax, the face rows of an arrangement (R188). -/
def faceKmax (arr : Nat) : Nat := 2048 >>> arr
/-- The output columns NO (R188, R189). -/
def faceCols (arr : Nat) (ffmt : Option Fmt) : Nat := if ffmt = some .bf16 then 64 <<< arr else 128 <<< arr
/-- Is a face format floating? -/
def isFloatFmt (f : Fmt) : Bool := (fpOf f).isSome
/-- The key of a face row in a T2 bank; other formats use bank 0. -/
def faceKey (f : Fmt) (bank : Bool) (row : Nat) : Nat := (if f = .t2 ∧ bank then 2048 else 0) + row
/-- The weights of a face row, as loaded; a cell not loaded holds zero (R190). -/
def Face.row (fc : Face) (f : Fmt) (bank : Bool) (row : Nat) : BitVec 16384 := tabGet fc.rows (faceKey f bank row) 0
/-- The scale bytes of a block; reset 0x7F (R190). -/
def Face.scale (fc : Face) (blk col : Nat) : Nat :=
  match tabGet? fc.scales blk with
  | some v => elemNat 8 v col
  | none => 0x7F
/-- A T2 weight of 0b10 is stored as 0b00 (R205). -/
def cleanT2 (n v : Nat) : Nat := packNat 2 ((List.range n).map fun i => if elemNat 2 (BitVec.ofNat 16384 v) i = 2 then 0 else elemNat 2 (BitVec.ofNat 16384 v) i)
/-- Does a T2 row hold 0b10 (R117)? -/
def badT2 (n v : Nat) : Bool := (List.range n).any fun i => elemNat 2 (BitVec.ofNat 16384 v) i == 2

/-! ### Dressing (R135) -/

/-- The largest floor(log₂ |v|) over the finite non-zero elements. -/
def blockExp (vs : List Num) : Option Int :=
  vs.foldl (fun m v =>
    match v with
    | .fin _ k _ => if k = 0 then m else some ((m.map (max v.log2)).getD v.log2)
    | _ => m) none

/-- Sign times floor(|v| × 2^s); an infinity or NaN gives 0. -/
def truncTo (s : Int) : Num → Int
  | .fin neg m e =>
    let k := e + s
    let q : Nat := if k ≥ 0 then m <<< k.toNat else m >>> (-k).toNat
    if neg then -(q : Int) else q
  | _ => 0

/-- A dressed block of one side: integers, unit exponent without the scale, and the elements. -/
structure Dressed where
  ints : List Int
  unit : Int
  vals : List Num

/-- Dress a block in a window of `win` bits below its exponent (R135). -/
def dress (f : Fmt) (win : Int) (vals : List Num) : Dressed :=
  if f = .mx4 then ⟨vals.map (truncTo 1), -1, vals⟩
  else
    let x := (blockExp vals).getD 0
    ⟨vals.map (truncTo (win - x)), x - win, vals⟩

/-- The window of B (R135). -/
def winB (f : Fmt) : Int := if f = .bf16 then 14 else 6

/-- The partial of one block and column (R136, R139): `incl` says which rows enter the product. -/
def blockPartial (a b : Dressed) (sa sb : Option Int) (incl : List Bool) : Num × Flags :=
  let pairs := ((a.vals.zip b.vals).zip incl).filterMap fun q => if q.2 then some q.1 else none
  match sa, sb with
  | some ea, some eb =>
    if pairs.any (fun q => q.1.isNan || q.2.isNan) then (.nan, 0)
    else
      let inf := pairs.filter fun q => q.1.isInf || q.2.isInf
      match inf with
      | [] =>
        let p := ((a.ints.zip b.ints).zip incl).foldl (fun acc q => if q.2 then acc + q.1.1 * q.1.2 else acc) (0 : Int)
        (.fin (decide (p < 0)) p.natAbs (a.unit + ea + b.unit + eb), 0)
      | q :: qs =>
        qs.foldl (fun acc r =>
          let m := mulNum r.1 r.2
          let t := addNum .rne acc.1 m.1
          (t.1, acc.2 ||| m.2 ||| t.2)) (mulNum q.1 q.2)
  | _, _ => (.nan, 0)

/-- One level of the tree of R140 in the wide word. -/
def sumLevel : List Num → Flags → List Num × Flags
  | x :: y :: rest, fl =>
    let (z, f1) := addNum .rne x y
    let (r, f2) := roundNum wideF .rne 0 z
    let (l, f) := sumLevel rest (fl ||| f1 ||| f2)
    (r :: l, f)
  | l, fl => (l, fl)

/-- The tree of R140: levels until one part is left. -/
def sumTree : Nat → List Num → Flags → Num × Flags
  | 0, l, fl => (l.headD (.fin false 0 0), fl)
  | n + 1, l, fl =>
    match l with
    | _ :: _ :: _ => let (l, f) := sumLevel l fl; sumTree n l f
    | _ => (l.headD (.fin false 0 0), fl)

/-- column_sum of R140 without its last addition: an FP32 pattern. -/
def columnSum (parts : List (Num × Flags)) : Nat × Flags :=
  let (s, fl) := sumTree 12 (parts.map Prod.fst) (parts.foldl (fun f p => f ||| p.2) 0)
  let (r, env) := FpEnv.round ⟨0, 0⟩ fp32F .rne 0 s
  (r, fl ||| env.fl)

/-! ### The product of one row -/

/-- One A row as it meets the face: its first face row, its elements as values, its scales by block, and its unit when it is not dressed (R225). -/
structure ARow where
  r0 : Nat
  vals : List Num
  ints : List Int
  scales : Nat → Option Int
  /-- none: dress as A; some u: magnitudes as they are, with this unit exponent -/
  raw : Bool

/-- Which face rows enter a product (R134, R225). -/
def inK (k kv row : Nat) : Bool := decide (row < k) && decide (row < kv)

/-- The parts of R208 for one output column of a floating face. -/
def floatColumn (fc : Face) (ff : Fmt) (k kv : Nat) (s : Bool) (a : ARow) (nb col : Nat) (da : List Dressed) : Nat × Flags :=
  columnSum ((List.range nb).map fun b =>
    let row0 := a.r0 + 32 * b
    let bv := (List.range 32).map fun i => elemNum ff (elemNat ff.width (fc.row ff false (row0 + i)) col)
    let sb := if s then e8m0 (fc.scale (row0 / 32) col) else some 0
    blockPartial (da.getD b ⟨[], 0, []⟩) (dress ff (winB ff) bv) (a.scales b) sb ((List.range 32).map fun i => inK k kv (row0 + i))
    )

/-- The A blocks of a row, dressed; an excluded element is +0 (R134). -/
def dressA (fa : Fmt) (k kv : Nat) (a : ARow) (nb : Nat) : List Dressed :=
  (List.range nb).map fun b =>
    let vs := (List.range 32).map fun i =>
      if inK k kv (a.r0 + 32 * b + i) then a.vals.getD (32 * b + i) (.fin false 0 0) else .fin false 0 0
    if a.raw then ⟨vs.map (truncTo 0), 0, vs⟩ else dress fa 11 vs

/-- The exact sum of one output column of an integer face (R137, R138). -/
def intColumn (fc : Face) (ff : Fmt) (bank : Bool) (k kv : Nat) (a : ARow) (col : Nat) : Int :=
  ((List.range a.ints.length).zip a.ints).foldl (fun acc q =>
    if q.2 = 0 || !inK k kv (a.r0 + q.1) then acc
    else acc + q.2 * elemInt ff (elemNat ff.width (fc.row ff bank (a.r0 + q.1)) col)) 0

/-- The values of a row before it meets the accumulator, and its flags (R137 to R140, R208). -/
def rowProduct (fc : Face) (m : MForm) (a : ARow) (nb : Nat) : List Nat × Flags :=
  let cols := List.range (faceCols m.arr (some m.ffmt))
  if isFloatFmt m.ffmt then
    let da := dressA m.fmt m.k m.kv a nb
    let r := cols.map fun c => floatColumn fc m.ffmt m.k m.kv m.s a nb c da
    (r.map Prod.fst, r.foldl (fun f q => f ||| q.2) 0)
  else
    let r := cols.map fun c => intColumn fc m.ffmt m.bank m.k m.kv a c
    if m.w then (r.map (wrapNat 64), 0)
    else
      let lo : Int := -(2 ^ 23 : Nat)
      let hi : Int := (2 ^ 23 : Nat) - 1
      (r.map fun x => wrapNat 32 (clampInt lo hi x), Flags.when (r.any fun x => decide (x < lo) || decide (x > hi)) flMSAT)

/-- The A row of mma, mma.r and mma.t from its K elements and its scale bytes (R135, R193). -/
def ARow.of (f : Fmt) (k : Nat) (row sc : Nat) (s : Bool) : ARow :=
  let el (i : Nat) : Nat := (row >>> (i * f.width)) % 2 ^ f.width
  { r0 := 0
    vals := if isFloatFmt f then (List.range k).map (fun i => elemNum f (el i)) else []
    ints := if isFloatFmt f then [] else (List.range k).map (fun i => elemInt f (el i))
    scales := fun b => if s then e8m0 ((sc >>> (8 * b)) % 256) else some 0
    raw := false }

/-- Entry e of an attenuation table, and its scale (R222). -/
def attEntry (t : BitVec 1032) (e : Nat) : Nat := elemNat 8 t e
def attScale (t : BitVec 1032) : Nat := elemNat 8 t 128

/-- The A row of mmr from its stream record (R225). -/
def ARow.ofStream (tbl : BitVec 1032) (g : Nat) (stream : Nat) (flt : Bool) : ARow × Bool :=
  let (pos, bad) := parseStream stream
  let es : List Nat := (List.range 128).map fun l => ((rankOf pos l).map (attEntry tbl)).getD 0
  ({ r0 := 128 * g
     vals := if flt then es.map (fun (e : Nat) => Num.ofInt e) else []
     ints := if flt then [] else es.map (fun (e : Nat) => (e : Int))
     scales := fun _ => e8m0 (attScale tbl)
     raw := true }, bad)

/-- The attenuation entries that the first n elements of a stream use; the others are excluded (R225, R226). -/
def usedRanks (stream n : Nat) : List Nat :=
  let (pos, _) := parseStream stream
  (List.range (min n 128)).filterMap fun l => rankOf pos l

/-! ### Landing (R208) -/

/-- A row of a name after a landing: column values `new` from column 0 of the name on. -/
def putCols (w : Nat) (old : VReg) (new : List Nat) : VReg :=
  BitVec.ofNat 4096 (packNat w ((List.range (4096 / w)).map fun c => new.getD c (elemNat w old c)))

/-- The new value of one accumulator element (R208). -/
def landEl (flt w z : Bool) (old s : Nat) : Nat × Flags :=
  if z then (s, 0)
  else if flt then
    let (x, f1) := addNum .rne (fp32F.value old) (fp32F.value s)
    let (r, env) := FpEnv.round ⟨0, 0⟩ fp32F .rne 0 x
    (r, f1 ||| env.fl)
  else if w then ((old + s) % 2 ^ 64, 0)
  else
    let x := toSigned 32 old + toSigned 32 s
    let (lo, hi) := intRange 32 true
    (wrapNat 32 (clampInt lo hi x), Flags.when (decide (x < lo) || decide (x > hi)) flMSAT)

/-- One name of a row after its landing, with the flags (R208). -/
def landName (flt w z : Bool) (old : VReg) (vals : List Nat) : VReg × Flags :=
  let wd := if w then 64 else 32
  let r := ((List.range vals.length).zip vals).map fun q => landEl flt w z (elemNat wd old q.1) q.2
  (putCols wd old (r.map Prod.fst), r.foldl (fun f q => f ||| q.2) 0)

/-! ### mdr conversions (R212) -/

/-- The source formats of mdr by its source type. -/
def mdrSrcW (st : Nat) : Nat := if st = 2 then 64 else 32
/-- Elements of a row of mdr. -/
def mdrCount (st : Nat) : Nat := if st = 2 then 64 else 128

/-- How mdr converts: bits unchanged, a clamp, or a rounding (R212). -/
inductive MdrRule where
  | same | clamp | round
  deriving DecidableEq, Repr

/-- The table of R212; none for a pair it does not list. -/
def mdrRule (st : Nat) (d : Fmt) : Option MdrRule :=
  match st, d with
  | 0, .fp32 => some .same
  | 0, .bf16 | 0, .fp16 | 0, .e4m3 | 0, .e5m2 | 0, .i32 | 0, .i16 | 0, .i8 => some .round
  | 1, .i32 => some .same
  | 1, .i16 | 1, .i8 | 1, .u8 => some .clamp
  | 1, .fp32 | 1, .bf16 => some .round
  | 2, .i64p => some .same
  | 2, .i32 => some .clamp
  | 2, .fp32 => some .round
  | _, _ => none

/-- One element of a drained row. -/
def mdrEl (st : Nat) (d : Fmt) (rm : RM) (lane x : Nat) (v : FpEnv) : Nat × FpEnv :=
  match mdrRule st d with
  | some .clamp => (clampEl d (toSigned (mdrSrcW st) x), v)
  | some .round =>
    let y := if st = 0 then fp32F.value x else Num.ofInt (toSigned (mdrSrcW st) x)
    match fpOf d with
    | some F => v.round F rm lane y
    | none => v.roundI d.width (intSigned d) rm lane y
  | _ => (x, v)

/-- A whole drained row: element j on lane j (R126, R212). DESIGN CHOICE (log entry 112): pair j of an INT64 pair source draws on lane j (R126, R212). -/
def mdrRow (st : Nat) (d : Fmt) (rm : RM) (row : VReg) : Nat → FpEnv → List Nat × FpEnv
  | 0, v => ([], v)
  | n + 1, v =>
    let j := mdrCount st - (n + 1)
    let (e, v) := mdrEl st d rm j (elemNat (mdrSrcW st) row j) v
    let (es, v) := mdrRow st d rm row n v
    (e :: es, v)

/-- The LFSR states after the draws of M rows (R126). -/
def mdrDraws (n : Nat) : Nat → Lfsrs → Lfsrs
  | 0, l => l
  | m + 1, l => mdrDraws n m ((List.range n).foldl (fun l j => lfsrSet l j (lfsrStep (lfsrGet l j))) l)

end Sys2Proof.Machine
end

