-- ==== Sys2Proof/Machine/Matrix.lean ====
section
/-!
DEFINITION. The matrix slot (09_matrix_unit.md, R223 to R226): the checks of each form at its issue, the face and drain paths, what each row does when it is read, how rows land, the names across checkpoints and rollback, and poison.
-/

namespace Sys2Proof

/-! ### Fields -/

/-- Blocks or rows: the field plus one (R202). -/
def MOps.count (o : MOps) : Nat := (bits o.imm 0 6 : BitVec 6).toNat + 1
/-- Flags Z, W, S (R202). -/
def MOps.zf (o : MOps) : Bool := o.fl.getLsbD 3
def MOps.wf2 (o : MOps) : Bool := o.fl.getLsbD 2
def MOps.sf (o : MOps) : Bool := o.fl.getLsbD 1
/-- The arrangement of mcfg. -/
def MOps.arr (o : MOps) : Nat := (bits o.imm 0 3 : BitVec 3).toNat
/-- The table of mmr and matt. -/
def MOps.table (o : MOps) : Nat := (bits o.imm 6 2 : BitVec 2).toNat
/-- Prefetch depth d of mma.r. -/
def MOps.depth (o : MOps) : Nat := (bits o.imm 6 3 : BitVec 3).toNat + 1

/-- The source type of mdr. -/
def MOps.mdrType (o : MOps) : Nat := (bits o.imm 7 2 : BitVec 2).toNat

end Sys2Proof

namespace Sys2Proof.Machine

/-! ### Addresses and pairs -/

/-- Address of row i. -/
def rowAddr (base pitch : Word) (i : Nat) : Nat := (base + BitVec.ofNat 64 i * pitch).toNat
/-- Bytes rounded up to whole chunks. -/
def up64 (n : Nat) : Nat := (n + 63) / 64 * 64
/-- The chunks of a row, in segments of 512 B (R193). -/
def segChunks (a rb : Nat) : List Nat := (List.range (rb / 64)).map fun j => a + j / 8 * 0x20000 + j % 8 * 64

/-- Plane count of a legal pair of A format and FFMT (R194). -/
def pairPlanes (a : Fmt) (ff : Option Fmt) : Option Nat :=
  match a, ff with
  | .mx4, some .mx4 => some 4
  | .i4, some .i4 => some 4
  | .e4m3, some .e4m3 | .e4m3, some .e5m2 | .e5m2, some .e4m3 | .e5m2, some .e5m2 => some 12
  | .bf16, some .bf16 => some 12
  | .i8, some .i8 | .u8, some .i8 => some 8
  | .i8, some .t2 => some 1
  | .u8, some .t2 => some 8
  | .i16, some .t2 => some 16
  | .i32, some .t2 => some 32
  | _, _ => none

/-- Plane count of mmr on a legal face, with its flags (R224). -/
def mmrPlanes (ff : Option Fmt) (w s : Bool) : Option Nat :=
  match ff with
  | some .t2 => if s then none else some 1
  | some .i4 | some .i8 => if s then none else some 8
  | some .mx4 => if w || !s then none else some 8
  | some .e4m3 | some .e5m2 => if w then none else some 8
  | some .bf16 => if w || s then none else some 8
  | _ => none

/-- The names that a row spans (R208). -/
def nameCount (arr : Nat) (ff : Option Fmt) (w : Bool) : Nat := (faceCols arr ff + (if w then 63 else 127)) / (if w then 64 else 128)

/-- Bytes of an A row (R193). -/
def aBytes (k : Nat) (f : Fmt) : Nat := up64 (k * f.width / 8)

/-- Operand values that fail at issue with trap 0x01 (R79, R194, R202, R204 to R210, R224). -/
def State.matBad (s : State) (f : Focus) (i : Instr) : Bool :=
  let fc := (s.core f.core).face
  match i with
  | .mcfg o =>
    let k := (s.readX f o.a).toNat
    let kv := (s.readX f o.b).toNat
    decide (k % 32 ≠ 0) || decide (k < 32) || decide (k > faceKmax o.arr) || decide (kv < 1) || decide (kv > k)
  | .mwld o =>
    let c := (s.readX f o.c).toNat
    decide (c % 32 ≠ 0) || decide (c + 32 * o.count > faceKmax fc.arr)
  | .msc o => decide ((s.readX f o.c).toNat + o.count > faceKmax fc.arr / 32)
  | .mma o => (pairPlanes o.fmt fc.ffmt).isNone || decide (o.acc.toNat + nameCount fc.arr fc.ffmt o.wf2 > 24)
  | .mmaT o =>
    (pairPlanes o.fmt fc.ffmt).isNone || decide (o.acc.toNat + nameCount fc.arr fc.ffmt o.wf2 > 24) || decide (fc.k > 128)
  | .mmaR o =>
    (pairPlanes o.fmt fc.ffmt).isNone || decide (o.acc.toNat + nameCount fc.arr fc.ffmt o.wf2 > 24) ||
      decide (o.depth * aBytes fc.k o.fmt > 16384)
  | .mmr o =>
    let g := (s.readX f o.c).toNat
    (mmrPlanes fc.ffmt o.wf2 o.sf).isNone || decide (o.acc.toNat + nameCount fc.arr fc.ffmt o.wf2 > 24) || decide (g > 15) ||
      decide (128 * g ≥ fc.k)
  | _ => false

/-! ### Issue -/

/-- The paths of R191; a background mwld takes neither. -/
inductive MPath where
  | face | drain | back
  deriving DecidableEq, Repr

/-- A form with the fields that every form shares. -/
def State.mform (s : State) (f : Focus) (o : MOps) (kind : MKind) : MForm :=
  let k := s.core f.core
  let fc := k.face
  { id := k.mnext, ctx := f.ctx, lk := s.focusLk f, issued := k.cyc, ival := (k.ctx f.ctx).ck.issued,
    bundle := f.idx, kind := kind, fmt := o.fmt, ffmt := fc.ffmt.getD .t2, arr := fc.arr, p := 1, rows := o.count,
    base := (s.readX f o.a).toNat, pitch := (s.readX f o.b).toNat, aux := 0, first := o.acc.toNat, names := 0,
    z := o.zf, w := o.wf2, s := o.sf, bank := fc.bank, k := fc.k, kv := fc.kv, sel := 0, tbl := 0, blk := 0, rm := bits o.fl 0 3,
    at_ := [], tgt := [], req := [], got := [], lands := [], done := 0, doneAt := 0, lfsr := (k.ctx f.ctx).lfsr,
    until_ := k.cyc + 1, attKeep := none, stale := false, poisA := none, poisS := none, poisF := none }

/-- The names that a form concerns. -/
def MForm.nameList (m : MForm) : List Nat := (List.range m.names).map (m.first + ·)

/-- Is a name held by another context (R197)? -/
def LaunchCore.heldByOther (l : LaunchCore) (c : CtxId) (n : Nat) : Bool :=
  if h : n < 24 then match l.holder[n] with
    | some x => x != c
    | none => false
  else false

/-- Does the load side of the face path, or a background mwld, stand against a form that changes the face (R205)? -/
def Core.loading (k : Core) : Bool := k.mforms.any fun m => (m.kind == .mwld || m.kind == .msc) && decide (k.cyc < m.until_)

/-- Is a form's path taken at its issue (R191, R205)? -/
def Core.pathBusy (k : Core) (path : MPath) : Bool :=
  match path with
  | .face => decide (k.cyc < k.faceFree)
  | .drain => decide (k.cyc < k.drainFree)
  | .back => k.loading

/-- The reserved slots of a launch that hold no version (R196). -/
def LaunchCore.freeSlots (l : LaunchCore) : List Nat :=
  l.slots.filter fun x => !(l.slotCk.any fun q => q.2 == x) && !(l.slotCur.any fun q => q.2 == x)

/-- Slot number i of a list that is counted round; 0xFF of an empty one. -/
def pickSlot (l : List Nat) (i : Nat) : Nat := l.getD (i % l.length) 0xFF

/-- Two slots for each accumulator, out of those that no launch of the core has reserved (R195). -/
def reserveSlots (ctr item : Nat) (avail : List Nat) : Nat → List Nat
  | 0 => []
  | n + 1 =>
    let x := pickSlot avail (Config.freeSlot ctr (item + n))
    if avail.isEmpty then [] else x :: reserveSlots ctr item (avail.filter (· != x)) n

/-- A name's first write in an interval takes a fresh slot (R196). -/
def LaunchCore.rename (l : LaunchCore) (ctr n : Nat) : LaunchCore :=
  if (tabGet? l.slotCur n).isSome then l
  else { l with slotCur := tabSet l.slotCur n (pickSlot l.freeSlots (Config.freeSlot ctr n)) }

/-- Does the free list run dry for a form that writes names (R196)? -/
def LaunchCore.runsDry (l : LaunchCore) (ns : List Nat) : Bool :=
  decide (l.freeSlots.length < (ns.filter fun n => (tabGet? l.slotCur n).isNone).length)

/-- The physical slot of the version in which a row of a name stands (R196, R200). -/
def LaunchCore.slotOf (l : LaunchCore) (name row : Nat) : Option Nat :=
  if (tabGet? l.accOver (64 * name + row)).isSome || l.accClr.getLsbD name then tabGet? l.slotCur name else tabGet? l.slotCk name

/-- Names written by a form are held by its context (R197). -/
def LaunchCore.hold (l : LaunchCore) (c : CtxId) (ns : List Nat) : LaunchCore :=
  ns.foldl (fun l n => if h : n < 24 then { l with holder := l.holder.set n (some c) } else l) l

/-- The launch and bundle that a matrix form's cycles are charged to (R201). -/
def State.profTag (s : State) (f : Focus) : Option (BitVec 16 × BitVec 12) :=
  (s.launch (s.focusLk f)).map fun l => (l.id, f.idx)

/-- What a matrix form asks for at its issue, and what it enters: the form, the checks of its own that fail, chunks touched, its path, whether it loads the face, its reads (row, cycle, chunks), and whether it writes its names (R197). -/
structure MatPlan where
  form : MForm
  fails : List (Nat × Word)
  touched : List Nat
  path : MPath
  loads : Bool
  reads : List (Nat × Nat × List Nat)
  writes : Bool

/-- The failing checks of a matrix form at its issue: its own and its names (R19), local addresses (R170, R193), holding (R197), path (R191), and, of a form that writes its names, the free list (R196). The lowest cause is raised (R319; log entry 101). -/
def State.matFail (s : State) (f : Focus) (names : List Nat) (own : List (Nat × Word)) (touched : List Nat) (path : Option MPath)
    (writes : Bool) : Option (Nat × Word) :=
  let k := s.core f.core
  let lc := k.lcOf f.ctx
  lowest ((if names.any (fun n => decide (n ≥ (lc.map LaunchCore.accs).getD 0)) then [(0x03, bits (s.freeV 242) 0 64)] else []) ++ own ++
    ((accessBad lc 0 1 touched).toList.map fun a => (0x03, BitVec.ofNat 64 a)) ++
    (if names.any (fun n => lc.any (fun l => l.heldByOther f.ctx n)) || path.any k.pathBusy then [(0x11, 0)] else []) ++
    (if writes && lc.any (fun l => l.runsDry names) then [(0x15, 0)] else []))

/-- A matrix form enters: its path is taken to its last cycle, the names it writes are held and take their slots, and its reads stand on their cycles. -/
def State.matEnter (s : State) (f : Focus) (m : MForm) (path : MPath) (held : List Nat) (reads : List (Nat × Nat × List Nat)) : State :=
  let acc := reads.map fun r => f.access s 4 2 .matrix r.2.1 r.2.2 [] (.mrow m.id r.1)
  (s.modCore f.core fun k =>
    let k := { k with
      mforms := k.mforms ++ [m]
      mnext := k.mnext + 1
      acc := k.acc ++ acc
      faceFree := if path = MPath.face then m.until_ else k.faceFree
      drainFree := if path = MPath.drain then m.until_ else k.drainFree
      bgFree := if path = MPath.back then m.until_ else k.bgFree
      dbg := { k.dbg with profLast := s.profTag f } }
    k.modLc m.lk fun l => held.foldl (fun l n => l.rename s.freeCtr n) (l.hold f.ctx held)).tickFree

/-- The first failing check of a planned form. -/
def State.planFails (s : State) (f : Focus) (p : MatPlan) : Option (Nat × Word) :=
  s.matFail f p.form.nameList p.fails p.touched (some p.path) p.writes

/-- A planned form enters. -/
def State.planEnter (s : State) (f : Focus) (p : MatPlan) : State := s.matEnter f p.form p.path (if p.writes then p.form.nameList else []) p.reads

/-- Raise a trap of a matrix form after its issue. -/
def State.matTrap (s : State) (c : CoreId) (m : MForm) (cause : Nat) (addr : Word) (pslot : BitVec 8) (frow : BitVec 16) : State :=
  s.modCore c fun k => k.addTrap
    { ctx := m.ctx, lk := m.lk, cause := cause, part := 4, eng := 2, addr := addr, bundle := m.bundle, origin := m.issued,
      pslot := pslot, frow := frow, pod := false }

/-- A background load during whose cycles mcfg, mwld, msc or mwbank issues raises trap 0x11 (R205). -/
def State.backTrap (s : State) (f : Focus) (loads : Bool) : State :=
  let k := s.core f.core
  if loads && decide (k.cyc < k.bgFree) then
    match k.mforms.find? fun m => m.kind == .mwld && m.w && decide (k.cyc < m.until_) with
    | some m => s.matTrap f.core m 0x11 0 0 0
    | none => s
  else s

/-- A matrix form: checks, then its entry, then what it changes at once. -/
def State.matRun (s : State) (f : Focus) (p : MatPlan) (also : State → State) : State :=
  match s.planFails f p with
  | some (c, a) => (s.raise f 4 c a).backTrap f p.loads
  | none => (also (s.planEnter f p)).backTrap f (p.loads && p.path == .face)

/-- Change the face; the launch's partition has written it (R190). -/
def State.modFace (s : State) (f : Focus) (g : Face → Face) : State :=
  let part := s.partOf (s.focusLk f)
  s.modCore f.core fun k => { k with face := { g k.face with part := part } }

/-- Errors in cells go with the cells (R328). -/
def isFaceLoc : ErrLoc → Bool
  | .face .. | .scale .. => true
  | _ => false

/-- A matrix slot form. -/
def matSlot (i : Instr) (name : String) (s : State) (go : Focus → State) : Out := slotRun i name s (fun f => s.matBad f i) go

/-- What mcfg and mwbank ask for: the face path (R191, R204, R206). -/
def State.cfgPlan (s : State) (f : Focus) (o : MOps) : MatPlan := ⟨s.mform f o .cfg, [], [], .face, true, [], false⟩

/-- The check of a value that must be a multiple of n, with the address that a record carries for it (R193). -/
def multiple (v n a : Nat) : List (Nat × Word) := if v % n = 0 then [] else [(0x03, BitVec.ofNat 64 a)]

/-- A base and a pitch that must be multiples of 64 (R193). -/
def aligned64 (a b : Word) : List (Nat × Word) := multiple a.toNat 64 a.toNat ++ multiple b.toNat 64 a.toNat

/-- The arrangement, K and KV change; a new arrangement clears the face (R204). -/
def State.setArr (s : State) (f : Focus) (arr k kv : Nat) : State :=
  if (s.core f.core).face.arr ≠ arr then
    (s.modFace f fun fc => { fc with
      arr := arr, k := k, kv := kv, rows := [], scales := [], ffmt := none, errRows := [], errScales := [] }).modCore f.core fun c => c.heal isFaceLoc
  else s.modFace f fun fc => { fc with k := k, kv := kv }

/-- MCFG (R204). -/
def execMcfg (o : MOps) (s : State) : Out :=
  matSlot (.mcfg o) "MCFG" s fun f =>
    s.matRun f (s.cfgPlan f o) fun t => t.setArr f o.arr (s.readX f o.a).toNat (s.readX f o.b).toNat

/-- MWBANK (R206). -/
def execMwbank (o : MOps) (s : State) : Out :=
  matSlot (.mwbank o) "MWBANK" s fun f =>
    s.matRun f (s.cfgPlan f o) fun t => t.modFace f fun fc => { fc with bank := o.fl.getLsbD 0 }

/-- Does a face row stay when mwld sets FFMT: is it among rows c to c + n − 1 of the bank loaded (R205)? -/
def keepRow (f : Fmt) (bk : Bool) (c n key : Nat) : Bool :=
  decide (c ≤ key % 2048) && decide (key % 2048 < c + n) && (f != .t2 || decide (key / 2048 = bk.toNat))

/-- Does mwld run in the background: into the T2 bank that is not selected (R205)? -/
def State.mwldBack (s : State) (f : Focus) (o : MOps) : Bool :=
  let fc := (s.core f.core).face
  o.fmt == .t2 && fc.ffmt == some .t2 && o.fl.getLsbD 0 != fc.bank

/-- What mwld asks for (R205). -/
def State.mwldPlan (s : State) (f : Focus) (o : MOps) : MatPlan :=
  let a := s.readX f o.a
  let b := s.readX f o.b
  let n := o.count
  let t := s.cycle f
  let back := s.mwldBack f o
  let rb := up64 (faceCols (s.core f.core).face.arr (some o.fmt) * o.fmt.width / 8)
  let rows := (List.range (32 * n)).map fun j => (j, t + 1 + j, segChunks (rowAddr a b j) rb)
  ⟨{ s.mform f o .mwld with
      aux := (s.readX f o.c).toNat, rows := 32 * n, bank := o.fl.getLsbD 0, w := back, z := false, s := false, ffmt := o.fmt,
      until_ := t + 32 * n + 3 },
    aligned64 a b, rows.flatMap fun r => r.2.2, if back then .back else .face, true, rows, false⟩

/-- FFMT changes: of the face, only the rows that are loaded stay (R205). -/
def State.setFfmt (s : State) (f : Focus) (fm : Fmt) (bk : Bool) (c n : Nat) : State :=
  if (s.core f.core).face.ffmt = some fm then s.modFace f id
  else
    (s.modFace f fun fc =>
      { fc with
        ffmt := some fm
        rows := fc.rows.filter (fun r => keepRow fm bk c n r.1)
        scales := []
        errRows := fc.errRows.filter (keepRow fm bk c n)
        errScales := [] }).modCore f.core fun k => k.heal fun
      | .scale .. => true
      | .face _ b r _ => !keepRow fm bk c n (2048 * b.toNat + r)
      | _ => false

/-- MWLD (R205). -/
def execMwld (o : MOps) (s : State) : Out :=
  matSlot (.mwld o) "MWLD" s fun f =>
    s.matRun f (s.mwldPlan f o) fun t =>
      (t.setFfmt f o.fmt (o.fl.getLsbD 0) (s.readX f o.c).toNat (32 * o.count)).modCore f.core fun k =>
        k.modLc (s.focusLk f) fun l => { l with stale := false }

/-- What msc asks for (R207). -/
def State.mscPlan (s : State) (f : Focus) (o : MOps) : MatPlan :=
  let fc := (s.core f.core).face
  let a := s.readX f o.a
  let b := s.readX f o.b
  let t := s.cycle f
  let rows := (List.range o.count).map fun j => (j, t + 1 + j, segChunks (rowAddr a b j) (up64 (faceCols fc.arr fc.ffmt)))
  ⟨{ s.mform f o .msc with aux := (s.readX f o.c).toNat, until_ := t + o.count + 2 },
    aligned64 a b, rows.flatMap fun r => r.2.2, .face, true, rows, false⟩

/-- MSC (R207). -/
def execMsc (o : MOps) (s : State) : Out :=
  matSlot (.msc o) "MSC" s fun f => s.matRun f (s.mscPlan f o) fun t => t.modFace f id

/-- The chunks of an A row that hold an included element (R193). -/
def aChunks (a rb kv : Nat) (fm : Fmt) : List Nat :=
  ((List.range (rb / 64)).filter fun j => decide (j * 512 / fm.width < kv)).map fun j => a + j / 8 * 0x20000 + j % 8 * 64

/-- The form of an mma-family form with M rows at planes p, its face occupancy ending before `until_`. -/
def State.mmaForm (s : State) (f : Focus) (o : MOps) (kind : MKind) (p : Nat) (at_ : List Nat) (until_ : Nat) : MForm :=
  let k := s.core f.core
  { s.mform f o kind with
    p := p, names := nameCount k.face.arr k.face.ffmt o.wf2, at_ := at_, until_ := until_
    stale := (k.lcOf f.ctx).any LaunchCore.stale }

/-- The alignments that a form with base a, pitch b and, with S, scales at sc asks for (R193). -/
def mmaAlign (o : MOps) (a b : Word) (sc : Nat) : List (Nat × Word) := aligned64 a b ++ if o.sf then multiple sc 64 sc else []

/-- What mma asks for (R193, R194, R208). -/
def State.mmaPlan (s : State) (f : Focus) (o : MOps) : MatPlan :=
  let fc := (s.core f.core).face
  let a := s.readX f o.a
  let b := s.readX f o.b
  let sc := (s.readX f o.c).toNat
  let t := s.cycle f
  let p := (pairPlanes o.fmt fc.ffmt).getD 1
  let rows := (List.range o.count).map fun i =>
    (i, t + 1 + p * i, aChunks (rowAddr a b i) (aBytes fc.k o.fmt) fc.kv o.fmt ++ if o.sf then [sc + 64 * i] else [])
  ⟨{ s.mmaForm f o .mma p (rows.map fun r => r.2.1) (t + p * o.count) with aux := sc },
    mmaAlign o a b sc, rows.flatMap fun r => r.2.2, .face, false, rows, true⟩

/-- MMA (R193, R194, R208). -/
def execMma (o : MOps) (s : State) : Out :=
  matSlot (.mma o) "MMA" s fun f => s.matRun f (s.mmaPlan f o) id

/-- Bytes of a stored row of mma.t: element k of each of n A rows (R210). -/
def tBytes (n : Nat) (f : Fmt) : Nat := up64 ((n * f.width + 7) / 8)

/-- What mma.t asks for (R210): stored rows at or above KV are neither read nor checked; the scales of all rows are read at issue + 1. -/
def State.mmaTPlan (s : State) (f : Focus) (o : MOps) : MatPlan :=
  let fc := (s.core f.core).face
  let a := s.readX f o.a
  let b := s.readX f o.b
  let sc := (s.readX f o.c).toNat
  let t := s.cycle f
  let p := (pairPlanes o.fmt fc.ffmt).getD 1
  let rb := tBytes o.count o.fmt
  let rows := (List.range (min fc.k fc.kv)).map fun k =>
    (k, t + 1 + k, segChunks (rowAddr a b k) rb ++
      if o.sf && k == 0 then (List.range o.count).map (fun i => sc + 64 * i) else [])
  let at_ := (List.range o.count).map fun i => t + 1 + fc.k + p * i
  ⟨{ s.mmaForm f o .mmaT p at_ (t + fc.k + p * o.count) with aux := sc },
    mmaAlign o a b sc, rows.flatMap fun r => r.2.2, .face, false, rows, true⟩

/-- MMA_T (R210). -/
def execMmaT (o : MOps) (s : State) : Out :=
  matSlot (.mmaT o) "MMA_T" s fun f => s.matRun f (s.mmaTPlan f o) id

/-- Request and broadcast cycles of mma.r, the rows before row i given newest first (R209). -/
def mmaRTimes (t p D d : Nat) : Nat → List (Nat × Nat)
  | 0 => []
  | n + 1 =>
    let prev := mmaRTimes t p D d n
    let req := if n < d then t + n else ((prev[n - d]?).map Prod.snd).getD t
    let b := if n = 0 then t + D + 1 else max (((prev[n - 1]?).map Prod.snd).getD t + p) (req + D + 1)
    prev ++ [(req, b)]

/-- The targets of rows reached through a handle: package, core of the first chunk, and the chunks as local addresses there. -/
def rowTargets (pas : List (List Nat)) : List (Nat × Nat × List Nat) :=
  pas.map fun l => (podPkg (l.headD 0), ((padOf (l.headD 0)).map Prod.fst).getD 0, l.filterMap fun pa => (padOf pa).map Prod.snd)

/-- The handle that a source names (R69). -/
def State.handleOf (s : State) (f : Focus) : Src → Option Handle
  | .reg n => (s.ctx f.core f.ctx).th[(n.toNat % 8 : Nat)]'(by omega)
  | _ => none

/-- The chunks of the rows of mma.r, as VAs (R193, R209). -/
def State.mmaRRows (s : State) (f : Focus) (o : MOps) : List (List Nat) :=
  let fc := (s.core f.core).face
  (List.range o.count).map fun i => aChunks (rowAddr (s.readX f o.b) (s.readX f o.c) i) (aBytes fc.k o.fmt) fc.kv o.fmt

/-- Does an address reached lie in a window of a core's scratchpad, in this bank? -/
def reachedBank (r : Except Nat Nat) : Option Nat :=
  match r with
  | .ok pa => (padOf pa).map fun q => bankOf q.2
  | .error _ => none

/-- The VAs of a row that stand in segments beyond bank 47 of the source core (R193). -/
def State.farSegments (s : State) (part : Nat) (h : Option Handle) (row : List Nat) : List (Nat × Word) :=
  match reachedBank (s.reach part h true false (row.headD 0)) with
  | some b => (row.filter fun va => decide (b + (va - row.headD 0) / 0x20000 > 47)).map fun va => (0x03, BitVec.ofNat 64 va)
  | none => []

/-- The checks of mma.r that fail: alignment and segment banks (R193), then its handle and the VAs reached through it (R63, R209). -/
def State.mmaRFails (s : State) (f : Focus) (o : MOps) : List (Nat × Word) :=
  let part := s.partOf (s.focusLk f)
  let h := s.handleOf f o.a
  let rows := s.mmaRRows f o
  let va := (s.readX f o.b).toNat
  multiple va 64 va ++ multiple (s.readX f o.c).toNat 64 va ++ rows.flatMap (s.farSegments part h) ++
    s.reachFails part h .timed true false rows.flatten

/-- The pod addresses that the VAs of a list reach. -/
def State.reached (s : State) (part : Nat) (h : Option Handle) (vas : List Nat) : List Nat :=
  vas.filterMap fun va => (s.reach part h true false va).toOption

/-- What mma.r asks for (R209). -/
def State.mmaRPlan (s : State) (f : Focus) (o : MOps) : MatPlan :=
  let t := s.cycle f
  let p := (pairPlanes o.fmt (s.core f.core).face.ffmt).getD 1
  let tgt := rowTargets ((s.mmaRRows f o).map (s.reached (s.partOf (s.focusLk f)) (s.handleOf f o.a)))
  let D := match tgt with
    | r :: _ => s.roundTrip f.core (s.focusLk f) r.1 r.2.1
    | [] => 0
  let ts := mmaRTimes t p D o.depth o.count
  let last := ((ts.getLast?).map Prod.snd).getD t
  ⟨{ s.mmaForm f o .mmaR p (ts.map Prod.snd) (last + p) with tgt := tgt, req := ts.map Prod.fst, s := false },
    s.mmaRFails f o, [], .face, false, [], true⟩

/-- MMA_R (R209). -/
def execMmaR (o : MOps) (s : State) : Out :=
  matSlot (.mmaR o) "MMA_R" s fun f => s.matRun f (s.mmaRPlan f o) id

/-- What mmr asks for (R224, R225). -/
def State.mmrPlan (s : State) (f : Focus) (o : MOps) : MatPlan :=
  let a := s.readX f o.a
  let b := s.readX f o.b
  let t := s.cycle f
  let p := (mmrPlanes (s.core f.core).face.ffmt o.wf2 o.sf).getD 1
  let rows := (List.range o.count).map fun i => (i, t + 1 + p * i, segChunks (rowAddr a b i) 192)
  let tb : Fin 4 := (bits o.imm 6 2 : BitVec 2).toFin
  let lc := (s.core f.core).lcOf f.ctx
  ⟨{ s.mmaForm f o .mmr p (rows.map fun r => r.2.1) (t + p * o.count) with
      sel := tb.val, tbl := (s.core f.core).att[tb], blk := (s.readX f o.c).toNat
      stale := lc.any fun l => l.stale || l.tblStale.getLsbD tb.val },
    (List.range o.count).flatMap fun i => multiple (rowAddr a b i) 256 (rowAddr a b i), rows.flatMap fun r => r.2.2, .face, false, rows, true⟩

/-- MMR (R224, R225). -/
def execMmr (o : MOps) (s : State) : Out :=
  matSlot (.mmr o) "MMR" s fun f => s.matRun f (s.mmrPlan f o) id

/-- What matt asks for (R223). -/
def State.mattPlan (s : State) (f : Focus) (o : MOps) : MatPlan :=
  let a := (s.readX f o.a).toNat
  let t := s.cycle f
  ⟨{ s.mform f o .matt with rows := 1, sel := o.table, until_ := t + 2 },
    multiple a 256 a, segChunks a 192, .face, false, [(0, t + 1, segChunks a 192)], false⟩

/-- MATT (R223). -/
def execMatt (o : MOps) (s : State) : Out :=
  matSlot (.matt o) "MATT" s fun f =>
    s.matRun f (s.mattPlan f o) fun t =>
      (t.modFace f id).modCore f.core fun k => k.modLc (s.focusLk f) fun l => { l with tblStale := l.tblStale &&& ~~~((1 : BitVec 4) <<< o.table) }

/-- What mxt asks for (R211). -/
def State.mxtPlan (s : State) (f : Focus) (o : MOps) : MatPlan :=
  let a := s.readX f o.a
  let b := s.readX f o.b
  let t := s.cycle f
  let rows := (List.range 32).map fun j => (j, t + 1 + j, segChunks (rowAddr a b j) 128)
  ⟨{ s.mform f o .mxt with
      rows := 32, names := 1, sel := (bits o.imm 2 1 : BitVec 1).toNat, blk := (bits o.imm 0 2 : BitVec 2).toNat, w := false,
      s := false, until_ := t + 66 },
    aligned64 a b, rows.flatMap fun r => r.2.2, .drain, false, rows, true⟩

/-- MXT (R211). -/
def execMxt (o : MOps) (s : State) : Out :=
  matSlot (.mxt o) "MXT" s fun f => s.matRun f (s.mxtPlan f o) id

/-- Bytes of a row of mdr (R212). -/
def mdrBytes (st : Nat) (d : Fmt) : Nat := mdrCount st * d.width / 8

/-- A row of mdr that does not lie in one bank (R212). -/
def splitRow (rb a : Nat) : Bool := decide (bankOf a ≠ bankOf (a + rb - 1))

/-- The rows of an mdr. -/
def State.mdrRows (s : State) (f : Focus) (o : MOps) : List Nat := (List.range o.count).map (rowAddr (s.readX f o.a) (s.readX f o.b))

/-- The first row of an mdr that is not aligned or does not lie in one bank (R212). -/
def State.mdrBadRow (s : State) (f : Focus) (o : MOps) : Option Nat :=
  (s.mdrRows f o).find? fun x => x % 64 ≠ 0 || splitRow (mdrBytes o.mdrType o.fmt) x

/-- What mdr asks for (R212). -/
def State.mdrPlan (s : State) (f : Focus) (o : MOps) : MatPlan :=
  ⟨{ s.mform f o .mdr with
      aux := (s.readX f o.c).toNat % 2 ^ 16, names := 1, sel := o.mdrType, w := false, s := false, until_ := s.cycle f + o.count + 3 },
    (s.mdrBadRow f o).toList.map fun x => (0x03, BitVec.ofNat 64 x), (s.mdrRows f o).flatMap fun x => segChunks x (mdrBytes o.mdrType o.fmt), .drain, false, [], false⟩

/-- The SR draws of an mdr are taken at its issue (R126). -/
def State.mdrDrawn (s : State) (f : Focus) (o : MOps) : State :=
  if mdrRule o.mdrType o.fmt = some .round ∧ rmOf (bits o.fl 0 3) = .sr then
    s.modCtx f.core f.ctx fun k => { k with lfsr := mdrDraws (mdrCount o.mdrType) o.count k.lfsr }
  else s

/-- MDR (R212). -/
def execMdr (o : MOps) (s : State) : Out :=
  matSlot (.mdr o) "MDR" s fun f => s.matRun f (s.mdrPlan f o) fun t => t.mdrDrawn f o

/-! ### Accumulator contents (R195, R196, R213) -/

/-- Key of a row of a name. -/
def accKey (name row : Nat) : Nat := 64 * name + row

/-- A row of a name as a read sees it (R196, R213). -/
def LaunchCore.accRow (l : LaunchCore) (name row : Nat) : VReg :=
  match tabGet? l.accOver (accKey name row) with
  | some v => v
  | none => if l.accClr.getLsbD name then 0 else tabGet l.accBase (accKey name row) 0

/-- Number of the errors of a row in the lists of a launch: a word each by its column, a poisoned row as column 128 (R200, R328). -/
def errKey (name row col : Nat) : Nat := 129 * accKey name row + col

/-- The columns of a row of a name, as a read sees it, that hold an error; 128 stands for a poisoned row (R196, R200, R328). -/
def LaunchCore.rowErrs (l : LaunchCore) (name row : Nat) : List Nat :=
  let k := accKey name row
  let es := if (tabGet? l.accOver k).isSome || l.accClr.getLsbD name then l.accErrOver else l.accErr
  (es.filter fun e => e / 129 == k).map fun e => e % 129

/-- Is one of the first n columns of a row among its errors? -/
def errIn (es : List Nat) (n : Nat) : Bool := es.any fun e => decide (e < n) || e == 128

/-- Errors of a row are set. -/
def LaunchCore.addErrs (l : LaunchCore) (name row : Nat) (cols : List Nat) : LaunchCore :=
  if (tabGet? l.accOver (accKey name row)).isSome || l.accClr.getLsbD name then
    { l with accErrOver := cols.foldl (fun t c => setIns (errKey name row c) t) l.accErrOver }
  else { l with accErr := cols.foldl (fun t c => setIns (errKey name row c) t) l.accErr }

/-- The version of a name that a form wrote is poisoned (R200). -/
def LaunchCore.poisonName (l : LaunchCore) (older : Bool) (name : Nat) : LaunchCore :=
  let ks := (List.range 64).map fun r => errKey name r 128
  if older then { l with accErr := ks.foldl (fun a k => setIns k a) l.accErr }
  else { l with accErrOver := ks.foldl (fun a k => setIns k a) l.accErrOver }

/-- A row of a name and its errors, as a read on a cycle sees them: not what that cycle has written (R196). -/
def LaunchCore.rowAt (l : LaunchCore) (cyc name row : Nat) : VReg × List Nat :=
  match if l.wasAt = cyc then tabGet? l.was (accKey name row) else none with
  | some v => v
  | none => (l.accRow name row, l.rowErrs name row)

/-- Keep what reads of this cycle see of a row that is about to be written (R196). -/
def LaunchCore.keepRow (l : LaunchCore) (cyc name row : Nat) : LaunchCore :=
  { l with was := tabSet (if l.wasAt = cyc then l.was else []) (accKey name row) (l.rowAt cyc name row), wasAt := cyc }

/-- A row write: of a form of the current interval into the current version, of an older form into the checkpoint's (R196, R198). -/
def LaunchCore.setAcc (l : LaunchCore) (older : Bool) (name row : Nat) (v : VReg) (errs : List Nat) : LaunchCore :=
  let k := accKey name row
  let other (e : Nat) : Bool := e / 129 != k
  let l := { l with accErrOver := l.accErrOver.filter other }
  if older then
    { l with
      accBase := tabSet l.accBase k v, accOver := tabDel l.accOver k
      accErr := errs.foldl (fun t c => setIns (errKey name row c) t) (l.accErr.filter other) }
  else { l with accOver := tabSet l.accOver k v, accErrOver := errs.foldl (fun t c => setIns (errKey name row c) t) l.accErrOver }

/-- Is a row of a name to land still (R199, R213)? -/
def Core.toLand (k : Core) (lk name : Nat) : Bool :=
  k.mforms.any fun m => m.lk == lk && (m.kind == .mma || m.kind == .mmaR || m.kind == .mmaT || m.kind == .mmr || m.kind == .mxt) &&
    decide (m.done < m.rows) && decide (m.first ≤ name) && decide (name < m.first + m.names)

/-- Release names: they read zero from now on, and their current versions' slots are free (R196, R213). -/
def LaunchCore.relNames (l : LaunchCore) (c : CtxId) (ns : List Nat) : LaunchCore :=
  let l := ns.foldl (fun l n => { l with
    slotCur := tabDel l.slotCur n
    accOver := l.accOver.filter (fun r => r.1 / 64 != n)
    accClr := l.accClr ||| (1 <<< n)
    accErrOver := l.accErrOver.filter (fun e => e / 129 / 64 != n) }) l
  l.hold c ns

/-- MREL (R213). -/
def execMrel (o : MOps) (s : State) : Out :=
  matSlot (.mrel o) "MREL" s fun f =>
    let v := s.readX f o.a
    let ns := (List.range 24).filter fun n => v.getLsbD n
    let owed := if ns.any (fun n => (s.core f.core).toLand (s.focusLk f) n) then [(0x11, 0)] else []
    match s.matFail f ns owed [] none false with
    | some (c, a) => s.raise f 4 c a
    | none =>
      s.modCore f.core fun k =>
        { k.modLc (s.focusLk f) (fun l => l.relNames f.ctx ns) with dbg := { k.dbg with profLast := s.profTag f } }

/-- At a CK bundle of a context the versions it holds become the checkpoint's, whose slots are free, and its writes of them count as the last (R196, R197, R199). -/
def LaunchCore.commit (l : LaunchCore) (c : CtxId) : LaunchCore :=
  let mine (n : Nat) : Bool := if h : n < 24 then l.holder[n] == some c else false
  let keep := l.accBase.filter fun r => !(mine (r.1 / 64) && l.accClr.getLsbD (r.1 / 64))
  let now := l.accOver.filter fun r => mine (r.1 / 64)
  let moved := l.slotCur.filter fun q => mine q.1
  { l with
    slotCk := moved.foldl (fun t q => tabSet t q.1 q.2) (l.slotCk.filter fun q => !(mine q.1 && l.accClr.getLsbD q.1))
    slotCur := l.slotCur.filter fun q => !mine q.1
    lastW := Vector.ofFn fun n : Fin 24 => if mine n.val then some c else l.lastW[n]
    accBase := now.foldl (fun b r => tabSet b r.1 r.2) keep
    accOver := l.accOver.filter fun r => !mine (r.1 / 64)
    accErr := (l.accErrOver.filter fun e => mine (e / 129 / 64)).foldl (fun a e => setIns e a)
      (l.accErr.filter fun e => !(mine (e / 129 / 64) && (l.accClr.getLsbD (e / 129 / 64) || (tabGet? l.accOver (e / 129)).isSome)))
    accErrOver := l.accErrOver.filter fun e => !mine (e / 129 / 64)
    accClr := (List.range 24).foldl (fun m n => if mine n then m &&& ~~~((1 : BitVec 24) <<< n) else m) l.accClr
    holder := l.holder.map fun h => if h = some c then none else h }

/-- At a rollback of a context the versions it created go (R198). -/
def LaunchCore.revert (l : LaunchCore) (c : CtxId) : LaunchCore :=
  let mine (n : Nat) : Bool := if h : n < 24 then l.holder[n] == some c else false
  let drop (m : BitVec 24) : BitVec 24 := (List.range 24).foldl (fun m n => if mine n then m &&& ~~~((1 : BitVec 24) <<< n) else m) m
  { l with
    slotCur := l.slotCur.filter fun q => !mine q.1
    accOver := l.accOver.filter fun r => !mine (r.1 / 64)
    accClr := drop l.accClr
    accErrOver := l.accErrOver.filter fun e => !mine (e / 129 / 64)
    holder := l.holder.map fun h => if h = some c then none else h }

/-- The latest occupancy that the remaining forms keep on a path. -/
def pathEnd (ms : List MForm) (p : MForm → Bool) (from_ : Nat) : Nat := (ms.filter p).foldl (fun a m => max a m.until_) from_

/-- Forms of a path. -/
def MForm.onFace (m : MForm) : Bool := m.kind != .mxt && m.kind != .mdr && !(m.kind == .mwld && m.w)
def MForm.onDrain (m : MForm) : Bool := m.kind == .mxt || m.kind == .mdr
def MForm.onBack (m : MForm) : Bool := m.kind == .mwld && m.w

/-- A form that stops: it reads, lands and writes nothing more, and its occupancy ends with this cycle (R198, R201). -/
def MForm.cut (m : MForm) (cyc : Nat) : MForm := { m with lands := [], got := [], req := [], rows := m.done, until_ := min m.until_ (cyc + 1) }

/-- Stop the forms that a predicate names: they read, land and write nothing more, and their paths are free from the next cycle (R198). -/
def Core.stopForms (k : Core) (p : MForm → Bool) : Core :=
  let gone := k.mforms.filter p
  if gone.isEmpty then k
  else
    let left := k.mforms.filter fun m => !p m
    { k with
      mforms := k.mforms.map fun m => if p m then m.cut k.cyc else m
      acc := k.acc.filter fun a => match a.act with
        | .mrow id _ => !(a.party == .matrix && gone.any fun m => m.id == id)
        | .write => !(a.party == .matrix && gone.any fun m => m.kind == .mdr && m.ctx == a.ctx && m.issued == a.issued)
        | _ => true
      faceFree := if gone.any MForm.onFace then pathEnd left MForm.onFace (k.cyc + 1) else k.faceFree
      drainFree := if gone.any MForm.onDrain then pathEnd left MForm.onDrain (k.cyc + 1) else k.drainFree
      bgFree := if gone.any MForm.onBack then pathEnd left MForm.onBack (k.cyc + 1) else k.bgFree }

/-- Forms that have nothing left to do. -/
def MForm.isOver (m : MForm) (cyc : Nat) : Bool := decide (m.until_ ≤ cyc) && (m.kind == .cfg || decide (m.rows ≤ m.done))

/-- Change one form. -/
def Core.modForm (k : Core) (id : Nat) (g : MForm → MForm) : Core :=
  { k with mforms := k.mforms.map fun m => if m.id = id then g m else m }

/-! ### Rows read -/

/-- A number made of chunks, the first lowest. -/
def joinChunks (l : List (BitVec 512)) : Nat := l.foldr (fun w acc => w.toNat + acc <<< 512) 0

/-- The poisoned face row or scale block that a product reads, as FROW (R200, R323). -/
def Face.poisoned (fc : Face) (m : MForm) (r0 n : Nat) : Option (BitVec 16) :=
  let rows := (List.range n).filter fun i => inK m.k m.kv (r0 + i)
  match rows.find? (fun i => fc.errRows.contains (faceKey m.ffmt m.bank (r0 + i))) with
  | some i => some (BitVec.ofNat 16 (0x4000 + r0 + i))
  | none =>
    if m.s && isFloatFmt m.ffmt then
      (rows.find? fun i => fc.errScales.contains ((r0 + i) / 32)).map fun i => BitVec.ofNat 16 (0x8000 + (r0 + i) / 32 * 32)
    else none

/-- The weak cells that a product reads (R328). -/
def weakFace (m : MForm) (r0 n : Nat) : ErrLoc → Bool
  | .face _ b r w =>
    decide (r0 ≤ r) && decide (r < r0 + n) && inK m.k m.kv r && (m.ffmt != .t2 || b == m.bank) &&
      decide (64 * w < faceCols m.arr (some m.ffmt) * m.ffmt.width)
  | .scale _ b w => m.s && decide (r0 / 32 ≤ b) && decide (32 * b < r0 + n) && decide (8 * w < faceCols m.arr (some m.ffmt))
  | _ => false

/-- The columns that a form computes on a face that was not reloaded after a YP bundle: undefined (R10, R190, R222; log entry 2). -/
def State.anyCols (s : State) (n : Nat) : List Nat :=
  (List.range n).map fun c => (bits (s.freeV (1024 + c / 64)) (64 * (c % 64)) 64 : BitVec 64).toNat

/-- A row whose product is known stands ready to land at B_i + 17 + p (R208). -/
def State.rowReady (s : State) (c : CoreId) (m : MForm) (i : Nat) (a : ARow) (n nb : Nat) (extra : Flags) (pa : Option Nat) (att : Option (BitVec 16)) : State :=
  let fc := (s.core c).face
  let (vals, fl) := rowProduct fc m a nb
  let vals := if m.stale then s.anyCols vals.length else vals
  let land : RowLand := ⟨i, (m.at_.getD i 0) + 17 + m.p, vals, fl ||| extra⟩
  let fr := (fc.poisoned m a.r0 n).orElse fun _ => att
  let s := s.noteLoc c (weakFace m a.r0 n)
  (s.modCore c fun k => k.modForm m.id fun m =>
    { m with lands := m.lands ++ [land], poisA := m.poisA.orElse (fun _ => pa), poisF := m.poisF.orElse (fun _ => fr) }).tickFree

/-- Put a captured row aside. -/
def State.keepGot (s : State) (c : CoreId) (id i row sc : Nat) (pa : Option Nat) : State :=
  s.modCore c fun k => k.modForm id fun m => { m with got := m.got ++ [(i, row, sc)], poisA := m.poisA.orElse fun _ => pa }

/-- Row i of A of mma.t out of the stored rows (R210). -/
def transposed (m : MForm) (i : Nat) : Nat :=
  m.got.foldl (fun acc g => acc + ((g.2.1 >>> (i * m.fmt.width)) % 2 ^ m.fmt.width) <<< (g.1 * m.fmt.width)) 0

/-- All rows of mma.t, once its stored rows have been read (R210). -/
def State.transposeAll (s : State) (c : CoreId) (m : MForm) : State :=
  let sc := ((m.got.find? fun g => g.1 == 0).map fun g => g.2.2).getD 0
  (List.range m.rows).foldl (fun s i =>
    s.rowReady c m i (ARow.of m.fmt m.k (transposed m i) ((sc >>> (512 * i)) % 2 ^ 512) m.s) m.k (m.k / 32) 0 none none) s

/-- 32 rows of a block enter the cells; a T2 weight of 0b10 is stored as 0b00 (R135, R205). -/
def State.loadBlock (s : State) (c : CoreId) (m : MForm) (rows : List (Nat × Nat × Nat)) (bad : List Nat) : State :=
  let no := faceCols m.arr (some m.ffmt)
  let put := rows.map fun g =>
    (faceKey m.ffmt m.bank (m.aux + g.1), BitVec.ofNat 16384 (if m.ffmt = .t2 then cleanT2 no g.2.1 else g.2.1))
  s.modCore c fun k =>
    let k := k.heal fun
      | .face _ b r _ => put.any fun q => q.1 == faceKey m.ffmt b r
      | _ => false
    { k with face := { k.face with
        rows := put.foldl (fun t q => if q.2 = 0 then tabDel t q.1 else tabSet t q.1 q.2) k.face.rows
        errRows := k.face.errRows.filter (fun r => !put.any fun q => q.1 == r) ++ bad } }

/-- The 32 lists of values that mxt lands: row i takes element i of each source row (R211). -/
def mxtLands (m : MForm) : List RowLand :=
  (List.range 32).map fun i =>
    ⟨i, m.issued + 34 + i, (List.range 32).map fun j =>
      ((m.got.find? fun g => g.1 == j).map fun g => (g.2.1 >>> (32 * i)) % 2 ^ 32).getD 0, 0⟩

/-- Does word w of what one read of a form brings, counted through its chunks in order, hold a bit that the form uses? Padding, and elements at K index KV or above with their scales, it does not (R134, R193, R200, R205, R207, R210, R223, R225). -/
def MForm.usesWord (m : MForm) (w : Nat) : Bool :=
  let scale (u : Nat) : Bool := decide (256 * u < m.kv)
  match m.kind with
  | .mma =>
    let n := 8 * (aChunks 0 (aBytes m.k m.fmt) m.kv m.fmt).length
    if w < n then decide (64 * w / m.fmt.width < m.kv) else scale (w - n)
  | .mmaR => decide (64 * w / m.fmt.width < m.kv)
  | .mmaT =>
    let n := tBytes m.rows m.fmt / 8
    if w < n then decide (64 * w < m.rows * m.fmt.width) else scale ((w - n) % 8)
  | .mmr | .matt => decide (64 * w < 1032)
  | .mwld => decide (64 * w < faceCols m.arr (some m.ffmt) * m.ffmt.width)
  | .msc => decide (8 * w < faceCols m.arr (some m.ffmt))
  | _ => true

/-- Row, block or record i of a form has been read: its chunks in order, and its lowest poisoned word (R200, R205, R207 to R211, R223, R225). -/
def State.rowRead (s : State) (c : CoreId) (m : MForm) (i : Nat) (data : List (BitVec 512)) (pa : Option Nat) : State :=
  let id := m.id
  match m.kind with
  | .mma =>
    let row := joinChunks (if m.s then data.dropLast else data)
    let sc := if m.s then ((data.getLast?).map BitVec.toNat).getD 0 else 0
    s.rowReady c m i (ARow.of m.fmt m.k row sc m.s) m.k (m.k / 32) 0 pa none
  | .mmaR => s.rowReady c m i (ARow.of m.fmt m.k (joinChunks data) 0 false) m.k (m.k / 32) 0 pa none
  | .mmaT =>
    let n := tBytes m.rows m.fmt / 64
    let s := s.keepGot c id i (joinChunks (data.take n)) (joinChunks (data.drop n)) pa
    match (s.core c).mforms.find? (fun q => q.id == id) with
    | some m => if m.got.length = min m.k m.kv then s.transposeAll c m else s
    | none => s
  | .mmr =>
    let stream := joinChunks data % 2 ^ 1032
    let (a, bad) := ARow.ofStream m.tbl m.blk stream (isFloatFmt m.ffmt)
    let used := usedRanks stream (min m.k m.kv - 128 * m.blk)
    let scaled := isFloatFmt m.ffmt
    let errs := (((m.attKeep.getD (s.core c).attErr).filter fun e => e / 256 == m.sel).map (· % 256)).filter fun e => used.contains e || (scaled && e == 128)
    let fr := errs.min?.map fun e => if e < 128 then BitVec.ofNat 16 (0xC000 + 128 * m.sel + e) else bits (s.freeV 246) 0 16
    let nb := min 4 ((m.k - 128 * m.blk) / 32)
    let s := s.noteLoc c fun
      | .att _ t w => t == m.sel && (used.any (fun e => e / 8 == w) || (scaled && w == 16))
      | _ => false
    s.rowReady c m i a 128 nb (Flags.when bad flFMTERR) pa fr
  | .mwld =>
    let row := joinChunks data
    let s := s.keepGot c id i row (if pa.isSome then 1 else 0) none
    let s := if m.ffmt = .t2 ∧ badT2 (faceCols m.arr (some .t2)) row then
        s.modCtx c m.ctx fun k => k.lateFlags m.issued flFMTERR else s
    let s := s.modCore c fun k => k.modForm id fun m => { m with done := m.done + 1, doneAt := k.cyc }
    match (s.core c).mforms.find? (fun q => q.id == id) with
    | some m =>
      if m.got.length = 32 then
        let bad := (m.got.filter fun g => g.2.2 == 1).map fun g => faceKey m.ffmt m.bank (m.aux + g.1)
        (s.loadBlock c m m.got bad).modCore c fun k => k.modForm id fun m => { m with got := [] }
      else s
    | none => s
  | .msc =>
    let v := BitVec.ofNat 16384 (joinChunks data)
    s.modCore c fun k =>
      let k := k.heal fun
        | .scale _ b _ => b == m.aux + i
        | _ => false
      let k := k.modForm id fun m => { m with done := m.done + 1, doneAt := k.cyc }
      { k with face := { k.face with
          scales := tabSet k.face.scales (m.aux + i) v
          errScales := if pa.isSome then setIns (m.aux + i) k.face.errScales else setDel (m.aux + i) k.face.errScales } }
  | .matt =>
    match pa with
    | some a => s.matTrap c m 0x30 (BitVec.ofNat 64 a) 0 0
    | none => s.keepGot c id 0 (joinChunks data) 0 none
  | .mxt =>
    match pa with
    | some a => s.matTrap c m 0x30 (BitVec.ofNat 64 a) 0 0
    | none =>
      let s := s.keepGot c id i (joinChunks data) 0 none
      s.modCore c fun k => k.modForm id fun m => if m.got.length = 32 then { m with lands := mxtLands m } else m
  | .mdr | .cfg => s

/-! ### The start of a cycle -/

/-- A table loaded by matt is in force from issue + 3 (R223). -/
def Core.mattLand (k : Core) : Core :=
  (k.mforms.filter fun m => m.kind == .matt && decide (m.issued + 3 ≤ k.cyc) && m.done == 0).foldl (fun k m =>
    match m.got with
    | g :: _ =>
      let t : Fin 4 := Fin.ofNat 4 m.sel
      let k := k.heal fun
        | .att _ tb _ => tb == m.sel
        | _ => false
      let old := k.attErr.filter fun e => e / 256 == m.sel
      { k with
        mforms := k.mforms.map fun q =>
          if q.id = m.id then { q with done := 1 }
          else if q.kind = .mmr ∧ q.sel = m.sel then { q with attKeep := some (q.attKeep.getD old) } else q
        att := k.att.set t (BitVec.ofNat 1032 g.2.1)
        attErr := k.attErr.filter fun e => e / 256 != m.sel }
    | [] => k) k

/-- The weak words of the first n columns of an accumulator row (R328). -/
def weakAcc (lk name row n : Nat) : ErrLoc → Bool
  | .acc _ l a r c => l == lk && a == name && r == row && decide (c < n)
  | _ => false

/-- Row i of mdr is read on this cycle: it is converted, and its write, latch and flags stand for issue + 4 + i (R126, R200, R212). DESIGN CHOICE (log entry 109): a second read of its slot on the same cycle, by a form that adds, is served too (R191 gives the capacity of one and no consequence). -/
def State.drainRow (s : State) (c : CoreId) (m : MForm) (i : Nat) : State :=
  match (s.core c).lc m.lk with
  | none => s
  | some l =>
    let s := s.noteLoc c (weakAcc m.lk m.first i 128)
    let s := s.modCore c fun k => k.modForm m.id fun m => { m with done := m.done + 1, doneAt := k.cyc }
    if errIn (l.rowErrs m.first i) 128 then (s.matTrap c m 0x30 (bits (s.freeV 243) 0 64) 0 0).tickFree
    else
      let n := mdrCount m.sel
      let (es, env) := mdrRow m.sel m.fmt (rmOf m.rm) (l.accRow m.first i) n ⟨m.lfsr, 0⟩
      let v := packNat m.fmt.width es
      let a := rowAddr (BitVec.ofNat 64 m.base) (BitVec.ofNat 64 m.pitch) i
      let wr := chunksFor a (mdrBytes m.sel m.fmt) v (fun _ => true)
      let tiles := if m.z then (((segChunks a (mdrBytes m.sel m.fmt)).map tileOf).eraseDups).map (fun t => (t, BitVec.ofNat 16 m.aux)) else []
      let acc : Access :=
        { due := m.issued + 4 + i, byTick := false, party := .matrix, always := false, prio := 0, ctx := m.ctx, lk := m.lk,
          issued := m.issued, part := 4, eng := 2, bundle := m.bundle, rd := [], wr := wr, tagR := none, tagW := tiles, zero := [],
          hold := none, act := .write, lost := [] }
      let res : Result :=
        { ctx := m.ctx, lk := m.lk, issued := m.issued, part := 4, due := m.issued + 4 + i, byTick := false, dest := .none,
          val := BitVec.ofNat 4096 v, wen := allLanes, latch := some 4, fl := env.fl, toCk := false }
      (s.addAccess c acc).modCore c fun k => (k.addResult res).modForm m.id fun m => { m with lfsr := env.lfsr }

/-- Requests of mma.r leave on their cycles (R209, R244). -/
def State.requestRows (s : State) (c : CoreId) (m : MForm) : State :=
  let k := s.core c
  ((List.range m.rows).filter fun i => m.req.getD i 0 == k.cyc).foldl (fun s i =>
    match m.tgt[i]? with
    | some (pkg, core, chunks) =>
      let t := s.oneWay c m.lk pkg core
      let o : Origin := ⟨s.pf.pkg.toNat, c.val, m.ctx, m.lk, m.issued, m.bundle, 4, 2, t, m.at_.getD i 0, s.now⟩
      s.sendTimed m.lk pkg core t
        { due := 0, byTick := true, party := .remote s.pf.pkg.toNat c.val, always := false, prio := 0, ctx := m.ctx, lk := m.lk,
          issued := m.issued, part := 4, eng := 2, bundle := m.bundle, rd := chunks, wr := [], tagR := none, tagW := [], zero := [],
          hold := none, act := .remRow o m.id i, lost := [] }
    | none => s) s

/-- The matrix unit at the start of an unfrozen cycle: forms that are over go, tables load, rows drain, and requests leave that are due by the cycle before this one's issue. -/
def State.matBegin (s : State) (c : CoreId) : State :=
  let s := s.modCore c fun k => (Core.mattLand k)
  let s := s.modCore c fun k => { k with mforms := k.mforms.filter fun m => !m.isOver k.cyc }
  (s.core c).mforms.foldl (fun s m =>
    if m.kind = .mdr ∧ m.issued + 1 ≤ (s.core c).cyc ∧ (s.core c).cyc < m.issued + 1 + m.rows then
      s.drainRow c m ((s.core c).cyc - m.issued - 1)
    else s) s

/-- The requests that leave on this cycle, after its issue: the first leaves on the issue cycle itself (R209). -/
def State.matRequests (s : State) (c : CoreId) : State :=
  (s.core c).mforms.foldl (fun s m => if m.kind = .mmaR then s.requestRows c m else s) s

/-! ### Rows land (R208, R211) -/

/-- Does a form issued before the context's checkpoint (R198)? -/
def Core.isOlder (k : Core) (m : MForm) : Bool := decide (m.ival < (k.ctx m.ctx).ck.issued)

/-- Has an earlier form landed a row in the same version on this cycle (R191)? -/
def Core.slotTaken (k : Core) (m : MForm) : Bool :=
  k.mforms.any fun g => decide (g.id < m.id) && g.lk == m.lk && g.ctx == m.ctx && g.ival == m.ival && decide (0 < g.done) &&
    g.doneAt == k.cyc && (g.kind != .mdr && g.kind != .mwld && g.kind != .msc) &&
    decide (g.first < m.first + m.names) && decide (m.first < g.first + g.names)

/-- The row of the accumulators that a landing writes. -/
def MForm.accRowNo (m : MForm) (i : Nat) : Nat := if m.kind = .mxt then 32 * m.sel + i else i

/-- The columns of name j that a row which lands writes (R208, R211). -/
def MForm.wroteCol (m : MForm) (r : RowLand) (j col : Nat) : Bool :=
  if m.kind = .mxt then m.z || (decide (32 * m.blk ≤ col) && decide (col < 32 * m.blk + 32))
  else decide (col < (if m.w then 2 else 1) * min (if m.w then 64 else 128) (r.vals.length - (if m.w then 64 else 128) * j))

/-- One name of a row that lands on a cycle: new content, flags, the slot of a poisoned row it read, and the errors that the row keeps in the columns it does not write (R196, R200, R208, R211, R328). -/
def landOneName (cyc : Nat) (l : LaunchCore) (m : MForm) (r : RowLand) (j : Nat) : VReg × Flags × Option Nat × List Nat :=
  let name := m.first + j
  let row := m.accRowNo r.i
  let (old, errs) := l.rowAt cyc name row
  let slot := if !m.z && errs.any (fun e => m.wroteCol r j e || e == 128) then l.slotOf name row else none
  let kept := errs.filter fun e => !((List.range 128).all (m.wroteCol r j)) && !m.wroteCol r j e
  if m.kind = .mxt then
    let base := if m.z then 0 else old
    (BitVec.ofNat 4096 (packNat 32 ((List.range 128).map fun col =>
      if 32 * m.blk ≤ col ∧ col < 32 * m.blk + 32 then r.vals.getD (col - 32 * m.blk) 0 else elemNat 32 base col)), 0, none, kept)
  else
    let per := if m.w then 64 else 128
    let (v, fl) := landName (isFloatFmt m.ffmt) m.w m.z old ((r.vals.drop (per * j)).take per)
    (v, fl, slot, kept)

/-- The lower of two slots. -/
def lowerSlot (a b : Option Nat) : Option Nat :=
  match a, b with
  | some x, some y => some (min x y)
  | some x, none => some x
  | none, y => y

/-- A row lands in every name it writes. DESIGN CHOICE (log entry 111): the version counts as poisoned from its last row's landing on, where trap 0x31 is raised (R200). -/
def State.landRow (s : State) (c : CoreId) (m : MForm) (r : RowLand) : State :=
  let k := s.core c
  match k.lc m.lk with
  | none => s
  | some l =>
    let older := k.isOlder m
    let js := List.range m.names
    let out := js.map fun j => (m.first + j, landOneName k.cyc l m r j)
    let fl := out.foldl (fun f q => f ||| q.2.2.1) r.fl
    let ps := (out.foldl (fun o q => lowerSlot o q.2.2.2.1) none).map (BitVec.ofNat 8)
    let row := m.accRowNo r.i
    let s := if m.z then s else js.foldl (fun s j => s.noteLoc c fun e => weakAcc m.lk (m.first + j) row 128 e && match e with
      | .acc _ _ _ _ col => m.kind != .mxt && m.wroteCol r j col
      | _ => false) s
    let s := s.modCore c fun k =>
      let k := k.heal fun e => js.any fun j => weakAcc m.lk (m.first + j) row 128 e && match e with
        | .acc _ _ _ _ col => m.wroteCol r j col
        | _ => false
      let k := k.modLc m.lk fun l => out.foldl (fun l q => (l.keepRow k.cyc q.1 row).setAcc older q.1 row q.2.1 q.2.2.2.2) l
      let k := k.modForm m.id fun m => { m with done := m.done + 1, doneAt := k.cyc, poisS := m.poisS.orElse fun _ => ps }
      k.modCtx m.ctx fun x => x.lateFlags m.issued fl
    match (s.core c).mforms.find? (fun q => q.id == m.id) with
    | some m =>
      if m.done = m.rows ∧ (m.poisA.isSome || m.poisS.isSome || m.poisF.isSome) then
        let s := s.modCore c fun k => k.modLc m.lk fun l => m.nameList.foldl (fun l n => l.poisonName older n) l
        s.matTrap c m 0x31 (BitVec.ofNat 64 (m.poisA.getD 0)) (m.poisS.getD 0xFF) (m.poisF.getD 0)
      else s
    | none => s

/-- The first form, in order of issue, with a row due (R208). DESIGN CHOICE (log entry 110): of two writes to one row on one cycle, in different versions, the later-issued form's is the last of R196. -/
def Core.rowDue (k : Core) : Option (MForm × RowLand) :=
  k.mforms.findSome? fun m => (m.lands.find? fun r => decide (r.at_ ≤ k.cyc)).map fun r => (m, r)

/-- MATRIX_ROW_LAND (R191, R208, R211): the later-issued of two forms that write one slot on one cycle traps 0x11 and stops. -/
def execMatrixRowLand (core : CoreId) (s : State) : Out :=
  match (s.core core).rowDue with
  | none => .fault (.notDue "MATRIX_ROW_LAND")
  | some (m, r) =>
    if (s.core core).slotTaken m then
      .next ((s.matTrap core m 0x11 0 0 0).modCore core fun k => k.stopForms fun q => q.id == m.id)
    else
      let s := s.modCore core fun k => k.modForm m.id fun m => { m with lands := m.lands.filter fun q => q.i != r.i }
      .next (s.landRow core m r)

/-! ### Yield points and binding -/

/-- The names that a YP bundle releases (R199). -/
def LaunchCore.ypNames (l : LaunchCore) (c : CtxId) : List Nat :=
  (List.range 24).filter fun n => if h : n < 24 then l.holder[n] == some c || (l.holder[n].isNone && l.lastW[n] == some c) else false

/-- The face and the attenuation tables as package reset leaves them (R190, R222). -/
def Core.resetFace (k : Core) : Core :=
  let k := k.heal fun
    | .face .. | .scale .. | .att .. => true
    | _ => false
  { k with face := Face.reset, att := Vector.replicate 4 attReset, attErr := [] }

/-! ### Cycle classes (R201) -/

/-- Is a cycle an awaiting cycle of a form (R209, R210)? -/
def MForm.awaiting (m : MForm) (cyc : Nat) : Bool :=
  match m.kind with
  | .mmaT => decide (cyc ≤ m.issued + m.k)
  | .mmaR => !m.at_.any fun b => decide (b ≤ cyc) && decide (cyc < b + m.p)
  | _ => false

/-- The class of a cycle, 0 to 4, and the form that set it; none is "without command". -/
def Core.cycleClass (k : Core) : Nat × Option MForm :=
  let live := k.mforms.filter fun m => decide (m.issued ≤ k.cyc) && decide (k.cyc < m.until_)
  let mma (m : MForm) : Bool := m.kind == .mma || m.kind == .mmaR || m.kind == .mmaT || m.kind == .mmr
  match live.find? (fun m => mma m && !m.awaiting k.cyc) with
  | some m => (0, some m)
  | none =>
    match live.find? (fun m => m.kind == .cfg || m.kind == .mwld || m.kind == .msc || m.kind == .matt) with
    | some m => (1, some m)
    | none =>
      match live.find? mma with
      | some m => (2, some m)
      | none =>
        match live.find? (fun m => m.onDrain) with
        | some m => (3, some m)
        | none => (4, none)

end Sys2Proof.Machine
end

