-- ==== Sys2Proof/Machine/Copy.lean ====
section
/-!
DEFINITION. The copy slot's engine commands, ramo and xlat at their issue (R227 to R238, R248), the pieces of the copy engine (R230 to R235), and the walk of the translation tables (R59 to R65, R238).
-/

namespace Sys2Proof

/-- K: tile tags are set (R227). -/
def COps.kf (o : COps) : Bool := o.fn.getLsbD 3
/-- The operation [13:11] (R227). -/
def COps.op (o : COps) : Nat := (bits o.fn 0 3 : BitVec 3).toNat
/-- The landing offset L (R227). -/
def COps.land (o : COps) : Nat := ((bits o.imm 3 7 : BitVec 7).toNat + 1) * 64
/-- The chunk count n (R227). -/
def COps.num (o : COps) : Nat := (bits o.imm 0 3 : BitVec 3).toNat + 1

end Sys2Proof

namespace Sys2Proof.Machine

/-! ### Shapes (R229) -/

/-- Fields of a shape word. -/
def shTag (s : Word) : BitVec 16 := bits s 48 16
def shRows (s : Word) : Nat := (bits s 40 8 : BitVec 8).toNat + 1
def shCh (s : Word) : Nat := (bits s 32 8 : BitVec 8).toNat + 1
def shSp (s : Word) : Nat := (bits s 16 16 : BitVec 16).toNat
def shDp (s : Word) : Nat := (bits s 0 16 : BitVec 16).toNat

/-- Pieces of a row, and of the block (R229). -/
def shRowPieces (s : Word) : Nat := (shCh s + 7) / 8
def shPieces (s : Word) : Nat := shRows s * shRowPieces s

/-- Row and first chunk of piece k, and its chunks. -/
def piecePos (s : Word) (k : Nat) : Nat × Nat × Nat :=
  let j := 8 * (k % shRowPieces s)
  (k / shRowPieces s, j, min 8 (shCh s - j))

/-- The chunks of piece k from a base, with the source or the destination pitch. -/
def pieceAddrs (s : Word) (base pitch k : Nat) : List Nat :=
  let (r, j, n) := piecePos s k
  (List.range n).map fun i => base + 64 * (r * pitch + j + i)

/-- Every chunk of a block from a base. -/
def blockAddrs (s : Word) (base pitch : Nat) : List Nat :=
  (List.range (shRows s)).flatMap fun r => (List.range (shCh s)).map fun j => base + 64 * (r * pitch + j)

/-! ### Checks at issue -/

/-- The failing check of local chunks: alignment of the base and R170 on every chunk (R229). -/
def localFail (lc : Option LaunchCore) (base : Nat) (as : List Nat) : List (Nat × Word) :=
  match accessBad lc base 64 as with
  | some a => [(0x03, BitVec.ofNat 64 a)]
  | none => []

/-- Is the engine queue full (R230)? -/
def Core.queueFull (k : Core) : Bool := decide (k.cmds.length ≥ 16)

/-- The cycle after the last engine slot of the last command in the queue, 0 without one (R230). -/
def Core.afterQueue (k : Core) : Nat := ((k.cmds.getLast?).map fun c => c.slot + c.pieces).getD 0

/-- The engine commands of a launch that a pre-emption squashed are reissued whole, in their order, at the launch's first issue on the core after the resume (R251, R335; log entry 125). -/
def Core.reissueCmds (k : Core) (lk : Nat) : Core :=
  (k.reissue.filter fun m => m.lk == lk).foldl (fun k m => { k with cmds := k.cmds ++ [{ m with slot := max (k.cyc + 15) k.afterQueue, next := 0 }] })
    { k with reissue := k.reissue.filter fun m => m.lk != lk }

/-- Operand values that fail at issue with trap 0x01: cp.red into its own local source (R232). -/
def State.copyBad (s : State) (f : Focus) (i : Instr) : Bool :=
  match i with
  | .cpRed o => !o.inplace && s.readX f o.c == s.readX f o.b
  | _ => false

/-- A copy slot form. -/
def copySlot (i : Instr) (name : String) (s : State) (go : Focus → State) : Out := slotRun i name s (fun f => s.copyBad f i) go

/-- A command of the bundle in issue. -/
def State.engCmd (s : State) (f : Focus) (o : COps) (kind : EngKind) (src src2 dst : Nat) (hnd : Option Handle) (shape : Word) : EngCmd :=
  { ctx := f.ctx, lk := s.focusLk f, issued := s.cycle f, bundle := f.idx, kind := kind, src := src, src2 := src2, dst := dst,
    hnd := hnd, shape := shape, k := o.kf, fmt := o.fmt, op := o.op, inplace := o.inplace, rel := 0, slot := 0,
    pieces := shPieces shape, next := 0, n := o.num, members := [], due := s.cycle f + o.land, d := o.d, nw := o.nw, failed := 0,
    open_ := 0, tabled := false, undef := false }

/-- An engine command at its issue: its checks, room in the queue, and its first slot s = max(t + 15, f + 1) (R230). -/
def State.enqueue (s : State) (f : Focus) (fails : List (Nat × Word)) (c : EngCmd) : State :=
  let k := s.core f.core
  match lowest (fails ++ if k.queueFull then [(0x11, 0)] else []) with
  | some (x, a) => s.raise f 7 x a
  | none =>
    let c := { c with slot := max (k.cyc + 15) k.afterQueue }
    s.modCore f.core fun k => { k with cmds := k.cmds ++ [c] }

/-- The failing checks of cp, and its command (R229 to R231). -/
def State.cpPlan (s : State) (f : Focus) (o : COps) : List (Nat × Word) × EngCmd :=
  let sh := s.readX f (.reg o.d)
  let a := (s.readX f o.a).toNat
  let b := (s.readX f o.b).toNat
  let lc := (s.core f.core).lcOf f.ctx
  (localFail lc a (blockAddrs sh a (shSp sh)) ++ localFail lc b (blockAddrs sh b (shDp sh)), s.engCmd f o .cp a 0 b none sh)

/-- CP (R229 to R231). -/
def execCp (o : COps) (s : State) : Out :=
  copySlot (.cp o) "CP" s fun f => s.enqueue f (s.cpPlan f o).1 (s.cpPlan f o).2

/-- The failing checks of cp.red, and its command (R229, R232, R233). Both sources stand at the source pitch, the destination at the destination pitch, in place too. -/
def State.redPlan (s : State) (f : Focus) (o : COps) : List (Nat × Word) × EngCmd :=
  let sh := s.readX f (.reg o.d)
  let a := (s.readX f o.a).toNat
  let b := (s.readX f o.b).toNat
  let lc := (s.core f.core).lcOf f.ctx
  let d := if o.inplace then b else (s.readX f o.c).toNat
  (localFail lc a (blockAddrs sh a (shSp sh)) ++ localFail lc b (blockAddrs sh b (shSp sh)) ++ localFail lc d (blockAddrs sh d (shDp sh)),
    s.engCmd f o .cpRed a b d none sh)

/-- Trap 0x12 where the withhold buffer is full (R174). -/
def State.whFull (s : State) (f : Focus) : List (Nat × Word) := if (s.ctx f.core f.ctx).wh.length ≥ 128 then [(0x12, 0)] else []

/-- CP_RED (R229, R232, R233): in place it is withheld. -/
def execCpRed (o : COps) (s : State) : Out :=
  copySlot (.cpRed o) "CP_RED" s fun f =>
    if o.inplace then
      match lowest ((s.redPlan f o).1 ++ s.whFull f) with
      | some (x, w) => s.raise f 7 x w
      | none => s.withhold f 7 (.cpRed (s.redPlan f o).2)
    else s.enqueue f (s.redPlan f o).1 (s.redPlan f o).2

/-- The failing checks of rwr, and its command (R229, R234). -/
def State.rwrPlan (s : State) (f : Focus) (o : COps) : List (Nat × Word) × EngCmd :=
  let sh := s.readX f (.reg o.d)
  let a := (s.readX f o.a).toNat
  let v := (s.readX f o.c).toNat
  let h := s.handleOf f o.b
  (localFail ((s.core f.core).lcOf f.ctx) a (blockAddrs sh a (shSp sh)) ++ misaligned v 64 ++
      s.reachFails (s.partOf (s.focusLk f)) h .timed false true (blockAddrs sh v (shDp sh)),
    s.engCmd f o .rwr a 0 v h sh)

/-- RWR (R229, R234). -/
def execRwr (o : COps) (s : State) : Out :=
  copySlot (.rwr o) "RWR" s fun f => s.enqueue f (s.rwrPlan f o).1 (s.rwrPlan f o).2

/-- The failing checks of rrd, and its command (R229, R235). -/
def State.rrdPlan (s : State) (f : Focus) (o : COps) : List (Nat × Word) × EngCmd :=
  let sh := s.readX f (.reg o.d)
  let v := (s.readX f o.b).toNat
  let d := (s.readX f o.c).toNat
  let h := s.handleOf f o.a
  (localFail ((s.core f.core).lcOf f.ctx) d (blockAddrs sh d (shDp sh)) ++ misaligned v 64 ++
      s.reachFails (s.partOf (s.focusLk f)) h .timed true false (blockAddrs sh v (shSp sh)),
    s.engCmd f o .rrd v 0 d h sh)

/-- RRD (R229, R235). -/
def execRrd (o : COps) (s : State) : Out :=
  copySlot (.rrd o) "RRD" s fun f => s.enqueue f (s.rrdPlan f o).1 (s.rrdPlan f o).2

/-- The pod address of a VA through a handle whose checks have passed. -/
def podOf (h : Option Handle) (va : Nat) : Nat :=
  match h with
  | some h => (match h.pod va with
    | .ok pa => pa
    | .error _ => 0)
  | none => 0

/-- The failing checks of ramo (R237). -/
def State.ramoFails (s : State) (f : Focus) (o : COps) : List (Nat × Word) :=
  let v := (s.readX f o.b).toNat
  misaligned v 4 ++ s.whFull f ++ s.reachFails (s.partOf (s.focusLk f)) (s.handleOf f o.a) .timed true true [v]

/-- RAMO (R237). -/
def execRamo (o : COps) (s : State) : Out :=
  copySlot (.ramo o) "RAMO" s fun f =>
    match lowest (s.ramoFails f o) with
    | some (x, w) => s.raise f 7 x w
    | none =>
      let v := (s.readX f o.b).toNat
      s.withhold f 7 (.ramo (podOf (s.handleOf f o.a) v) v o.fn.toNat (o.fmt == .fp32) (lo32 (s.readX f o.c)))

/-- The failing checks of mcast (R248). -/
def State.mcastFails (s : State) (f : Focus) (o : COps) : List (Nat × Word) :=
  let a := (s.readX f o.a).toNat
  let b := (s.readX f o.b).toNat
  let d := (s.readX f o.c).toNat
  let lc := (s.core f.core).lcOf f.ctx
  localFail lc a ((List.range o.num).map fun i => a + 64 * i) ++ localFail lc b [b] ++ misaligned d 64 ++
    (if d + 64 * o.num > 0x600000 then [(0x03, BitVec.ofNat 64 d)] else []) ++ if (s.core f.core).queueFull then [(0x11, 0)] else []

/-- The command of an mcast (R230, R248). -/
def State.mcastCmd (s : State) (f : Focus) (o : COps) : EngCmd :=
  let k := s.core f.core
  { s.engCmd f o .mcast (s.readX f o.a).toNat (s.readX f o.b).toNat (s.readX f o.c).toNat none 0 with
    slot := max (k.cyc + 15) k.afterQueue, pieces := 0 }

/-- MCAST (R248): the table is read at issue + 1. -/
def execMcast (o : COps) (s : State) : Out :=
  copySlot (.mcast o) "MCAST" s fun f =>
    match lowest (s.mcastFails f o) with
    | some (x, w) => s.raise f 7 x w
    | none =>
      let c := s.mcastCmd f o
      let acc := f.access s 7 1 .engine (s.cycle f + 1) [(s.readX f o.b).toNat] [] (.table c)
      s.modCore f.core fun k => { k with cmds := k.cmds ++ [c], mcasts := k.mcasts ++ [c], acc := k.acc ++ [acc] }

/-! ### The member table (R248) -/

/-- Words 0 to 15 of the table. -/
def tableWord (d : BitVec 512) (j : Nat) : BitVec 32 := bits d (32 * j) 32
/-- V of a table word. -/
def entryV (w : BitVec 32) : Bool := w.getLsbD 31
/-- Does a word break the layout? -/
def entryBad (w : BitVec 32) : Bool := (bits w 21 10 : BitVec 10) != 0

/-- Same command, by its issue. -/
def EngCmd.same (a b : EngCmd) : Bool := a.ctx == b.ctx && a.issued == b.issued && a.kind == b.kind

/-- Change a command wherever it stands. -/
def Core.modCmd (k : Core) (c : EngCmd) (g : EngCmd → EngCmd) : Core :=
  { k with
    cmds := k.cmds.map fun x => if x.same c then g x else x
    mcasts := k.mcasts.map fun x => if x.same c then g x else x }

/-- Commands in order, none before the engine slots of the one before it (R230). -/
def chainFrom (free : Nat) : List EngCmd → List EngCmd
  | [] => []
  | m :: ms =>
    let m := { m with slot := max m.slot free }
    m :: chainFrom (m.slot + m.pieces) ms

/-- The slots of a queue after a member table has been read: an in-place cp.red that joined on that cycle gives way (R230, R233, R248). -/
def Core.rechain (k : Core) : Core := { k with cmds := chainFrom 0 k.cmds }

/-- A trap of a command after its issue. -/
def State.cmdTrap (s : State) (c : CoreId) (m : EngCmd) (cause : Nat) (addr : Word) : State :=
  s.modCore c fun k => k.addTrap
    { ctx := m.ctx, lk := m.lk, cause := cause, part := 7, eng := 1, addr := addr, bundle := m.bundle, origin := m.issued, pslot := 0,
      frow := 0, pod := false }

/-- The table has been read: a bad entry traps 0x01 and no member write performs; else the valid entries take the engine slots (R248). -/
def State.tableRead (s : State) (c : CoreId) (m : EngCmd) (d : BitVec 512) : State :=
  let ws := (List.range 16).map fun j => (j, tableWord d j)
  if ws.any (fun w => entryBad w.2) then
    let s := s.modCore c fun k => k.modCmd m fun x => { x with tabled := true }
    s.modCore c fun k => k.addTrap
      { ctx := m.ctx, lk := m.lk, cause := 0x01, part := 7, eng := 1, addr := 0, bundle := m.bundle, origin := m.issued, pslot := 0,
        frow := 0, pod := false }
  else
    let ms := (ws.filter fun w => entryV w.2).map fun w =>
      (w.1, (bits w.2 9 12 : BitVec 12).toNat, (bits w.2 0 9 : BitVec 9).toNat)
    let open_ := ms.foldl (fun (b : BitVec 16) w => b ||| (1 <<< w.1)) 0
    s.modCore c fun k => (k.modCmd m fun x => { x with members := ms, pieces := ms.length, open_ := open_, tabled := true }).rechain

/-! ### Pieces -/

/-- One element of cp.red (R232): no flag, no draw. -/
def redEl (fm : Fmt) (op st lo : Nat) : Nat :=
  match op with
  | 0 =>
    match fpOf fm with
    | some F => (FpEnv.round ⟨0, 0⟩ F .rne 0 (addNum .rne (F.value st) (F.value lo)).1).1
    | none => wrapNat fm.width (elemInt fm st + elemInt fm lo)
  | 1 => maxEl fm true st lo
  | _ => maxEl fm false st lo

/-- Do destination and local source of a cp.red overlap in part, neither the same chunks in the same order nor apart (R232)? -/
def EngCmd.overlaps (m : EngCmd) : Bool :=
  let d := blockAddrs m.shape m.dst (shDp m.shape)
  let l := blockAddrs m.shape m.src2 (shSp m.shape)
  d != l && d.any l.contains

/-- A chunk of cp.red. -/
def redChunk (fm : Fmt) (op : Nat) (a b : BitVec 512) : BitVec 512 :=
  BitVec.ofNat 512 (packNat fm.width ((List.range (512 / fm.width)).map fun i => redEl fm op (elemNat fm.width a i) (elemNat fm.width b i)))

/-- An access of a command. -/
def EngCmd.access (c : EngCmd) (due : Nat) (rd : List Nat) (wr : List ChunkW) (act : Act) : Access :=
  { due := due, byTick := false, party := if c.inplace then .release c.ctx else .engine, always := c.inplace, prio := 16 + c.rel,
    ctx := c.ctx, lk := c.lk, issued := c.issued, part := 7, eng := 1, bundle := c.bundle, rd := rd, wr := wr, tagR := none, tagW := [],
    zero := [], hold := none, act := act, lost := [] }

/-- An access of a command at another core. -/
def EngCmd.remote (c : EngCmd) (o : Origin) (rd : List Nat) (wr : List ChunkW) (tags : List (Nat × BitVec 16)) (act : Act) : Access :=
  { due := 0, byTick := true, party := .remote o.pkg o.core, always := false, prio := 0, ctx := c.ctx, lk := c.lk, issued := c.issued,
    part := 7, eng := 1, bundle := c.bundle, rd := rd, wr := wr, tagR := none, tagW := tags, zero := [], hold := none, act := act, lost := [] }

/-- The chunks that piece k reads locally, stream source first (R231, R232, R234, R248). -/
def EngCmd.pieceReads (c : EngCmd) (k : Nat) : List Nat :=
  match c.kind with
  | .cp | .rwr => pieceAddrs c.shape c.src (shSp c.shape) k
  | .cpRed => pieceAddrs c.shape c.src (shSp c.shape) k ++ pieceAddrs c.shape c.src2 (shSp c.shape) k
  | .rrd => []
  | .mcast => (List.range c.n).map fun i => c.src + 64 * i

/-- Tags of the tiles that chunks at local addresses lie in, when K asks for them (R231). -/
def EngCmd.tags (c : EngCmd) (as : List Nat) : List (Nat × BitVec 16) :=
  if c.k then ((as.map tileOf).eraseDups).map fun t => (t, shTag c.shape) else []

/-- Items grouped by the core they concern. -/
def groupTargets {α : Type} (l : List (Nat × Nat × α)) : List (Nat × Nat × List α) :=
  ((l.map fun x => (x.1, x.2.1)).eraseDups).map fun k => (k.1, k.2, (l.filter fun x => x.1 == k.1 && x.2.1 == k.2).map fun x => x.2.2)

/-- The origin of a command's remote access. -/
def State.cmdOrigin (s : State) (c : CoreId) (m : EngCmd) (t back : Nat) : Origin :=
  ⟨s.pf.pkg.toNat, c.val, m.ctx, m.lk, m.issued, m.bundle, 7, 1, t, back, s.now⟩

/-- Piece k of rrd: its requests leave at e_k for every core that holds a chunk of it (R235). -/
def State.sendRrd (s : State) (c : CoreId) (m : EngCmd) (k : Nat) : State :=
  let e := (s.core c).cyc
  let pairs := (pieceAddrs m.shape m.src (shSp m.shape) k).zip (pieceAddrs m.shape m.dst (shDp m.shape) k)
  let items := pairs.filterMap fun q =>
    let pa := podOf m.hnd q.1
    (padOf pa).map fun x => (podPkg pa, x.1, (x.2, q.2))
  (groupTargets items).foldl (fun s g =>
    let t := s.oneWay c m.lk g.1 g.2.1
    let o := s.cmdOrigin c m t (e + 2 * t + 1)
    s.sendTimed m.lk g.1 g.2.1 t
      (m.remote o (g.2.2.map Prod.fst) [] [] (.remRd o (g.2.2.map Prod.snd) (if m.k then some (shTag m.shape) else none)))) s

/-- ENGINE_PIECE (R230): the engine slot e_k of the piece that stands on this cycle. -/
def execEnginePiece (core : CoreId) (s : State) : Out :=
  let k := s.core core
  match k.cmds.find? (fun c => decide (c.next < c.pieces) && decide (c.slot + c.next ≤ k.cyc)) with
  | none => .fault (.notDue "ENGINE_PIECE")
  | some c =>
    let s := s.modCore core fun k => k.modCmd c fun x => { x with next := x.next + 1 }
    match c.kind with
    | .rrd => .next (s.sendRrd core c c.next)
    | _ => .next (s.addAccess core (c.access k.cyc (c.pieceReads c.next) [] (.piece c c.next)))

/-- Data to write at chunks, with the poison marks they carry. -/
def zipWrites (as : List Nat) (data : List (BitVec 512 × BitVec 8)) : List ChunkW :=
  (as.zip data).map fun q => wholeChunk q.1 q.2.1 q.2.2

/-- Does a member lie outside a partition (R248)? A core number that no core has does; of another package's cores, its own checks decide. -/
def State.outside (s : State) (part pkg core : Nat) : Bool :=
  match coreOf core with
  | some k => pkg == s.pf.pkg.toNat && !s.holdsDie part (dieOf k).val
  | none => true

/-- The outcome of a member of an mcast is known (R248). -/
def State.memberKnown (s : State) (c : CoreId) (ctx : CtxId) (issued w : Nat) (bad : Bool) : State :=
  s.modCore c fun k => { k with mcasts := k.mcasts.map fun x =>
    if x.ctx = ctx ∧ x.issued = issued then
      { x with open_ := x.open_ &&& ~~~((1 : BitVec 16) <<< w), failed := if bad then x.failed ||| (1 <<< w) else x.failed }
    else x }

/-- Piece k has read its local chunks: it writes locally on the next cycle, or leaves for its target (R231, R232, R234, R248). A cp.red whose destination overlaps its local source in part writes free bytes (R10, R232; log entry 2). -/
def State.pieceRead (s : State) (c : CoreId) (m : EngCmd) (k : Nat) (data : List (BitVec 512 × BitVec 8)) : State :=
  let e := (s.core c).cyc
  let dst := pieceAddrs m.shape m.dst (shDp m.shape) k
  match m.kind with
  | .cp => s.addAccess c { m.access (e + 1) [] (zipWrites dst data) .write with tagW := m.tags dst }
  | .cpRed =>
    let n := dst.length
    let free := m.overlaps || m.undef
    let out := ((List.range n).zip ((data.take n).zip (data.drop n))).map fun q =>
      (if free then bits (s.freeV (92 + q.1)) 0 512 else redChunk m.fmt m.op q.2.1.1 q.2.2.1, q.2.1.2 ||| q.2.2.2)
    (s.addAccess c { m.access (e + 1) [] (zipWrites dst out) .write with tagW := m.tags dst }).tickFree
  | .rwr =>
    let items := (dst.zip data).filterMap fun q =>
      let pa := podOf m.hnd q.1
      (padOf pa).map fun x => (podPkg pa, x.1, wholeChunk x.2 q.2.1 q.2.2)
    (groupTargets items).foldl (fun s g =>
      let t := s.oneWay c m.lk g.1 g.2.1
      let o := s.cmdOrigin c m t 0
      s.sendTimed m.lk g.1 g.2.1 t (m.remote o [] g.2.2 (m.tags (g.2.2.map ChunkW.addr)) (.remWr o none))) s
  | .mcast =>
    match m.members[k]? with
    | some (w, pkg, core) =>
      if s.outside (s.partOf m.lk) pkg core then s.memberKnown c m.ctx m.issued w true
      else
        let t := s.oneWay c m.lk pkg core
        let o := s.cmdOrigin c m t 0
        let wr := zipWrites ((List.range m.n).map fun i => m.dst + 64 * i) data
        s.sendTimed m.lk pkg core t (m.remote o [] wr [] (.remWr o (some w)))
    | none => s
  | .rrd => s

/-- CP_RED_INPLACE_ENQUEUE (R233): a released in-place cp.red takes a place, s = max(g, f + 1), in order of release cycles. -/
def execCpRedInplaceEnqueue (core : CoreId) (s : State) : Out :=
  let k := s.core core
  match k.cmdWait.find? (fun c => decide (c.slot ≤ k.cyc)) with
  | some c =>
    if k.queueFull then .fault (.notDue "CP_RED_INPLACE_ENQUEUE")
    else
      .next (s.modCore core fun k =>
        { k with cmdWait := k.cmdWait.erase c, cmds := k.cmds ++ [{ c with slot := max k.cyc k.afterQueue }] })
  | none => .fault (.notDue "CP_RED_INPLACE_ENQUEUE")

/-- Commands whose last engine slot is past leave the queue (R230). One that takes no engine slot keeps its place through what would be its first (log entry 106). -/
def Core.dropDone (k : Core) : Core := { k with cmds := k.cmds.filter fun c => decide (k.cyc < c.slot + max c.pieces 1) }

/-! ### The outcome of mcast -/

/-- Is the outcome of an mcast due on a cycle known (R248)? -/
def EngCmd.settled (c : EngCmd) : Bool := c.tabled && c.open_ == 0

/-- MCAST_OUTCOME (R76, R228, R248): the bitmap joins the results of this cycle, for its register and bc. -/
def execMcastOutcome (core : CoreId) (s : State) : Out :=
  let k := s.core core
  match k.mcasts.find? (fun c => decide (c.due ≤ k.cyc) && c.settled) with
  | none => .fault (.notDue "MCAST_OUTCOME")
  | some c =>
    let r : Result :=
      { ctx := c.ctx, lk := c.lk, issued := c.issued, part := 7, due := k.cyc, byTick := false, dest := destX c.d c.nw,
        val := c.failed.zeroExtend 4096, wen := allLanes, latch := some 5, fl := 0, toCk := false }
    .next (s.modCore core fun k => ({ k with mcasts := k.mcasts.filter fun x => !x.same c }).addResult r)

/-! ### Translation (R59 to R65, R238) -/

/-- A 128-bit table entry in HBM. -/
def State.entry (s : State) (loc : Nat) : BitVec 128 := BitVec.ofNat 128 (s.hbm loc 16)

/-- Fields of the flag byte (R60). -/
def peV (e : BitVec 128) : Bool := e.getLsbD 0
def peType (e : BitVec 128) : Nat := (bits e 1 2 : BitVec 2).toNat
def peRd (e : BitVec 128) : Bool := e.getLsbD 3
def peW (e : BitVec 128) : Bool := e.getLsbD 4
def peCont (e : BitVec 128) : Bool := e.getLsbD 5
def peAddr (e : BitVec 128) : Nat := (bits e 12 40 : BitVec 40).toNat * 4096

/-- Bytes of a page leaf at a level (R60). -/
def pageSize (level : Nat) : Nat := if level = 2 then 2 ^ 36 else if level = 1 then 2 ^ 26 else 2 ^ 16

/-- Is an entry well formed at its level (R60 to R62)? -/
def entryOk (e : BitVec 128) (level : Nat) : Bool :=
  let t := peType e
  peV e && t != 3 && (bits e 6 2 : BitVec 2) == 0 &&
    (if t == 2 then
      level == 1 && !peCont e && (bits e 8 7 : BitVec 7) == 0 && decide ((bits e 15 4 : BitVec 4).toNat ≤ 10) &&
        decide ((bits e 15 4 : BitVec 4).toNat + 6 + (bits e 19 5 : BitVec 5).toNat ≤ 26)
    else
      (bits e 8 4 : BitVec 4) == 0 && (bits e 52 76 : BitVec 76) == 0 &&
        (if t == 0 then
          level != 0 && !peCont e && decide (peAddr e < 2 ^ 40) && decide (peAddr e % 16384 = 0)
        else (level != 2 || !peCont e) && decide (peAddr e % pageSize level = 0)))

/-- Index of a VA at a level (R60). -/
def vaIndex (va level : Nat) : Nat :=
  if level = 2 then va / 2 ^ 36 % 65536 else if level = 1 then va / 2 ^ 26 % 1024 else va / 2 ^ 16 % 1024

/-- The walk: the leaf, its level and where it stands, or trap cause 0x20 (R59, R60). -/
def State.walkFrom (s : State) (va : Nat) : Nat → Nat → Except Nat (BitVec 128 × Nat × Nat)
  | 0, _ => .error 0x20
  | n + 1, table =>
    let at_ := table + 16 * vaIndex va n
    if at_ ≥ 0xC000000000 then .error 0x20
    else
      let e := s.entry at_
      if !entryOk e n then .error 0x20
      else if peType e = 0 then s.walkFrom va n (peAddr e)
      else .ok (e, n, at_)

/-- The pod address at which the run of an entry would begin, by the entry's own address and place (R61). -/
def runStart (e : BitVec 128) (level at_ : Nat) : Nat := peAddr e - at_ / 16 % 32 * pageSize level

/-- Does the group of 32 entries around an entry keep the rule of a contiguous run (R61)? -/
def State.runSound (s : State) (e : BitVec 128) (level at_ : Nat) : Bool :=
  let sz := pageSize level
  let first := runStart e level at_
  first % (32 * sz) == 0 && (List.range 32).all fun j =>
    let x := s.entry (at_ / 512 * 512 + 16 * j)
    entryOk x level && (bits x 0 8 : BitVec 8) == bits e 0 8 && peAddr x == first + j * sz

/-- A cached translation of a leaf: its page, or its whole run. A run that breaks R61 gives an undefined translation: a free address and free rights, on which the checks of R63 then act (R10; log entry 2). -/
def State.cachedOf (s : State) (part va : Nat) (e : BitVec 128) (level at_ : Nat) : Cached :=
  let sz := pageSize level
  let leaf (size base : Nat) : Cached :=
    { part := part, va := va / size * size, size := size, leaf := e, level := level, base := base, rd := peRd e, wr := peW e }
  if peCont e && peType e == 1 then
    if s.runSound e level at_ then leaf (32 * sz) (runStart e level at_)
    else { leaf (32 * sz) (((s.freeV 90).toNat % 2 ^ 36) * 2 ^ 16) with rd := (s.freeV 91).getLsbD 0, wr := (s.freeV 91).getLsbD 1 }
  else leaf sz (peAddr e)

/-- The handle that a translation gives, after the checks of R63 on the address it reaches; or the cause. -/
def State.formHandle (s : State) (part va : Nat) (c : Cached) : Except Nat Handle :=
  let tile := if peType c.leaf = 2 then some c.leaf else none
  let h : Handle := { va := c.va, size := c.size, pa := c.base, tile := tile, rd := c.rd, wr := c.wr, cls := .untimed }
  match h.pod va with
  | .error x => .error x
  | .ok pa =>
    if podPkg pa = s.pf.pkg.toNat ∧ !s.reachable part (podLoc pa) then .error 0x21
    else .ok { h with cls := classOf pa }

/-- The outcome of a translation, with what it adds to the walk cache of the die (R65). A VA of 2^52 or more raises trap 0x20 (log entry 115), and a full cache drops the translation that has stood there longest (log entry 113). -/
def State.translate (s : State) (die : Fin 9) (part va : Nat) : Except Nat Handle × List Cached :=
  let cache := (s.die die).cache
  match vfOf part with
  | none => (.error 0x20, cache)
  | some n =>
    if !(s.vfs[n].ptroot).getLsbD 0 || va ≥ 2 ^ 52 then (.error 0x20, cache)
    else
      match cache.find? (fun c => c.part == part && decide (c.va ≤ va) && decide (va < c.va + c.size)) with
      | some c => (s.formHandle part va c, cache)
      | none =>
        match s.walkFrom va 3 ((bits s.vfs[n].ptroot 20 20 : BitVec 20).toNat * 2 ^ 20) with
        | .error x => (.error x, cache)
        | .ok (e, level, at_) =>
          let c := s.cachedOf part va e level at_
          (s.formHandle part va c, (c :: cache).take 4096)

/-- Is a VA in the walk cache of a die (R64)? -/
def State.cached (s : State) (die : Fin 9) (part va : Nat) : Bool :=
  (s.die die).cache.any fun c => c.part == part && decide (c.va ≤ va) && decide (va < c.va + c.size)

/-- XLAT (R64, R238): the walk ends at a tick that the spec leaves open, within 160 cycles on a walk-cache hit. -/
def execXlat (o : COps) (s : State) : Out :=
  copySlot (.xlat o) "XLAT" s fun f =>
    let k := s.core f.core
    let va := (s.readX f o.a).toNat
    let d : BitVec 3 := bits o.d 0 3
    if k.walks.any (fun w => w.ctx == f.ctx && w.d == d) then s.raise f 7 0x11 0
    else
      let part := s.partOf (s.focusLk f)
      let t := Config.walkTime s.freeCtr
      let len := if s.cached (dieOf f.core) part va then t % 160 + 1 else t + 1
      let w : Walk := { ctx := f.ctx, lk := s.focusLk f, issued := s.cycle f, bundle := f.idx, d := d, va := va, ends := s.now + len, res := none }
      (s.modCore f.core fun k => { k with walks := k.walks ++ [w] }).tickFree

/-- The walks of a core that end by now get their results (R238). -/
def State.endWalks (s : State) (c : CoreId) : State :=
  ((s.core c).walks.filter fun w => w.res.isNone && decide (w.ends ≤ s.now)).foldl (fun s w =>
    let die := dieOf c
    let (r, cache) := s.translate die (s.partOf w.lk) w.va
    let res := match r with
      | .ok h => (some h, 0)
      | .error x => (none, x)
    ((s.modDie die fun d => { d with cache := cache }).modCore c fun k =>
      { k with walks := k.walks.map fun q => if q.ctx = w.ctx ∧ q.d = w.d then { q with res := some res } else q }).tickFree) s

/-- A walk's handle is written, or its trap raised, on this cycle (R238). -/
def State.landWalk (s : State) (c : CoreId) (w : Walk) : State :=
  let s := s.modCore c fun k => { k with walks := k.walks.filter fun q => !(q.ctx == w.ctx && q.d == w.d) }
  match w.res with
  | some (some h, _) =>
    s.modCore c fun k =>
      { (k.modCtx w.ctx (fun x => { x with th := x.th.set w.d.toNat (some h) })).heal
            (fun | .reg _ j c n _ copy => j == w.ctx && c == 3 && n == w.d.toNat && !copy | _ => false) with
        regErr := k.regErr.filter fun e : Nat × Nat × Nat × Nat => !(e.1 == w.ctx.val && e.2.1 == 3 && e.2.2.1 == w.d.toNat) }
  | some (none, x) =>
    s.modCore c fun k => k.addTrap
      { ctx := w.ctx, lk := w.lk, cause := x, part := 7, eng := 0, addr := BitVec.ofNat 64 w.va, bundle := w.bundle, origin := w.issued,
        pslot := 0, frow := 0, pod := false }
  | none => s

end Sys2Proof.Machine
end

