-- ==== Sys2Proof/Machine/Image.lean ====
section
/-!
DEFINITION. The parts of an image (R12, R13, R18, R20), the SHAKE256 digest over it (R13, R27), and the loader's checks on its header, its chunks and its resources (R26 checks 1 to 9).
-/

namespace Sys2Proof.Machine

/-! ### SHAKE256 (R13; FIPS 202, log entry 21): the sponge's 1,600 bits are one word -/

/-- The bits of a sponge. -/
abbrev Sponge : Type := BitVec 1600

/-- The 64 bits at column x and row y, both counted modulo 5. -/
def Sponge.at (a : Sponge) (x y : Nat) : Word := bits a (64 * (x % 5 + 5 * (y % 5))) 64

/-- The sponge with given bits at each column and row. -/
def Sponge.from (f : Nat → Nat → Word) : Sponge := BitVec.ofNat 1600 (packNat 64 ((List.range 25).map fun n => (f (n % 5) (n / 5)).toNat))

/-- The parity of a column. -/
def Sponge.parity (a : Sponge) (x : Nat) : Word := ((List.range 5).map (a.at x)).foldl (· ^^^ ·) 0

/-- The path that step rho takes over columns and rows. -/
def rhoPath : Nat → Nat × Nat
  | 0 => (1, 0)
  | t + 1 => let (x, y) := rhoPath t; (y, (2 * x + 3 * y) % 5)

/-- How far step rho turns the bits at a column and row: the triangular number of their place on the path, which leaves out (0, 0). -/
def rhoTurn (x y : Nat) : Nat :=
  (((List.range 24).find? fun t => rhoPath t == (x % 5, y % 5)).map fun t => (t + 1) * (t + 2) / 2 % 64).getD 0

/-- The turns of all places, columns first. -/
def rhoTurns : List Nat := (List.range 25).map fun n => rhoTurn (n % 5) (n / 5)

/-- The output of the shift register x⁸ + x⁶ + x⁵ + x⁴ + 1 of step iota. -/
def iotaStream : Nat → Nat → List Bool
  | 0, _ => []
  | n + 1, r => r.testBit 0 :: iotaStream n (if r.testBit 7 then (2 * r) ^^^ 0x171 else 2 * r)

/-- What step iota adds in each of the 24 rounds: seven bits of the register, at the places 2^j - 1. -/
def iotaWords : List Sponge :=
  let out := iotaStream 168 1
  (List.range 24).map fun n => BitVec.ofNat 1600 (((List.range 7).map fun j => (out.getD (7 * n + j) false).toNat <<< (2 ^ j - 1)).sum)

/-- Steps theta, rho and pi. -/
def Sponge.mix (a : Sponge) : Sponge :=
  let turned (x y : Nat) : Word :=
    (a.at x y ^^^ a.parity (x + 4) ^^^ (a.parity (x + 1)).rotateLeft 1).rotateLeft (rhoTurns.getD (x % 5 + 5 * (y % 5)) 0)
  .from fun x y => turned (x + 3 * y) x

/-- Steps chi and iota. -/
def Sponge.twist (a add : Sponge) : Sponge := .from (fun x y => a.at x y ^^^ (~~~a.at (x + 1) y &&& a.at (x + 2) y)) ^^^ add

/-- The permutation. -/
def Sponge.permute (a : Sponge) : Sponge := iotaWords.foldl (fun a add => a.mix.twist add) a

/-- A message of a given number of blocks of 136 bytes is taken in. -/
def Sponge.take (a : Sponge) (m : List Byte) : Nat → Sponge
  | 0 => a
  | n + 1 => Sponge.permute (Sponge.take a m n ^^^ BitVec.ofNat 1600 (packNat 8 (((m.drop (136 * n)).take 136).map BitVec.toNat)))

/-- What follows a message of n bytes: bits 1111 and 1 behind it, and a 1 that ends its last block. -/
def spongePad (n : Nat) : List Byte :=
  let k := 136 - n % 136
  if k = 1 then [0x9F] else 0x1F :: (List.replicate (k - 2) 0 ++ [0x80])

/-- The 64-byte SHAKE256 digest of a message, byte 0 lowest. -/
def shake256 (m : List Byte) : BitVec 512 :=
  bits (Sponge.take 0 (m ++ spongePad m.length) (m.length / 136 + 1)) 0 512

/-- The bytes of a value of n bytes, lowest first (R3). -/
def bytesOf (v n : Nat) : List Byte := (List.range n).map (byteOf v)

/-! ### Fields of an image (R12, R13) -/

/-- FLAGS.PRE (R13). -/
def imagePre (i : Image) : Bool := (i.field 6 2).testBit 0
/-- FLAGS.POD (R13). -/
def imagePod (i : Image) : Bool := (i.field 6 2).testBit 1
/-- NPKG (R13). -/
def imageNpkg (i : Image) : Nat := i.field 16 2
/-- NREC (R13). -/
def imageNrec (i : Image) : Nat := i.field 18 2
/-- POWER (R13). -/
def imagePower (i : Image) : Nat := i.field 20 1
/-- SKIPS (R13). -/
def imageSkips (i : Image) : Nat := i.field 22 2
/-- DIGEST (R13). -/
def imageDigest (i : Image) : BitVec 512 := BitVec.ofNat 512 (i.field 48 64)

/-- Chunks of the validation prefix, and those that follow it (R13). -/
def isTail (c : Chunk) : Bool := decide (6 ≤ c.kind)
def imagePrefix (i : Image) : List Chunk := i.chunks.takeWhile fun c => !isTail c
def imageTail (i : Image) : List Chunk := i.chunks.dropWhile fun c => !isTail c

/-- Bytes of a chunk with its header. -/
def chunkBytes (c : Chunk) : Nat := 32 + 64 * c.payload.length

/-- The bytes of a header and chunks, DIGEST read as zero (R13, R27). -/
def digestBytes (hdr : BitVec 1024) (cs : List Chunk) : List Byte :=
  bytesOf hdr.toNat 48 ++ List.replicate 64 (0 : Byte) ++ bytesOf (hdr.toNat >>> 896) 16 ++
    cs.flatMap fun c => bytesOf c.hdr.toNat 32 ++ c.payload.flatMap fun w => bytesOf w.toNat 64

/-- Does the digest of the whole image agree with DIGEST (R27)? -/
def digestOk (i : Image) : Bool := shake256 (digestBytes i.hdr i.chunks) == imageDigest i

/-- Does the prefix digest agree with DIGEST (R26 check 2, R27)? Where the image goes on beyond its prefix, DIGEST is over more than the prefix, and what the security engine finds is free (log entry 21). -/
def prefixDigestOk (i : Image) : Bool :=
  if (imageTail i).isEmpty then digestOk i
  else Config.prefixAgrees (imageDigest i) (shake256 (digestBytes i.hdr (imagePrefix i)))

/-! ### Resource records and entry tables (R18, R20) -/

/-- A resource record as it stands in the image (R18). -/
structure RawRec where
  pkg : Nat
  core : Nat
  ctx : Nat
  vregs : Nat
  accs : Nat
  ctxlo : Nat
  banks : Nat
  inherit : Nat
  release : Nat
  deriving DecidableEq, Repr

/-- Record i of a kind 1 payload. -/
def recordAt (d i : Nat) : RawRec :=
  let f (b w : Nat) : Nat := planFld d (32 * i + b) w
  ⟨f 0 2, f 2 2, f 4 1, f 5 1, f 6 1, f 7 1, f 8 8, f 16 8, f 24 8⟩

/-- The resource records of an image. -/
def imageRecs (i : Image) : List RawRec :=
  match i.chunkOf 1 with
  | some c => (List.range (imageNrec i)).map (recordAt c.data)
  | none => []

/-- A record of this package as a launch holds it. -/
def RawRec.res (r : RawRec) : ResRec :=
  { core := r.core, nctx := r.ctx, vregs := r.vregs, accs := r.accs, ctxlo := r.ctxlo, banks := BitVec.ofNat 48 r.banks,
    inherit := BitVec.ofNat 48 r.inherit, release := BitVec.ofNat 48 r.release }

/-- Entry i of an entry table: package index, core, context, bundle index, and whether all its other bytes are zero (R20). -/
def entryAt (d i : Nat) : (Nat × Nat × Nat × Nat) × Bool :=
  let f (b w : Nat) : Nat := planFld d (16 * i + b) w
  ((f 0 2, f 2 2, f 4 1, f 8 2), f 5 3 == 0 && f 10 6 == 0)

/-- The contexts that must have an entry (R20). -/
def entryKeys (rs : List RawRec) : List (Nat × Nat × Nat) :=
  rs.flatMap fun r => (List.range r.ctx).map fun k => (r.pkg, r.core, r.ctxlo + k)

/-- Does an entry table of n records meet R20 against the resource records? A context number is 0 to 3 (log entry 100). -/
def entriesOk (rs : List RawRec) (d n : Nat) : Bool :=
  let es := (List.range n).map (entryAt d)
  let ks := es.map fun e => (e.1.1, e.1.2.1, e.1.2.2.1)
  es.all (fun e => e.2 && decide (e.1.2.2.1 ≤ 3) && decide (e.1.2.2.2 ≤ 4095)) && decide (ks.length = (entryKeys rs).length) &&
    (entryKeys rs).all (fun k => decide (ks.count k = 1))

/-- Entry records of a package: core, context, index. -/
def entriesOf (pkg d n : Nat) : List (Nat × Nat × Nat) :=
  (((List.range n).map (entryAt d)).filter fun e => e.1.1 == pkg).map fun e => (e.1.2.1, e.1.2.2.1, e.1.2.2.2)

/-! ### Check 1 (R26) -/

/-- Strictly rising numbers. -/
def rising : List Nat → Bool
  | a :: b :: l => decide (a < b) && rising (b :: l)
  | _ => true

/-- Numbers that never decrease. -/
def climbing : List Nat → Bool
  | a :: b :: l => decide (a ≤ b) && climbing (b :: l)
  | _ => true

/-- Is a chunk header well formed (R13)? -/
def chunkOk (npkg : Nat) (c : Chunk) : Bool :=
  let tail := isTail c
  decide (1 ≤ c.kind) && decide (c.kind ≤ 8) && c.field 1 1 == 0 && c.field 6 2 == 0 && c.field 28 4 == 0 &&
    decide (c.len = 64 * c.payload.length) &&
    (if tail then decide (c.pkg < npkg) && decide (c.core ≤ 323) && c.key == 0
    else c.pkg == 0 && c.core == 0 && c.firstUse == 0 && c.dest == 0 &&
      (if c.kind = 4 then decide (c.key < 2 ^ 16) else if c.kind = 5 then decide (c.key < 2 ^ 12) else c.key == 0))

/-- The order of the chunks (R13): kinds 1 and 2 once each, then 3, 4 and 5, then the tail in order of FIRSTUSE. -/
def orderOk (i : Image) : Bool :=
  let ks := (imagePrefix i).map Chunk.kind
  climbing ks && decide (ks.count 1 = 1) && decide (ks.count 2 = 1) && (imageTail i).all isTail &&
    climbing ((imageTail i).map Chunk.firstUse) &&
    rising (((imagePrefix i).filter fun c => c.kind == 4).map Chunk.key) &&
    rising (((imagePrefix i).filter fun c => c.kind == 5).map Chunk.key)

/-- Is a table of n records of w bytes the whole payload of a chunk, padded with zeros (R12)? -/
def tableOk (c : Option Chunk) (n w : Nat) : Bool :=
  c.any fun c => decide (64 * c.payload.length = (n * w + 63) / 64 * 64) && decide (c.data < 2 ^ (8 * n * w))

/-- Are the reserved fields of the image header zero, and its lengths and ranges right (R12, R13)? -/
def headerOk (i : Image) : Bool :=
  i.field 0 4 == 0x31495856 && i.field 4 2 == 1 && i.field 21 1 == 0 && i.field 40 8 == 0 && decide (i.field 6 2 < 4) &&
    decide (1 ≤ imageNpkg i) && decide (imageNpkg i ≤ 3072) && decide (imagePower i ≤ 7) &&
    decide (i.field 24 8 = 128 + (i.chunks.map chunkBytes).sum) && decide (i.field 32 8 = 128 + ((imagePrefix i).map chunkBytes).sum)

/-- Do the resource records stand in order, each of a core of the pod (R18)? -/
def recsOk (i : Image) : Bool :=
  (imageRecs i).all (fun r => decide (r.pkg < imageNpkg i) && decide (r.core ≤ 323)) &&
    rising ((imageRecs i).map fun r => 512 * r.pkg + r.core)

/-- Check 1 of R26 passes. -/
def wellFormedImage (i : Image) : Bool :=
  headerOk i && i.chunks.all (chunkOk (imageNpkg i)) && orderOk i && tableOk (i.chunkOf 1) (imageNrec i) 32 && recsOk i &&
    tableOk (i.chunkOf 2) (entryKeys (imageRecs i)).length 16 &&
    (i.chunkOf 2).any fun c => entriesOk (imageRecs i) c.data (entryKeys (imageRecs i)).length

/-! ### Checks 2 to 9 (R16, R26) -/

/-- Does a bank mask name only banks 0 to 47? -/
def bankBits (m : Nat) : Bool := decide (m < 2 ^ 48)

/-- Is one mask a subset of another? -/
def subMask (a b : Nat) : Bool := a &&& b == a

/-- The first of checks 1 to 9 that fails, as the loader's code; none when all pass (R26). -/
def imageFault (i : Image) : Option Nat :=
  let rs := imageRecs i
  if !wellFormedImage i then some 0x80
  else if !prefixDigestOk i then some 0x81
  else if !(i.field 8 2 == 1 && i.field 10 2 == 1 && i.field 12 2 == 1 && i.field 14 2 == 1) then some 6
  else if rs.any (fun r => r.ctx == 0 || decide (r.ctxlo + r.ctx > 4)) then some 1
  else if rs.any (fun r => !bankBits r.banks || !subMask r.inherit r.banks || !subMask r.release r.banks) then some 2
  else if rs.any (fun r => decide (r.vregs > 32)) then some 3
  else if rs.any (fun r => decide (r.accs > 24)) then some 4
  else if imageSkips i > 352 then some 5
  else if imagePre i && rs.any (fun r => r.inherit != 0) then some 15
  else none

/-! ### Chunks of the tail as they land (R14, R28) -/

/-- Does a chunk of the tail break R14 against its core's record? An empty payload holds nothing that could. -/
def chunkBreaks (i : Image) (c : Chunk) : Bool :=
  let n := c.payload.length
  match c.kind with
  | 6 => n != 0 && decide (c.dest + n > 4096)
  | k =>
    let last := if k = 7 then c.dest + 64 * n else c.dest + 4096 * (32 * n)
    let banks := (List.range 48).filter fun b => decide (c.dest < 0x20000 * (b + 1)) && decide (0x20000 * b < last)
    (k == 8 && c.dest % 4096 != 0) || n != 0 && (decide (last > 0x600000) ||
      match (imageRecs i).find? fun r => r.pkg == c.pkg && r.core == c.core with
      | some r => banks.any fun b => !(r.banks.testBit b && !r.inherit.testBit b)
      | none => true)

/-- Does a bundle hold cp.red with the .i modifier in its copy slot (R28)? -/
def bundleInplace (b : BundleWord) : Bool :=
  match bundleOp b 7 with
  | .form (.cpRed o) => o.inplace
  | _ => false

end Sys2Proof.Machine
end

