-- ==== Sys2Proof/Machine/Packets.lean ====
section
/-!
DEFINITION. Flits and open packets under their keys (R310; log entry 17): the payload or the words of a packet are added to a keystream, and the tag stands over the result.
-/

namespace Sys2Proof.Machine

/-! ### Scheduled flits -/

/-- Encryption of a flit: the payload and its tag (R310). -/
def flitSeal (key : Option (BitVec 256)) (iv : BitVec 96) (pay : BitVec 1024) : BitVec 1024 × BitVec 64 :=
  (pay ^^^ Config.flitPad key iv, Config.flitTag key iv (pay ^^^ Config.flitPad key iv))

/-- Decryption of a flit (R310). -/
def flitOpen (key : Option (BitVec 256)) (iv : BitVec 96) (pay : BitVec 1024) : BitVec 1024 := pay ^^^ Config.flitPad key iv

/-- Does the tag of a flit verify (R310)? -/
def flitOk (key : Option (BitVec 256)) (iv : BitVec 96) (pay : BitVec 1024) (tag : BitVec 64) : Bool := Config.flitTag key iv pay == tag

/-! ### The words of an open packet -/

/-- Who, as words. -/
def whoWords (w : Who) : List Nat := [w.gcid, w.sin.toNat, w.atick[0], w.atick[1], w.atick[2]]

/-- An optional 64-bit value as one word. -/
def optWord {n : Nat} (o : Option (BitVec n)) : Nat := o.elim 0 fun v => v.toNat + 1
/-- The value of such a word. -/
def wordOpt (n w : Nat) : Option (BitVec n) := if w = 0 then none else some (BitVec.ofNat n (w - 1))

/-- Chunks with their addresses, as words. -/
def chunkWords3 (l : List (Nat × BitVec 512 × BitVec 8)) : List Nat := l.flatMap fun c => [c.1, c.2.1.toNat, c.2.2.toNat]
/-- The chunks of such words. -/
def words3 : List Nat → List (Nat × BitVec 512 × BitVec 8)
  | a :: d :: m :: l => (a, BitVec.ofNat 512 d, BitVec.ofNat 8 m) :: words3 l
  | _ => []

/-- Chunks with their marks, as words. -/
def dataWords (l : List (BitVec 512 × BitVec 8)) : List Nat := l.flatMap fun c => [c.1.toNat, c.2.toNat]
/-- The chunks of such words. -/
def words2 : List Nat → List (BitVec 512 × BitVec 8)
  | d :: m :: l => (BitVec.ofNat 512 d, BitVec.ofNat 8 m) :: words2 l
  | _ => []

/-- The contents of an open packet as words, its sort first (log entry 107). -/
def packetWords : PacketBody → List Nat
  | .read c e g pas w => [0, c, e, g.toNat] ++ whoWords w ++ pas
  | .write c e g ch w => [1, c, e, g.toNat] ++ whoWords w ++ chunkWords3 ch
  | .atom c e g pa op fp b w => [2, c, e, g.toNat] ++ whoWords w ++ [pa, op, fp.toNat, b.toNat]
  | .readReply c e g data race => [3, c, e, g.toNat, optWord race] ++ dataWords data
  | .writeAck c e g race => [4, c, e, g.toNat, optWord race]
  | .atomReply c e g old race => [5, c, e, g.toNat, old.toNat, optWord race]
  | .release g rsin rtick homes =>
    [6, g, rsin[0].toNat, rsin[1].toNat, rsin[2].toNat, rtick[0], rtick[1], rtick[2], homes.toNat]
  | .releaseHeld g sin => [7, g, sin.toNat]
  | .notice n => [8, n.part, n.launch.toNat, optWord n.link, n.peer, n.tick]
  | .announce inc => [9, inc.toNat]
  | .timeReq t1 => [10, t1]
  | .timeRep t1 t2 t3 => [11, t1, t2, t3]
  | .dbg p cmd data => [12, p, cmd.toNat, data.toNat]
  | .dbgReply p err data => [13, p, err.toNat, data.toNat]
  | .record pa q data => [14, pa, q, data.toNat]
  | .recordDone q ok => [15, q, ok.toNat]

/-- The contents that words stand for. -/
def packetOfWords : List Nat → Option PacketBody
  | 0 :: c :: e :: g :: i :: n :: a :: b :: d :: pas => some (.read c e (BitVec.ofNat 4 g) pas ⟨i, BitVec.ofNat 16 n, #v[a, b, d]⟩)
  | 1 :: c :: e :: g :: i :: n :: a :: b :: d :: ch => some (.write c e (BitVec.ofNat 4 g) (words3 ch) ⟨i, BitVec.ofNat 16 n, #v[a, b, d]⟩)
  | [2, c, e, g, i, n, a, b, d, pa, op, fp, x] =>
    some (.atom c e (BitVec.ofNat 4 g) pa op (fp == 1) (BitVec.ofNat 32 x) ⟨i, BitVec.ofNat 16 n, #v[a, b, d]⟩)
  | 3 :: c :: e :: g :: r :: data => some (.readReply c e (BitVec.ofNat 4 g) (words2 data) (wordOpt 64 r))
  | [4, c, e, g, r] => some (.writeAck c e (BitVec.ofNat 4 g) (wordOpt 64 r))
  | [5, c, e, g, o, r] => some (.atomReply c e (BitVec.ofNat 4 g) (BitVec.ofNat 32 o) (wordOpt 64 r))
  | [6, g, a, b, d, t, u, v, h] =>
    some (.release g #v[BitVec.ofNat 16 a, BitVec.ofNat 16 b, BitVec.ofNat 16 d] #v[t, u, v] (BitVec.ofNat 9 h))
  | [7, g, n] => some (.releaseHeld g (BitVec.ofNat 16 n))
  | [8, p, l, k, q, t] => some (.notice ⟨p, BitVec.ofNat 16 l, wordOpt 16 k, q, t⟩)
  | [9, n] => some (.announce (BitVec.ofNat 16 n))
  | [10, t] => some (.timeReq t)
  | [11, t, u, v] => some (.timeRep t u v)
  | [12, p, c, d] => some (.dbg p (BitVec.ofNat 64 c) (BitVec.ofNat 64 d))
  | [13, p, e, d] => some (.dbgReply p (BitVec.ofNat 3 e) (BitVec.ofNat 64 d))
  | [14, a, q, d] => some (.record a q (BitVec.ofNat 256 d))
  | [15, q, b] => some (.recordDone q (b == 1))
  | _ => none

/-! ### Sealing -/

/-- Words from number i on, each with its keystream added. -/
def padWords (key : Option (BitVec 256)) (iv : BitVec 96) : Nat → List Nat → List Nat
  | _, [] => []
  | i, w :: ws => (w ^^^ (Config.openPad key iv i).toNat) :: padWords key iv (i + 1) ws

/-- An open packet sealed under a key: its wire form and its tag (R310). -/
def sealBody (key : Option (BitVec 256)) (iv : BitVec 96) (b : PacketBody) : PacketWire × BitVec 64 :=
  (.sealed iv (padWords key iv 0 (packetWords b)), Config.openTag key iv (padWords key iv 0 (packetWords b)))

/-- The contents of a packet under a key. -/
def wireBody (key : Option (BitVec 256)) : PacketWire → Option PacketBody
  | .clear b => some b
  | .sealed iv text => packetOfWords (padWords key iv 0 text)

/-- Does a packet pass its integrity check (R310, R329)? One in clear has none. -/
def wireOk (key : Option (BitVec 256)) (tag : BitVec 64) : PacketWire → Bool
  | .clear _ => true
  | .sealed iv text => Config.openTag key iv text == tag

end Sys2Proof.Machine
end

