-- ==== Sys2Proof/Machine/Untimed.lean ====
section
/-!
DEFINITION. Untimed memory: open packets on their way out (R294, R296, R297, R310), gld, gst and gatom and the landing buffer (R239 to R247), causal vectors and homes (R257 to R260), and the race detector (R266 to R269).
-/

namespace Sys2Proof.Machine

/-! ### Open packets (R293, R297) -/

/-- Ring lengths X, Y, Z, W (R293, PODCFG). -/
def State.rings (s : State) : List Nat := (List.range 4).map fun i => (bits s.pf.len (3 * i) 3 : BitVec 3).toNat + 1

/-- Coordinates of a pod package number (R293). -/
def coords : List Nat → Nat → List Nat
  | [], _ => []
  | l :: ls, n => n % l :: coords ls (n / l)

/-- A pod package number from coordinates. -/
def uncoords : List Nat → List Nat → Nat
  | l :: ls, c :: cs => c % l + l * uncoords ls cs
  | _, _ => 0

/-- The torus port of the first step from one package towards another in the order X, Y, Z, W: the shorter way round, and the + way when both are equal (R294, R297). -/
def routePort : Nat → List Nat → List Nat → List Nat → Option Nat
  | axis, l :: ls, a :: as, b :: bs =>
    if a % l = b % l then routePort (axis + 1) ls as bs
    else
      let fwd := (b + l - a) % l
      some (2 * axis + if 2 * fwd ≤ l then 0 else 1)
  | _, _, _, _ => none

/-- The port on which an open packet leaves for a package. -/
def State.openPort (s : State) (dst : Nat) : Option Nat :=
  routePort 0 s.rings (coords s.rings s.pf.pkg.toNat) (coords s.rings dst)

/-- A packet kind that goes first (R297). -/
def urgent (h : FlitHdr) : Bool := hdrKind h == 4 || hdrKind h == 5

/-- Queue an open packet on a port; a full queue drops and counts it (R297). -/
def State.queuePacket (s : State) (p : Nat) (h : FlitHdr) (b : PacketWire) : State :=
  if hp : p < 12 then
    let q := s.ports[p]
    if q.outq.length ≥ 64 then { s with ports := s.ports.set p { q with opendrop := satAdd q.opendrop 1 } }
    else
      let outq := if urgent h then q.outq.filter (fun x => urgent x.1) ++ (h, b) :: q.outq.filter (fun x => !urgent x.1) else q.outq ++ [(h, b)]
      { s with ports := s.ports.set p { q with outq := outq } }
  else s

/-- The latest incarnation that a package has announced (R308). -/
def State.incOf (s : State) (pkg : Nat) : BitVec 16 := tabGet s.pf.incs pkg 0

/-- Send an open packet of a partition to a package (R296, R297, R310). -/
def State.sendOpen (s : State) (kind dst part : Nat) (b : PacketBody) : State :=
  match s.openPort dst with
  | none => s
  | some p =>
    let (body, tag, s) := match vfOf part with
      | some n =>
        if kind = 3 then
          let q := sealBody s.vfs[n].keys[3] s.vfs[n].openCtr b
          (q.1, q.2, s.modVf n fun v => { v with openCtr := v.openCtr + 1 })
        else (.clear b, 0, s)
      | none => (.clear b, 0, s)
    s.queuePacket p (mkHdr s.pf.pkg.toNat kind dst part s.pf.inc (s.incOf dst) tag) body

/-- Does a packet to a package find a port, and room in its queue (R297)? -/
def State.mayQueue (s : State) (dst : Nat) : Bool :=
  (s.openPort dst).any fun p => if hp : p < 12 then decide (s.ports[p].outq.length < 64) else false

/-! ### Landing buffer (R239) -/

/-- The free entry a request takes: the lowest-numbered one (DESIGN CHOICE, log entry 120; R239 gives only their number). -/
def Core.freeEntry (k : Core) : Option (Fin 64) := (List.finRange 64).find? fun e => k.land[e].req.isNone

/-- Change an entry. -/
def Core.modEntry (k : Core) (e : Fin 64) (g : LandEntry → LandEntry) : Core := { k with land := k.land.set e (g k.land[e]) }

/-- Free an entry; its generation advances (R239). -/
def LandEntry.free (e : LandEntry) : LandEntry := { gen := e.gen + 1, req := none, freeAt := none }

/-! ### Causal vectors (R258) -/

/-- diff16 of R258. -/
def diff16 (a b : BitVec 16) : Int := (a - b).toInt

/-- merge of R258. -/
def mergeCv (v cv : Vector (BitVec 16) 9) : Vector (BitVec 16) 9 :=
  Vector.ofFn fun e : Fin 9 => if diff16 v[e] cv[e] > 0 then v[e] else cv[e]

/-- stamp_write of R258: the stamp that travels with a write of context k of core c. -/
def State.stamp (s : State) (c : CoreId) (k : CtxId) : Vector (BitVec 16) 9 × State :=
  let d := dieOf c
  let n := (s.die d).nw + 1
  let v := (s.ctx c k).cv.set d n
  (v, (s.modDie d fun x => { x with nw := n }).modCtx c k fun x => { x with cv := v })

/-- The home die of a pod address of this package (R257). -/
def homeDie (loc : Nat) : Option (Fin 9) :=
  match regionOf loc with
  | .hbm d => dieOf? d
  | .host _ => some 4
  | _ => none

/-- Who a context is to the race detector: its SIN at the access's issue, and its ATICK as the access leaves (R266, R267). -/
def State.who (s : State) (c : CoreId) (k : CtxId) (sin : BitVec 16) : Who :=
  ⟨(s.gcid c.val k.val).toNat, sin, (s.ctx c k).atick⟩

/-- A home of a write is noted for the announcements of the next release event (R267). -/
def State.noteSent (s : State) (c : CoreId) (k : CtxId) (pa : Nat) : State :=
  if podPkg pa = s.pf.pkg.toNat then
    match homeDie (podLoc pa) with
    | some d => s.modCtx c k fun x => { x with sentTo := x.sentTo.map fun b => b ||| (1 <<< d.val) }
    | none => s
  else
    match homeDie (podLoc pa) with
    | some d => s.modCtx c k fun x =>
        { x with sentPkg := x.sentPkg.map fun l => (podPkg pa, d.val) :: l.filter (· != (podPkg pa, d.val)) }
    | none => s

/-! ### Issue -/

/-- The chunks of an untimed form. -/
def chunkVas (va n : Nat) : List Nat := (List.range n).map fun i => va + 64 * i

/-- An untimed request of the bundle in issue. -/
def State.ureq (s : State) (f : Focus) (o : COps) (kind : UKind) (va loc : Nat) (pas : List Nat) : UReq :=
  { kind := kind, ctx := f.ctx, lk := s.focusLk f, issued := s.cycle f, bundle := f.idx, va := va, pas := pas, loc := loc,
    due := if kind = .gatom then none else some (s.cycle f + o.land), l := o.land, d := o.d, nw := o.nw, op := o.fn.toNat,
    fp := o.fmt == .fp32, b := lo32 (s.readX f o.c), sin := (s.ctx f.core f.ctx).sin, left := false, leaveAt := none, reply := none, late := 0 }

/-- Does a die hold as many writes that are numbered and not yet applied as it may (R260)? -/
def State.dieFull (s : State) (d : Fin 9) : Bool :=
  decide (32767 ≤ (s.homeQ.filter fun q => q.die == some d.val && q.vec.isSome).length)

/-- A request to a home of this package; a write that would exceed the limit of its die waits for its number at its core (R258, R260). -/
def State.sendHome (s : State) (c : CoreId) (e : Fin 64) (r : UReq) (ready : Bool) (chunks : List (Nat × BitVec 512 × BitVec 8)) : State :=
  let write := r.kind != .gld
  let held := write && s.dieFull (dieOf c)
  let (v, s) := if held then (none, s) else if write then let q := s.stamp c r.ctx; (some q.1, q.2) else (some (s.ctx c r.ctx).cv, s)
  let q : HomeReq :=
    { kind := r.kind, lk := r.lk, held := held, pkg := s.pf.pkg.toNat, core := c.val, entry := e.val, gen := (s.core c).land[e].gen,
      chunks := chunks, op := r.op, fp := r.fp, b := r.b, die := if write then some (dieOf c).val else none, vec := v,
      at_ := s.now + 1 + Config.homeDelay s.freeCtr, who := s.who c r.ctx r.sin, part := s.partOf r.lk, ready := ready }
  ({ s.modCore c (fun k => k.modEntry e fun (x : LandEntry) => { x with req := x.req.map fun (u : UReq) => { u with left := !held } }) with
    homeQ := s.homeQ ++ [q] }).tickFree

/-- A packet to another package; a write that its port takes stays on the way until it is acknowledged (R261). -/
def State.sendFar (s : State) (c : CoreId) (e : Fin 64) (r : UReq) (chunks : List (Nat × BitVec 512 × BitVec 8)) : State :=
  let gen := (s.core c).land[e].gen
  let pa := r.pas.headD 0
  let w := s.who c r.ctx r.sin
  let s := if r.kind = .gld ∨ !s.mayQueue (podPkg pa) then s else { s with farW := ⟨c.val, e.val, gen, r.lk, s.now + r.l + 2 ^ 20⟩ :: s.farW }
  s.sendOpen 3 (podPkg pa) (s.partOf r.lk) (match r.kind with
    | .gld => .read c.val e.val gen (chunks.map Prod.fst) w
    | .gst => .write c.val e.val gen chunks w
    | .gatom => .atom c.val e.val gen pa r.op r.fp r.b w)

/-- A request leaves its core: to homes of this package, or, with its data, as a packet to another package. -/
def State.sendReq (s : State) (c : CoreId) (e : Fin 64) (r : UReq) (ready : Bool) (chunks : List (Nat × BitVec 512 × BitVec 8)) : State :=
  let s := if r.kind = .gld then s else r.pas.foldl (fun s pa => s.noteSent c r.ctx pa) s
  if podPkg (r.pas.headD 0) = s.pf.pkg.toNat then s.sendHome c e r ready chunks
  else if ready then s.sendFar c e r chunks
  else s

/-- The first write of a core that waits for a number leaves once its die has room (R260). -/
def State.leaveHeld (s : State) (c : CoreId) : State :=
  match ((List.range s.homeQ.length).zip s.homeQ).find? fun q => q.2.held && q.2.core == c.val with
  | some (n, q) =>
    if s.dieFull (dieOf c) then s
    else
      let e := Fin.ofNat 64 q.entry
      match (s.core c).land[e].req with
      | some r =>
        let (v, s) := s.stamp c r.ctx
        ({ s.modCore c (fun k => k.modEntry e fun (x : LandEntry) => { x with req := x.req.map fun (u : UReq) => { u with left := true } }) with
          homeQ := s.homeQ.set n { q with held := false, vec := some v, at_ := s.now + 1 + Config.homeDelay s.freeCtr } }).tickFree
      | none => s
  | none => s

/-- Chunks without data. -/
def bareChunks (pas : List Nat) : List (Nat × BitVec 512 × BitVec 8) := pas.map fun p => (p, 0, 0)

/-- The failing checks shared by gld, gst and gatom: alignment, a free entry, the handle (R239 to R242). -/
def State.untimedFails (s : State) (f : Focus) (h : Option Handle) (rd wr : Bool) (va align : Nat) (vas : List Nat) : List (Nat × Word) :=
  misaligned va align ++ (if (s.core f.core).freeEntry.isNone then [(0x12, 0)] else []) ++
    s.reachFails (s.partOf (s.focusLk f)) h .untimed rd wr vas

/-- Take an entry for a request. -/
def State.takeEntry (s : State) (c : CoreId) (e : Fin 64) (r : UReq) : State :=
  s.modCore c fun k => k.modEntry e fun x => { x with req := some r, freeAt := none }

/-- The failing checks of gld and gst: the local chunks, then those of the request (R240, R241). -/
def State.blockFails (s : State) (f : Focus) (o : COps) (rd wr : Bool) : List (Nat × Word) :=
  let va := (s.readX f o.b).toNat
  localFail ((s.core f.core).lcOf f.ctx) (s.readX f o.c).toNat (chunkVas (s.readX f o.c).toNat o.num) ++
    s.untimedFails f (s.handleOf f o.a) rd wr va 64 (chunkVas va o.num)

/-- The request of gld or gst, which leaves at issue (R240, R241). -/
def State.blockReq (s : State) (f : Focus) (o : COps) (kind : UKind) : UReq :=
  let va := (s.readX f o.b).toNat
  { s.ureq f o kind va (s.readX f o.c).toNat ((chunkVas va o.num).map (podOf (s.handleOf f o.a))) with
    left := true, leaveAt := some (s.cycle f) }

/-- GLD (R240). -/
def execGld (o : COps) (s : State) : Out :=
  copySlot (.gld o) "GLD" s fun f =>
    match lowest (s.blockFails f o true false), (s.core f.core).freeEntry with
    | some (x, w), _ => s.raise f 7 x w
    | none, some e =>
      let r := s.blockReq f o .gld
      (s.takeEntry f.core e r).sendReq f.core e r true (bareChunks r.pas)
    | none, none => s

/-- GST (R241): the write leaves at issue and takes its data at issue + 1. -/
def execGst (o : COps) (s : State) : Out :=
  copySlot (.gst o) "GST" s fun f =>
    match lowest (s.blockFails f o false true), (s.core f.core).freeEntry with
    | some (x, w), _ => s.raise f 7 x w
    | none, some e =>
      let r := s.blockReq f o .gst
      let acc := f.access s 7 6 .engine (s.cycle f + 1) (chunkVas (s.readX f o.c).toNat o.num) [] (.gstRd e.val)
      ((s.takeEntry f.core e r).sendReq f.core e r false (bareChunks r.pas)).addAccess f.core acc
    | none, none => s

/-- Does a handle name HBM at a VA (R242)? -/
def notHbm (h : Option Handle) (va : Nat) : Bool :=
  h.any fun h => match h.pod va with
    | .ok pa => (match regionOf (podLoc pa) with
      | .hbm _ => false
      | _ => true)
    | .error _ => false

/-- The failing checks of gatom (R242). -/
def State.gatomFails (s : State) (f : Focus) (o : COps) : List (Nat × Word) :=
  let h := s.handleOf f o.a
  let va := (s.readX f o.b).toNat
  s.untimedFails f h true true va 4 [va] ++ s.whFull f ++ if notHbm h va then [(0x21, BitVec.ofNat 64 va)] else []

/-- GATOM (R239, R242): the entry of the landing buffer is taken at issue, the withhold entry too. -/
def execGatom (o : COps) (s : State) : Out :=
  copySlot (.gatom o) "GATOM" s fun f =>
    match lowest (s.gatomFails f o), (s.core f.core).freeEntry with
    | some (x, w), _ => s.raise f 7 x w
    | none, some e =>
      let va := (s.readX f o.b).toNat
      (s.takeEntry f.core e (s.ureq f o .gatom va 0 [podOf (s.handleOf f o.a) va])).withhold f 7 (.gatom e.val)
    | none, none => s

/-- The data of a gst have been read: the write goes to its home (R241). -/
def State.gstData (s : State) (c : CoreId) (entry : Nat) (data : List (BitVec 512 × BitVec 8)) : State :=
  let e := Fin.ofNat 64 entry
  let le := (s.core c).land[e]
  match le.req with
  | some r =>
    let chunks := (r.pas.zip data).map fun q => (q.1, q.2.1, q.2.2)
    if podPkg (r.pas.headD 0) = s.pf.pkg.toNat then
      ({ s with homeQ := s.homeQ.map fun (q : HomeReq) =>
          if q.pkg = s.pf.pkg.toNat ∧ q.core = c.val ∧ q.entry = e.val ∧ q.gen = le.gen then
            { q with chunks := chunks, ready := true, at_ := s.now + 1 + Config.homeDelay s.freeCtr }
          else q }).tickFree
    else s.sendReq c e r true chunks
  | none => s

/-- Released gatom entries leave on their cycles, each once: one that its die holds back waits in the queue of its home (R242, R258, R260). -/
def State.gatomLeave (s : State) (c : CoreId) : State :=
  (List.finRange 64).foldl (fun s e =>
    match (s.core c).land[e].req with
    | some r =>
      if r.kind = .gatom ∧ r.leaveAt.any (fun a => decide (a ≤ (s.core c).cyc)) then
        let s := s.modCore c fun k => k.modEntry e fun x => { x with req := some { r with leaveAt := none } }
        s.sendReq c e r true (bareChunks r.pas)
      else s
    | none => s) s

/-- Number n of a die counts as applied on every die (R259). -/
def advanceDone (ahead : List (BitVec 16)) : Nat → BitVec 16 → BitVec 16
  | 0, d => d
  | k + 1, d => if ahead.contains (d + 1) then advanceDone ahead k (d + 1) else d

/-- A numbered write of die e has been applied, or will never be: DONE follows (R259). -/
def State.noteDone (s : State) (e : Fin 9) (n : BitVec 16) : State :=
  let ahead := n :: (s.die e).ahead
  let d := advanceDone ahead ahead.length ((s.die e).done[e])
  let s := s.modDie e fun x => { x with ahead := ahead.filter fun a => diff16 a d > 0 }
  { s with dies := s.dies.map fun x => { x with done := x.done.set e d } }

/-- Cancel the untimed requests of a context that a predicate names: entries free with a new generation; a write that never got its data is counted as applied (R250, R259). -/
def State.cancelReqs (s : State) (c : CoreId) (p : Fin 64 → UReq → Bool) : State :=
  (List.finRange 64).foldl (fun s e =>
    let le := (s.core c).land[e]
    match le.req with
    | some r =>
      if p e r ∧ le.freeAt.isNone then
        let own (q : HomeReq) : Bool := q.pkg == s.pf.pkg.toNat && q.core == c.val && q.entry == e.val && q.gen == le.gen && (!q.ready || q.held)
        let dead := s.homeQ.filter own
        let s := { s with homeQ := s.homeQ.filter fun q => !own q }
        let s := dead.foldl (fun s q => match q.die.bind dieOf?, q.vec with
          | some d, some v => s.noteDone d v[d]
          | _, _ => s) s
        s.modCore c fun k => k.modEntry e LandEntry.free
      else s
    | none => s) s

/-! ### The race detector (R266 to R269) -/

/-- The 32-byte sectors that an access touches. -/
def sectorsOf (kind : UKind) (chunks : List (Nat × BitVec 512 × BitVec 8)) : List Nat :=
  match kind with
  | .gatom => chunks.map fun c => podLoc c.1 / 32
  | _ => chunks.flatMap fun c => [podLoc c.1 / 32, podLoc c.1 / 32 + 1]

/-- The home die of a watched sector, with the virtual function whose partition watches it (R266). Host-window bytes are not watched. -/
def State.watchedAt (s : State) (k : Nat) : Option (Fin 9 × Fin 9) :=
  match regionOf (32 * k) with
  | .hbm d => (dieOf? d).bind fun h => (vfOf (s.pf.partmap[h].toNat)).bind fun n => if s.raceMode (n.val + 1) = 0 then none else some (h, n)
  | _ => none

/-- common_scope of two global context identifiers: 2 same die, 3 same package, 4 else (R268). -/
def commonScope (a b : Nat) : Nat :=
  if a / 2048 ≠ b / 2048 then 4 else if a % 2048 / 4 / 36 = b % 2048 / 4 / 36 then 2 else 3

/-- Level 2, 3 or 4 of a triple. -/
def level {α : Type} (v : Vector α 3) (s : Nat) : α := v[(if s ≤ 2 then 0 else if s = 3 then 1 else 2 : Fin 3)]

/-- race_check of R268 on one shadow entry: the scope required when it is a race. -/
def Die.raceCheck (d : Die) (e : Option Shadow) (atomic : Bool) (w : Who) : Option Nat :=
  match e with
  | none => none
  | some e =>
    if e.wr = w.gcid then none
    else if atomic && e.atomic then none
    else
      let sc := max e.wsc (commonScope e.wr w.gcid)
      match d.announce.find? (fun a => a.1 == e.wr) with
      | some (_, rsin, rtick) =>
        if diff16 (level rsin sc) e.wsin > 0 ∧ level rtick sc ≤ level w.atick sc then none else some sc
      | none => some sc

/-- A race found at a home: the mode of its partition, its virtual function, the sector and the scope that was required (R268, R269). -/
structure RaceHit where
  mode : Nat
  vf : Fin 9
  sector : Nat
  scope : Nat

/-- The shadow entry of a sector; one that stands under another key than it was written with is an undefined value (R266, R359). -/
def State.shadowAt (s : State) (k : Nat) : Option Shadow :=
  match s.scramble (shadowAddr k) with
  | some g =>
    let e := BitVec.ofNat 48 (packNat 8 ((List.range 6).map fun i => (Config.scrambledByte g (shadowAddr k + i)).toNat))
    if e.getLsbD 43 then some ⟨e.getLsbD 42, (bits e 39 3 : BitVec 3).toNat, (bits e 16 23 : BitVec 23).toNat, bits e 0 16⟩ else none
  | none => tabGet? s.shadows k

/-- The races of a request, sector by sector, each at its own home (R268). -/
def State.races (s : State) (q : HomeReq) : List RaceHit :=
  (sectorsOf q.kind q.chunks).filterMap fun k => (s.watchedAt k).bind fun w =>
    ((s.die w.1).raceCheck (s.shadowAt k) (q.kind == .gatom) q.who).map fun sc => ⟨s.raceMode (w.2.val + 1), w.2, k, sc⟩

/-- WSC of a writer at a home (R266). -/
def State.wscOf (s : State) (home : Fin 9) (gcid : Nat) : Nat :=
  if gcid / 2048 ≠ s.pf.pkg.toNat then 4 else if gcid % 2048 / 4 / 36 = home.val then 2 else 3

/-- The shadow entries of the watched sectors after a write (R268). -/
def State.setShadows (s : State) (q : HomeReq) : State :=
  let ks := (sectorsOf q.kind q.chunks).filterMap fun k => (s.watchedAt k).map fun w => (k, w.1)
  { s with
    shadows := ks.foldl (fun t k => tabSet t k.1 ⟨q.kind == .gatom, s.wscOf k.2 q.who.gcid, q.who.gcid, q.who.sin⟩) s.shadows
    scrambled := ks.foldl (fun l k => carve (shadowAddr k.1) (shadowAddr k.1 + 8) l) s.scrambled }

/-- One record of the race log (R269). -/
def State.logRace (s : State) (n : Fin 9) (q : HomeReq) (k sc : Nat) : State :=
  let v := s.vfs[n]
  let e := (s.shadowAt k).getD ⟨false, 0, 0, 0⟩
  let who : BitVec 32 := BitVec.ofNat 32 (q.who.gcid + (if q.kind = .gld then 0 else 2 ^ 23) + (if q.kind = .gatom then 2 ^ 24 else 0))
  let last : BitVec 32 := BitVec.ofNat 32 (e.wr + (if e.atomic then 2 ^ 23 else 0) + e.wsc * 2 ^ 24)
  let rec_ : BitVec 256 := (BitVec.ofNat 40 0 ++ BitVec.ofNat 8 sc ++ e.wsin ++ BitVec.ofNat 64 s.now ++
    BitVec.ofNat 64 (podAddr s.pf.pkg.toNat (32 * k)) ++ last ++ who)
  let at_ := (bits v.racepol 12 28 : BitVec 28).toNat * 4096 + 32 * v.raceNext.toNat
  (s.putHbm at_ 32 rec_.toNat 0).modVf n fun v => { v with raceNext := v.raceNext + 1, raceTotal := satAdd v.raceTotal 1 }

/-! ### Homes (R257 to R260) -/

/-- may_apply of R259 for a write of die d with stamp v. -/
def mayApply (done v : Vector (BitVec 16) 9) (d : Fin 9) : Bool :=
  (List.finRange 9).all fun e => decide (diff16 done[e] (if e = d then v[e] - 1 else v[e]) ≥ 0)

/-- may_serve of R259. -/
def mayServe (done need : Vector (BitVec 16) 9) : Bool := (List.finRange 9).all fun e => decide (diff16 done[e] need[e] ≥ 0)

/-- The homes of a request's chunks (R257). -/
def HomeReq.homes (q : HomeReq) : List (Fin 9) := (q.chunks.filterMap fun c => homeDie (podLoc c.1)).eraseDups

/-- May the homes of a queued request perform it now, all its chunks at one moment (log entry 105)? Requests of other packages carry no vector (R259, R261). -/
def State.homeMay (s : State) (q : HomeReq) : Bool :=
  q.ready && !q.held && decide (q.at_ ≤ s.now) && q.homes.all fun h =>
    match q.die.bind dieOf?, q.vec with
    | some d, some v => mayApply (s.die h).done v d
    | _, some c => mayServe (s.die h).done c
    | _, none => true

/-- May the home perform request number n now? -/
def State.homeReady (s : State) (n : Nat) : Bool := (s.homeQ[n]?).any fun q => s.homeMay q

/-- The host address of a host-window offset for a partition (R55). -/
def State.hostAddr (s : State) (part off : Nat) : Nat :=
  match vfOf part with
  | some n => s.vfs[n].hwbase.toNat * 2 ^ 36 + off
  | none => off

/-- The number of the 4-byte word at an address of untimed memory; words of host memory stand above 2^38 (R258). -/
def State.stampKey (s : State) (part loc : Nat) : Nat :=
  (match regionOf loc with
  | .host o => 2 ^ 40 + s.hostAddr part o
  | _ => loc) / 4

/-- The stamps of the last writes of n words, of those that have one (R258; log entry 83). -/
def State.stampsOf (s : State) (part loc n : Nat) : List (Vector (BitVec 16) 9) :=
  (List.range n).filterMap fun i => tabGet? s.stamps (s.stampKey part loc + i)

/-- n words from number k on take a stamp, or have none any more. -/
def State.setStamps (s : State) (k n : Nat) (v : Option (Vector (BitVec 16) 9)) : State :=
  { s with stamps := (List.range n).foldl (fun t i => match v with
      | some v => tabSet t (k + i) v
      | none => tabDel t (k + i)) s.stamps }

/-- n bytes at a package-local address of untimed memory, for a partition. -/
def State.homeRead (s : State) (part loc n : Nat) : Nat :=
  match regionOf loc with
  | .hbm _ => s.hbm loc n
  | .host o => s.hostMem.span (s.hostAddr part o) n
  | _ => 0

/-- n bytes written at a package-local address of untimed memory, for a partition. -/
def State.homeWrite (s : State) (part loc n v : Nat) (marks : BitVec 8) : State :=
  match regionOf loc with
  | .hbm _ => s.putHbm loc n v marks
  | .host o => { s with hostMem := s.hostMem.write (s.hostAddr part o) n v }
  | _ => s

/-- Answer a request: to a core of this package, or as a packet (R240 to R242, R261). -/
def State.homeAnswer (s : State) (q : HomeReq) (data : List (BitVec 512 × BitVec 8)) (old : BitVec 32) (race : Option Word)
    (stamps : List (Vector (BitVec 16) 9)) : State :=
  if q.pkg = s.pf.pkg.toNat then
    let m : ReplyMsg := ⟨q.core, q.entry, q.gen, s.now + 1 + Config.replyDelay s.freeCtr, ⟨data, old, race⟩, stamps⟩
    ({ s with replies := s.replies ++ [m] }).tickFree
  else
    s.sendOpen 3 q.pkg q.part (match q.kind with
      | .gld => .readReply q.core q.entry q.gen data race
      | .gst => .writeAck q.core q.entry q.gen race
      | .gatom => .atomReply q.core q.entry q.gen old race)

/-- Take request number n off the queue. -/
def State.dropReq (s : State) (n : Nat) : State := { s with homeQ := s.homeQ.eraseIdx n }

/-- The number of a write counts as applied (R259). -/
def State.reqDone (s : State) (q : HomeReq) : State :=
  match q.die.bind dieOf?, q.vec with
  | some d, some v => s.noteDone d v[d]
  | _, _ => s

/-- The records of mode 2 (R269). -/
def State.logRaces (s : State) (q : HomeReq) (l : List RaceHit) : State :=
  (l.filter fun r => r.mode == 2).foldl (fun s r => s.logRace r.vf q r.sector r.scope) s

/-- The race mark of mode 1 (R269): the first racing sector. -/
def raceMark (pkg : Nat) (l : List RaceHit) : Option Word :=
  (l.find? fun r => r.mode == 1).map fun r => BitVec.ofNat 64 (podAddr pkg (32 * r.sector))

/-- HOME_SERVE_READ (R257, R259, R268): n is the request's place in the queue. -/
def execHomeServeRead (n : Nat) (s : State) : Out :=
  match s.homeQ[n]? with
  | some q =>
    if q.kind = .gld ∧ s.homeMay q then
      let j := s.races q
      let s := s.dropReq n
      match raceMark s.pf.pkg.toNat j with
      | some m => .next (s.homeAnswer q [] 0 (some m) [])
      | none =>
        let s := s.logRaces q j
        let data := q.chunks.map fun c =>
          (BitVec.ofNat 512 (s.homeRead q.part (podLoc c.1) 64), match regionOf (podLoc c.1) with
            | .hbm _ => s.chunkPoison (podLoc c.1)
            | _ => 0)
        .next (s.homeAnswer q data 0 none (q.chunks.flatMap fun c => s.stampsOf q.part (podLoc c.1) 16))
    else .fault (.notDue "HOME_SERVE_READ")
  | none => .fault (.notDue "HOME_SERVE_READ")

/-- Races that a request makes are logged, and the shadows take it where its sectors are watched (R266, R268, R269). -/
def State.noteRace (s : State) (q : HomeReq) (j : List RaceHit) : State := (s.logRaces q j).setShadows q

/-- The stamp that a write leaves: the vector of its context, none for a write of another package (R258, R261). -/
def HomeReq.stamp (q : HomeReq) : Option (Vector (BitVec 16) 9) := if q.die.isSome then q.vec else none

/-- One chunk of a gst is written, with its stamp (R241, R258). -/
def State.homeChunk (s : State) (q : HomeReq) (c : Nat × BitVec 512 × BitVec 8) : State :=
  (s.homeWrite q.part (podLoc c.1) 64 c.2.1.toNat c.2.2).setStamps (s.stampKey q.part (podLoc c.1)) 16 q.stamp

/-- The read and write of a gatom, and its answer (R186, R242, R258). -/
def State.homeAtom (s : State) (q : HomeReq) : State :=
  let loc := podLoc ((q.chunks.headD (0, 0, 0)).1)
  let old := BitVec.ofNat 32 (s.homeRead q.part loc 4)
  ((s.homeWrite q.part loc 4 (amoValue q.op q.fp old q.b).toNat 0).setStamps (s.stampKey q.part loc) 1 q.stamp).homeAnswer q [] old none
    (q.stamp.toList ++ s.stampsOf q.part loc 1)

/-- HOME_APPLY_WRITE (R257, R259, R268): a gst, or the read and write of a gatom (R186, R242). -/
def execHomeApplyWrite (n : Nat) (s : State) : Out :=
  match s.homeQ[n]? with
  | some q =>
    if q.kind ≠ .gld ∧ s.homeMay q then
      let j := s.races q
      let s := (s.dropReq n).reqDone q
      match raceMark s.pf.pkg.toNat j, q.kind with
      | some m, _ => .next (s.homeAnswer q [] 0 (some m) [])
      | none, .gatom => .next ((s.noteRace q j).homeAtom q)
      | none, _ => .next ((q.chunks.foldl (fun s c => s.homeChunk q c) (s.noteRace q j)).homeAnswer q [] 0 none [])
    else .fault (.notDue "HOME_APPLY_WRITE")
  | none => .fault (.notDue "HOME_APPLY_WRITE")

/-! ### Replies (R240 to R242, R247) -/

/-- Does a reply find its request (R247)? -/
def State.replyFits (s : State) (r : ReplyMsg) : Bool :=
  match coreOf r.core with
  | some c =>
    let e := (s.core c).land[Fin.ofNat 64 r.entry]
    e.gen == r.gen && e.req.any (fun q => q.reply.isNone)
  | none => false

/-- A reply that fits waits in its entry; its stamps are merged into the context's CV (R240, R258). -/
def State.takeReply (s : State) (r : ReplyMsg) : State :=
  match coreOf r.core with
  | some c =>
    let e := Fin.ofNat 64 r.entry
    match (s.core c).land[e].req with
    | some q =>
      let s := s.modCore c fun k => k.modEntry e fun x => { x with req := some { q with reply := some r.reply } }
      s.modCtx c q.ctx fun k => { k with cv := r.stamps.foldl (fun cv v => mergeCv v cv) k.cv }
    | none => s
  | none => s

/-- SPOIL (R247): the first reply due for a core that fits no request is dropped and counted. -/
def execSpoil (core : CoreId) (s : State) : Out :=
  match s.replies.find? (fun r => decide (r.at_ ≤ s.now) && r.core == core.val && !s.replyFits r) with
  | some r => .next (({ s with replies := s.replies.erase r }).modCore core fun k => { k with spoil := satAdd k.spoil 1 })
  | none => .fault (.notDue "SPOIL")

/-! ### Landing -/

/-- Is a request due on a core's cycle (R243)? -/
def UReq.isDue (r : UReq) (cyc : Nat) : Bool := r.due.any fun d => decide (d ≤ cyc)

/-- A trap of an untimed request. -/
def UReq.trap (r : UReq) (cause : Nat) (addr : Word) : Trap :=
  { ctx := r.ctx, lk := r.lk, cause := cause, part := 7, eng := 6, addr := addr, bundle := r.bundle, origin := r.issued, pslot := 0,
    frow := 0, pod := false }

/-- A request of a kind, due with its reply, in an entry. -/
def Core.landing (k : Core) (e : Fin 64) (kind : UKind) : Option (UReq × Reply) :=
  match k.land[e].req, k.land[e].freeAt with
  | some r, none => if r.kind = kind ∧ r.isDue k.cyc then r.reply.map fun p => (r, p) else none
  | _, _ => none

/-- The entry is freed on the next cycle (R239). -/
def Core.freeNext (k : Core) (e : Fin 64) : Core := k.modEntry e fun x => { x with freeAt := some (k.cyc + 1) }

/-- GLD_LANDING (R240, R269, R329): the chunks are written on this cycle, or the race mark traps 0x40. -/
def execGldLanding (core : CoreId) (entry : Fin 64) (s : State) : Out :=
  match (s.core core).landing entry .gld with
  | none => .fault (.notDue "GLD_LANDING")
  | some (r, p) =>
    let s := s.modCore core fun k => k.freeNext entry
    match p.race with
    | some a => .next (s.modCore core fun k => k.addTrap (r.trap 0x40 a))
    | none =>
      .next (s.addAccess core
        { due := (s.core core).cyc, byTick := false, party := .landing, always := false, prio := 0, ctx := r.ctx, lk := r.lk,
          issued := r.issued, part := 7, eng := 1, bundle := r.bundle, rd := [],
          wr := zipWrites (chunkVas r.loc p.data.length) p.data, tagR := none, tagW := [], zero := [], hold := none, act := .write,
          lost := [] })

/-- GST_ACK (R241, R269). -/
def execGstAck (core : CoreId) (entry : Fin 64) (s : State) : Out :=
  match (s.core core).landing entry .gst with
  | none => .fault (.notDue "GST_ACK")
  | some (r, p) =>
    let s := s.modCore core fun k => k.freeNext entry
    match p.race with
    | some a => .next (s.modCore core fun k => k.addTrap (r.trap 0x40 a))
    | none => .next s

/-- GATOM_VALUE (R76, R177, R242, R269): the value joins the results of this cycle; with NW it reaches only bc, with x0 nothing. -/
def execGatomValue (core : CoreId) (entry : Fin 64) (s : State) : Out :=
  match (s.core core).landing entry .gatom with
  | none => .fault (.notDue "GATOM_VALUE")
  | some (r, p) =>
    let s := s.modCore core fun k => k.freeNext entry
    match p.race with
    | some a => .next (s.modCore core fun k => k.addTrap (r.trap 0x40 a))
    | none =>
      if !r.nw && r.d == 0 then .next s
      else
        .next (s.addResult core
          { ctx := r.ctx, lk := r.lk, issued := r.issued, part := 7, due := (s.core core).cyc, byTick := false, dest := destX r.d r.nw,
            val := (amoOld r.fp p.old).zeroExtend 4096, wen := allLanes, latch := some 5, fl := 0, toCk := true })

/-- Periods after its due cycle at which a request times out (R247). -/
def timeoutPeriods : Nat := 2 ^ 20

/-- Has a request of an entry timed out (R247)? -/
def Core.timedOut (k : Core) (e : Fin 64) : Option UReq :=
  match k.land[e].req, k.land[e].freeAt with
  | some r, none => if r.reply.isNone ∧ timeoutPeriods ≤ r.late then some r else none
  | _, _ => none

/-- LANDING_TIMEOUT (R247): the entry is freed with a new generation, and the context traps 0x14. A write to another package that has left stays on the way (R261). -/
def execLandingTimeout (core : CoreId) (entry : Fin 64) (s : State) : Out :=
  match (s.core core).timedOut entry with
  | none => .fault (.notDue "LANDING_TIMEOUT")
  | some r =>
    .next (s.modCore core fun k =>
      let k := k.modEntry entry LandEntry.free
      ({ k with timeout := satAdd k.timeout 1 }).addTrap (r.trap 0x14 (BitVec.ofNat 64 r.va)))

/-- Entries whose freeing cycle has come (R239). -/
def Core.freeEntries (k : Core) : Core :=
  { k with land := k.land.map fun e => if e.freeAt.any (fun a => decide (a ≤ k.cyc)) then e.free else e }

/-- A clock period passes for a request that is due and missing (R247). -/
def LandEntry.countOver (cyc : Nat) (e : LandEntry) : LandEntry :=
  match e.req with
  | some r => if r.isDue cyc && r.reply.isNone && e.freeAt.isNone then { e with req := some { r with late := r.late + 1 } } else e
  | none => e

/-- A clock period passes for every entry. -/
def Core.countOver (k : Core) : Core := { k with land := k.land.map fun e => e.countOver k.cyc }

/-! ### Release and acquire events (R267) -/

/-- The announcement of a release event reaches the table of a home die: the newest first, 4,096 entries (R267). -/
def Die.hear (d : Die) (gcid : Nat) (rsin : Vector (BitVec 16) 3) (rtick : Vector Nat 3) : Die :=
  { d with announce := ((gcid, rsin, rtick) :: d.announce.filter fun a => a.1 != gcid).take 4096 }

/-- Set levels 2 to sc of a triple. -/
def upTo {α : Type} (sc : Nat) (v : Vector α 3) (x : α) : Vector α 3 :=
  Vector.ofFn fun i : Fin 3 => if i.val + 2 ≤ sc then x else v[i]

/-- The homes of a package among package and die pairs, a bit each. -/
def homesIn (p : Nat) (l : List (Nat × Nat)) : BitVec 9 :=
  (l.filter fun q => q.1 == p).foldl (fun (b : BitVec 9) q => b ||| (1 <<< q.2)) 0

/-- A release event at scope sc at tick t (R267): the homes of this package hold it at once, those of others when they have answered. -/
def State.releaseEvent (s : State) (c : CoreId) (k : CtxId) (sc t : Nat) : State :=
  let s := s.modCtx c k fun x =>
    { x with sin := x.sin + 1, rsin := upTo sc x.rsin (x.sin + 1), rtick := upTo sc x.rtick t }
  let x := s.ctx c k
  let g := (s.gcid c.val k.val).toNat
  let homes := level x.sentTo sc
  let s := (List.finRange 9).foldl (fun s d => if homes.getLsbD d.val then s.modDie d fun y => y.hear g x.rsin x.rtick else s) s
  let sent := level x.sentPkg sc
  let far := (sent.map Prod.fst).eraseDups
  let s := far.foldl (fun s p => s.sendOpen 3 p (s.partOf (x.lk.getD 0)) (.release g x.rsin x.rtick (homesIn p sent))) s
  s.modCtx c k fun y => { y with
    sentTo := upTo sc y.sentTo 0, sentPkg := upTo sc y.sentPkg [], unheard := y.unheard ++ far.map fun p => (p, x.sin) }

/-- An acquire event at scope sc at tick t (R267). -/
def State.acquireEvent (s : State) (c : CoreId) (k : CtxId) (sc t : Nat) : State :=
  s.modCtx c k fun x => { x with atick := upTo sc x.atick t }

/-! ### Fences (R262 to R264) -/

/-- Does a home of a request lie within a fence's scope (R263)? -/
def State.inScope (s : State) (c : CoreId) (scope : Nat) (r : UReq) : Bool :=
  let here := podPkg (r.pas.headD 0) == s.pf.pkg.toNat
  scope == 4 || (scope == 3 && here) || (scope == 2 && here && r.pas.any fun pa => homeDie (podLoc pa) == some (dieOf c))

/-- Is something that a fence covers yet to be answered (R263, R264)? -/
def State.fenceCovers (s : State) (c : CoreId) (q : FenceSt) : Bool :=
  (List.finRange 64).any fun e => match (s.core c).land[e].req with
    | some r =>
      r.ctx == q.ctx && r.left && r.reply.isNone && s.inScope c q.scope r && ((q.rel && r.kind != .gld) || (q.acq && r.kind != .gst))
    | none => false

/-- What a fence covers has been answered: its release event takes place, and is announced (R264, R267). -/
def State.fenceTell (s : State) (c : CoreId) (q : FenceSt) : State :=
  let s := if q.rel then s.releaseEvent c q.ctx q.scope s.now else s
  s.modCore c fun k => { k with fence := some { q with told := true } }

/-- The homes concerned hold the announcement: the fence completes with its acquire event (R267). -/
def State.fenceDone (s : State) (c : CoreId) (q : FenceSt) : State :=
  let s := s.modCore c fun k => { k with fence := none }
  if q.acq then s.acquireEvent c q.ctx q.scope s.now else s

/-- The fence of a core at the start of a clock period: it moves on as far as it can; while it stands, the core is frozen (R264, R265, R267). -/
def State.fenceStep (s : State) (c : CoreId) : State :=
  match (s.core c).fence with
  | none => s
  | some q =>
    let s := if q.told || s.fenceCovers c q then s else s.fenceTell c q
    match (s.core c).fence with
    | some q => if q.told && (s.ctx c q.ctx).unheard.isEmpty then s.fenceDone c q else s
    | none => s

end Sys2Proof.Machine
end

