-- ==== Sys2Proof/Machine/Plan.lean ====
section
/-!
DEFINITION. Flit slots (R295), neighbours and links (R294), the entries of transfer programs (R302, R303), and the checks on route plans that the loader makes (R21, R22, R26 check 10, R300) and those that selection makes against PODMAP (R38 check 6).
-/

namespace Sys2Proof.Machine

/-! ### Slots (R295) -/

/-- The tick of slot k. -/
def slotTick (k : Nat) : Nat := 54 * k / 125
/-- The first slot whose tick is at or after t. -/
def firstSlot (t : Nat) : Nat := (125 * t + 53) / 54
/-- Is a slot an open slot? -/
def openSlot (k : Nat) : Bool := k % 8 == 7
/-- The scheduled slots below slot k. -/
def schedBelow (k : Nat) : Nat := 7 * (k / 8) + min (k % 8) 7
/-- Scheduled slot number o, counted from slot 0. -/
def schedSlot (o : Nat) : Nat := 8 * (o / 7) + o % 7
/-- The j-th scheduled slot at or after tick t (R304). -/
def slotFrom (t j : Nat) : Nat := schedSlot (schedBelow (firstSlot t) + j)
/-- Its tick. -/
def sendTick (t j : Nat) : Nat := slotTick (slotFrom t j)

/-! ### Ports and links (R294) -/

/-- The step of a port along the ring axes (R294). -/
def portStep (rings : List Nat) (p : Nat) : List Nat :=
  let half (a : Nat) : Nat := let l := rings.getD a 1; if l = 1 then 0 else l / 2
  match p with
  | 8 => [half 0, half 1, 0, 0]
  | 9 => [0, 0, half 2, half 3]
  | 10 => [half 0, 0, half 2, 0]
  | 11 => [0, half 1, 0, half 3]
  | p => (List.range 4).map fun a => if a = p / 2 then (if p % 2 = 0 then 1 else rings.getD a 1 - 1) else 0

/-- The neighbour that a port of a package reaches (R294). -/
def portNeighbour (rings : List Nat) (pkg p : Nat) : Nat :=
  uncoords rings (((coords rings pkg).zip (portStep rings p)).map fun q => q.1 + q.2)

/-- The neighbour of a port of this package; none when the port is unconnected. -/
def State.neighbour (s : State) (p : Nat) : Option Nat :=
  let n := portNeighbour s.rings s.pf.pkg.toNat p
  if n = s.pf.pkg.toNat then none else some n

/-- The port at the far end of a link: + and − of an axis are two ends of one link, a chord is its own inverse (R294). -/
def farPort (p : Nat) : Nat := if p ≥ 8 then p else if p % 2 = 0 then p + 1 else p - 1

/-- A link key (R13). -/
def linkKey (index port : Nat) : Nat := 16 * index + port

/-! ### Entries (R302, R303) -/

/-- Fields of an entry. -/
def peToff (e : BitVec 128) : Nat := (bits e 104 24 : BitVec 24).toNat
def peLaddr (e : BitVec 128) : Nat := (bits e 64 40 : BitVec 40).toNat
def peTag (e : BitVec 128) : BitVec 16 := bits e 48 16
def peFlits (e : BitVec 128) : Nat := (bits e 40 8 : BitVec 8).toNat + 1
def peOport (e : BitVec 128) : Nat := (bits e 36 4 : BitVec 4).toNat
def peIport (e : BitVec 128) : Nat := (bits e 32 4 : BitVec 4).toNat
def peK (e : BitVec 128) : Bool := e.getLsbD 3
/-- KIND: 0 SEND, 1 FWD, 2 RECV, 3 GUARD, 4 BAR. -/
def peKind (e : BitVec 128) : Nat := (bits e 0 3 : BitVec 3).toNat

/-- NPROG and NGROUP of a plan (R301). -/
def planProgs (d : Nat) : Nat := planFld d 0 2
def planGroups (d : Nat) : Nat := planFld d 2 2
/-- The directory record of a program: first byte and entries (R302). -/
def planDir (d i p : Nat) : Nat × Nat :=
  let o := planFld d 16 8 + 8 * (i * planProgs d + p)
  (planFld d o 4, planFld d (o + 4) 4)
/-- The entries of program p of package index i (R302). -/
def planEntries (d i p : Nat) : List (BitVec 128) :=
  let r := planDir d i p
  (List.range r.2).map fun n => BitVec.ofNat 128 (planFld d (r.1 + 16 * n) 16)
/-- The link table: key and flight time F (R302). -/
def planLinks (d : Nat) : List (Nat × Nat) :=
  (List.range (planFld d 48 4)).map fun i => (planFld d (planFld d 32 8 + 8 * i) 4, planFld d (planFld d 32 8 + 8 * i + 4) 4)

/-- F of the link at a port of index i, whose far end has index j: the link stands under its lower end (R294, R301). -/
def planFlight (d i port j : Nat) : Option Nat :=
  let key := if i ≤ j then linkKey i port else linkKey j (farPort port)
  ((planLinks d).find? fun l => l.1 == key).map Prod.snd

/-- Has an entry of a running program with effective start b passed (R297, R300, R303)? SEND, FWD and RECV when all their flits are done, GUARD after its span, BAR after the last slot it reserves. -/
def Flow.isOver (w : Flow) (b now : Nat) : Bool :=
  match peKind w.entry with
  | 0 | 1 => decide (peFlits w.entry ≤ w.sent)
  | 2 => decide (peFlits w.entry ≤ w.wrote)
  | 3 => decide (b + peToff w.entry + 512 ≤ now)
  | _ => decide (sendTick (b + peToff w.entry) (peFlits w.entry - 1) < now)

/-- Has a program passed its last entry (R297, R306)? -/
def Run.isOver (r : Run) (now : Nat) : Bool := r.flows.all fun w => w.isOver r.b now

/-! ### The tables of a plan (R301, R302) -/

/-- Do two spans of bytes, first and count, share a byte? -/
def spansMeet (a b : Nat × Nat) : Bool := decide (0 < a.2) && decide (0 < b.2) && decide (a.1 < b.1 + b.2) && decide (b.1 < a.1 + a.2)

/-- Is no span of a list met by a later one? -/
def spansApart : List (Nat × Nat) → Bool
  | [] => true
  | a :: l => !l.any (spansMeet a) && spansApart l

/-- The programs of a plan by package index and program. -/
def planKeys (npkg d : Nat) : List (Nat × Nat) := (List.range npkg).flatMap fun i => (List.range (planProgs d)).map fun p => (i, p)

/-- Are the tables of a plan of len bytes laid out as R301 and R302 say? -/
def planTablesOk (npkg len d : Nat) : Bool :=
  let offs := [planFld d 16 8, planFld d 24 8, planFld d 32 8, planFld d 40 8]
  let sizes := [8 * npkg * planProgs d, 2 * npkg, 8 * planFld d 48 4, 16 * planFld d 52 4]
  let tables := (0, 64) :: offs.zip sizes
  let progs := (planKeys npkg d).map fun k => ((planDir d k.1 k.2).1, 16 * (planDir d k.1 k.2).2)
  let times := (List.range (planFld d 52 4)).map fun i => planFld d 40 8 + 16 * i
  decide (64 ≤ len) && decide (1 ≤ planProgs d) && decide (planProgs d ≤ 256) && decide (1 ≤ planGroups d) && decide (planGroups d ≤ 3072) &&
    planFld d 56 8 == 0 && (tables ++ progs).all (fun t => t.1 % 16 == 0 && decide (t.1 + t.2 ≤ len)) && spansApart tables &&
    progs.all (fun p => !tables.any (spansMeet p)) &&
    rising ((planLinks d).map Prod.fst) && (planLinks d).all (fun l => decide (l.1 / 16 < npkg) && decide (l.1 % 16 ≤ 11)) &&
    rising (times.map fun o => 4096 * 16 * planFld d o 2 + planFld d (o + 2) 2) && times.all (fun o => planFld d (o + 4) 4 == 0)

/-! ### The entries of a program (R22, R300, R303) -/

/-- The use that an entry makes of a port: sending or receiving, the port, TOFF of the sending entry, flits, the flight time, and the entry's number. -/
structure PortUse where
  tx : Bool
  port : Nat
  toff : Nat
  flits : Nat
  f : Nat
  n : Nat
  deriving DecidableEq, Repr

/-- The ticks of a use, at effective start tick b. -/
def PortUse.ticks (u : PortUse) (b : Nat) : List Nat := (List.range u.flits).map fun j => sendTick (b + u.toff) j + u.f

/-- An entry alone: its kind and the fields it must leave zero (R22, R303). -/
def entryShapeOk (members : List Nat) (e : BitVec 128) : Bool :=
  let k := peKind e
  decide (k ≤ 4) && (bits e 4 28 : BitVec 28) == 0 && (k == 2 || !peK e) && (k != 3 || peFlits e == 1) &&
    (k == 2 || decide (peOport e ≤ 11)) && ((k != 1 && k != 2) || decide (peIport e ≤ 11)) &&
    (if k = 0 ∨ k = 2 then
      peLaddr e % 128 == 0 && match regionOf (peLaddr e) with
        | .pad c a => members.contains c.val && decide (a + 128 * peFlits e ≤ 0x600000)
        | _ => false
    else peLaddr e == 0)

/-- The entry that sends to a FWD or RECV: of the far end's program, on that link (R303). -/
def feederOf (far : List (BitVec 128)) (e : BitVec 128) : Option (BitVec 128) :=
  let on := far.filter fun x => (peKind x == 0 || peKind x == 1) && peOport x == farPort (peIport e)
  (if peKind e = 2 then on.filter fun x => peToff x == peToff e else on.filter fun x => decide (peToff x < peToff e)).getLast?

/-- The uses of ports by the entries of a program that send (R295, R304). -/
def sendUses (es : List (BitVec 128)) : List PortUse :=
  ((List.range es.length).zip es).filterMap fun q =>
    if peKind q.2 = 2 ∨ peKind q.2 = 3 then none else some ⟨true, peOport q.2, peToff q.2, peFlits q.2, 0, q.1⟩

/-- The GUARD spans of a program: port and TOFF (R300). -/
def guardSpans (es : List (BitVec 128)) : List (Nat × Nat) := (es.filter fun e => peKind e == 3).map fun e => (peOport e, peToff e)

/-- Do two entries use one port in one direction on one tick, at start tick b (R22)? -/
def usesMeet (b : Nat) (u v : PortUse) : Bool :=
  u.tx == v.tx && u.port == v.port && u.n != v.n && (u.ticks b).any fun t => (v.ticks b).contains t

/-- Does a use fall within a GUARD span of its port, at start tick b (R22, R300)? -/
def useInGuard (b : Nat) (g : Nat × Nat) (u : PortUse) : Bool :=
  u.port == g.1 && (u.ticks b).any fun t => decide (b + g.2 ≤ t) && decide (t ≤ b + g.2 + 511)

/-- Ticks in rising order. -/
def insertTick (t : Nat) : List Nat → List Nat
  | [] => [t]
  | a :: l => if t ≤ a then t :: a :: l else a :: insertTick t l

/-- The runs of 512 ticks and more without a flit, from the tick `at_` on: first and last tick (R300). -/
def quietRuns : Nat → List Nat → List (Nat × Nat)
  | _, [] => []
  | at_, t :: l => (if t ≥ at_ + 512 then [(at_, t - 1)] else []) ++ quietRuns (max at_ (t + 1)) l

/-- Intervals in rising order of their first tick. -/
def insertSpan (q : Nat × Nat) : List (Nat × Nat) → List (Nat × Nat)
  | [] => [q]
  | a :: l => if q.1 ≤ a.1 then q :: a :: l else a :: insertSpan q l

/-- Does no more than 2¹⁸ ticks pass between intervals, and before the end (R300)? -/
def gapsOk : Nat → Nat → List (Nat × Nat) → Bool
  | at_, last, [] => decide (last ≤ at_ + 2 ^ 18)
  | at_, last, q :: l => decide (q.1 ≤ at_ + 2 ^ 18) && gapsOk (max at_ (q.2 + 1)) last l

/-- Guard intervals on a port often enough, at start tick b (R300). -/
def guardedOk (b port : Nat) (us : List PortUse) (gs : List (Nat × Nat)) : Bool :=
  let ts := ((us.filter fun u => u.port == port).flatMap fun u => u.ticks b).foldl (fun l t => insertTick t l) []
  let spans := (gs.filter fun g => g.1 == port).map fun g => (b + g.2, b + g.2 + 511)
  gapsOk b (ts.getLastD b) ((quietRuns b ts ++ spans).foldl (fun l q => insertSpan q l) [])

/-- Do the uses of a program keep apart, for every residue of the start tick modulo 432 (R22, R300)? `ports` are those whose guard intervals are judged. -/
def usesOk (us : List PortUse) (gs : List (Nat × Nat)) (ports : List Nat) : Bool :=
  (List.range 432).all fun b =>
    us.all (fun u => !us.any (usesMeet b u) && !gs.any (fun g => useInGuard b g u)) && ports.all fun p => guardedOk b p us gs

/-- Do the GUARD spans of one port keep apart (R300)? -/
def guardsApart : List (Nat × Nat) → Bool
  | [] => true
  | g :: l => !l.any (fun h => h.1 == g.1 && decide (g.2 < h.2 + 512) && decide (h.2 < g.2 + 512)) && guardsApart l

/-- The ports that a program names. -/
def portsOf (es : List (BitVec 128)) : List Nat :=
  (List.range 12).filter fun p => es.any fun e => (peKind e != 2 && peOport e == p) || ((peKind e == 1 || peKind e == 2) && peIport e == p)

/-- Does an entry send on its OPORT (R303)? -/
def peSends (e : BitVec 128) : Bool := peKind e == 0 || peKind e == 1 || peKind e == 4

/-- Does an entry receive on its IPORT (R303)? -/
def peReceives (e : BitVec 128) : Bool := peKind e == 1 || peKind e == 2

/-- Do two RECV entries of a program expect the flits of one sending entry: of one port and one TOFF (R22, R303)? -/
def recvsMeet : List (BitVec 128) → Bool
  | [] => false
  | e :: l => (peKind e == 2 && l.any fun x => peKind x == 2 && peIport x == peIport e && peToff x == peToff e) || recvsMeet l

/-- The links that a port of a package index may be, by keys: its own, or one named at the far end; which of those it is, and whether it is named by the right end, only PODMAP can judge (R13, R294). -/
def portLinks (ks : List Nat) (i port : Nat) : List Nat :=
  ks.filter fun k => k == linkKey i port || k % 16 == farPort port

/-- The flight time of the link at a port of a package index, where it can be told without PODMAP: its own key stands in the table, or every link that the port may be has the same (R22, R301). -/
def loaderFlight (links : List (Nat × Nat)) (i port : Nat) : Option Nat :=
  match links.find? fun l => l.1 == linkKey i port with
  | some l => some l.2
  | none =>
    match (portLinks (links.map Prod.fst) i port).filterMap fun k => (links.find? fun l => l.1 == k).map Prod.snd with
    | f :: fs => if fs.all (· == f) then some f else none
    | [] => none

/-- The uses of ports by the RECV entries of a program whose flight times the loader knows (R22, R303, R304). -/
def recvKnown (links : List (Nat × Nat)) (i : Nat) (es : List (BitVec 128)) : List PortUse :=
  ((List.range es.length).zip es).filterMap fun q =>
    if peKind q.2 = 2 then (loaderFlight links i (peIport q.2)).map fun f => ⟨false, peIport q.2, peToff q.2, peFlits q.2, f, q.1⟩ else none

/-- Can every port that a program of index i names be a link of the plan's table (R301, R302)? The far ends are judged at selection; a GUARD counts as a use of its port (DEDUCED, log 130). -/
def portsListed (ks : List Nat) (i : Nat) (es : List (BitVec 128)) : Bool := (portsOf es).all fun p => !(portLinks ks i p).isEmpty

/-- A program as the loader judges it, without the far ends of its links: `rx` are the uses by RECV entries that it can tell (R22, R300, R303). -/
def programOk (members : List Nat) (lost : Bool) (rx : List PortUse) (es : List (BitVec 128)) : Bool :=
  let receives (p : Nat) : Bool := es.any fun e => peReceives e && peIport e == p
  es.all (entryShapeOk members) && climbing (es.map peToff) && !(lost && es.any fun e => peSends e || peReceives e) && !recvsMeet es &&
    guardsApart (guardSpans es) && usesOk (sendUses es ++ rx) (guardSpans es) ((portsOf es).filter fun p => !receives p)

/-- The cores of a package index that hold a resource record. -/
def membersOf (i : Image) (idx : Nat) : List Nat := ((imageRecs i).filter fun r => r.pkg == idx).map RawRec.core

/-- A plan as the loader judges it; `lost` is the lost package of a survivor variant (R22, R26 check 10, R301). -/
def planOk (i : Image) (nprog : Nat) (c : Chunk) : Bool :=
  let d := c.data
  planTablesOk (imageNpkg i) (64 * c.payload.length) d && planProgs d == nprog &&
    (planKeys (imageNpkg i) d).all fun k => programOk (membersOf i k.1) (c.kind == 5 && c.key == k.1) (recvKnown (planLinks d) k.1 (planEntries d k.1 k.2)) (planEntries d k.1 k.2) &&
      portsListed ((planLinks d).map Prod.fst) k.1 (planEntries d k.1 k.2)

/-- Check 10 of R26: R21, and R22 without the parts that need PODMAP; a time-base tree deeper than 12 (R298). -/
def plansOk (i : Image) (parent : BitVec 4) : Bool :=
  let of_ (k : Nat) : List Chunk := i.chunks.filter fun c => c.kind == k
  let lost := if imageNpkg i > 1 then List.range (imageNpkg i) else []
  if imagePod i then
    match of_ 3 with
    | [c] =>
      (of_ 4).map Chunk.key == (planLinks c.data).map Prod.fst && (of_ 5).map Chunk.key == lost &&
        (imagePlans i).all (planOk i (planProgs c.data)) && (parent == 15 || decide (Config.treeDepth parent ≤ 12))
    | _ => false
  else imageNpkg i == 1 && (of_ 3).isEmpty && (of_ 4).isEmpty && (of_ 5).isEmpty

/-- The loader's code for an image: the first check that fails (R26). -/
def loaderCode (i : Image) (parent : BitVec 4) : Option Nat :=
  match imageFault i with
  | some c => some c
  | none => if plansOk i parent then none else some 8

/-! ### Selection (R22, R38 check 6, R294, R301, R303) -/

/-- The logical index at the far end of a port of this package. -/
def State.farIndex (s : State) (podmap : List Nat) (port : Nat) : Option Nat :=
  (s.neighbour port).bind fun n => (List.range podmap.length).find? fun i => podmap[i]? == some n

/-- LINKSTATn.FLIGHT. -/
def State.flight (s : State) (port : Nat) : Nat := if h : port < 12 then (s.ports[port]).flight.toNat else 0

/-- The links of a plan that have an end at this package: named by the lower end, connected, and with the measured flight time (R294, R301). -/
def State.linksOk (s : State) (podmap : List Nat) (lpkg d : Nat) : Bool :=
  (planLinks d).all fun l =>
    let i := l.1 / 16
    let p := l.1 % 16
    let far := portNeighbour s.rings (podmap.getD i 0) p
    let j := (List.range podmap.length).find? fun k => podmap[k]? == some far
    if i = lpkg then far != s.pf.pkg.toNat && j.any (fun j => decide (i < j)) && s.flight p == l.2
    else if j = some lpkg then decide (i < lpkg) && s.flight (farPort p) == l.2
    else true

/-- The uses of ports by the entries of this package's program that receive, with the senders at the far ends; none when one has no sender or another length (R303, R304). -/
def State.recvUses (s : State) (podmap : List Nat) (lpkg d p : Nat) (es : List (BitVec 128)) : Option (List PortUse) :=
  ((List.range es.length).zip es).foldl (fun acc q =>
    if peKind q.2 = 1 ∨ peKind q.2 = 2 then
      match acc, s.farIndex podmap (peIport q.2) with
      | some us, some j =>
        match feederOf (planEntries d j p) q.2, planFlight d lpkg (peIport q.2) j with
        | some x, some f => if peFlits x = peFlits q.2 then some (us ++ [⟨false, peIport q.2, peToff x, peFlits x, f, q.1⟩]) else none
        | _, _ => none
      | _, _ => none
    else acc) (some [])

/-- Does the plan's table hold the link at a port of this package (R294, R301)? -/
def State.portListed (s : State) (podmap : List Nat) (lpkg d port : Nat) : Bool :=
  (s.farIndex podmap port).any fun j => (planFlight d lpkg port j).isSome

/-- One program of this package at selection: every port leads to a link of the plan's table. -/
def State.programFits (s : State) (podmap : List Nat) (lpkg d p : Nat) (lost : Option Nat) : Bool :=
  let es := planEntries d lpkg p
  (portsOf es).all (s.portListed podmap lpkg d) &&
    !(lost.any fun q => es.any fun e => peSends e && s.farIndex podmap (peOport e) == some q) &&
    match s.recvUses podmap lpkg d p es with
    | some us => usesOk (sendUses es ++ us) (guardSpans es) (portsOf es)
    | none => false

/-- Check 6 of R38 passes for every plan and variant on this package. -/
def State.plansFit (s : State) (i : Image) (podmap : List Nat) (lpkg : Nat) : Bool :=
  (imagePlans i).all fun c =>
    let d := c.data
    s.linksOk podmap lpkg d && (List.range (planProgs d)).all fun p => s.programFits podmap lpkg d p (if c.kind = 5 then some c.key else none)

end Sys2Proof.Machine
end

