-- ==== Sys2Proof/Machine/Records.lean ====
section
/-!
DEFINITION. Trap records (R323, R326), the decision of an abort (R325), and the abort that a link-engine access brings about (R169, R305).
-/

namespace Sys2Proof.Machine

/-- FLAGS of a trap record (R323). -/
def flagAuto : Nat := 1
def flagAbort : Nat := 2
def flagNoReplay : Nat := 4

/-- The 32 bytes of a trap record (R323). -/
def trapRecord (launch : BitVec 16) (t : Trap) (gcid flags : Nat) (seq : BitVec 16) (tick : Nat) : Nat :=
  launch.toNat + t.cause <<< 16 + (t.part + 16 * t.eng) <<< 24 + gcid <<< 32 + t.addr.toNat <<< 64 + t.bundle.toNat <<< 128 +
    t.pslot.toNat <<< 144 + flags <<< 152 + t.frow.toNat <<< 160 + seq.toNat <<< 176 + (tick % 2 ^ 64) <<< 192

/-- TRAPBASE.EN, IRQ and BASE of a virtual function (R326). -/
def Vf.trapEn (v : Vf) : Bool := v.trapbase.getLsbD 0
def Vf.trapIrq (v : Vf) : Bool := v.trapbase.getLsbD 1
def Vf.trapAddr (v : Vf) : Nat := (bits v.trapbase 12 28 : BitVec 28).toNat * 4096

/-- The steward posts a trap record of a launch; none is written while TRAPBASE.EN is 0 (R323, R326). -/
def State.postRecord (s : State) (lk : Nat) (t : Trap) (gcid flags : Nat) : State :=
  match s.launch lk, vfOf (s.partOf lk) with
  | some l, some n =>
    let v := s.vfs[n]
    if v.trapEn then
      let a := v.trapAddr + 32 * v.trapNext.toNat
      let s := if s.reachable l.part a then s.putHbm a 32 (trapRecord l.id t gcid flags v.trapSeq s.now) 0 else s
      let s := s.modVf n fun v => { v with trapTotal := satAdd v.trapTotal 1, trapNext := v.trapNext + 1, trapSeq := v.trapSeq + 1 }
      if v.trapIrq then s.emit (.msix (n.val + 1) 16) else s
    else s
  | _, _ => s

/-- An abort is decided: status, cause and core; a later one changes nothing (R325). -/
def State.decideAbort (s : State) (lk status cause core : Nat) : State :=
  s.modLaunch lk fun l => if l.abort.isNone && l.st != .ended then { l with abort := some (status, cause, core) } else l

/-- A link-engine access that may not perform aborts its launch with status 9; no context raised it, and its record names none (R169, R305, R323). -/
def State.linkAbort (s : State) (c : CoreId) (a : Access) (cause addr : Nat) : State :=
  if (s.launch a.lk).any fun l => l.abort.isNone && !l.stopped then
    (s.postRecord a.lk { ctx := 0, lk := a.lk, cause := cause, part := 9, eng := 3, addr := BitVec.ofNat 64 (if cause = 0x21 then podAddr s.pf.pkg.toNat (localPa c addr) else addr), bundle := 0, origin := 0,
                         pslot := 0, frow := 0, pod := false } 0 flagAbort).decideAbort a.lk 9 cause c.val
  else s

/-- An access fails: a link engine's ends its launch, any other raises a trap (R168, R236, R305). -/
def State.failAny (s : State) (c : CoreId) (a : Access) (cause addr : Nat) : State :=
  match a.act with
  | .linkRd .. | .linkWr .. => s.linkAbort c a cause addr
  | _ => s.failAcc c a cause addr

end Sys2Proof.Machine
end

