-- ==== Sys2Proof/Machine/Stream.lean ====
section
/-!
DEFINITION. The chunks of an image for a core, in the order in which its fetch engine takes them (R13 to R15), and which bytes and tiles of them are late (R171).
-/

namespace Sys2Proof.Machine

/-! ### The stream of a core (R13 to R15) -/

/-- Is a chunk one of kinds 6 to 8? -/
def chunkTail (c : Chunk) : Bool := decide (6 ≤ c.kind) && decide (c.kind ≤ 8)

/-- The 64-byte words of a chunk's payload. -/
def chunkWords (c : Chunk) : Nat := c.payload.length

/-- What a chunk covers, as first and count: bundle indices (kind 6), bytes (kind 7) or tiles (kind 8) (R14). -/
def chunkCover (c : Chunk) : Nat × Nat :=
  match c.kind with
  | 6 => (c.dest, chunkWords c)
  | 7 => (c.dest, 64 * chunkWords c)
  | _ => (c.dest / 4096, 32 * chunkWords c)

/-- Do two chunks of one kind cover something in common? -/
def chunkOverlap (a b : Chunk) : Bool :=
  a.kind == b.kind && decide ((chunkCover a).1 < (chunkCover b).1 + (chunkCover b).2) && decide ((chunkCover b).1 < (chunkCover a).1 + (chunkCover a).2)

/-- The chunks of a launch for a core, in image order, each with its number in the image (R15). -/
def State.stream (s : State) (c : CoreId) (lk : Nat) : List (Nat × Chunk) :=
  match s.launch lk with
  | some l =>
    match s.imageOf l with
    | some i => ((List.range i.img.chunks.length).zip i.img.chunks).filter fun p =>
        chunkTail p.2 && p.2.pkg == l.lpkg && p.2.core == c.val
    | none => []
  | none => []

/-- Has a chunk of a launch's image arrived whole? -/
def State.chunkHere (s : State) (lk no : Nat) : Bool :=
  ((s.launch lk).bind s.imageOf).any fun i => decide (no < i.arrived)

/-- Is chunk j of a stream a reusing chunk (R15)? -/
def reusing (st : List (Nat × Chunk)) (j : Nat) : Bool :=
  match st[j]? with
  | some (_, c) => (st.take j).any fun p => chunkOverlap p.2 c
  | none => false

/-! ### Late bytes (R171) -/

/-- Is a byte range, or a tile, of a launch's stream not yet written although its FIRSTUSE has come (R171)? -/
def State.dataLate (s : State) (c : CoreId) (lk : Nat) (bytes : List (Nat × Nat)) (tile : Option Nat) : Bool :=
  match (s.core c).lc lk with
  | none => false
  | some l =>
    let st := (s.stream c lk).drop l.fchunk
    ((List.range st.length).zip st).any fun q =>
      let k := q.2.2
      let from_ := if q.1 = 0 then l.fpos else 0
      decide (k.firstUse ≤ l.scyc) && match k.kind with
        | 7 => bytes.any fun b => decide (k.dest + 64 * from_ < b.1 + b.2) && decide (b.1 < k.dest + 64 * chunkWords k)
        | 8 => tile.any fun t => decide (k.dest / 4096 + 32 * from_ ≤ t) && decide (t < k.dest / 4096 + 32 * chunkWords k)
        | _ => false

/-- Whole chunks as byte ranges. -/
def wholeBytes (rd : List Nat) : List (Nat × Nat) := rd.map fun a => (a, 64)

/-- The byte ranges that an access reads on its cycle: a load its own bytes, an atomic application its word when it begins, a fallback haul update its payload, others whole chunks (R171, R186, R288). -/
def Access.readBytes (a : Access) : List (Nat × Nat) :=
  match a.act with
  | .load l => l.bytes.map fun b => (b, 1)
  | .amo r | .remAmo _ r => if r.stage = 0 then [(r.ea, 4)] else []
  | .hauUpd _ _ st _ => if st = 0 then [(a.act.ea, 64)] else []
  | _ => wholeBytes a.rd

/-- Does an access that stands for a tick, of another core or of a link engine, read bytes that are late in a launch of the core (R171; log entry 121)? -/
def State.tickLate (s : State) (c : CoreId) (a : Access) : Bool :=
  (s.core c).lcs.any fun l => l.started && s.dataLate c l.lk a.readBytes a.tagR

end Sys2Proof.Machine
end

