-- ==== Sys2Proof/Machine/Haul.lean ====
section
/-!
DEFINITION. The haul ring: its geometry and time (R279, R280), the haul forms at their issue (R284 to R288), the four steps of a passage (R282, R283), barriers on the system skips (R272 to R274), and the fallback forms (R288).
-/

namespace Sys2Proof.Machine

/-! ### Geometry and time -/

/-- pos(d) of R279. -/
def ringPos (d : Nat) : Nat := match d with | 3 => 5 | 5 => 3 | d => d

/-- The stage of a core's station (R279). -/
def stageOf (c : CoreId) : Nat :=
  let l := c.val % 36
  let row := l / 6
  let col := l % 6
  40 * ringPos (c.val / 36) + 6 * row + (if row % 2 = 0 then col else 5 - col)

/-- The skip that stands at a stage at a tick (R280). -/
def skipAt (stage tick : Nat) : Nat := (stage + 360 - tick % 360) % 360

/-- Skip n. -/
def State.skip (s : State) (n : Nat) : Skip := if h : n < 360 then s.skips[n] else Skip.reset n
/-- Change skip n. -/
def State.modSkip (s : State) (n : Nat) (g : Skip → Skip) : State :=
  if h : n < 360 then { s with skips := s.skips.set n (g s.skips[n]) } else s

/-- A free skip: KIND 0 and a zero payload (R286). -/
def Skip.free (k : Skip) : Skip := { k with kind := 0, payload := 0, lk := none, prov := none }

/-- May a form of a launch act on a skip (R284)? -/
def State.mayAct (s : State) (lk n : Nat) : Bool :=
  match s.launch lk with
  | some l => (s.skip n).kind == 1 && (s.skip n).owner == l.id && (s.skip n).part == l.part
  | none => false

/-! ### Updates (R283) -/

/-- Lane j of a payload. -/
def lane32 (p : BitVec 512) (j : Nat) : BitVec 32 := bits p (32 * j) 32
/-- A payload with lane j replaced. -/
def setLane32 (p : BitVec 512) (j : Nat) (v : BitVec 32) : BitVec 512 :=
  (p &&& ~~~((0xFFFFFFFF : BitVec 512) <<< (32 * j))) ||| ((v.zeroExtend 512) <<< (32 * j))
/-- A payload with bit i set to v. -/
def setBit512 (p : BitVec 512) (i : Nat) (v : Bool) : BitVec 512 :=
  if v then p ||| ((1 : BitVec 512) <<< i) else p &&& ~~~((1 : BitVec 512) <<< i)
/-- Do bits 0 to n − 1 all equal v (R287)? -/
def bitsEqual (p : BitVec 512) (n : Nat) (v : Bool) : Bool := (List.range n).all fun i => p.getLsbD i == v

/-- One update of a payload: the new payload, and the value returned (R283). -/
def haulUpdate (k : HaulKind) (j : Nat) (b p : BitVec 512) : BitVec 512 × Option Word :=
  let old := lane32 p j
  let lo := lane32 b 0
  let hi := lane32 b 1
  match k with
  | .st true => (b, none)
  | .st false => (setLane32 p j lo, none)
  | .op code fp => (setLane32 p j (amoValue code fp old lo), some (amoOld fp old))
  | .xchg => (setLane32 p j lo, some (zext64 old))
  | .cas => (if old = hi then setLane32 p j lo else p, some (zext64 old))
  | .lse =>
    let s := lane32 p (j + 1)
    let r := lse old s lo hi
    (setLane32 (setLane32 p j r.1) (j + 1) r.2, some (s ++ old))
  | .barArrive i _ _ => (setBit512 p i (b.getLsbD 0), none)
  | _ => (p, none)

/-- Is a haul action a withheld update, released already when it waits at a station (R282)? -/
def HaulKind.withheld : HaulKind → Bool
  | .st _ | .op _ _ | .xchg | .cas | .lse | .free => true
  | _ => false

/-- Does a rollback of the form's context leave the action in place (R289)? -/
def HaulKind.lasting (k : HaulKind) : Bool := k.withheld || k == .unclaim

/-! ### Operands -/

/-- Fields of a fallback operand (R288). -/
def fbHome (a : Nat) : Nat := a / 2 ^ 32 % 512
def fbAddr (a : Nat) : Nat := a % 2 ^ 23
/-- Does an operand name a ring skip (R284)? -/
def isRing (a : Word) : Bool := !a.getLsbD 63

/-- Does a skip operand raise trap 0x03 at issue (R284, R288)? -/
def skipBad (a : Word) : Bool :=
  if isRing a then decide (a.toNat % 512 < 8) || decide (a.toNat % 512 > 359)
  else decide (fbHome a.toNat > 323) || decide (fbAddr a.toNat % 64 ≠ 0)

/-- The ring skip an action concerns. -/
def HaulOp.num (u : HaulOp) : Nat := u.skip % 512

/-- An action of the bundle in issue. -/
def State.haulOp (s : State) (f : Focus) (kind : HaulKind) (a : Word) (lane : Nat) (b : BitVec 512) (d : BitVec 5) (nw : Bool) : HaulOp :=
  { ctx := f.ctx, lk := s.focusLk f, issued := s.cycle f, bundle := f.idx, kind := kind, skip := a.toNat, ring := isRing a, lane := lane,
    b := b, d := d, nw := nw, after := s.now }

/-- A trap of a haul action, at its station or its home (R236, R284). -/
def HaulOp.trap (u : HaulOp) (cause : Nat) : Trap :=
  { ctx := u.ctx, lk := u.lk, cause := cause, part := 8, eng := 4, addr := BitVec.ofNat 64 u.skip, bundle := u.bundle, origin := u.issued,
    pslot := 0, frow := 0, pod := false }

/-- The context of the bundle in issue enters Waiting (R81). -/
def State.block (s : State) (f : Focus) (w : Wait) : State :=
  let s := s.modCtx f.core f.ctx fun k => { k with st := .waiting, wait := w, wakeTick := none, wakeCyc := none }
  { s with focus := s.focus.map fun g => { g with blocked := true } }

/-- An action waits at the station of the bundle's core. -/
def State.addHaul (s : State) (c : CoreId) (u : HaulOp) : State := s.modCore c fun k => { k with haul := k.haul ++ [u] }

/-! ### Fallback records (R288) -/

/-- T of R288. -/
def fbTime (c : CoreId) (a : Nat) : Nat := meshO c.val (fbHome a) + 4

/-- The origin of a fallback access. -/
def State.haulOrigin (s : State) (c : CoreId) (u : HaulOp) (back : Nat) : Origin :=
  ⟨s.pf.pkg.toNat, c.val, u.ctx, u.lk, u.issued, u.bundle, 8, 4, fbTime c u.skip, back, s.now⟩

/-- An access to a fallback record. -/
def State.fbAccess (s : State) (c : CoreId) (u : HaulOp) (back : Nat) (hold always : Bool) (act : Origin → Act) : Access :=
  let o := s.haulOrigin c u back
  let a := fbAddr u.skip
  { due := 0, byTick := true, party := .remote o.pkg o.core, always := always, prio := 2 ^ 60 + o.pkg * 512 + o.core, ctx := u.ctx,
    lk := u.lk, issued := u.issued, part := 8, eng := 4, bundle := u.bundle, rd := if hold then [] else [a], wr := [], tagR := none,
    tagW := [], zero := [], hold := if hold then some (bankOf a) else none, act := act o, lost := [] }

/-- Read the record n periods from now and T on its way: a haul.ld, haul.pass, capture, or a check of haul.bar. -/
def State.fbRead (s : State) (c : CoreId) (u : HaulOp) (n back : Nat) : State :=
  s.sendTimed u.lk s.pf.pkg.toNat (fbHome u.skip) (n + fbTime c u.skip) (s.fbAccess c u back false false fun o => .hauRd o u)

/-- Apply an update to the record, on its three held cycles. -/
def State.fbUpdate (s : State) (c : CoreId) (u : HaulOp) (n back : Nat) (always : Bool) : State :=
  s.sendTimed u.lk s.pf.pkg.toNat (fbHome u.skip) (n + fbTime c u.skip) (s.fbAccess c u back true always fun o => .hauUpd o u 0 0)

/-! ### The forms at their issue -/

/-- The trap 0x03 of a bad skip operand. -/
def State.badSkip (s : State) (f : Focus) (a : Word) : State := s.raise f 8 0x03 a

/-- A form that waits for a passage of a skip, or for a fallback read (R282, R288). -/
def State.haulWait (s : State) (f : Focus) (u : HaulOp) : State :=
  let s := (s.block f .haul).addHaul f.core u
  if u.ring then s else s.fbRead f.core u 1 (s.cycle f + 2 * fbTime f.core u.skip + 3)

/-- A withheld haul update (R174, R282). -/
def State.haulUpdate (s : State) (f : Focus) (kind : HaulKind) (a : Word) (lane : Nat) (b : BitVec 512) (d : BitVec 5) (nw : Bool) : State :=
  if skipBad a then s.badSkip f a else s.withhold f 8 (.haul (s.haulOp f kind a lane b d nw))

/-- An x operand as the low bits of a payload. -/
def wide (v : Word) : BitVec 512 := v.zeroExtend 512

/-- Skips held by a launch on this package (R285). -/
def State.skipsHeld (s : State) (lk : Nat) : Nat := (s.skips.toList.filter fun k => k.kind == 1 && k.lk == some lk).length

/-- A status of the sync slot, at issue + 2 (R75). -/
def State.resultY (s : State) (f : Focus) (d : BitVec 5) (nw : Bool) (v : Word) : State := s.resultX f 8 2 d nw 6 v

/-! ### Passages (R282) -/

/-- Actions in order of context and then of issue (R282). -/
def insertHaul (u : HaulOp) : List HaulOp → List HaulOp
  | [] => [u]
  | v :: vs => if u.ctx < v.ctx || (u.ctx == v.ctx && decide (u.issued < v.issued)) then u :: v :: vs else v :: insertHaul u vs

/-- The actions that a passage of skip n at a tick triggers. -/
def Core.hauled (k : Core) (n tick : Nat) (p : HaulKind → Bool) : List HaulOp :=
  (k.haul.filter fun u => u.ring && decide (u.after < tick) && p u.kind && (u.kind == .board || u.num == n)).foldr insertHaul []

/-- Take an action off the station. -/
def State.dropHaul (s : State) (c : CoreId) (u : HaulOp) : State := s.modCore c fun k => { k with haul := k.haul.filter (· != u) }

/-- Replace an action at the station. -/
def State.putHaul (s : State) (c : CoreId) (u v : HaulOp) : State :=
  s.modCore c fun k => { k with haul := k.haul.map fun x => if x = u then v else x }

/-- A context's haul wait ends at a tick (R280). -/
def State.wakeAt (s : State) (c : CoreId) (k : CtxId) (t : Nat) : State :=
  s.modCtx c k fun x => { x with wait := .none, wakeTick := some t }

/-- A context's wait ends at a cycle. -/
def State.wakeOn (s : State) (c : CoreId) (k : CtxId) (t : Nat) : State :=
  s.modCtx c k fun x => { x with wait := .none, wakeCyc := some t }

/-- A value returned by a haul action: on a tick for a passage, on a cycle for a fallback record (R280, R283, R288). -/
def HaulOp.result (u : HaulOp) (due : Nat) (byTick toCk : Bool) (dest : Dest) (v : VReg) : Result :=
  ⟨u.ctx, u.lk, u.issued, 8, due, byTick, dest, v, allLanes, some 6, 0, toCk⟩

/-- A form that may not act traps two ticks later (R284). -/
def State.failHaul (s : State) (c : CoreId) (u : HaulOp) : State := s.putHaul c u { u with kind := .fail, after := s.now + 2 }

/-- The payload captured by haul.alight goes into its withhold entry (R286). -/
def State.capture (s : State) (c : CoreId) (u : HaulOp) (p : BitVec 512) : State :=
  s.modCtx c u.ctx fun k => { k with wh := k.wh.map fun e =>
    match e.kind with
    | .alight v dst _ => if e.issued = u.issued then { e with kind := .alight v dst (some p) } else e
    | _ => e }

/-- What a waiting read does with the payload and the tick of its read: due at a tick or a cycle (R286 to R288). -/
def State.deliver (s : State) (c : CoreId) (u : HaulOp) (p : BitVec 512) (tick due : Nat) (byTick : Bool) : State :=
  let s := if byTick then s.wakeAt c u.ctx due else s.wakeOn c u.ctx due
  match u.kind with
  | .ld => s.addResult c (u.result due byTick false (destV u.d u.nw) (p.zeroExtend 4096))
  | .pass => s.addResult c (u.result due byTick false (destX u.d u.nw) ((BitVec.ofNat 64 tick).zeroExtend 4096))
  | _ => s.capture c u p

/-- Step 1 for one action. -/
def State.haulRead (s : State) (c : CoreId) (n : Nat) (u : HaulOp) : State :=
  if s.mayAct u.lk n then (s.dropHaul c u).deliver c u (s.skip n).payload s.now (s.now + 2) true else s.failHaul c u

/-- Step 2 for one action: a withheld update that may not act is not applied and aborts its launch (R284). -/
def State.haulApply (s : State) (c : CoreId) (n : Nat) (u : HaulOp) : State :=
  match u.kind with
  | .unclaim => (s.dropHaul c u).modSkip n fun k => if k.lk = some u.lk then k.free else k
  | .barArrive i m v =>
    if s.mayAct u.lk n then
      (s.putHaul c u { u with kind := .barCheck m v }).modSkip n fun k =>
        { k with payload := setBit512 k.payload i (u.b.getLsbD 0), seq := k.seq + 1 }
    else s.failHaul c u
  | .free =>
    if s.mayAct u.lk n then (s.dropHaul c u).modSkip n fun k => { k.free with seq := k.seq + 1 }
    else (s.dropHaul c u).modCore c fun k => k.addTrap (u.trap 0x03)
  | kind =>
    if s.mayAct u.lk n then
      let r := Machine.haulUpdate kind u.lane u.b (s.skip n).payload
      let s := (s.dropHaul c u).modSkip n fun k => { k with payload := r.1, seq := k.seq + 1 }
      match r.2 with
      | some v => s.addResult c (u.result (s.now + 3) true true (destX u.d u.nw) (v.zeroExtend 4096))
      | none => s
    else (s.dropHaul c u).modCore c fun k => k.addTrap (u.trap 0x03)

/-- Step 3 for one waiting haul.bar. -/
def State.haulCheck (s : State) (c : CoreId) (n : Nat) (u : HaulOp) : State :=
  match u.kind with
  | .barCheck m v =>
    if !s.mayAct u.lk n then s.failHaul c u
    else if bitsEqual (s.skip n).payload m v then (s.dropHaul c u).wakeAt c u.ctx (s.now + 2)
    else s
  | _ => s

/-- Step 4 for one waiting haul.board (R285). -/
def State.haulBoard (s : State) (c : CoreId) (n : Nat) (u : HaulOp) : State :=
  if decide (n ≥ 8) && (s.skip n).kind == 0 then
    match s.launch u.lk with
    | some l =>
      let s := (s.dropHaul c u).modSkip n fun k =>
        { k with kind := 1, owner := l.id, part := l.part, payload := u.b, lk := some u.lk, prov := some (4 * c.val + u.ctx.val, none) }
      (s.wakeAt c u.ctx (s.now + 2)).addResult c
        (u.result (s.now + 2) true false (destX u.d u.nw) (BitVec.ofNat 4096 n))
    | none => s
  else s

/-! ### Barriers (R272 to R274) -/

/-- The cores of this package that hold a context of a launch (R51). -/
def Launch.cores (l : Launch) : List Nat := (l.recs.filter fun r => decide (r.nctx ≥ 1)).map ResRec.core

/-- The member cores of a barrier view of a launch: of the die, or of the package (R51). -/
def State.members (s : State) (lk : Nat) (d2 : Bool) (c : CoreId) : List Nat :=
  match s.launch lk with
  | some l => if d2 then l.cores else l.cores.filter fun x => x / 36 == c.val / 36
  | none => []

/-- Has every context of a launch on a core executed end? -/
def Core.allEnded (k : Core) (l : LaunchCore) : Bool :=
  (List.finRange 4).all fun i => (k.ctx i).lk != some l.lk || (k.ctx i).st == .ended

/-- A barrier view of a launch. -/
def LaunchCore.view (l : LaunchCore) (d2 : Bool) : BarView := if d2 then l.bar2 else l.bar1
def LaunchCore.setView (l : LaunchCore) (d2 : Bool) (v : BarView) : LaunchCore := if d2 then { l with bar2 := v } else { l with bar1 := v }

/-- Instances of a level completed at the station (R272). -/
def LaunchCore.doneAt (l : LaunchCore) (level : Nat) : Nat :=
  match level with
  | 1 => l.bar1.done
  | 2 => l.bar2.done
  | 3 => l.done34[0]
  | _ => l.done34[1]

/-- One more instance of a level completed. -/
def LaunchCore.addDone (l : LaunchCore) (level : Nat) : LaunchCore :=
  match level with
  | 1 => { l with bar1 := { l.bar1 with done := l.bar1.done + 1 } }
  | 2 => { l with bar2 := { l.bar2 with done := l.bar2.done + 1 } }
  | 3 => { l with done34 := l.done34.set 0 (l.done34[0] + 1) }
  | _ => { l with done34 := l.done34.set 1 (l.done34[1] + 1) }

/-- The bit of a launch in the system skips: skip and bit number (R273). -/
def barBit (core ls : Nat) (d2 : Bool) : Nat × Nat := (core / 64, 8 * (core % 64) + 2 * ls + d2.toNat)

/-- The lowest context number of a launch on a core, from its resource records. -/
def State.lowCtx (s : State) (lk core : Nat) : Nat :=
  match s.launch lk with
  | some l => ((l.recs.find? fun r => r.core == core).map ResRec.ctxlo).getD 0
  | none => 0

/-- The level and instance that every context of a launch on a core, those that have ended apart, waits at (R272). -/
def Core.barWaits (k : Core) (l : LaunchCore) : Option (Nat × Nat) :=
  let ws := (List.finRange 4).filterMap fun i =>
    let x := k.ctx i
    if x.lk = some l.lk ∧ x.st ≠ .ended then some (if x.st = .waiting then x.wait else .none) else none
  match ws with
  | .bar n i :: rest => if rest.all (· == .bar n i) then some (n, i) else none
  | _ => none

/-- Instances of a level at which the core has arrived, where the station's bit does not tell (R272, R274). -/
def LaunchCore.cameAt (l : LaunchCore) (level : Nat) : Nat := if level < 3 then 0 else l.came34[(level - 3) % 2]'(Nat.mod_lt _ (by decide))

/-- The core has arrived at an instance of a level. -/
def LaunchCore.noteCame (l : LaunchCore) (level i : Nat) : LaunchCore :=
  if level < 3 then l else { l with came34 := l.came34.set ((level - 3) % 2) (i + 1) (Nat.mod_lt _ (by decide)) }

/-- Is the instance of the last inversion over although the station has yet to see every bit of it: one of D3 or D4 that the launch has completed (R274)? -/
def LaunchCore.overAt (l : LaunchCore) (v : BarView) : Bool := decide (v.lvl ≥ 3) && decide (l.cameAt v.lvl ≤ l.doneAt v.lvl)

/-- The core arrives when its last context does, once at each instance (R272). A context behind its station arrives no more. -/
def State.tryArrive (s : State) (c : CoreId) (lk : Nat) : State :=
  let k := s.core c
  match k.lc lk with
  | some l =>
    match k.barWaits l with
    | some (n, i) =>
      let d2 := decide (n ≥ 2)
      let v := l.view d2
      if i ≥ l.doneAt n ∧ i ≥ l.cameAt n ∧ (v.met ∨ l.overAt v) ∧ v.arrived.isNone then
        s.modCore c fun k => k.modLc lk fun l => (l.noteCame n i).setView d2 { v with arrived := some (s.now, n) }
      else s
    | none => s
  | none => s

/-- The CVs of all member contexts merged (R258). -/
def State.mergedCv (s : State) (lk : Nat) (d2 : Bool) (c : CoreId) (cv : Vector (BitVec 16) 9) : Vector (BitVec 16) 9 :=
  (s.members lk d2 c).foldl (fun cv m =>
    match coreOf m with
    | some mc => (List.finRange 4).foldl (fun cv i =>
        let x := s.ctx mc i
        if x.lk = some lk then mergeCv x.cv cv else cv) cv
    | none => cv) cv

/-- Scope of a barrier level (R267). -/
def barScope (level : Nat) : Nat := if level = 1 then 2 else if level = 2 then 3 else 4

/-- A context completes its barrier at a tick (R273): D3 and D4 complete the CVs of their package's part. It waits on until other packages hold the announcement (R267). -/
def State.barDone (s : State) (c : CoreId) (k : CtxId) (level tick : Nat) : State :=
  let lk := (s.ctx c k).lk.getD 0
  let cv := s.mergedCv lk (decide (level ≥ 2)) c (s.ctx c k).cv
  let s := s.modCtx c k fun x =>
    { x with cv := cv, barcnt := x.barcnt.set ((level - 1) % 4) (x.barcnt[(level - 1) % 4]'(Nat.mod_lt _ (by decide)) + 1) (Nat.mod_lt _ (by decide)) }
  let s := s.releaseEvent c k (barScope level) tick
  if (s.ctx c k).unheard.isEmpty then (s.acquireEvent c k (barScope level) tick).wakeAt c k (tick + 2)
  else s.modCtx c k fun x => { x with wait := .heard (barScope level) tick }

/-- Every context of a launch on a core that waits in an instance already completed there completes it (R272, R273). -/
def State.barWake (s : State) (c : CoreId) (lk tick : Nat) : State :=
  (List.finRange 4).foldl (fun s i =>
    let x := s.ctx c i
    match x.wait, (s.core c).lc lk with
    | .bar n k, some l => if x.lk = some lk ∧ x.st = .waiting ∧ k < l.doneAt n then s.barDone c i n tick else s
    | _, _ => s) s

/-- Does an image of a launch hold a route plan (R51, R274)? -/
def State.hasPlan (s : State) (lk : Nat) : Bool := (s.launch lk).any fun l => (s.plan l 0).isSome

/-- Is a core the member of D2 INDEX 0 (R52)? -/
def State.firstCore (s : State) (lk : Nat) (c : CoreId) : Bool := (s.members lk true c).all fun m => decide (c.val ≤ m)

/-- The bits of a view are all equal for the first time since the last inversion: an instance completes at the station, or for D3 and D4 of a planned launch the package's part does (R273, R274). -/
def State.barMet (s : State) (c : CoreId) (lk : Nat) (d2 : Bool) : State :=
  match (s.core c).lc lk with
  | some l =>
    let v := l.view d2
    let n := if d2 then v.lvl else 1
    let s := s.modCore c fun k => k.modLc lk fun l => l.setView d2 { l.view d2 with met := true }
    if n ≥ 3 ∧ s.hasPlan lk then
      if s.firstCore lk c then
        s.modLaunch lk fun l => { l with pod := { l.pod with part := l.pod.part.set ((n - 3) % 2) (some s.now) (Nat.mod_lt _ (by decide)) } }
      else s
    else s.modCore c fun k => k.modLc lk fun l => l.addDone n
  | none => s

/-- The last-seen bits that a passage of a system skip brings (R273). -/
def State.seeBits (s : State) (c : CoreId) (n lk : Nat) (d2 : Bool) : State :=
  let ms := (s.members lk d2 c).filter fun m => m / 64 == n && m != c.val
  let p := (s.skip n).payload
  s.modCore c fun k => k.modLc lk fun l =>
    let v := l.view d2
    l.setView d2 { v with seen := ms.foldl (fun t m => tabSet t m (p.getLsbD (barBit m (s.lowCtx lk m) d2).2)) v.seen }

/-- Does a member's last-seen bit differ from the station's own? -/
def BarView.differs (v : BarView) (m : Nat) : Bool := tabGet v.seen m false != v.own

/-- The station inverts its bit of a launch at a passage of its system skip when its core has arrived, or stands in for ended contexts (R273); not before it has met the instance before (log entry 136). -/
def State.barInvert (s : State) (c : CoreId) (n lk : Nat) (d2 : Bool) : State :=
  match (s.core c).lc lk with
  | some l =>
    let v := l.view d2
    let others := (s.members lk d2 c).filter (· != c.val)
    let ended := (s.core c).allEnded l && v.met && others.any v.differs
    if n = c.val / 64 ∧ ((v.met ∧ v.arrived.any (fun a => decide (a.1 < s.now))) ∨ ended) then
      let lvl := match v.arrived, ((others.find? v.differs).bind coreOf).bind fun m => (s.core m).lc lk with
        | some a, _ => a.2
        | none, some o => (o.view d2).lvl
        | none, none => v.lvl
      let s := s.modCore c fun k => k.modLc lk fun l => l.setView d2 { v with own := !v.own, met := false, arrived := none, lvl := lvl }
      s.modSkip n fun k => { k with payload := setBit512 k.payload (barBit c.val l.ctxlo d2).2 (!v.own), seq := k.seq + 1 }
    else s
  | none => s

/-- The check of a view at a passage of skips 0 to 5 (R273). -/
def State.barCheck (s : State) (c : CoreId) (lk : Nat) (d2 : Bool) : State :=
  match (s.core c).lc lk with
  | some l =>
    let v := l.view d2
    if !v.met && ((s.members lk d2 c).filter (· != c.val)).all (fun m => !v.differs m) then s.barMet c lk d2 else s
  | none => s

/-- Is a launch bound, so that stations act for it? A Saved launch's barrier state stands still (R52, R333). -/
def State.isBound (s : State) (lk : Nat) : Bool := (s.launch lk).any fun l => l.st == .bound

/-- Every bound launch of a core, with its two views. -/
def State.views (s : State) (c : CoreId) : List (Nat × Bool) :=
  ((s.core c).lcs.filter fun l => s.isBound l.lk).flatMap fun l => [(l.lk, false), (l.lk, true)]

/-! ### The passage -/

/-- Does a passage find anything to do at a station (R282)? -/
def State.passageDue (s : State) (c : CoreId) : Bool :=
  let n := skipAt (stageOf c) s.now
  let k := s.core c
  if n ≤ 5 then !(s.views c).isEmpty
  else k.haul.any fun u => u.ring && decide (u.after < s.now) && u.kind != .fail &&
    (u.num == n || (u.kind == .board && decide (s.now ≤ u.after + 360) && (s.skip n).kind == 0))

def HaulKind.isRead : HaulKind → Bool
  | .ld | .pass | .capture _ => true
  | _ => false

def HaulKind.isUpdate : HaulKind → Bool
  | .barArrive _ _ _ | .unclaim => true
  | k => k.withheld

def HaulKind.isCheck : HaulKind → Bool
  | .barCheck _ _ => true
  | _ => false

/-- The four steps of a passage on a user skip (R282). -/
def State.passUser (s : State) (c : CoreId) (n : Nat) : State :=
  let s := ((s.core c).hauled n s.now HaulKind.isRead).foldl (fun s u => s.haulRead c n u) s
  let s := ((s.core c).hauled n s.now HaulKind.isUpdate).foldl (fun s u => s.haulApply c n u) s
  let s := ((s.core c).hauled n s.now HaulKind.isCheck).foldl (fun s u => s.haulCheck c n u) s
  ((s.core c).hauled n s.now (· == .board)).foldl (fun s u => if s.now ≤ u.after + 360 then s.haulBoard c n u else s) s

/-- A passage of a system skip (R273). -/
def State.passSystem (s : State) (c : CoreId) (n : Nat) : State :=
  let vs := s.views c
  let s := vs.foldl (fun s v => s.seeBits c n v.1 v.2) s
  let s := vs.foldl (fun s v => s.barInvert c n v.1 v.2) s
  let s := vs.foldl (fun s v => s.barCheck c v.1 v.2) s
  (vs.filter fun v => v.2).foldl (fun s v => s.barWake c v.1 s.now) s

/-- HAUL_PASSAGE (R282). -/
def execHaulPassage (core : CoreId) (s : State) : Out :=
  if s.passageDue core then
    let n := skipAt (stageOf core) s.now
    .next (if n ≤ 5 then s.passSystem core n else s.passUser core n)
  else .fault (.notDue "HAUL_PASSAGE")

/-- The first haul.board of a core that has found no skip in 360 passages. -/
def Core.exhausted (k : Core) (now : Nat) : Option HaulOp := k.haul.find? fun u => u.kind == .board && decide (u.after + 360 < now)

/-- BOARD_EXHAUSTED (R285): status 1, at issue + 362. -/
def execBoardExhausted (core : CoreId) (s : State) : Out :=
  match (s.core core).exhausted s.now with
  | some u =>
    let t := u.after + 362
    .next (((s.dropHaul core u).wakeAt core u.ctx t).addResult core
      (u.result t true false (destX u.d u.nw) (BitVec.ofNat 4096 0x10000)))
  | none => .fault (.notDue "BOARD_EXHAUSTED")

/-- The first fallback haul.bar of a core whose next check leaves on this cycle. -/
def Core.fbCheck (k : Core) : Option HaulOp := k.haul.find? fun u => !u.ring && u.kind.isCheck && decide (u.after ≤ k.cyc)

/-- FALLBACK_CHECK (R288): the record is read T later, and a check that succeeds wakes the context T + 2 after that. -/
def execFallbackCheck (core : CoreId) (s : State) : Out :=
  match (s.core core).fbCheck with
  | some u =>
    .next ((s.putHaul core u { u with after := u.after + 360 }).fbRead core { u with after := 0 } 0
      ((s.core core).cyc + 2 * fbTime core u.skip + 2))
  | none => .fault (.notDue "FALLBACK_CHECK")

/-- The fallback action of a core that an access belongs to. -/
def Core.fbOp (k : Core) (o : Origin) : Option HaulOp := k.haul.find? fun u => !u.ring && u.ctx == o.ctx && u.issued == o.issued

/-- A fallback read has performed at the home: its result goes back (R288). A form rolled back meanwhile has no action left. -/
def State.fbDone (s : State) (o : Origin) (p : BitVec 512) : State :=
  match coreOf o.core with
  | some c =>
    match (s.core c).fbOp o with
    | some u =>
      (match u.kind with
      | .barCheck m v => if bitsEqual p m v then (s.dropHaul c u).wakeOn c u.ctx o.back else s
      | _ => (s.dropHaul c u).deliver c u p s.now o.back false)
    | none => s
  | none => s

end Sys2Proof.Machine
end

