-- ==== Sys2Proof/Machine/Sync.lean ====
section
/-!
DEFINITION. The sync slot: loop forms (R107 to R110), code locks (R84, R88, R89), guard (R246), fence (R262 to R264), barriers and bank forms (R270 to R276), the haul forms (R284 to R288), system registers (R290), trap, ebrk and end (R291, R292).
-/

namespace Sys2Proof.Machine

/-! ### Checks -/

/-- Is a sync form wait-capable (R82, R97)? -/
def waitCapable : Instr → Bool
  | .bankAcq _ | .bar _ _ | .haulBoard _ _ _ | .haulAlight _ _ _ | .haulLd _ _ _ | .haulBar _ _ _ | .haulPass _ _ _ | .codeLockW _ _ _ => true
  | _ => false

/-- Body length of a loop form (R108). -/
def State.loopLen (s : State) (f : Focus) : Instr → Nat
  | .loop _ len => len.toNat + 1
  | .loopx _ b => (s.readX f b).toNat
  | _ => 0

/-- Trip count of a loop form (R108). -/
def State.loopCount (s : State) (f : Focus) : Instr → BitVec 32
  | .loop a _ | .loopx a _ => lo32 (s.readX f a)
  | _ => 0

/-- Does a break form break (R108, R109)? -/
def State.breaks (s : State) (f : Focus) : Instr → Bool
  | .lbrk a => s.readX f a != 0
  | .lbrkU => true
  | _ => false

/-- Is a form a loop or loopx (R109)? -/
def isLoop : Instr → Bool
  | .loop _ _ | .loopx _ _ => true
  | _ => false

/-- Does a form take its step with the header's loop-stack step (R109, R347)? -/
def isLoopForm : Instr → Bool
  | .loop _ _ | .loopx _ _ | .lbrk _ | .lbrkU => true
  | _ => false

/-- The loop-stack traps 0x01 of part 8 (R108, R109). -/
def State.loopBad (s : State) (f : Focus) (i : Instr) : Bool :=
  (isLoop i && (hdrLE f.word || decide (s.loopLen f i = 0) || decide (s.loopLen f i > 4096) ||
      (s.loopCount f i != 0 && decide (f.loops.length ≥ 6)))) ||
    (s.breaks f i && f.loops.isEmpty)

/-- BARCNTn of a context (R271). -/
def Ctx.bars (k : Ctx) (level : BitVec 2) : BitVec 32 := k.barcnt[level.toNat]

/-- Operand values and header bits with which a sync form raises trap 0x01 (R82, R109, R271, R276, R287, R292). -/
def State.syncBad (s : State) (f : Focus) (i : Instr) : Bool :=
  (waitCapable i && !hdrWT f.word) || s.loopBad f i ||
    match i with
    | .bankRel _ | .endCtx => !hdrCK f.word
    | .bar comm level => ((s.ctx f.core f.ctx).bars level).getLsbD 0 != comm
    | .haulBar _ b _ =>
      let v := s.readX f b
      let n := (bits v 16 10 : BitVec 10).toNat + 1
      decide (n > 512) || decide ((bits v 0 9 : BitVec 9).toNat ≥ n)
    | _ => false

/-- A sync slot form. -/
def syncSlot (i : Instr) (name : String) (s : State) (go : Focus → State) : Out := slotRun i name s (fun f => s.syncBad f i) go

/-- Change the bundle in issue. -/
def State.modFocus (s : State) (g : Focus → Focus) : State := { s with focus := s.focus.map g }

/-! ### Loops (R109) -/

/-- NOP_Y. -/
def execNopY (s : State) : Out := syncSlot .nopY "NOP_Y" s fun _ => s

/-- Index i + n, modulo 4,096. -/
def idxPlus (i : BitVec 12) (n : Nat) : BitVec 12 := i + BitVec.ofNat 12 n

/-- The step of loop and loopx: a count of 0 skips the body, any other pushes an entry (R109). -/
def State.loopPush (s : State) (f : Focus) (i : Instr) : State :=
  let n := s.loopLen f i
  let cnt := s.loopCount f i
  if cnt = 0 then s.modFocus fun g => { g with lr := some (idxPlus f.idx (1 + n)) }
  else s.modCtx f.core f.ctx fun k => { k with loops := ⟨idxPlus f.idx 1, idxPlus f.idx n, cnt, 0⟩ :: k.loops }

/-- The step of a break (R109). -/
def State.loopBreak (s : State) (f : Focus) : State :=
  match (s.ctx f.core f.ctx).loops with
  | e :: rest => (s.modCtx f.core f.ctx fun k => { k with loops := rest }).modFocus fun g => { g with lr := some (e.stop + 1) }
  | [] => s

/-- LOOP (R108, R109). -/
def execLoop (a : Src) (len : BitVec 8) (s : State) : Out :=
  syncSlot (.loop a len) "LOOP" s fun f => s.loopPush f (.loop a len)

/-- LOOPX (R108, R109). -/
def execLoopx (a b : Src) (s : State) : Out :=
  syncSlot (.loopx a b) "LOOPX" s fun f => s.loopPush f (.loopx a b)

/-- LBRK (R108, R109). -/
def execLbrk (a : Src) (s : State) : Out :=
  syncSlot (.lbrk a) "LBRK" s fun f => if s.breaks f (.lbrk a) then s.loopBreak f else s

/-- LBRK_U (R108, R109). -/
def execLbrkU (s : State) : Out := syncSlot .lbrkU "LBRK_U" s fun f => s.loopBreak f

/-- count_at of R109 at index i: the stack left, and the redirect. -/
def countAt (i : BitVec 12) : List LoopEntry → List LoopEntry × Option (BitVec 12)
  | [] => ([], none)
  | e :: rest =>
    if e.stop = i then
      if (e.idx + 1).toNat < e.count.toNat then ({ e with idx := e.idx + 1 } :: rest, some e.start)
      else countAt i rest
    else (e :: rest, none)

/-! ### Banks (R275, R276) -/

/-- A bank mask (R276). -/
def bankMask (v : Word) : BitVec 48 := bits v 0 48

/-- The state of a bank for a launch. -/
def LaunchCore.bank (l : LaunchCore) (b : Nat) : BankSt := if h : b < 48 then l.bst[b] else .foreign

/-- The banks of a mask. -/
def bankList (m : BitVec 48) : List Nat := (List.range 48).filter fun b => m.getLsbD b

/-- Does some bank of a mask stand in a state? -/
def LaunchCore.anyBank (l : LaunchCore) (m : BitVec 48) (st : BankSt) : Bool := (bankList m).any fun b => l.bank b == st
/-- Are all banks of a mask Owned? -/
def LaunchCore.allOwned (l : LaunchCore) (m : BitVec 48) : Bool := (bankList m).all fun b => l.bank b == .owned

/-- A physical bank of a core. -/
def Core.bankRet (k : Core) (b : Nat) : RetSt := if h : b < 48 then (k.banks[b]).ret else .active
def Core.modBank (k : Core) (b : Nat) (g : Bank → Bank) : Core := if h : b < 48 then { k with banks := k.banks.set b (g k.banks[b]) } else k

/-- A bank is asked to leave retention mode from cycle t on: what becomes of it, and the cycle on which it is in use (R276, R330). -/
def RetSt.leave (r : RetSt) (t : Nat) : RetSt × Nat :=
  match r with
  | .active => (.active, t)
  | .entering e _ => (.entering e true, e + 4096)
  | .retained => (.leaving (t + 4096), t + 4096)
  | .leaving e => (.leaving e, e)

/-- A bank becomes Owned by a launch at cycle t, or, if it is retained, when it has left retention mode (R276, R277). -/
def Core.giveBank (k : Core) (lk b t : Nat) : Core :=
  let r := (k.bankRet b).leave t
  (k.modBank b fun x => { x with ret := r.1 }).modLc lk fun l => { l with own := l.own ++ [(b, r.2)] }

/-- BANK_ACQ (R276): Released banks are asked for; it blocks until every named bank is Owned. -/
def execBankAcq (a : Src) (s : State) : Out :=
  syncSlot (.bankAcq a) "BANK_ACQ" s fun f =>
    let m := bankMask (s.readX f a)
    match (s.core f.core).lcOf f.ctx with
    | none => s.raise f 8 0x03 (m.zeroExtend 64)
    | some l =>
      if l.anyBank m .foreign || l.anyBank m .lost then s.raise f 8 0x03 (m.zeroExtend 64)
      else if l.allOwned m then s
      else
        let t := s.cycle f
        let ask := (bankList m).filter fun b => l.bank b == .released && !l.own.any (fun o => o.1 == b)
        (s.block f (.bankAcq m t f.idx)).modCore f.core fun k => ask.foldl (fun k b => k.giveBank l.lk b (t + 1)) k

/-- Chunk writes into a bank among bs write free values, numbered from n on. -/
def freeWrites (bs : List Nat) (free : Nat → BitVec 4096) (n : Nat) (wr : List ChunkW) : List ChunkW :=
  ((List.range wr.length).zip wr).map fun q => if bs.contains (bankOf q.2.addr) then { q.2 with data := bits (free (n + q.1)) 0 512 } else q.2

/-- What an unreleased entry writes into a bank among bs is undefined, since the bank is released first: a free value (R10, R178; log entry 2). -/
def WEntry.breached (e : WEntry) (bs : List Nat) (free : Nat → BitVec 4096) : WEntry :=
  match e.kind with
  | .store wr tag => { e with kind := .store (freeWrites bs free 0 wr) (tag.map fun t => if bs.contains (bankOf (4096 * t.1)) then (t.1, bits (free 64) 0 16) else t) }
  | .tzero tile _ =>
    if bs.contains (bankOf (4096 * tile)) then
      { e with kind := .store (freeWrites bs free 0 ((List.range 64).map fun i => wholeChunk (4096 * tile + 64 * i) 0 0)) (some (tile, bits (free 64) 0 16)) }
    else e
  | .amo ea _ fp _ _ c d => if bs.contains (bankOf ea) then { e with kind := .amo ea 5 fp false (bits (free 0) 0 32) c d } else e
  | .cpRed m => if (blockAddrs m.shape m.dst (shDp m.shape)).any fun a => bs.contains (bankOf a) then { e with kind := .cpRed { m with undef := true } } else e
  | .alight u (some d) (some _) => if bs.contains (bankOf d) then { e with kind := .alight u (some d) (some (bits (free 0) 0 512)) } else e
  | _ => e

/-- The entries of a context that would write a bank it releases. -/
def Ctx.breach (x : Ctx) (bs : List Nat) (free : Nat → BitVec 4096) : Ctx :=
  { x with wh := ((List.range x.wh.length).zip x.wh).map fun q => if q.2.rel.isNone then q.2.breached bs (fun n => free (128 * q.1 + n)) else q.2 }

/-- BANK_REL (R276): Owned banks become Released at issue + 3. -/
def execBankRel (a : Src) (s : State) : Out :=
  syncSlot (.bankRel a) "BANK_REL" s fun f =>
    let m := bankMask (s.readX f a)
    match (s.core f.core).lcOf f.ctx with
    | none => s.raise f 8 0x03 (m.zeroExtend 64)
    | some l =>
      if l.anyBank m .foreign then s.raise f 8 0x03 (m.zeroExtend 64)
      else
        let t := s.cycle f + 3
        let bs := (bankList m).filter fun b => l.bank b == .owned
        (s.modCtx f.core f.ctx fun x => x.breach bs s.freeV).modCore f.core fun k => k.modLc l.lk fun l => { l with rel := l.rel ++ bs.map fun b => (b, t) }

/-- The code of a bank state (R275). -/
def BankSt.code : BankSt → Nat
  | .owned => 0 | .awaited => 1 | .released => 2 | .lost => 3 | .foreign => 0

/-- BANK_TST (R276). The spec states no ADDR for its trap, which names no mask: a free value (log entry 2). -/
def execBankTst (a : Src) (d : BitVec 5) (nw : Bool) (s : State) : Out :=
  syncSlot (.bankTst a d nw) "BANK_TST" s fun f =>
    let b := (bits (s.readX f a) 0 6 : BitVec 6).toNat
    match (((s.core f.core).lcOf f.ctx).map fun l => l.bank b).getD BankSt.foreign with
    | .foreign => s.raise f 8 0x03 (bits (s.freeV 244) 0 64)
    | st => s.resultY f d nw (BitVec.ofNat 64 (st.code + if (s.core f.core).bankRet b = .active then 0 else 4))

/-- The bank changes of a launch that fall due on a cycle (R276, R277): then Owned or Released. -/
def LaunchCore.settleBanks (l : LaunchCore) (cyc : Nat) : LaunchCore :=
  let own := l.own.filter fun o => decide (o.2 ≤ cyc)
  let rel := l.rel.filter fun o => decide (o.2 ≤ cyc)
  { l with
    own := l.own.filter fun o => !decide (o.2 ≤ cyc)
    rel := l.rel.filter fun o => !decide (o.2 ≤ cyc)
    bst := Vector.ofFn fun b : Fin 48 =>
      if own.any (fun o => o.1 == b.val) && (l.bst[b] == .awaited || l.bst[b] == .released) then .owned
      else if rel.any (fun o => o.1 == b.val) && l.bst[b] == .owned then .released
      else l.bst[b] }

/-- The banks that a cycle turns Released start to count as idle (R277). -/
def Core.settleBanks (k : Core) : Core :=
  let idle := k.lcs.flatMap fun l => (l.rel.filter fun o => decide (o.2 ≤ k.cyc) && l.bank o.1 == .owned).map Prod.fst
  let k := idle.foldl (fun k b => k.modBank b fun x => { x with idle := k.cyc }) k
  { k with lcs := k.lcs.map fun l => l.settleBanks k.cyc }

/-- Waiting bank.acq forms of a core: Ready when all is Owned, trap 0x03 when a bank is Lost (R276). -/
def Core.bankWakes (k : Core) : Core :=
  (List.finRange 4).foldl (fun k i =>
    let x := k.ctx i
    match x.wait, k.lcOf i with
    | .bankAcq m t idx, some l =>
      if x.st ≠ .waiting then k
      else if l.anyBank m .lost then
        (k.modCtx i fun x => { x with wait := .none }).addTrap
          ⟨i, l.lk, 0x03, 8, 0, m.zeroExtend 64, idx, t, 0, 0, false⟩
      else if l.allOwned m then k.modCtx i fun x => { x with wait := .none, st := .ready, since := k.cyc }
      else k
    | _, _ => k) k

/-! ### Barriers, guard and fence -/

/-- BAR (R271, R272). -/
def execBar (comm : Bool) (level : BitVec 2) (s : State) : Out :=
  syncSlot (.bar comm level) "BAR" s fun f =>
    let n := ((s.ctx f.core f.ctx).bars level).toNat
    (s.block f (.bar (level.toNat + 1) n)).tryArrive f.core (s.focusLk f)

/-- GUARD (R246). -/
def execGuard (a : Src) (s : State) : Out :=
  syncSlot (.guard a) "GUARD" s fun f =>
    let n := lo32 (s.readX f a)
    let debt := (s.ctx f.core f.ctx).debt
    if debt.toNat > n.toNat then s.raise f 8 0x13 (debt.zeroExtend 64)
    else
      (s.modCore f.core fun k =>
        { k.modLc (s.focusLk f) fun l => { l with scyc := l.scyc + debt.toNat } with
          issueFrom := s.cycle f + 1 + n.toNat - debt.toNat
          paidcnt := k.paidcnt + debt }).modCtx f.core f.ctx fun k => { k with debt := 0 }

/-- FENCE (R262 to R264): checked at the start of the next cycle; context and core scope order nothing. -/
def execFence (kind : BitVec 2) (scope : BitVec 3) (s : State) : Out :=
  syncSlot (.fence kind scope) "FENCE" s fun f =>
    if scope.toNat ≤ 1 then s
    else s.modCore f.core fun k => { k with fence := some ⟨f.ctx, kind.getLsbD 0, kind.getLsbD 1, scope.toNat, false⟩ }

/-! ### Code locks (R84, R88, R89) -/

/-- Windows that a 16-bit mask names. -/
def windows (m : BitVec 16) : List Nat := (List.range 16).filter fun w => m.getLsbD w

/-- The physical window of a launch window. -/
def LaunchCore.phys (l : LaunchCore) (w : Nat) : Nat := (l.wmap[(Fin.ofNat 16 w)]).toNat

/-- Does a launch other than lk hold a lock on a physical window (R84)? -/
def Core.lockedPhys (k : Core) (lk p : Nat) : Bool :=
  k.lcs.any fun l => l.lk != lk && (windows l.locks).any fun w => l.phys w == p

/-- The physical window that R84 gives an unlocked launch window. -/
def Core.mapWindow (k : Core) (lk w : Nat) : Nat :=
  (((List.range 16).find? fun j => !k.lockedPhys lk ((w + j) % 16)).map fun j => (w + j) % 16).getD w

/-- The window map of a launch: locked windows keep their place (R84). -/
def Core.mapAll (k : Core) (l : LaunchCore) (move : Nat → Bool) : LaunchCore :=
  { l with wmap := Vector.ofFn fun w : Fin 16 =>
      if l.locks.getLsbD w.val || !move (l.phys w.val) then l.wmap[w] else BitVec.ofNat 4 (k.mapWindow l.lk w.val) }

/-- Windows locked on a core by all launches (R88). -/
def Core.lockCount (k : Core) : Nat := (k.lcs.map fun l => (windows l.locks).length).sum

/-- Does a kind 6 chunk of a launch cover a window on a core (R89)? -/
def State.coversWindow (s : State) (lk core w : Nat) : Bool :=
  match s.launch lk with
  | some l =>
    match s.imageOf l with
    | some i => i.img.chunks.any fun c => c.kind == 6 && c.pkg == l.lpkg && c.core == core &&
        decide (c.dest < 256 * (w + 1)) && decide (256 * w < c.dest + c.payload.length)
    | none => false
  | none => false

/-- code.lock of R89: the status, and the windows it would lock. -/
def State.lockStatus (s : State) (c : CoreId) (l : LaunchCore) (m : BitVec 16) : Nat × BitVec 16 :=
  let req := m &&& ~~~l.locks
  let ws := windows req
  if req = 0 then (0, 0)
  else if ws.any fun w => !s.coversWindow l.lk c.val w then (2, 0)
  else if ws.any fun w => (List.range 16).any fun v => v != w && l.phys v == l.phys w then (3, 0)
  else if (s.core c).lockCount + ws.length > 8 then (1, 0)
  else (0, req)

/-- Windows are locked; unlocked windows of other launches move away (R84, R89). -/
def Core.grantLock (k : Core) (lk : Nat) (req : BitVec 16) : Core :=
  let ps := match k.lc lk with
    | some l => (windows req).map l.phys
    | none => []
  let k := k.modLc lk fun l => { l with locks := l.locks ||| req }
  { k with lcs := k.lcs.map fun l => if l.lk = lk then l else k.mapAll l fun p => ps.contains p }

/-- One try of code.lock: status and state. -/
def State.tryLock (s : State) (c : CoreId) (lk : Nat) (m : BitVec 16) : Nat × State :=
  match (s.core c).lc lk with
  | some l =>
    let r := s.lockStatus c l m
    (r.1, if r.2 = 0 then s else s.modCore c fun k => k.grantLock lk r.2)
  | none => (0, s)

/-- Waiting code.lock.w forms are tried again, in ascending context number (R89). -/
def State.retryLocks (s : State) (c : CoreId) : State :=
  (List.finRange 4).foldl (fun s i =>
    let x := s.ctx c i
    match x.wait, x.lk with
    | .lock m d nw t, some lk =>
      if x.st ≠ .waiting then s
      else
        let (st, s) := s.tryLock c lk m
        if st = 1 then s
        else
          let g := (s.core c).cyc
          (s.wakeOn c i (g + 2)).addResult c
            ⟨i, lk, t, 8, g + 2, false, destX d nw, BitVec.ofNat 4096 st, allLanes, some 6, 0, false⟩
    | _, _ => s) s

/-- CODE_LOCK (R89). -/
def execCodeLock (a : Src) (d : BitVec 5) (nw : Bool) (s : State) : Out :=
  syncSlot (.codeLock a d nw) "CODE_LOCK" s fun f =>
    let (st, s) := s.tryLock f.core (s.focusLk f) (bits (s.readX f a) 0 16)
    s.resultY f d nw (BitVec.ofNat 64 st)

/-- CODE_LOCK_W (R89): a refusal with status 1 waits. -/
def execCodeLockW (a : Src) (d : BitVec 5) (nw : Bool) (s : State) : Out :=
  syncSlot (.codeLockW a d nw) "CODE_LOCK_W" s fun f =>
    let m : BitVec 16 := bits (s.readX f a) 0 16
    let (st, s) := s.tryLock f.core (s.focusLk f) m
    if st = 1 then s.block f (.lock m d nw (s.cycle f)) else s.resultY f d nw (BitVec.ofNat 64 st)

/-- CODE_UNLOCK (R89). -/
def execCodeUnlock (a : Src) (s : State) : Out :=
  syncSlot (.codeUnlock a) "CODE_UNLOCK" s fun f =>
    let m : BitVec 16 := bits (s.readX f a) 0 16
    let held := (((s.core f.core).lcOf f.ctx).map LaunchCore.locks).getD 0 &&& m
    if held = 0 then s
    else (s.modCore f.core fun k => k.modLc (s.focusLk f) fun l => { l with locks := l.locks &&& ~~~m }).retryLocks f.core

/-! ### The haul forms -/

/-- HAUL_BOARD (R285). -/
def execHaulBoard (b : Src) (d : BitVec 5) (nw : Bool) (s : State) : Out :=
  syncSlot (.haulBoard b d nw) "HAUL_BOARD" s fun f =>
    let lk := s.focusLk f
    if s.skipsHeld lk ≥ ((s.launch lk).map Launch.skips).getD 0 then s.resultY f d nw 0x20000
    else s.haulWait f { s.haulOp f .board 0 0 (bits (s.readV f b) 0 512) d nw with ring := true }

/-- HAUL_ALIGHT (R286): one withhold entry; with SV it waits for its capture. -/
def execHaulAlight (a b : Src) (sv : Bool) (s : State) : Out :=
  syncSlot (.haulAlight a b sv) "HAUL_ALIGHT" s fun f =>
    let v := s.readX f a
    let dst := (s.readX f b).toNat
    let u := s.haulOp f .free v 0 0 0 false
    if skipBad v then s.badSkip f v
    else if sv && !localOk ((s.core f.core).lcOf f.ctx) dst 64 then s.raise f 8 0x03 (BitVec.ofNat 64 dst)
    else if (s.ctx f.core f.ctx).wh.length ≥ 128 then s.raise f 8 0x12 0
    else
      let s := s.withhold f 8 (.alight u (if sv then some dst else none) none)
      if sv then s.haulWait f { u with kind := .capture dst } else s

/-- HAUL_LD (R287). -/
def execHaulLd (a : Src) (d : BitVec 5) (nw : Bool) (s : State) : Out :=
  syncSlot (.haulLd a d nw) "HAUL_LD" s fun f =>
    let v := s.readX f a
    if skipBad v then s.badSkip f v else s.haulWait f (s.haulOp f .ld v 0 0 d nw)

/-- HAUL_PASS (R287). -/
def execHaulPass (a : Src) (d : BitVec 5) (nw : Bool) (s : State) : Out :=
  syncSlot (.haulPass a d nw) "HAUL_PASS" s fun f =>
    let v := s.readX f a
    if skipBad v then s.badSkip f v else s.haulWait f (s.haulOp f .pass v 0 0 d nw)

/-- Does a withheld update of a context to a skip wait for its release (R287)? -/
def Ctx.holdsUpdate (x : Ctx) (a : Word) : Bool :=
  x.wh.any fun e => match e.kind with
    | .haul u | .alight u _ _ => u.skip == a.toNat || (isRing a && u.ring && u.num == a.toNat % 512)
    | _ => false

/-- The bit that a haul.bar sets: V, and an undefined value before the release of updates to the same skip (R10, R287; log entry 2). -/
def State.barBitOf (s : State) (f : Focus) (a : Word) (v : Bool) : BitVec 512 :=
  if (s.ctx f.core f.ctx).holdsUpdate a then bits (s.freeV 287) 0 1 |>.setWidth 512 else BitVec.ofNat 512 v.toNat

/-- HAUL_BAR (R287, R288). -/
def execHaulBar (a b : Src) (v : Bool) (s : State) : Out :=
  syncSlot (.haulBar a b v) "HAUL_BAR" s fun f =>
    let k := s.readX f a
    let w := s.readX f b
    let i := (bits w 0 9 : BitVec 9).toNat
    let n := (bits w 16 10 : BitVec 10).toNat + 1
    let u := s.haulOp f (.barArrive i n v) k 0 (s.barBitOf f k v) 0 false
    if skipBad k then s.badSkip f k
    else if u.ring then s.haulWait f u
    else
      let s := (s.block f .haul).addHaul f.core { u with kind := .barCheck n v, after := s.cycle f + 4 }
      s.fbUpdate f.core u 1 0 false

/-- HAUL_ST (R283). -/
def execHaulSt (a b : Src) (all : Bool) (lane : BitVec 4) (s : State) : Out :=
  syncSlot (.haulSt a b all lane) "HAUL_ST" s fun f =>
    s.haulUpdate f (.st all) (s.readX f a) lane.toNat (if all then bits (s.readV f b) 0 512 else wide (s.readX f b)) 0 false

/-- HAUL_OP (R283). -/
def execHaulOp (a b : Src) (d : BitVec 5) (nw fp : Bool) (op : BitVec 3) (lane : BitVec 4) (s : State) : Out :=
  syncSlot (.haulOp a b d nw fp op lane) "HAUL_OP" s fun f =>
    s.haulUpdate f (.op op.toNat fp) (s.readX f a) lane.toNat (wide (s.readX f b)) d nw

/-- HAUL_XCHG (R283). -/
def execHaulXchg (a b : Src) (d : BitVec 5) (nw : Bool) (lane : BitVec 4) (s : State) : Out :=
  syncSlot (.haulXchg a b d nw lane) "HAUL_XCHG" s fun f =>
    s.haulUpdate f .xchg (s.readX f a) lane.toNat (wide (s.readX f b)) d nw

/-- HAUL_CAS (R283). -/
def execHaulCas (a b : Src) (d : BitVec 5) (nw : Bool) (lane : BitVec 4) (s : State) : Out :=
  syncSlot (.haulCas a b d nw lane) "HAUL_CAS" s fun f =>
    s.haulUpdate f .cas (s.readX f a) lane.toNat (wide (s.readX f b)) d nw

/-- HAUL_LSE (R283). -/
def execHaulLse (a b : Src) (d : BitVec 5) (nw : Bool) (lane : BitVec 4) (s : State) : Out :=
  syncSlot (.haulLse a b d nw lane) "HAUL_LSE" s fun f =>
    s.haulUpdate f .lse (s.readX f a) lane.toNat (wide (s.readX f b)) d nw

/-! ### System registers (R290) -/

/-- A system register as it stands for a context; a write-only or unlisted register reads zero (R290). -/
def State.sysReg (s : State) (c : CoreId) (k : CtxId) (n : Nat) : Word :=
  let x := s.ctx c k
  let core := s.core c
  if h : 1 ≤ n ∧ n ≤ 4 then x.member[n - 1]'(by omega)
  else if h : 0x0C ≤ n ∧ n ≤ 0x0F then zext64 (x.barcnt[n - 0x0C]'(by omega))
  else
    match n with
    | 0x05 => zext64 (s.gcid c.val k.val)
    | 0x06 => ((x.lk.bind s.launch).map fun l => zext64 l.id).getD 0
    | 0x07 => BitVec.ofNat 64 (stageOf c)
    | 0x08 => BitVec.ofNat 64 s.now
    | 0x09 => ((core.lcOf k).map fun l => BitVec.ofNat 64 l.scyc).getD 0
    | 0x10 => zext64 x.fpflags
    | 0x18 => BitVec.ofNat 64 x.wh.length
    | 0x19 => zext64 x.debt
    | 0x1A => core.paidcnt ++ core.frzcnt
    | 0x1B => core.timeout ++ core.spoil
    | _ => 0

/-- SYSRD (R290). -/
def execSysrd (d : BitVec 5) (nw : Bool) (k : BitVec 8) (s : State) : Out :=
  syncSlot (.sysrd d nw k) "SYSRD" s fun f => s.resultY f d nw (s.sysReg f.core f.ctx k.toNat)

/-- SYSWR (R127, R130, R290): FPFLAGS or SRSEED at issue + 2. -/
def execSyswr (a : Src) (k : BitVec 8) (s : State) : Out :=
  syncSlot (.syswr a k) "SYSWR" s fun f =>
    s.result f 8 2 (if k = 0x10 then .fpflags else .srseed) ((s.readX f a).zeroExtend 4096) allLanes none 0

/-! ### Trap, ebrk and end -/

/-- TRAP (R291). -/
def execTrap (a : Src) (s : State) : Out := syncSlot (.trap a) "TRAP" s fun f => s.raise f 8 0x50 (s.readX f a)

/-- EBRK (R291, R348): a halt after part 8 where the policy opens halts, else trap 0x61. -/
def execEbrk (s : State) : Out :=
  syncSlot .ebrk "EBRK" s fun f =>
    if s.isOpen (s.partOf (s.focusLk f)) 0 then
      (s.haltMid f 2 8 0x1FF 0).modCore f.core fun k => { k with held := k.held.map fun h => { h with part := 9 } }
    else s.raise f 8 0x61 0

/-- END (R292). -/
def execEndCtx (s : State) : Out :=
  syncSlot .endCtx "END" s fun f =>
    (s.modCtx f.core f.ctx fun k => { k with st := .ended }).tryArrive f.core (s.focusLk f)

end Sys2Proof.Machine
end

