-- ==== Sys2Proof/Machine/Perform.lean ====
section
/-!
DEFINITION. What accesses do on their perform cycle (R167 to R173, R180, R186, R231 to R237, R240, R248, R288, R305), the release of a withhold buffer (R175, R186, R233, R237, R242, R282), and timed accesses at their target (R236, R244).
-/

namespace Sys2Proof.Machine

/-! ### The release (R175) -/

/-- The plain writes of the entries of a release, in issue order: a tzero wipes earlier writes of its tile. -/
def plainWrites : List WEntry → List ChunkW × List (Nat × BitVec 16) × List Nat × List (ChunkW × BitVec 12)
  | [] => ([], [], [], [])
  | e :: es =>
    let (w, t, z, l) := plainWrites es
    match e.kind with
    | .store wr tag => ((wr.filter fun c => !z.contains (tileOf c.addr)) ++ w, tag.toList ++ t, z, l)
    | .tzero tile g => (w, (tile, g) :: t, tile :: z, l)
    | .alight _ (some d) (some p) =>
      let c := wholeChunk d p 0
      (if z.contains (tileOf d) then w else c :: w, t, z, (c, e.bundle) :: l)
    | _ => (w, t, z, l)

/-- Entries that apply as three-cycle holds at this core, and those that leave for another core, in issue order (R186, R237, R288). -/
def WEntry.isAmo (e : WEntry) : Bool := match e.kind with | .amo .. => true | _ => false
def WEntry.leaves (e : WEntry) : Bool :=
  match e.kind with
  | .ramo .. => true
  | .haul u | .alight u _ _ => !u.ring
  | _ => false
def WEntry.isGatom (e : WEntry) : Bool := match e.kind with | .gatom _ => true | _ => false

/-- The numbered list of entries that a test picks. -/
def numbered (es : List WEntry) (p : WEntry → Bool) : List (Nat × WEntry) :=
  let l := es.filter p
  (List.range l.length).zip l

/-- An access of a release. -/
def relAccess (k : CtxId) (lk : Nat) (e : WEntry) (due rel : Nat) : Access :=
  { due := due, byTick := false, party := .release k, always := true, prio := 16 + rel, ctx := k, lk := lk, issued := e.issued,
    part := e.part, eng := 0, bundle := e.bundle, rd := [], wr := [], tagR := none, tagW := [], zero := [], hold := none, act := .write, lost := [] }

/-- Entry number j that leaves for another core (R237, R288). -/
def State.leaveEntry (s : State) (c : CoreId) (k : CtxId) (lk r j : Nat) (e : WEntry) : State :=
  let at_ := r + 1 + 3 * j
  match e.kind with
  | .ramo pa va op fp b =>
    match padOf pa with
    | some (core, a) =>
      let t := s.oneWay c lk (podPkg pa) core
      let o : Origin := ⟨s.pf.pkg.toNat, c.val, k, lk, e.issued, e.bundle, e.part, 0, t, va, s.now⟩
      let acc : Access :=
        { relAccess k lk e 0 r with
          byTick := true
          party := .remote o.pkg o.core
          prio := 2 ^ 60 + o.pkg * 512 + o.core
          hold := some (bankOf a)
          act := .remAmo o ⟨0, a, op, fp, false, b, 0, 0, 0⟩ }
      s.modCore c fun k => { k with leaving := k.leaving ++ [⟨at_, podPkg pa, core, t, acc⟩] }
    | none => s
  | .haul u | .alight u _ _ =>
    let t := fbTime c u.skip
    s.modCore c fun k =>
      { k with leaving := k.leaving ++
          [⟨at_, s.pf.pkg.toNat, fbHome u.skip, t, s.fbAccess c u (at_ + 2 * t + 3) true true fun o => .hauUpd o u 0 0⟩] }
  | _ => s

/-- The release of one context at cycle r: plain writes now; atomic entries, engine work, untimed requests and haul updates from their cycles on. -/
def State.release (s : State) (c : CoreId) (k : CtxId) (r : Nat) (es : List WEntry) : State :=
  let lk := (s.ctx c k).lk.getD 0
  let (w, t, z, l) := plainWrites es
  let amos := numbered es WEntry.isAmo
  let s := match es with
    | e :: _ => if w.isEmpty && t.isEmpty && z.isEmpty then s
        else s.addAccess c { relAccess k lk e r r with wr := w, tagW := t, zero := z, act := .release l }
    | [] => s
  let s := amos.foldl (fun s e => match e.2.kind with
    | .amo ea op fp cas b cc d =>
      s.addAccess c { relAccess k lk e.2 (r + 1 + 3 * e.1) r with hold := some (bankOf ea), act := .amo ⟨0, ea, op, fp, cas, b, cc, d, 0⟩ }
    | _ => s) s
  let s := (numbered es WEntry.leaves).foldl (fun s e => s.leaveEntry c k lk r e.1 e.2) s
  let s := (numbered es WEntry.isGatom).foldl (fun s e => match e.2.kind with
    | .gatom n => s.modCore c fun q => q.modEntry (Fin.ofNat 64 n) fun x =>
        { x with req := x.req.map fun u => { u with leaveAt := some (r + 1 + e.1), due := some (r + 1 + e.1 + u.l) } }
    | _ => s) s
  es.foldl (fun s e => match e.kind with
    | .cpRed m => s.modCore c fun q => { q with cmdWait := q.cmdWait ++ [{ m with slot := r + 1 + 3 * amos.length, rel := r }] }
    | .haul u | .alight u _ _ => if u.ring then s.addHaul c { u with after := s.now } else s
    | _ => s) s

/-- The context of a core whose release falls due (R175): no two share a cycle. -/
def Core.releaseDue (k : Core) : Option CtxId :=
  (List.finRange 4).find? fun i => (k.ctx i).wh.any fun e => e.rel.any fun r => decide (r ≤ k.cyc)

/-- WITHHOLD_RELEASE (R175). -/
def execWithholdRelease (core : CoreId) (ctx : CtxId) (s : State) : Out :=
  let r := (s.core core).cyc
  let es := (s.ctx core ctx).wh.filter fun e => e.rel.any fun r' => decide (r' ≤ r)
  if es.isEmpty then .fault (.notDue "WITHHOLD_RELEASE")
  else .next ((s.modCtx core ctx fun x => { x with wh := x.wh.filter fun e => !e.rel.any fun r' => decide (r' ≤ r) }).release core ctx r es)

/-- Entries leave for their targets on their cycles (R237). -/
def State.sendLeaving (s : State) (c : CoreId) : State :=
  let k := s.core c
  let due := k.leaving.filter fun l => decide (l.at_ ≤ k.cyc)
  due.foldl (fun s l => s.sendTimed l.acc.lk l.pkg l.core l.t l.acc)
    (s.modCore c fun k => { k with leaving := k.leaving.filter fun l => !decide (l.at_ ≤ k.cyc) })

/-! ### Timed accesses at their target (R236, R244) -/

/-- Is a bank of a core owned by a launch of a partition (R236)? -/
def State.ownedBy (s : State) (c : CoreId) (part b : Nat) : Bool :=
  (s.core c).lcs.any fun l => s.partOf l.lk == part && l.ownsBank b

/-- The banks an access touches. -/
def Access.banks (a : Access) : List Nat := ((a.claims.map fun c => bankOf c.2) ++ a.hold.toList).eraseDups

/-- TIMED_REMOTE_ARRIVAL (R236, R244): an access to a bank not owned by a launch of the issuer's partition fails and takes no port. -/
def execTimedRemoteArrival (core : CoreId) (s : State) : Out :=
  match s.wire.find? (fun w => w.target == core && decide (w.acc.due ≤ s.now)) with
  | some w =>
    let s := { s with wire := s.wire.erase w }
    match w.acc.banks.find? (fun b => !s.ownedBy core w.part b) with
    | some b =>
      let a := ((w.acc.claims.find? fun c => bankOf c.2 == b).map Prod.snd).getD 0
      .next (s.failAcc core w.acc 0x21 (podAddr s.pf.pkg.toNat (localPa core a)))
    | none => .next (s.addAccess core w.acc)
  | none => .fault (.notDue "TIMED_REMOTE_ARRIVAL")

/-- The first report of a core that has come back and raises a trap. -/
def Core.reportDue (k : Core) (now : Nat) : Option Report := k.reports.find? fun r => decide (r.due ≤ now) && r.member.isNone

/-- REMOTE_FAILURE_REPORT (R236). -/
def execRemoteFailureReport (core : CoreId) (s : State) : Out :=
  match (s.core core).reportDue s.now with
  | some r => .next (s.modCore core fun k => { k with reports := k.reports.erase r }.addTrap r.trap)
  | none => .fault (.notDue "REMOTE_FAILURE_REPORT")

/-- Outcomes of mcast members that have come back (R248). -/
def State.landMembers (s : State) (c : CoreId) : State :=
  let due := (s.core c).reports.filter fun r => decide (r.due ≤ s.now) && r.member.isSome
  due.foldl (fun s r => s.memberKnown c r.trap.ctx r.trap.origin (r.member.getD 0) (r.trap.cause != 0))
    (s.modCore c fun k => { k with reports := k.reports.filter fun r => !(decide (r.due ≤ s.now) && r.member.isSome) })

/-! ### Link engines and DEBT (R305) -/

/-- The spans of a core's scratchpad that entries of a kind of a launch's current plan name: first address and bytes (R303). -/
def State.linkSpans (s : State) (c : CoreId) (lk kind : Nat) : List (Nat × Nat) :=
  match s.launch lk with
  | some l =>
    (s.plan l l.pod.variant).elim [] fun d => ((List.range (planProgs d)).flatMap fun p => planEntries d l.lpkg p).filterMap fun e =>
      match regionOf (peLaddr e) with
      | .pad k a => if peKind e = kind ∧ k = c then some (a, 128 * peFlits e) else none
      | _ => none
  | none => []

/-- Does an access of a core's own launch touch a chunk that a SEND reads (kind 0) or a RECV writes (kind 2) while a context of the launch there holds DEBT (R305)? -/
def State.inDebt (s : State) (c : CoreId) (a : Access) (kind addr : Nat) : Bool :=
  (match a.party with
    | .link _ | .remote .. | .station => false
    | _ => true) &&
  ((List.finRange 4).any fun i => (s.ctx c i).lk == some a.lk && (s.ctx c i).debt != 0) &&
    (s.linkSpans c a.lk kind).any fun q => decide (addr < q.1 + q.2) && decide (q.1 < addr + 64)

/-- What an access writes to a SEND source while its core holds DEBT is undefined (R10, R305; log entry 2). -/
def State.debtWrites (s : State) (c : CoreId) (a : Access) : Access :=
  { a with wr := ((List.range a.wr.length).zip a.wr).map fun q =>
      if s.inDebt c a 0 q.2.addr then { q.2 with data := bits (s.freeV (3072 + q.1)) 0 512 } else q.2 }

/-! ### Reads -/

/-- A byte out of chunks that have been read. -/
def byteIn (cs : List (Nat × BitVec 512)) (a : Nat) : Nat :=
  match cs.find? (fun c => c.1 == chunkOf a) with
  | some c => elemNat 8 c.2 (a % 64)
  | none => 0

/-- n bytes out of chunks that have been read. -/
def bytesIn (cs : List (Nat × BitVec 512)) (a n : Nat) : Nat := packNat 8 ((List.range n).map fun i => byteIn cs (a + i))

/-- The value that a load writes (R99, R104, R180). -/
def LdRec.value (l : LdRec) (cs : List (Nat × BitVec 512)) (tag : BitVec 16) : VReg :=
  match l.kind with
  | .scal w signed =>
    let v := bytesIn cs l.ea w
    (BitVec.ofInt 64 (if signed && v.testBit (8 * w - 1) then (v : Int) - 2 ^ (8 * w) else v)).zeroExtend 4096
  | .vldb w => BitVec.ofNat 4096 (packNat (8 * w) (List.replicate (512 / w) (bytesIn cs l.ea w)))
  | .ldtag => tag.zeroExtend 4096
  | _ => BitVec.ofNat 4096 (packNat 32 ((List.range 128).map fun lane =>
      match l.wen.getLsbD lane, l.laneAddr lane with
      | true, some a => packNat 8 ((List.range 4).map fun i => if l.inBound (a + i) then byteIn cs (a + i) else 0)
      | _, _ => 0))

/-- A load has performed (R170, R173, R176, R180): the tag check, then poison, then the result at issue + 4. What it reads of a RECV destination while its core holds DEBT is undefined (R305; log entry 2). -/
def State.loadDone (s : State) (c : CoreId) (a : Access) (l : LdRec) : State :=
  let cs := ((List.range a.rd.length).zip a.rd).map fun q =>
    (q.2, if s.inDebt c a 2 q.2 then bits (s.freeV (2048 + q.1)) 0 512 else s.fwdChunk c a.ctx a.issued q.2)
  let tag := s.fwdTag c a.ctx a.issued (tileOf l.ea)
  let s := s.noteReads (dieOf c) ((l.bytes.map fun b => localPa c b / 8).eraseDups)
  if l.tagWant.any (· != tag) then s.failAcc c a 0x10 l.ea
  else
    match s.poisonIn c l.bytes with
    | some p => s.failAcc c a 0x30 p
    | none =>
      if l.dest = .none ∧ l.unit.isNone then s
      else s.addResult c ⟨a.ctx, a.lk, a.issued, a.part, a.issued + 4, false, l.dest, l.value cs tag, l.wen, l.unit, 0, false⟩

/-- The chunks of an access as memory stands, with their poison marks. What a party that always performs would have read on a port it lost is undefined, and so is a RECV destination while the core holds DEBT (R169, R305; log entry 2). -/
def State.chunksOf (s : State) (c : CoreId) (a : Access) : List (BitVec 512 × BitVec 8) :=
  ((List.range a.rd.length).zip a.rd).map fun q =>
    if a.lost.contains (rdPort q.2) ∨ s.inDebt c a 2 q.2 then (bits (s.freeV (2048 + q.1)) 0 512, 0) else (s.chunk c q.2, s.padPoison c q.2)

/-- The lowest word, among those of chunks read that a form uses, that the marks of the chunks name as poisoned (R134, R200). -/
def MForm.firstPoison (m : MForm) (rd : List Nat) (data : List (BitVec 512 × BitVec 8)) : Option Nat :=
  (((List.range rd.length).zip (rd.zip data)).flatMap fun q =>
    ((List.range 8).filter fun i => q.2.2.2.getLsbD i && m.usesWord (8 * q.1 + i)).map fun i => q.2.1 + 8 * i).min?

/-- A row as chunks. -/
def splitChunks (row n : Nat) : List (BitVec 512) := (List.range n).map fun i => BitVec.ofNat 512 (row >>> (512 * i))

/-- A matrix form's row has been read, or, of mma.r, is broadcast out of what its target sent (R191, R209). -/
def State.matRow (s : State) (c : CoreId) (a : Access) (form i : Nat) : State :=
  match (s.core c).mforms.find? (fun m => m.id == form) with
  | some m =>
    if m.kind = .mmaR then
      match m.got.find? (fun g => g.1 == i) with
      | some g => s.rowRead c m i (splitChunks g.2.1 64) none
      | none => s
    else s.rowRead c m i ((s.chunksOf c a).map Prod.fst) (m.firstPoison a.rd (s.chunksOf c a))
  | none => s

/-- Data read at a target reach the issuing core: those of rrd are written, a row of mma.r waits for its broadcast (R209, R235). -/
def State.replyHome (s : State) (home : CoreId) (o : Origin) (a : Access) (data : List (BitVec 512 × BitVec 8)) : State :=
  let base : Access :=
    { due := o.back, byTick := false, party := .engine, always := false, prio := 0, ctx := o.ctx, lk := o.lk, issued := o.issued,
      part := o.part, eng := 1, bundle := o.bundle, rd := [], wr := [], tagR := none, tagW := [], zero := [], hold := none,
      act := .write, lost := [] }
  match a.act with
  | .remRd _ dst tag =>
    s.addAccess home { base with
      wr := zipWrites dst data
      tagW := match tag with
        | some g => ((dst.map tileOf).eraseDups).map fun t => (t, g)
        | none => [] }
  | .remRow _ form i =>
    let marked := ((s.core home).mforms.find? fun m => m.id == form).bind fun m => m.firstPoison a.rd data
    let s := s.keepGot home form i (joinChunks (data.map Prod.fst)) 0 marked
    s.addAccess home { base with party := .matrix, eng := 2, act := .mrow form i }
  | _ => s

/-- What a read at a target sends home, or to another package (R209, R235). -/
def State.replyTo (s : State) (o : Origin) (a : Access) (data : List (BitVec 512 × BitVec 8)) : State :=
  if o.pkg ≠ s.pf.pkg.toNat then s.emit (.answer o.pkg o.core a data none)
  else
    match coreOf o.core with
    | none => s
    | some home => s.replyHome home o a data

/-- The four bytes at an address of a core. -/
def State.word32 (s : State) (c : CoreId) (a : Nat) : BitVec 32 := BitVec.ofNat 32 (s.pad c a 4)

/-- One stage of an atomic application moves to the next (R186). -/
def State.amoStage (s : State) (c : CoreId) (a : Access) (r : AmoRec) (mk : AmoRec → Act) : State :=
  let r := if r.stage = 0 then { r with old := s.word32 c r.ea } else r
  let s := if r.stage = 0 then s.noteReads (dieOf c) [localPa c r.ea / 8] else s
  if r.stage < 2 then s.addAccess c { a with due := a.due + 1, act := mk { r with stage := r.stage + 1 } } else s

/-- What an access reads performs, memory still as the writes of earlier cycles left it (R167). -/
def State.readAcc (s : State) (c : CoreId) (a : Access) : State :=
  match a.act with
  | .load l => s.loadDone c a l
  | .piece m k => (s.noteChunks c a.rd).pieceRead c m k (s.chunksOf c a)
  | .gstRd e => (s.noteChunks c a.rd).gstData c e (s.chunksOf c a)
  | .table m => (s.noteChunks c a.rd).tableRead c m (((s.chunksOf c a).headD (0, 0)).1)
  | .mrow form i => (s.noteChunks c a.rd).matRow c a form i
  | .remRd o _ _ | .remRow o _ _ => (s.noteChunks c a.rd).replyTo o a (s.chunksOf c a)
  | .amo r => s.amoStage c a r fun r => .amo r
  | .remAmo o r => s.amoStage c a r fun r => .remAmo o r
  | .hauRd o _ => (s.noteChunks c a.rd).fbDone o (s.chunk c (a.rd.headD 0))
  | .hauUpd o u st old =>
    let old := if st = 0 then s.chunk c (fbAddr u.skip) else old
    let s := if st = 0 then s.noteChunks c [fbAddr u.skip] else s
    if st < 2 then s.addAccess c { a with due := a.due + 1, act := .hauUpd o u (st + 1) old } else s
  | .linkRd _ lk entry flit =>
    let d := s.chunksOf c a
    let pay : BitVec 1024 := (d.getD 1 (0, 0)).1 ++ (d.getD 0 (0, 0)).1
    let mark : BitVec 16 := (d.getD 1 (0, 0)).2 ++ (d.getD 0 (0, 0)).2
    let put (r : Run) : Run := { r with flows := r.flows.map fun (w : Flow) =>
      if w.idx = entry then { w with buf := w.buf ++ [⟨flit, s.now, none, some (pay, mark)⟩] } else w }
    (s.noteChunks c a.rd).modLaunch lk fun l => { l with pod := { l.pod with ready := l.pod.ready.map put, running := if l.pod.ready.isSome then l.pod.running else l.pod.running.map put } }
  | .spent n => if n = 0 then s else s.addAccess c { a with due := a.due + 1, act := .spent (n - 1), lost := [] }
  | _ => s

/-! ### Writes -/

/-- The write of an atomic application on its last cycle, and its value on the next (R186, R237). -/
def State.amoWrite (s : State) (c : CoreId) (a : Access) (r : AmoRec) : State :=
  let wr := chunksFor r.ea 4 (amoNew r.op r.fp r.cas r.old r.b r.c).toNat (fun _ => true)
  let s := wr.foldl (fun s w => s.writeLocal c w) s
  let s := s.watchWrites c a wr
  match a.act with
  | .amo _ =>
    if r.d = 0 then s
    else s.addResult c ⟨a.ctx, a.lk, a.issued, a.part, (s.core c).cyc + 1, false, .x r.d, (amoOld r.fp r.old).zeroExtend 4096,
      allLanes, none, 0, true⟩
  | _ => s

/-- The write of a fallback haul update on its last cycle, and its value at a + T + 3 (R283, R288). -/
def State.hauWrite (s : State) (c : CoreId) (a : Access) (o : Origin) (u : HaulOp) (old : BitVec 512) : State :=
  if u.kind = .free then s
  else
    let r := Machine.haulUpdate u.kind u.lane u.b old
    let w := wholeChunk (fbAddr u.skip) r.1 0
    let w := match u.kind with
      | .st true => w
      | .lse => { w with mask := BitVec.ofNat 128 (fullMask (4 * u.lane) 8) }
      | .barArrive i _ _ => { w with mask := BitVec.ofNat 128 (fullMask (4 * (i / 32)) 4) }
      | _ => { w with mask := BitVec.ofNat 128 (fullMask (4 * u.lane) 4) }
    let s := (s.writeLocal c w).watchWrites c a [w]
    match r.2, coreOf o.core with
    | some v, some home => s.addResult home (u.result o.back false true (destX u.d u.nw) (v.zeroExtend 4096))
    | _, _ => s

/-- The outcome of a member write of an mcast on its way back: cause 0 (R248). -/
def State.memberDone (s : State) (o : Origin) (a : Access) (member : Option Nat) : State :=
  match member with
  | none => s
  | some w =>
    if o.pkg ≠ s.pf.pkg.toNat then s.emit (.answer o.pkg o.core a [] none)
    else
      match coreOf o.core with
      | some k => s.modCore k fun k => { k with reports := k.reports ++ [⟨s.now + o.t, o.trap 0 0, some w, o⟩] }
      | none => s

/-- What an access writes performs (R167). -/
def State.applyAcc (s : State) (c : CoreId) (a : Access) : State :=
  match a.act with
  | .amo r | .remAmo _ r => if r.stage = 2 then s.amoWrite c a r else s
  | .hauUpd o u st old => if st = 2 then s.hauWrite c a o u old else s
  | .remWr o m => (s.writeAcc c a).memberDone o a m
  | .linkWr _ =>
    match (a.wr.map fun w => bankOf w.addr).find? (fun b => !((s.core c).lc a.lk).any fun l => l.ownsBank b) with
    | some b => s.failAny c a 0x21 (b * 0x20000)
    | none => s.writeAcc c a
  | .write | .release _ => s.writeAcc c a
  | _ => s

/-! ### A cycle of the ports -/

/-- The rest of the hold of an atomic application that lost a port: its other ports, on that cycle and later, are held as scheduled (R169; log entry 148, DEDUCED). -/
def Access.spent (a : Access) : Option Access :=
  let rest (stage : Nat) : Option Access := if stage < 2 then some { a with due := a.due + 1, act := .spent (1 - stage), lost := [] } else none
  if !a.always || a.lost.isEmpty then none
  else match a.act with
    | .amo r | .remAmo _ r => rest r.stage
    | .hauUpd _ _ st _ => rest st
    | _ => none

/-- Does an access that lost a port not perform at all (R168, R169)? -/
def Access.dropped (a : Access) : Bool :=
  !a.lost.isEmpty && (!a.always || match a.act with
    | .amo _ | .remAmo _ _ | .hauUpd _ _ _ _ => true
    | _ => false)

/-- May a link-engine access read its bank (R305)? -/
def State.linkBad (s : State) (c : CoreId) (a : Access) : Bool :=
  match a.act with
  | .linkRd .. => a.rd.any fun x => !((s.core c).lc a.lk).any fun l => l.ownsBank (bankOf x)
  | _ => false

/-- One access that has not failed reads; free values that it takes for ports it lost are its own (log entry 2). -/
def State.readOne (s : State) (c : CoreId) (a : Access) : State :=
  if s.linkBad c a then s.failAny c a 0x21 (a.rd.headD 0)
  else if a.lost.isEmpty ∧ !a.rd.any (s.inDebt c a 2) then s.readAcc c a else (s.readAcc c a).tickFree

/-- An access that lost a port fails; the rest of a hold has failed already (R168, R169). -/
def State.failLost (s : State) (c : CoreId) (a : Access) : State :=
  match a.act with
  | .spent _ => s
  | _ => if a.lost.isEmpty then s else s.failAny c a 0x11 a.lostAddr

/-- One access that has not failed writes; free values that it writes are its own. -/
def State.writeOne (s : State) (c : CoreId) (a : Access) : State :=
  if a.wr.any fun w => s.inDebt c a 0 w.addr then (s.applyAcc c (s.debtWrites c a)).tickFree else s.applyAcc c a

/-- The accesses of a core that perform now: judged, the losers failed, then every read, then every write (R167 to R169). A read of bytes that are late waits (R171). -/
def State.performAll (s : State) (c : CoreId) : State :=
  let k := s.core c
  let due := k.acc.filter fun a => a.isDue k s.now && !(a.byTick && s.tickLate c a)
  if due.isEmpty then s
  else
    let js := judged due
    let s := js.foldl (fun s a => s.failLost c a) s
    let ok := js.filter fun a => !a.dropped
    let s := ok.foldl (fun s a => s.readOne c a) s
    let s := s.modCore c fun k => { k with acc := (k.acc.filter fun a => !due.contains a) ++ js.filterMap Access.spent }
    ok.foldl (fun s a => s.writeOne c a) s

end Sys2Proof.Machine
end

