-- ==== Sys2Proof/Machine/Fetch.lean ====
section
/-!
DEFINITION. The bundle store and the fetch engine (R14, R15, R83, R86 to R88, R171), the selection of a context (R81), late landings and what freezes a core (R243), halts at a bundle boundary (R346, R348), and the start of a core's clock period.
-/

namespace Sys2Proof.Machine

/-! ### The fetch engine (R14, R15, R87) -/

/-- Is a chunk of kind 7 or 8 one of those that the banks receive between binding and the start cycle (R48)? -/
def LaunchCore.initial (l : LaunchCore) (k : Chunk) : Bool := !l.started && k.kind != 6 && k.firstUse == 0

/-- May a reusing chunk be written by its FIRSTUSE (R15, R87)? Before the start cycle SCYC has no value: the cycles that are left until it count below 0 (log entry 117). -/
def State.reuseMay (s : State) (l : LaunchCore) (k : Chunk) : Bool :=
  let ahead := (s.launch l.lk).elim 0 fun q => q.start - s.now
  decide (k.firstUse + ahead ≤ (if ahead = 0 then l.scyc else 0) + 2048)

/-- May the fetch engine write the next word of a launch's stream now, the ports in use given (R15, R48, R86 to R88, R171)? -/
def State.fetchMay (s : State) (busy : List Nat) (l : LaunchCore) (no : Nat) (k : Chunk) (reuse : Bool) : Bool :=
  s.chunkHere l.lk no && (!reuse || s.reuseMay l k) &&
    (l.initial k || match k.kind with
    | 6 => !(windows l.locks).any fun w => decide (k.dest < 256 * (w + 1)) && decide (256 * w < k.dest + chunkWords k)
    | 7 => !((chunksFor (k.dest + 64 * l.fpos) 64 0 (fun _ => true)).any fun w => busy.contains (wrPort w.addr))
    | _ => !busy.contains (tagWPort (k.dest / 4096 + 32 * l.fpos)) && !busy.contains (tagWPort (k.dest / 4096 + 32 * l.fpos + 31)))

/-- The launches of a core whose streams are fetched: those that have yet to start come first, so that their banks receive their bytes before the start cycle (R48). -/
def State.fetching (s : State) (c : CoreId) : List LaunchCore :=
  let ls := (s.core c).lcs.filter fun l => (s.launch l.lk).any fun q => q.st == .bound
  (ls.filter fun l => !l.started) ++ ls.filter fun l => l.started

/-- The next word of the launches of a core that may be written: launch, chunk number, chunk, and whether the chunk is a reusing one. -/
def State.fetchNext (s : State) (c : CoreId) (busy : List Nat) : Option (LaunchCore × Nat × Chunk × Bool) :=
  (s.fetching c).findSome? fun l =>
    let st := s.stream c l.lk
    match st[l.fchunk]? with
    | some (no, k) => if s.fetchMay busy l no k (reusing st l.fchunk) then some (l, no, k, reusing st l.fchunk) else none
    | none => none

/-- The physical bundle-store slot of a launch index (R84). -/
def LaunchCore.slot (l : LaunchCore) (idx : Nat) : Nat := 256 * l.phys (idx / 256 % 16) + idx % 256

/-- The slot of a launch index takes a bundle of a chunk (R84, R86, R328). -/
def Core.storeSlot (k : Core) (l : LaunchCore) (idx : BitVec 12) (no : Nat) : Core :=
  let slot := l.slot idx.toNat
  { k.heal (fun | .store _ n _ => n == slot | _ => false) with
    store := tabSet k.store slot ⟨l.lk, no, idx, false⟩
    storeErr := setDel slot k.storeErr }

/-- Word n of a chunk is written into its core (R14, R86, R171). -/
def State.chunkWord (s : State) (c : CoreId) (l : LaunchCore) (no : Nat) (k : Chunk) (n : Nat) : State :=
  let w := k.payload.getD n 0
  match k.kind with
  | 6 => s.modCore c fun q => q.storeSlot l (BitVec.ofNat 12 (k.dest + n)) no
  | 7 => (chunksFor (k.dest + 64 * n) 64 w.toNat (fun _ => true)).foldl (fun s x => s.writeLocal c x) s
  | _ => (List.range 32).foldl (fun s i =>
      if k.dest / 4096 + 32 * n + i < 1536 then s.setTag c (k.dest / 4096 + 32 * n + i) (bits w (16 * i) 16) else s) s

/-- The fetch engine writes the next word of a launch's stream, or all that is left of a chunk which the banks receive before the start cycle, and moves on (R48, R86, R171). -/
def State.fetchWrite (s : State) (c : CoreId) (l : LaunchCore) (no : Nat) (k : Chunk) : State :=
  let upto := if l.initial k then chunkWords k else min (l.fpos + 1) (chunkWords k)
  let s := (List.range' l.fpos (upto - l.fpos)).foldl (fun s n => s.chunkWord c l no k n) s
  s.modCore c fun q => q.modLc l.lk fun l =>
    if upto < chunkWords k then { l with fpos := upto } else { l with fchunk := l.fchunk + 1, fpos := 0 }

/-- The chunks of kinds 7 and 8 with FIRSTUSE 0 that stand next in the stream of a launch which has yet to start, written whole, as many as `n` (R48). -/
def State.fetchInitial (s : State) (c : CoreId) (lk : Nat) : Nat → State
  | 0 => s
  | n + 1 =>
    match (s.core c).lc lk with
    | none => s
    | some l =>
      let st := s.stream c lk
      match st[l.fchunk]? with
      | some (no, k) =>
        if l.initial k && !reusing st l.fchunk && s.fetchMay [] l no k false then (s.fetchWrite c l no k).fetchInitial c lk n else s
      | none => s

/-- Between binding and the start cycle the banks of a launch receive the chunks that stand next in its stream, as they arrive (R48). -/
def State.fetchInitials (s : State) (c : CoreId) : State :=
  ((s.fetching c).filter fun l => !l.started).foldl (fun s l => s.fetchInitial c l.lk (s.stream c l.lk).length) s

/-- REUSING_CHUNK_WRITE (R15, R87): the next word of a reusing chunk whose cycle has come is written. -/
def execReusingChunkWrite (core : CoreId) (lk : Nat) (s : State) : Out :=
  match (s.core core).lc lk with
  | some l =>
    let st := s.stream core lk
    match st[l.fchunk]? with
    | some (no, k) =>
      if reusing st l.fchunk && s.fetchMay [] l no k true then .next (s.fetchWrite core l no k)
      else .fault (.notDue "REUSING_CHUNK_WRITE")
    | none => .fault (.notDue "REUSING_CHUNK_WRITE")
  | none => .fault (.notDue "REUSING_CHUNK_WRITE")

/-! ### Fetching a bundle (R86) -/

/-- The chunk expected at a launch index: the latest one covering it whose writing has begun (R86). -/
def State.expected (s : State) (c : CoreId) (l : LaunchCore) (idx : Nat) : Option (Nat × Chunk) :=
  let st := (s.stream c l.lk).take (l.fchunk + if l.fpos = 0 then 0 else 1)
  (st.filter fun p => p.2.kind == 6 && decide (p.2.dest ≤ idx) && decide (idx < p.2.dest + chunkWords p.2)).getLast?

/-- The bundle at a launch index, when its slot holds the expected chunk (R86). -/
def State.fetch (s : State) (c : CoreId) (l : LaunchCore) (idx : Nat) : Option BundleWord :=
  match s.expected c l idx with
  | some (no, k) =>
    let slot := l.slot idx
    if tabGet? (s.core c).store slot == some ⟨l.lk, no, BitVec.ofNat 12 idx, false⟩ && !(s.core c).storeErr.contains slot then k.payload[idx - k.dest]? else none
  | none => none

/-! ### Selection (R80, R81) -/

/-- The first Ready context in the order k + 1, k + 2, k + 3, k. -/
def Core.firstReady (k : Core) : Option CtxId :=
  ([1, 2, 3, 4].map fun n : Nat => (Fin.ofNat 4 (k.port.val + n) : CtxId)).find? fun i => (k.ctx i).st == .ready

/-- The first context, in the same order, that was Ready before this cycle. -/
def Core.firstStanding (k : Core) : Option CtxId :=
  ([1, 2, 3, 4].map fun n : Nat => (Fin.ofNat 4 (k.port.val + n) : CtxId)).find? fun i => (k.ctx i).st == .ready && (k.ctx i).since != k.cyc

/-- Does a context hold the port? -/
def Core.portHeld (k : Core) : Bool := (k.ctx k.port).st == .running

/-- The context that issues on this cycle, if any (R81, R246): a port left on the cycle before goes to a context that was Ready then.
One that becomes Ready on this very cycle issues on the next (R379; log entry 119). -/
def Core.issuing (k : Core) : Option CtxId :=
  if k.portHeld then (if k.issueFrom ≤ k.cyc then some k.port else none)
  else if k.vacated then k.firstStanding
  else none

/-- The context that a halt before a bundle names (R348). -/
def Core.nextCtx (k : Core) : CtxId := if k.portHeld then k.port else (k.firstReady).getD k.port

/-- The bundle that a context issues next: its launch's record, its index and its word, when its slot holds it. -/
def State.nextWord (s : State) (c : CoreId) (i : CtxId) : Option BundleWord :=
  match (s.core c).lcOf i with
  | some l => s.fetch c l ((s.ctx c i).pc).toNat
  | none => none

/-! ### Translation handles that a bundle reads (R64, R238) -/

/-- The handle sources of a form. -/
def handlesOf : Instr → List Src
  | .rwr o => [o.b]
  | .rrd o | .ramo o | .gld o | .gst o | .gatom o => [o.a]
  | .mmaR o => [o.a]
  | _ => []

/-- The handles a bundle reads. -/
def bundleHandles (b : BundleWord) : List (BitVec 3) :=
  ([4, 7].flatMap fun p => match bundleOp b p with
    | .form i => handlesOf i
    | _ => []).filterMap fun
      | .reg n => some (bits n 0 3)
      | _ => none

/-- Does the bundle that issues on this cycle read the handle of a walk? -/
def State.readsHandle (s : State) (c : CoreId) (w : Walk) : Bool :=
  match (s.core c).issuing with
  | some i => i == w.ctx && match s.nextWord c i with
      | some b => (bundleHandles b).contains w.d
      | none => false
  | none => false

/-- A walk that is due: its handle is written at issue + 160, or on the cycle on which a form reads it (R238). -/
def State.walkWanted (s : State) (c : CoreId) (w : Walk) : Bool := decide (w.issued + 160 ≤ (s.core c).cyc) || s.readsHandle c w

/-- The first walk whose handle is written on this cycle. -/
def State.walkDue (s : State) (c : CoreId) : Option Walk := (s.core c).walks.find? fun w => w.res.isSome && s.walkWanted c w

/-- WALK_END (R238). -/
def execWalkEnd (core : CoreId) (s : State) : Out :=
  match s.walkDue core with
  | some w => .next (s.landWalk core w)
  | none => .fault (.notDue "WALK_END")

/-! ### Waits that end -/

/-- Contexts whose wait is over become Ready (R80, R89, R272, R276, R287, R321, R324). -/
def Core.wakes (k : Core) (now : Nat) : Core :=
  { k with ctxs := k.ctxs.map fun x =>
      let due := x.wakeTick.any (fun t => decide (t ≤ now)) || x.wakeCyc.any (fun t => decide (t ≤ k.cyc))
      if due && (x.st == .waiting || (x.st == .trapped && x.rb.any fun r => r.2)) then
        { x with st := .ready, since := k.cyc, wait := .none, wakeTick := none, wakeCyc := none, rb := none }
      else x }

/-- Haul forms that may not act trap on their tick (R284). -/
def Core.failTraps (k : Core) (now : Nat) : Core :=
  (k.haul.filter fun u => u.kind == .fail && decide (u.after ≤ now)).foldl (fun k u =>
    { k with haul := k.haul.filter (· != u) }.addTrap (u.trap 0x03)) k

/-- The contexts and banks of a core at the start of a cycle: bank changes, traps and wakes that fall due. -/
def Core.openContexts (k : Core) (now : Nat) : Core := (((k.settleBanks).bankWakes).failTraps now).wakes now

/-! ### Late landings (R86, R171) -/

/-- The engine pieces that read on this cycle. -/
def Core.pieceReadsNow (k : Core) : List (Nat × CtxId × Nat × BitVec 12 × List Nat) :=
  (k.cmds.filter fun c => c.kind != .rrd && decide (c.next < c.pieces) && decide (c.slot + c.next ≤ k.cyc)).map fun c =>
    (c.lk, c.ctx, c.issued, c.bundle, c.pieceReads c.next)

/-- The trap 0x14 of a late landing that never ends (R88). The spec states no ADDR for it: a free value (log entry 2). -/
def State.lateTrap (s : State) (ctx : CtxId) (lk part : Nat) (bundle : BitVec 12) (issued : Nat) : Trap :=
  ⟨ctx, lk, 0x14, part, 0, bits (s.freeV 245) 0 64, bundle, issued, 0, 0, false⟩

/-- What waits for a late landing on this cycle, as the trap it would end in: the bundle that would issue, or a read (R86, R171). -/
def State.late (s : State) (c : CoreId) : Option Trap :=
  let k := s.core c
  let fetch := match k.issuing with
    | some i => if (s.nextWord c i).isNone then some (s.lateTrap i ((k.ctx i).lk.getD 0) 9 (k.ctx i).pc k.cyc) else none
    | none => none
  match fetch with
  | some t => some t
  | none =>
    let acc := k.acc.find? fun a => !a.byTick && decide (a.due ≤ k.cyc) && s.dataLate c a.lk a.readBytes a.tagR
    match acc with
    | some a => some (s.lateTrap a.ctx a.lk a.part a.bundle a.issued)
    | none =>
      (k.pieceReadsNow.find? fun p => s.dataLate c p.1 (wholeBytes p.2.2.2.2) none).map fun p => s.lateTrap p.2.1 p.1 7 p.2.2.2.1 p.2.2.1

/-- A fetch of the context that would issue finds another content: a refetch from the loaded image starts (R86). -/
def State.startRefetch (s : State) (c : CoreId) (who : Option CtxId) : State :=
  let k := s.core c
  match k.refetch, who with
  | none, some i =>
    match k.lcOf i with
    | some l =>
      let idx := (k.ctx i).pc
      if (s.fetch c l idx.toNat).isSome || (s.expected c l idx.toNat).isNone then s
      else
        (s.modCore c fun k => { k with refetch := some (l.lk, idx, s.now + 1 + Config.refetchTime s.freeCtr) }).tickFree
    | none => s
  | _, _ => s

/-- Clock periods after which a late landing ends in a trap (R88, R247). -/
def State.lateOut (s : State) (c : CoreId) : Bool := (s.core c).lateSince.any fun t => decide (t + timeoutPeriods ≤ s.now)

/-- The first access of another core or of a link engine that waits for a late landing of a core on this tick, one that arrives now among them (R171, R236, R244, R305; log entry 121). -/
def State.lateTick (s : State) (c : CoreId) : Option Access :=
  let here := (s.core c).acc.filter fun a => a.byTick && decide (a.due ≤ s.now)
  let coming := (s.wire.filter fun w => w.target == c && decide (w.acc.due ≤ s.now) && w.acc.banks.all fun b => s.ownedBy c w.part b).map Wire.acc
  (here ++ coming).find? fun a => s.tickLate c a

/-- Does a core wait for a late landing on this tick (R86, R171)? -/
def State.waitsLate (s : State) (c : CoreId) : Bool := (s.late c).isSome || (s.lateTick c).isSome

/-- What waits for a late landing of a core whose cycle has not begun: its contexts are judged as the cycle would find them. -/
def State.lateNow (s : State) (c : CoreId) : Option Trap :=
  let k := (s.core c).openContexts s.now
  (s.setCore c k).late c

/-- Is a refetched bundle landing, or has a late landing timed out? -/
def State.lateDue (s : State) (c : CoreId) : Bool :=
  match (s.core c).refetch with
  | some r => decide (r.2.2 ≤ s.now)
  | none => s.lateOut c && ((s.lateNow c).isSome || (s.lateTick c).isSome)

/-- An access that has waited for a late landing too long fails at its own core (R88, R236). -/
def State.lateFails (s : State) (c : CoreId) (a : Access) : State :=
  { s.modCore c fun k => { k with acc := k.acc.erase a } with wire := s.wire.filter fun w => !(w.target == c && w.acc == a) }.failAny c a 0x14 (bits (s.freeV 245) 0 64 : Word).toNat

/-- LATE_LANDING (R86, R88): the slot is rewritten from the loaded image, or the wait for a held chunk ends in trap 0x14. -/
def execLateLanding (core : CoreId) (s : State) : Out :=
  let k := s.core core
  match k.refetch with
  | some (lk, idx, t) =>
    if t ≤ s.now then
      let s := s.modCore core fun k => { k with refetch := none }
      match k.lc lk with
      | some l =>
        match s.expected core l idx.toNat with
        | some (no, _) => .next (s.modCore core fun k => { k.storeSlot l idx no with rewrote := some s.now })
        | none => .next s
      | none => .next s
    else .fault (.notDue "LATE_LANDING")
  | none =>
    match s.lateNow core with
    | some t =>
      if s.lateOut core then
        .next (s.modCore core fun k => { k with lateSince := none, timeout := satAdd k.timeout 1 }.addTrap t)
      else .fault (.notDue "LATE_LANDING")
    | none =>
      match s.lateTick core with
      | some a =>
        if s.lateOut core then .next ((s.modCore core fun k => { k with lateSince := none, timeout := satAdd k.timeout 1 }).lateFails core a)
        else .fault (.notDue "LATE_LANDING")
      | none => .fault (.notDue "LATE_LANDING")

/-! ### What freezes a core (R243) -/

/-- Is something that the cycle needs missing? The state is the one with which the cycle would perform. -/
def State.missing (s : State) (c : CoreId) : Bool :=
  let k := s.core c
  ((List.finRange 64).any fun e => k.land[e].req.any fun r => r.isDue k.cyc && r.reply.isNone && k.land[e].freeAt.isNone) ||
    (k.mcasts.any fun m => decide (m.due ≤ k.cyc) && !m.settled) ||
    (k.walks.any fun w => w.res.isNone && s.walkWanted c w) ||
    (s.core c).fence.isSome ||
    s.waitsLate c

/-- The start of an unfrozen cycle: bank changes and wakes that fall due, and the units move on. -/
def State.openCycle (s : State) (c : CoreId) : State :=
  let s := s.modCore c fun k => ((k.openContexts s.now).freeEntries.dropDone)
  ((((s.matBegin c).gatomLeave c).leaveHeld c).sendLeaving c)

/-- A clock period in which the core is frozen (R243, R245, R247). -/
def Core.freezePeriod (k : Core) : Core :=
  { k.countOver with
    frozen := true
    frzcnt := k.frzcnt + 1
    ctxs := k.ctxs.map fun x =>
      if x.st = .ready ∨ x.st = .running ∨ x.st = .waiting then { x with debt := satAdd x.debt 1 } else x }

/-- A clock period in which the core is halted (R346). -/
def Core.haltPeriod (k : Core) : Core :=
  { k.countOver with frozen := true, frzcnt := k.frzcnt + 1, dbg := { k.dbg with haltcnt := k.dbg.haltcnt + 1 } }

/-- Is a halt before the next bundle due (R348)? -/
def State.haltDue (s : State) (c : CoreId) : Option Nat :=
  ((s.core c).dbg.req.find? fun q => decide (q.2 ≤ s.now)).map Prod.fst

/-- The core halts before the bundle that would issue (R346, R348). -/
def State.haltBoundary (s : State) (c : CoreId) (s1 : State) (reason : Nat) : State :=
  let i := (s1.core c).nextCtx
  s.modCore c fun k =>
    { k with dbg := { k.dbg with
        halted := true, req := k.dbg.req.filter fun q : Nat × Nat => decide (s.now < q.2)
        rec0 := haltWord i.val reason 0 9 (k.ctx i).pc
        rec1 := BitVec.ofNat 64 s.now } }

/-- The start of a clock period of a core: halted, frozen, resumed in the middle of a bundle, or a whole cycle (R86, R171, R243, R264, R346). -/
def State.beginPeriod (s : State) (c : CoreId) : State :=
  let s := ((s.endWalks c).landMembers c).modCore c fun k => { k with woke := k.woke && k.dbg.halted }
  let k := s.core c
  if k.dbg.halted then s.modCore c fun k => { k with frozen := true }
  else if k.mid then s.modCore c fun k => { k with frozen := false }
  else
    let s := s.fenceStep c
    let s1 := s.openCycle c
    if s1.missing c then
      let s := s.modCore c fun k => { k.freezePeriod with lateSince := if s1.waitsLate c then some (k.lateSince.getD s.now) else none }
      if (s1.late c).isSome then s.startRefetch c (s1.core c).issuing else s
    else
      match s.haltDue c with
      | some r => (s.haltBoundary c s1 r).modCore c fun k => { k with frozen := true }
      | none => s1.modCore c fun k => { k with frozen := false, lateSince := none }

/-- The end of a clock period of a core: its cycle counters move on, or stand still (R81, R85, R245, R346). -/
def Core.endPeriod (k : Core) (started : Nat → Bool) : Core :=
  if k.dbg.halted then k.haltPeriod
  else if k.frozen then k
  else { k with cyc := k.cyc + 1, mid := false, lcs := k.lcs.map fun l => if started l.lk then { l with scyc := l.scyc + 1 } else l }

end Sys2Proof.Machine
end

