-- ==== Sys2Proof/Machine/Issue.lean ====
section
/-!
DEFINITION. Issuing a bundle: the checks of R92, the header's effects (R316, R318, R332), the loop-end count (R109), the parts in order (R347), and the end of a bundle's cycle (R77, R109, R199, R251).
-/

namespace Sys2Proof.Machine

/-! ### The checks before any slot performs (R92) -/

/-- Is a header value illegal (R67)? -/
def headerBad (b : BundleWord) : Bool :=
  (bits b 0 5 : BitVec 5) != 0 || (bits b 5 4 : BitVec 4) != 1 || decide (hdrNL b > 5) || (hdrYP b && !hdrCK b)

/-- Is a literal word at NL or above not zero (R68)? -/
def literalsBad (b : BundleWord) : Bool :=
  (List.range 5).any fun i => decide (hdrNL b ≤ i) && (bits b (352 + 32 * i) 32 : BitVec 32) != 0

/-- What the sync slot holds. -/
def bundleY (b : BundleWord) : Option Instr :=
  match bundleOp b 8 with
  | .form i => some i
  | _ => none

/-- Does the bundle count at a loop end: LE, and no break that is taken, nor a loop form (R109)? -/
def State.counts (s : State) (f : Focus) : Bool :=
  hdrLE f.word && !(bundleY f.word).any fun i => s.breaks { f with part := 8 } i || isLoop i

/-- The header traps that depend on the context: a loop end that is not the innermost one's (R109), a CK bundle as a delay bundle (R111). -/
def State.contextBad (s : State) (f : Focus) : Bool :=
  (s.counts f && !(f.loops.head?).any fun e => e.stop == f.idx) ||
    (hdrCK f.word && (s.ctx f.core f.ctx).pending.isSome)

/-- Is a scalar form a load, or a store (R106)? -/
def isScalarLoad : Instr → Bool
  | .lb .. | .lh .. | .lw .. | .ldd .. | .lbu .. | .lhu .. | .lwu .. => true
  | _ => false
def isScalarStore : Instr → Bool
  | .sb .. | .shh .. | .sw .. | .sd .. => true
  | _ => false

/-- Does a slot raise trap 0x01 (R68, R79, R93, R106, R202)? -/
def State.slotBad (s : State) (f : Focus) (part : Nat) : Bool :=
  match bundleOp f.word part with
  | .idle => false
  | .illegal => true
  | .form i =>
    let f := { f with part := part }
    !i.wf || (sourcesOf i).any (litBad f) ||
      match part with
      | 1 => (isScalarLoad i && bundleOp f.word 5 != .idle) || (isScalarStore i && bundleOp f.word 6 != .idle)
      | 4 => s.matBad f i
      | 7 => s.copyBad f i
      | 8 => s.syncBad f i
      | _ => false

/-- The part that fails the checks of a bundle first, in the order of R92. -/
def State.bundleBad (s : State) (f : Focus) : Option Nat :=
  if headerBad f.word || literalsBad f.word || s.contextBad f then some 0
  else [1, 2, 3, 4, 5, 6, 7, 8].find? fun p => s.slotBad f p

/-- The register check of a vector slot that fails: trap 0x03 or 0x30 (R19, R146, R328). -/
def State.vectorBad (s : State) (f : Focus) (part : Nat) : Option (Nat × Word) :=
  match bundleOp f.word part with
  | .form i => s.formCheck f i false
  | _ => none

/-- The traps that a bundle raises before anything of it performs: 0x01 with the part that fails first, else those of its vector slots (R79, R92, R146; log entry 114). -/
def State.bundleTraps (s : State) (f : Focus) : List (Nat × Nat × Word) :=
  match s.bundleBad f with
  | some p => [(p, 0x01, 0)]
  | none => [2, 3].filterMap fun p => (s.vectorBad f p).map fun x => (p, x.1, x.2)

/-- DECODE_TRAP (R79, R92, R146): the bundle raises the traps of its checks; nothing of it performs. -/
def execDecodeTrap (s : State) : Out :=
  match s.focus with
  | some f =>
    if (s.bundleTraps f).isEmpty then .fault (.notDue "DECODE_TRAP")
    else .next { (s.bundleTraps f).foldl (fun s x => s.raise f x.1 x.2.1 x.2.2) s with focus := none }
  | none => .fault (.notDue "DECODE_TRAP")

/-! ### The checkpoint (R316, R318) -/

/-- The checkpoint copy of a context at a CK bundle (R316): registers that a pending result has yet to reach are noted (R78). -/
def Ctx.copy (x : Ctx) (cyc tick : Nat) (pc : BitVec 12) (opens : List Dest) : Ckpt where
  issued := cyc
  tick := tick
  pc := pc
  pending := x.pending
  loops := x.loops
  x := x.x
  v := x.v
  m := x.m
  th := x.th
  debt := x.debt
  fpflags := x.fpflags
  lfsr := x.lfsr
  rtab := x.rtab
  barcnt := x.barcnt
  open_ := opens

/-- Does a haul action return a value (R283)? -/
def HaulKind.owes : HaulKind → Bool
  | .op _ _ | .xchg | .cas | .lse => true
  | _ => false

/-- The register that the value of a haul action reaches: that of an update, of haul.ld and of haul.board (R283, R285, R287). -/
def HaulOp.dest (u : HaulOp) : Dest :=
  match u.kind with
  | .ld => destV u.d u.nw
  | .board => destX u.d u.nw
  | k => if k.owes then destX u.d u.nw else .none

/-- The register of context ctx of core c that an access will reach. -/
def Access.opens (a : Access) (c : CoreId) (i : CtxId) : Dest :=
  match a.act with
  | .load l => if a.ctx = i then l.dest else .none
  | .amo r => if a.ctx = i then .x r.d else .none
  | .hauUpd o u _ _ | .hauRd o u => if o.core = c.val ∧ o.ctx = i then u.dest else .none
  | _ => .none

/-- The register that an entry of a withhold buffer, whose release is set, will reach (R177). -/
def WEntry.opens (e : WEntry) (land : Vector LandEntry 64) : Dest :=
  match e.rel, e.kind with
  | some _, .amo _ _ _ _ _ _ d => .x d
  | some _, .gatom n => (land[Fin.ofNat 64 n].req).elim .none fun r => destX r.d r.nw
  | some _, .haul u | some _, .alight u _ _ => u.dest
  | _, _ => .none

/-- The register that a request of the landing buffer will reach: that of a gatom that has been released (R177, R242). -/
def LandEntry.opens (e : LandEntry) (i : CtxId) : Dest :=
  match e.req with
  | some r => if r.ctx = i ∧ r.kind = .gatom ∧ r.due.isSome ∧ e.freeAt.isNone then destX r.d r.nw else .none
  | none => .none

/-- The registers of a context that a result of an earlier bundle has yet to reach (R78): results on their way, loads, mcast bitmaps, walks, and values of released operations. -/
def State.openDests (s : State) (c : CoreId) (i : CtxId) : List Dest :=
  let k := s.core c
  (((k.results.filter fun r => r.ctx == i).map Result.dest) ++
    ((k.walks.filter fun w => w.ctx == i).map fun w => Dest.th w.d ⟨0, 0, 0, none, false, false, .timed⟩) ++
    ((k.mcasts.filter fun m => m.ctx == i).map fun m => destX m.d m.nw) ++
    (k.land.toList.map fun e => e.opens i) ++ (k.acc.map fun a => a.opens c i) ++ (k.leaving.map fun l => l.acc.opens c i) ++
    ((k.haul.filter fun u => u.ctx == i).map HaulOp.dest) ++ ((k.ctx i).wh.map fun e => e.opens k.land) ++
    (s.wire.map fun w => w.acc.opens c i)).filter (· != .none)

/-- A checkpoint: the copy is taken, the release of the ending interval is set, and the versions it holds become the checkpoint's (R175, R196, R197, R318). -/
def Core.checkpoint (k : Core) (now : Nat) (i : CtxId) (idx : BitVec 12) (opens : List Dest) : Core :=
  let k := k.modCtx i fun x =>
    { x with
      ck := x.copy k.cyc now idx opens
      lastCk := some k.cyc
      lateFl := 0
      wh := x.wh.map fun e => if e.rel.isNone then { e with rel := some (k.cyc + 2) } else e }
  let k := { k.heal (fun | .reg _ c _ _ _ true => c == i | _ => false) with ckErr := (k.ckErr.filter fun e : Nat × Nat × Nat × Nat => e.1 != i.val) ++ k.regErr.filter fun e : Nat × Nat × Nat × Nat => e.1 == i.val }
  match (k.ctx i).lk with
  | some lk => k.modLc lk fun l => l.commit i
  | none => k

/-- The claims of a context stay provisional until the release cycle of this CK bundle (R285; log entry 49). -/
def State.settleClaims (s : State) (c : CoreId) (i : CtxId) : State :=
  { s with skips := s.skips.map fun q =>
      if q.lk = (s.ctx c i).lk ∧ q.prov = some (4 * c.val + i.val, none) then { q with prov := some (4 * c.val + i.val, some ((s.core c).cyc + 2)) } else q }

/-- The checkpoint of the bundle in issue, and the header step it completes. -/
def State.takeCheckpoint (s : State) (f : Focus) : State :=
  ((s.settleClaims f.core f.ctx).modCore f.core fun k => k.checkpoint s.now f.ctx f.idx (s.openDests f.core f.ctx)).modFocus fun g => { g with hdr := 1, done := g.done ||| 1 }

/-! ### Yield points (R112, R331, R332) -/

/-- Does the YP bundle in issue qualify for the yield request of its launch (R112, R332)? -/
def State.yields (s : State) (f : Focus) : Bool :=
  hdrYP f.word && hdrCK f.word && match (s.launch (s.focusLk f)).bind Launch.yreq with
    | some .iteration => true
    | some .node => f.loops.isEmpty
    | none => false

/-- Is something outstanding that a YP bundle may not meet (R251)? -/
def Core.outstanding (k : Core) (i : CtxId) : Bool :=
  ((List.finRange 64).any fun e => k.land[e].freeAt.isNone && k.land[e].req.any fun r => r.ctx == i) || (k.mcasts.any fun m => m.ctx == i) ||
    k.walks.any fun w => w.ctx == i

/-- Has a name that a YP bundle would release a row still to land (R199)? -/
def Core.rowsOwed (k : Core) (i : CtxId) : Bool := (k.lcOf i).any fun l => (l.ypNames i).any fun n => k.toLand l.lk n

/-- Does the bundle in issue raise trap 0x11 for its YP (R199, R251)? -/
def State.yieldFails (s : State) (f : Focus) : Bool :=
  hdrYP f.word && ((s.core f.core).outstanding f.ctx || (s.core f.core).rowsOwed f.ctx)

/-- The trap of a YP bundle: its header fails, so no checkpoint is taken and nothing of it performs (R251). -/
def State.yieldTrap (s : State) (f : Focus) : State := { s.raise f 0 0x11 0 with focus := none }

/-- The names that a YP bundle releases after its slots; a form of its own that writes one of them has rows still to land (R199). The face and the tables are to be reloaded from then on (R190, R222). -/
def State.yieldRelease (s : State) (f : Focus) : State :=
  let k := s.core f.core
  match k.lcOf f.ctx with
  | some l =>
    if k.rowsOwed f.ctx then s.raise f 0 0x11 0
    else s.modCore f.core fun k => k.modLc l.lk fun l => { l.relNames f.ctx (l.ypNames f.ctx) with stale := true, tblStale := 15 }
  | none => s

/-- CHECKPOINT (R111, R251, R316, R318). -/
def execCheckpoint (s : State) : Out :=
  match s.focus with
  | some f =>
    if hdrCK f.word && f.hdr == 0 then .next (if s.yieldFails f then s.yieldTrap f else s.takeCheckpoint f)
    else .fault (.notDue "CHECKPOINT")
  | none => .fault (.notDue "CHECKPOINT")

/-- YIELD_POINT (R332): the checkpoint and the release perform, no slot does, and the context enters the yield wait. -/
def execYieldPoint (s : State) : Out :=
  match s.focus with
  | some f =>
    if s.yields f && f.hdr == 0 then
      if s.yieldFails f then .next (s.yieldTrap f) else
      let s := (s.takeCheckpoint f).yieldRelease f
      let s := s.modCtx f.core f.ctx fun x => { x with st := .waiting, wait := .yield }
      let s := s.modLaunch (s.focusLk f) fun l => { l with yieldAt := some s.now }
      .next (s.modFocus fun g => { g with yield := true, hdr := 3, done := 0x1FF, part := 9 })
    else .fault (.notDue "YIELD_POINT")
  | none => .fault (.notDue "YIELD_POINT")

/-! ### Loop ends (R109) -/

/-- LOOP_END_COUNT (R109): the entries that end here count from the inside out. -/
def execLoopEndCount (s : State) : Out :=
  match s.focus with
  | some f =>
    if s.counts f && f.hdr == 1 then
      let (rest, lr) := countAt f.idx (s.ctx f.core f.ctx).loops
      .next ((s.modCtx f.core f.ctx fun x => { x with loops := rest }).modFocus fun g => { g with lr := lr, hdr := 2 })
    else .fault (.notDue "LOOP_END_COUNT")
  | none => .fault (.notDue "LOOP_END_COUNT")

/-! ### The bundle in issue -/

/-- A bundle comes into issue: its word and the loop indices as its sources read them (R74, R107). -/
def State.focusOf (s : State) (c : CoreId) (i : CtxId) (w : BundleWord) : Focus :=
  { core := c, ctx := i, idx := (s.ctx c i).pc, word := w, loops := (s.ctx c i).loops, jump := none, lr := none, part := 0, done := 0,
    exempt := 0, yield := false, blocked := false, hdr := 0, seed := s.freeCtr }

/-- A context issues a bundle: it holds the port (R81), and latches that others filled are lost to it (R73); undefined latches take fresh free values (log entry 2). -/
def State.startBundle (s : State) (c : CoreId) (i : CtxId) (w : BundleWord) : State :=
  let f := s.focusOf c i w
  let slot := ((s.core c).lcOf i).map fun l => l.slot (s.ctx c i).pc.toNat
  let s := s.noteLoc c fun
    | .store _ n _ => slot == some n
    | _ => false
  let s := s.modCore c fun k =>
    { ((k.ctx i).lk.elim k k.reissueCmds).modCtx i (fun x => { x with st := .running }) with
      port := i, vacated := true, lastIssue := k.lastIssue.set i (some k.cyc) }
  { s with focus := some f, freeCtr := s.freeCtr + 1 }

/-- An idle port: the first Ready context takes it and issues on the next cycle (R81). -/
def Core.selectIdle (k : Core) : Core :=
  if k.portHeld then { k with vacated := true }
  else match k.firstReady with
    | some i => { k.modCtx i (fun x => { x with st := .running }) with port := i, issueFrom := k.cyc + 1, vacated := true }
    | none => { k with vacated := false }

/-- What the cycle issues: the rest of a bundle that a halt held, a new bundle, or none (R81, R347). -/
def State.openIssue (s : State) (c : CoreId) : State :=
  let k := s.core c
  match k.held with
  | some f => { s.modCore c (fun k => { k with held := none, vacated := true }) with focus := some f }
  | none =>
    if k.mid then s else
    match k.issuing with
    | some i =>
      match s.nextWord c i with
      | some w => s.startBundle c i w
      | none => s
    | none => s.modCore c Core.selectIdle

/-- The next index of the context (R77, R109): a pending redirect first, then the loop stack's, then the next bundle; a taken branch is pending after that. -/
def Ctx.nextIndex (x : Ctx) (f : Focus) : Ctx :=
  let n := match x.pending, f.lr with
    | some p, _ => p
    | none, some r => r
    | none, none => f.idx + 1
  { x with pc := n, pending := f.jump }

/-- The bundle in issue has performed all its parts (R73, R109, R199, R251). -/
def State.endBundle (s : State) (f : Focus) : State :=
  let s := { s with focus := none }
  let s := if f.yield then s else s.modCtx f.core f.ctx fun x => x.nextIndex f
  let s := if hdrYP f.word && !f.yield then s.yieldRelease f else s
  if hdrWT f.word then s.modCore f.core fun k => { k with lastWt := some k.cyc } else s

/-- The next step of the bundle in issue: a row to execute with the bundle as it then stands, or none when all parts are done (R347). -/
def State.bundleStep (s : State) (f : Focus) : Option (Instr × Focus) :=
  if f.hdr = 0 && s.yields f then some (.yieldPoint, f)
  else if f.hdr = 0 && hdrCK f.word then some (.checkpoint, f)
  else if f.hdr ≤ 1 && s.counts f then some (.loopEndCount, { f with hdr := 1 })
  else
    match (if f.hdr ≤ 2 then (bundleY f.word).filter isLoopForm else none) with
    | some i => some (i, { f with hdr := 3, part := 8, done := f.done ||| 0x101 })
    | none =>
      (([1, 2, 3, 4, 5, 6, 7, 8] : List Nat).find? fun p => !f.done.getLsbD p && match bundleOp f.word p with
        | .form _ => true
        | _ => false).bind fun p =>
          match bundleOp f.word p with
          | .form i => some (i, { f with hdr := 3, part := p, exempt := if p = f.part then f.exempt else 0, done := (f.done ||| 1) ||| BitVec.ofNat 9 (2 ^ (p + 1) - 1) })
          | _ => none

/-! ### The end of a core's cycle -/

/-- Charge a cycle to the profile table (R201, R354). -/
def Debug.charge (d : Debug) (tag : Option (BitVec 16 × BitVec 12)) (cls : Nat) : Debug :=
  match tag with
  | none => d
  | some (l, b) =>
    let add (e : ProfEntry) : ProfEntry := { e with counts := Vector.ofFn fun i : Fin 5 => if i.val = cls then e.counts[i] + 1 else e.counts[i] }
    let new : ProfEntry := ⟨l, b, Vector.replicate 5 0⟩
    if (d.prof.take 255).any (fun e => e.launch == l && e.bundle == b) then
      { d with prof := ((d.prof.take 255).map fun e => if e.launch = l ∧ e.bundle = b then add e else e) ++ d.prof.drop 255 }
    else if d.prof.length < 255 then { d with prof := d.prof ++ [add new] }
    else if d.prof.length = 255 then { d with prof := d.prof ++ [add ⟨0xFFFF, 0xFFF, Vector.replicate 5 0⟩] }
    else { d with prof := (List.range d.prof.length).zip d.prof |>.map fun e => if e.1 = 255 then add e.2 else e.2 }

/-- The profile of a cycle: charged to the form that sets its class, or, without one, to the last matrix form the core issued (R201), while the partition's policy opens the table (R342, R360). -/
def State.profile (s : State) (c : CoreId) : State :=
  let k := s.core c
  let (cls, m) := k.cycleClass
  let tag := match m with
    | some m => (s.launch m.lk).map fun l => (l.id, m.bundle)
    | none => k.dbg.profLast
  if k.dbg.profEn && s.isOpen (s.partOfCore c) 3 then s.modCore c fun k => { k with dbg := k.dbg.charge tag cls } else s

/-- The end of an unfrozen cycle of a core. -/
def State.closeCycle (s : State) (c : CoreId) : State :=
  let s := (s.matRequests c).profile c
  s.modCore c fun k =>
    { k with
      vacated := k.vacated && !k.portHeld
      issueFrom := if k.portHeld then k.issueFrom else 0 }

end Sys2Proof.Machine
end

