-- ==== Sys2Proof/Machine/Rollback.lean ====
section
/-!
DEFINITION. Traps taken: rollback (R198, R250, R320), trap records (R322 to R324, R326), the abort of a launch (R325), fault notices (R294, R311), and the runtime's decisions (R326).
-/

namespace Sys2Proof.Machine

/-! ### Notices (R294, R311) -/

/-- A notice concerns the launch of its partition and identifier that this package holds (R311, R312). -/
def Launch.concerned (l : Launch) (n : Notice) : Bool := l.part == n.part && l.id == n.launch && l.st == .bound

/-- A notice joins the episode; one detected before the containment tick of the episode decided last is counted and belongs to none (R312). -/
def PodSt.take (p : PodSt) (n : Notice) : PodSt :=
  if p.lastEp.any fun d => decide (n.tick < d + 16384) then { p with strays := p.strays + 1 } else { p with notices := p.notices ++ [n] }

/-- A notice is taken in: the launch keeps it, and it leaves once on every connected port (R311). -/
def State.flood (s : State) (n : Notice) : State :=
  if s.pf.seen.contains n then s
  else
    let s := { s with
      pf := { s.pf with seen := n :: s.pf.seen }
      launches := s.launches.map fun l => if l.concerned n then { l with pod := l.pod.take n } else l }
    (List.range 12).foldl (fun s p => match s.neighbour p with
      | some dst => s.queuePacket p (mkHdr s.pf.pkg.toNat 4 dst n.part s.pf.inc (s.incOf dst) 0) (.clear (.notice n))
      | none => s) s

/-- Is a launch a pod launch: FLAGS.POD of its image (R13)? -/
def State.podLaunch (s : State) (l : Launch) : Bool := (s.imageOf l).any fun i => (i.img.field 6 2).testBit 1

/-- A package that raises a fault for itself floods a peer-loss notice naming itself (R311). -/
def State.floodLoss (s : State) (l : Launch) : State :=
  if s.podLaunch l then s.flood ⟨l.part, l.id, none, l.lpkg, s.now⟩ else s

/-! ### Which trap is taken (R319) -/

/-- Does a CK bundle of its context stand between a trap's form and the trap (R319)? A pod rollback asks no origin (R338). -/
def Core.stale (k : Core) (t : Trap) : Bool := !t.pod && decide (t.origin < (k.ctx t.ctx).ck.issued)

/-- Does a trap still concern work that is there (R319)? A replayable trap of a Trapped context does not. -/
def State.liveTrap (s : State) (k : Core) (t : Trap) : Bool :=
  (k.ctx t.ctx).lk == some t.lk && (s.launch t.lk).any (fun l => !l.stopped) &&
    (k.stale t || t.pod || (k.ctx t.ctx).st != .trapped)

/-- Traps that concern nothing any more go (R319). -/
def State.purgeTraps (s : State) (c : CoreId) : State :=
  s.modCore c fun k => { k with traps := k.traps.filter (s.liveTrap k) }

/-- The trap with the lowest cause of a list. -/
def lowestTrap : List Trap → Option Trap
  | [] => none
  | t :: ts => match lowestTrap ts with
    | some u => if u.cause < t.cause then some u else some t
    | none => some t

/-- The replayable trap that a context takes, when none of its traps is non-replayable (R319); that of a containment goes first (R338). -/
def Core.trapOf (k : Core) (i : CtxId) : Option Trap :=
  let ts := k.traps.filter fun t => t.ctx == i
  if ts.any k.stale then none else (ts.find? Trap.pod).or (lowestTrap ts)

/-- The non-replayable trap of a launch on a core, the one with the lowest cause (R319). A halted core holds its traps (R346). -/
def Core.staleTrap (k : Core) (lk : Nat) : Option Trap :=
  if k.dbg.halted then none else lowestTrap (k.traps.filter fun t => t.lk == lk && k.stale t)

/-! ### Discarding work (R177, R198, R250, R320) -/

/-- Does an access end with the results and commands of its context? -/
def Access.discards (a : Access) (i : CtxId) (from_ : Nat) : Bool :=
  a.ctx == i && decide (from_ ≤ a.issued) && match a.party, a.act with
    | .load, _ | .scalar, _ | .engine, _ => true
    | _, .gstRd _ | _, .table _ => true
    | _, _ => false

/-- Is an access a piece of an engine command of a context of this package on its way to another core? -/
def Access.pieceOf (a : Access) (pkg c : Nat) (i : CtxId) (from_ : Nat) : Bool :=
  a.eng == 1 && a.act.origin.any fun o => o.pkg == pkg && o.core == c && o.ctx == i && decide (from_ ≤ o.issued)

/-- A skip is freed at its next passage of a station (R285, R289). -/
def State.unclaim (s : State) (c : CoreId) (ctx : CtxId) (lk n : Nat) : State :=
  s.addHaul c { ctx := ctx, lk := lk, issued := 0, bundle := 0, kind := .unclaim, skip := n, ring := true, lane := 0, b := 0, d := 0, nw := false, after := s.now }

/-- Is a skip a provisional claim of a context: the release cycle of its next CK bundle has not come (R285)? -/
def State.provisional (s : State) (c : CoreId) (i : CtxId) (q : Skip) : Bool :=
  q.lk == (s.ctx c i).lk && q.prov.any fun p => p.1 == 4 * c.val + i.val && p.2.all fun r => decide ((s.core c).cyc < r)

/-- Free the provisional claims of a context (R285). -/
def State.dropClaims (s : State) (c : CoreId) (i : CtxId) : State :=
  (List.finRange 360).foldl (fun s n =>
    let q := s.skips[n]
    if s.provisional c i q then
      ({ s with skips := s.skips.set n { q with prov := none } }).unclaim c i (q.lk.getD 0) n.val
    else s) s

/-- Is a form of context ctx issued at t work of context i from a cycle on? -/
def ownFrom (i : CtxId) (from_ : Nat) (ctx : CtxId) (t : Nat) : Bool := ctx == i && decide (from_ ≤ t)

/-- A context holds no unreleased entry and waits for nothing (R320). -/
def Ctx.drop (x : Ctx) : Ctx := { x with wh := x.wh.filter fun e => e.rel.isSome, wait := .none, wakeTick := none, wakeCyc := none }

/-- The work of a context on its core goes; what has been released stays (R177, R250, R320). -/
def Core.discard (k : Core) (i : CtxId) (from_ now : Nat) : Core :=
  let own := ownFrom i from_
  ({ k with
    results := k.results.filter fun r => !(own r.ctx r.issued && !r.toCk)
    acc := k.acc.filter fun a => !a.discards i from_
    cmds := k.cmds.filter fun m => !(own m.ctx m.issued && !m.inplace)
    mcasts := k.mcasts.filter fun m => !own m.ctx m.issued
    walks := k.walks.filter fun w => !own w.ctx w.issued
    haul := k.haul.filter fun u => !(own u.ctx u.issued && !u.kind.lasting)
    reports := k.reports.filter fun r => !(own r.org.ctx r.org.issued && r.org.squashes)
    squashed := (k.squashed.filter fun (q : CtxId × Nat × Nat) => !(q.1 == i && decide (from_ ≤ q.2.1))) ++ [(i, from_, now)]
    fence := k.fence.filter fun q => q.ctx != i
    held := k.held.filter fun f => f.ctx != i }.stopForms fun m => own m.ctx m.issued).modCtx i Ctx.drop

/-- Accesses on their way to another core that a predicate names go. -/
def State.dropWire (s : State) (p : Access → Bool) : State := { s with wire := s.wire.filter fun w => !p w.acc }

/-- Has the gatom of an entry been released, or is its release set (R177, R325)? -/
def State.gatomStays (s : State) (c : CoreId) (e : Fin 64) (r : UReq) : Bool :=
  r.kind == .gatom && (r.due.isSome || (s.ctx c r.ctx).wh.any fun w => w.rel.isSome && w.kind == .gatom e.val)

/-- The work of a context issued from a cycle on goes; a gatom whose release is set is none of it (R177, R250, R320, R325). -/
def State.discard (s : State) (c : CoreId) (i : CtxId) (from_ : Nat) : State :=
  let s := s.cancelReqs c fun e r => ownFrom i from_ r.ctx r.issued && !s.gatomStays c e r
  ((s.dropClaims c i).modCore c fun k => k.discard i from_ s.now).dropWire fun a => a.pieceOf s.pf.pkg.toNat c.val i from_

/-! ### Rollback (R320) -/

/-- The names that a context holds on its core go back to the checkpoint's versions (R198). -/
def Core.revertOf (k : Core) (i : CtxId) : Core :=
  match (k.ctx i).lk with
  | some lk => k.modLc lk fun l => l.revert i
  | none => k

/-- A context of a core is Trapped, and no trap of it stays (R319, R320). -/
def Core.beTrapped (k : Core) (i : CtxId) (t : Trap) : Core :=
  { (k.revertOf i).modCtx i (fun x => { x with st := .trapped, rb := some (t, false), rbAt := k.cyc }) with
    traps := k.traps.filter fun t => t.ctx != i
    vacated := k.vacated || (k.ctx i).st == .running }

/-- A context is Trapped and rolls back: its work since the checkpoint goes (R320). -/
def State.rollBack (s : State) (c : CoreId) (i : CtxId) (t : Trap) : State :=
  (s.discard c i (s.ctx c i).ck.issued).modCore c fun k => k.beTrapped i t

/-- ROLLBACK (R319, R320): the context takes its replayable trap with the lowest cause. -/
def execRollback (core : CoreId) (ctx : CtxId) (s : State) : Out :=
  match (s.core core).trapOf ctx with
  | some t => .next (s.rollBack core ctx t)
  | none => .fault (.notDue "ROLLBACK")

/-- Does an entry of a withhold buffer return a value (R177)? -/
def WEntry.owes (e : WEntry) : Bool :=
  match e.kind with
  | .amo .. | .gatom _ => true
  | .haul u | .alight u _ _ => u.kind.owes
  | _ => false

/-- Does an access carry a released fallback update that owes a context of a core its value (R288)? -/
def Access.owesFrom (a : Access) (c i : Nat) : Bool :=
  match a.act with
  | .hauUpd o u _ _ => u.kind.owes && o.core == c && o.ctx.val == i
  | _ => false

/-- Has a released operation of a context yet to return its value (R177)? -/
def State.valueOwed (s : State) (c : CoreId) (i : CtxId) : Bool :=
  let k := s.core c
  (k.results.any fun r => r.ctx == i && r.toCk) || (k.haul.any fun u => u.ctx == i && u.kind.owes) || ((k.ctx i).wh.any WEntry.owes) ||
    (k.acc.any fun a => a.ctx == i && match a.act with | .amo _ => true | _ => false) ||
    (k.leaving.any fun l => l.acc.owesFrom c i) || (s.wire.any fun w => w.acc.owesFrom c i) ||
    s.cores.toList.any fun q => q.acc.any fun a => a.owesFrom c i

/-- Has everything landed that the rollback of a context waits for (R198, R250, R320)? -/
def State.rolledBack (s : State) (c : CoreId) (i : CtxId) : Bool :=
  let k := s.core c
  let x := k.ctx i
  match x.rb with
  | some (_, false) =>
    decide (x.rbAt < k.cyc) && !(k.mforms.any fun m => m.ctx == i && !m.isOver k.cyc) && !s.valueOwed c i &&
      !((List.finRange 64).any fun e => k.land[e].req.any fun r => r.ctx == i && k.land[e].freeAt.isNone)
  | _ => false

/-- A translation handle that is undefined (R9). -/
def freeHandle (v : BitVec 4096) : Option Handle :=
  if v.getLsbD 0 then none
  else some ⟨(bits v 64 64 : BitVec 64).toNat, (bits v 128 64 : BitVec 64).toNat, (bits v 192 64 : BitVec 64).toNat,
    if v.getLsbD 1 then none else some (bits v 256 128), v.getLsbD 2, v.getLsbD 3, if v.getLsbD 4 then .timed else .untimed⟩

/-- A register that a result had yet to reach at the CK bundle is undefined after a rollback (R78): number n of the free values. -/
def Ctx.undefine (x : Ctx) (d : Dest) (v : BitVec 4096) : Ctx :=
  match d with
  | .th n _ => { x with th := x.th.set n.toNat (freeHandle v) }
  | d => x.landDest d v allLanes

/-- The state of R316 takes its value from the copy (R131, R316). -/
def Ctx.restore (x : Ctx) (q : Ckpt) (free : Nat → BitVec 4096) : Ctx :=
  let x := { x with
    pc := q.pc, pending := q.pending, loops := q.loops, x := q.x, v := q.v, m := q.m, th := q.th, debt := q.debt
    fpflags := q.fpflags ||| x.lateFl, lfsr := q.lfsr, rtab := q.rtab, barcnt := q.barcnt }
  ((List.range q.open_.length).zip q.open_).foldl (fun x d => x.undefine d.2 (free d.1)) x

/-- The place of a trap 0x30 or 0x31 (R324). -/
def Trap.place (t : Trap) (core : Nat) : Nat × Nat × Word × Nat × Nat :=
  (core, t.cause, t.addr, if t.cause = 0x31 then t.pslot.toNat else 0, if t.cause = 0x31 then t.frow.toNat else 0)

/-- Does the steward resume at once (R324)? -/
def Trap.auto (t : Trap) : Bool := t.cause == 0x30 || t.cause == 0x31

/-- What the steward decides once a rollback has completed: FLAGS, and whether the launch is aborted (R322, R324, R326). -/
def State.decideTrap (s : State) (c : CoreId) (t : Trap) : Nat × Bool :=
  let en := (vfOf (s.partOf t.lk)).any fun n => s.vfs[n].trapEn
  if t.cause = 0x15 then (flagAbort, true)
  else if t.auto then
    if (s.launch t.lk).any fun l => l.places.contains (t.place c.val) then (flagAbort, true) else (flagAuto, false)
  else if en then (0, false)
  else (flagAbort, true)

/-- The steward keeps the place of the last trap of each cause on each core (R324). -/
def Launch.notePlace (l : Launch) (p : Nat × Nat × Word × Nat × Nat) : Launch :=
  { l with places := p :: l.places.filter fun q => !(q.1 == p.1 && q.2.1 == p.2.1) }

/-- The rollback of a context completes: its checkpoint is restored, and the error marks of its registers are those of the copy (R316, R320, R328). -/
def Core.restoreCtx (k : Core) (i : CtxId) (t : Trap) (free : Nat → BitVec 4096) : Core :=
  { (k.modCtx i (fun x => { x.restore x.ck free with rb := some (t, true) })).heal (fun | .reg _ j _ _ _ copy => j == i && !copy | _ => false) with
    regErr := (k.regErr.filter fun e : Nat × Nat × Nat × Nat => e.1 != i.val) ++ k.ckErr.filter fun e : Nat × Nat × Nat × Nat => e.1 == i.val }

/-- ROLLBACK_COMPLETE (R320, R321, R323, R324, R338): the checkpoint is restored, the record is posted, and the steward decides. -/
def execRollbackComplete (core : CoreId) (ctx : CtxId) (s : State) : Out :=
  match s.rolledBack core ctx, (s.ctx core ctx).rb with
  | true, some (t, _) =>
    let s := s.noteLoc core fun
      | .reg _ i _ _ _ true => i == ctx
      | _ => false
    let s := (s.modCore core fun k => k.restoreCtx ctx t fun n => s.freeV (100 + n)).tickFree
    if t.pod then .next s
    else
      let (flags, ab) := s.decideTrap core t
      let s := s.postRecord t.lk t (s.gcid core.val ctx.val).toNat flags
      let s := if t.auto then s.modLaunch t.lk fun l => l.notePlace (t.place core.val) else s
      if ab then .next (s.decideAbort t.lk 9 t.cause core.val)
      else if t.auto then .next (s.modCtx core ctx fun x => { x with wakeCyc := some ((s.core core).cyc + 1) })
      else .next s
  | _, _ => .fault (.notDue "ROLLBACK_COMPLETE")

/-! ### Abort (R325) -/

/-- The first core, in ascending order, with a non-replayable trap of a launch. -/
def State.staleOf (s : State) (lk : Nat) : Option (CoreId × Trap) :=
  (List.finRange 324).findSome? fun c => ((s.core c).staleTrap lk).map fun t => (c, t)

/-- Every context of a launch on a core stops, and its work goes; released operations still apply (R325). -/
def State.stopOn (s : State) (c : CoreId) (lk : Nat) : State :=
  let s := (List.finRange 4).foldl (fun s i =>
    if (s.ctx c i).lk = some lk then
      (s.discard c i 0).modCore c fun k =>
        let ran := (k.ctx i).st == .running
        { k.modCtx i (fun x => { x with st := .ended, rb := none }) with vacated := k.vacated || ran }
    else s) s
  s.modCore c fun k =>
    { k with
      traps := k.traps.filter fun t => t.lk != lk
      shadow := k.shadow.filter fun x => x.1 != lk
      reissue := k.reissue.filter fun m => m.lk != lk }

/-- The launch stops on every core; starts and selections that are pending go with it. -/
def State.stopLaunch (s : State) (lk : Nat) : State :=
  let s := (List.finRange 324).foldl (fun s c =>
    if (s.core c).lcs.any fun l => l.lk == lk then s.stopOn c lk else s) s
  s.modLaunch lk fun l =>
    { l with stopped := true, yreq := none, pod := { l.pod with pendRun := none, pendSel := none } }

/-- Is an abort of a launch to be carried out? -/
def State.abortDue (s : State) (lk : Nat) : Bool :=
  (s.launch lk).any fun l => !l.stopped && (l.st == .bound || l.st == .saved) && (l.abort.isSome || (s.staleOf lk).isSome)

/-- A non-replayable trap decides the abort of its launch, and its record says so (R319, R323). -/
def State.noteStale (s : State) (lk : Nat) : State :=
  match (s.launch lk).bind Launch.abort, s.staleOf lk with
  | none, some (c, t) =>
    (s.postRecord lk t (s.gcid c.val t.ctx.val).toNat (flagAbort + flagNoReplay)).decideAbort lk 9 t.cause c.val
  | _, _ => s

/-- The abort of a pod launch's part is flooded, but not the end that a containment has decided on every package (R311, R312). -/
def State.tellAbort (s : State) (lk : Nat) : State :=
  match s.launch lk with
  | some l => if l.abort.any fun a => a.1 != 10 then s.floodLoss l else s
  | none => s

/-- ABORT (R311, R319, R325): the launch stops on this package. -/
def execAbort (lk : Nat) (s : State) : Out :=
  if s.abortDue lk then .next (((s.noteStale lk).stopLaunch lk).tellAbort lk) else .fault (.notDue "ABORT")

/-! ### The runtime's decision (R326) -/

/-- The context that a TRAPCMD names, when it is Trapped, its rollback has completed and it belongs to the launch and the partition (R326). -/
def State.trapTarget (s : State) (n : Fin 9) (val : BitVec 64) : Option (CoreId × CtxId × Nat) :=
  let g := (bits val 0 23 : BitVec 23).toNat
  match coreOf (g % 2048 / 4) with
  | some c =>
    let i : CtxId := Fin.ofNat 4 g
    match (s.ctx c i).lk.bind s.launch with
    | some l =>
      if g / 2048 = s.pf.pkg.toNat ∧ l.part = n.val + 1 ∧ l.id = bits val 32 16 then some (c, i, l.key) else none
    | none => none
  | none => none

/-- A TRAPCMD write that misses (R326). -/
def State.badCmd (s : State) (n : Fin 9) : State := s.modVf n fun v => { v with badcmd := true }

/-- Is a context Trapped with its rollback complete (R326)? -/
def Ctx.rolledBack (x : Ctx) : Bool := x.st == .trapped && x.rb.any fun r => r.2
/-- Does such a context wait for the host, whose decision PEND counts (R326)? One that a pod episode rolled back is the steward's (R338). -/
def Ctx.awaitsHost (x : Ctx) : Bool := x.rolledBack && x.rb.any fun r => !r.1.pod

/-- TRAPCMD_RESUME (R321, R326): ACTION 1. The rule asks no more of the context than that it is Trapped and rolled back, so one of a pod episode may be named too (log entry 128). -/
def execTrapcmdResume (vf : Fin 9) (val : BitVec 64) (s : State) : Out :=
  if (bits val 24 2 : BitVec 2) ≠ 1 then .next s
  else
    match s.trapTarget vf val with
    | some (c, i, _) =>
      if (s.ctx c i).rolledBack then .next (s.modCtx c i fun x => { x with wakeTick := some s.now }) else .next (s.badCmd vf)
    | none => .next (s.badCmd vf)

/-- TRAPCMD_ABORT (R325, R326, R333): ACTION 2; a context in the yield wait may be named as well. -/
def execTrapcmdAbort (vf : Fin 9) (val : BitVec 64) (s : State) : Out :=
  if (bits val 24 2 : BitVec 2) ≠ 2 then .next s
  else
    match s.trapTarget vf val with
    | some (c, i, lk) =>
      let x := s.ctx c i
      if x.rolledBack || x.wait == .yield then .next (s.decideAbort lk 9 ((x.rb.map fun r => r.1.cause).getD 0) c.val) else .next (s.badCmd vf)
    | none => .next (s.badCmd vf)

end Sys2Proof.Machine
end

