-- ==== Sys2Proof/Machine/Steward.lean ====
section
/-!
DEFINITION. The steward's distributor: start vectors (R34, R35), selection (R36 to R38), priorities (R39), completion records (R40), binding and the start cycle (R47 to R52), pre-emption (R331 to R335), the retirement point (R277, R339, R340), and the partition swap (R336, R337).
-/

namespace Sys2Proof.Machine

/-! ### The partition's virtual memory, as the steward reaches it (R34, R40) -/

/-- The pod address that a VA of a partition reaches, by the tables as they stand; none when no valid leaf maps it, a right is missing, or a check of R63 fails. -/
def State.tenantPod (s : State) (part va : Nat) (wr : Bool) : Option Nat :=
  match vfOf part with
  | none => none
  | some n =>
    if !(s.vfs[n].ptroot).getLsbD 0 || va ≥ 2 ^ 52 then none
    else
      match s.walkFrom va 3 ((bits s.vfs[n].ptroot 20 20 : BitVec 20).toNat * 2 ^ 20) with
      | .error _ => none
      | .ok (e, level, at_) =>
        match s.formHandle part va (s.cachedOf part va e level at_) with
        | .error _ => none
        | .ok h =>
          (s.reach part (some h) (!wr) wr va).toOption

/-- The package-local address of a VA that this package holds. -/
def State.tenantPa (s : State) (part va : Nat) (wr : Bool) : Option Nat :=
  ((s.tenantPod part va wr).filter fun pa => podPkg pa == s.pf.pkg.toNat).map podLoc

/-- A byte of the partition's virtual memory. -/
def State.tenantByte (s : State) (part va : Nat) : Option Nat :=
  (s.tenantPa part va false).map fun a =>
    match regionOf a with
    | .pad _ _ => s.mem.span a 1
    | _ => s.homeRead part a 1

/-- n bytes of the partition's virtual memory, byte 0 lowest. -/
def State.tenantGet (s : State) (part va : Nat) : Nat → Option Nat
  | 0 => some 0
  | n + 1 => match s.tenantGet part va n, s.tenantByte part (va + n) with
    | some v, some b => some (v + b * 256 ^ n)
    | _, _ => none

/-- n bytes within one chunk written at a package-local address; untimed memory keeps no stamp of them (R258). -/
def State.tenantPut (s : State) (part a n v : Nat) : State :=
  match regionOf a with
  | .pad c l => (chunksFor l n v (fun _ => true)).foldl (fun s w => s.writeLocal c w) s
  | _ => (s.homeWrite part a n v 0).setStamps (s.stampKey part a) (n / 4) none

/-! ### Start vectors (R34) -/

abbrev StartVec := BitVec 512
def svLaunch (v : StartVec) : BitVec 16 := bits v 0 16
def svPrio (v : StartVec) : Nat := (bits v 16 2 : BitVec 2).toNat
def svPred (v : StartVec) : Bool := v.getLsbD 24
def svPredid (v : StartVec) : BitVec 16 := bits v 32 16
def svLpkg (v : StartVec) : Nat := (bits v 48 16 : BitVec 16).toNat
def svImage (v : StartVec) : Nat := (bits v 64 32 : BitVec 32).toNat
def svEntry (v : StartVec) : Nat := (bits v 128 64 : BitVec 64).toNat
def svNentry (v : StartVec) : Nat := (bits v 192 32 : BitVec 32).toNat
def svPodmap (v : StartVec) : Nat := (bits v 256 64 : BitVec 64).toNat
def svCaddr (v : StartVec) : Nat := (bits v 320 64 : BitVec 64).toNat
def svParam (v : StartVec) : Word := bits v 384 64
/-- Are the reserved fields zero? -/
def svClean (v : StartVec) : Bool :=
  (bits v 18 6 : BitVec 6) == 0 && (bits v 25 7 : BitVec 7) == 0 && (bits v 96 32 : BitVec 32) == 0 && (bits v 224 32 : BitVec 32) == 0 &&
    (bits v 448 64 : BitVec 64) == 0

/-! ### Launches by name (R35, R36) -/

/-- The launches of a partition. -/
def State.launchesOf (s : State) (part : Nat) : List Launch := s.launches.filter fun l => l.part == part

/-- launch_named of R36: the newest launch of the partition that bore an identifier. -/
def State.launchNamed (s : State) (part : Nat) (id : BitVec 16) : Option Launch :=
  (s.launchesOf part).foldl (fun acc l =>
    if l.id = id then (match acc with
      | some m => if m.key < l.key then some l else acc
      | none => some l) else acc) none

/-- The predecessor that a launch names (R36). -/
def State.predOf (s : State) (l : Launch) : Option Launch := if svPred l.sv then s.launchNamed l.part (svPredid l.sv) else none

/-- The launch holds contexts, or has them saved (R331, R364). -/
def Launch.live (l : Launch) : Bool := l.st == .bound || (l.st == .saved && !l.parked)

/-- Ended launches that are no longer remembered go: those that are not among the newest 256 of their partition and that no queued launch names (R35, R36). -/
def State.prune (s : State) (part : Nat) : State :=
  let ls := s.launchesOf part
  let named (id : BitVec 16) : Bool := ls.any fun q => q.st == .queued && svPred q.sv && svPredid q.sv == id
  { s with launches := s.launches.filter fun l =>
      !(l.part == part && l.st == .ended) || decide ((ls.filter fun m => m.st == .ended && decide (l.endSeq < m.endSeq)).length < 256) || named l.id }

/-! ### Queues -/

/-- The head of a queue. -/
def State.queueHead (s : State) (n : Fin 9) (q : Fin 16) : Option Launch := (s.vfs[n].queues[q].head?).bind s.launch

/-- Change a queue; a new head starts to wait now (R36). -/
def State.setQueue (s : State) (n : Fin 9) (q : Fin 16) (l : List Nat) : State :=
  let old := s.vfs[n].queues[q].head?
  let s := s.modVf n fun v => { v with queues := v.queues.set q l }
  if l.head? = old then s
  else match l.head? with
    | some k => s.modLaunch k fun x => { x with headSince := s.now, aged := 0 }
    | none => s

/-- Take a launch off its queue. -/
def State.dequeue (s : State) (l : Launch) : State :=
  match vfOf l.part with
  | some n => let q : Fin 16 := Fin.ofNat 16 l.queue; s.setQueue n q (s.vfs[n].queues[q].filter (· != l.key))
  | none => s

/-- Count a dropped write of a queue (R32, R34, R35). -/
def State.dropVector (s : State) (n : Fin 9) (q : Fin 16) : State :=
  s.modVf n fun v => { v with lqdrop := v.lqdrop.set q (satAdd v.lqdrop[q] 1) }

/-! ### Completion records (R40) -/

/-- The 32 bytes of a completion record (R40). -/
def completionRecord (l : Launch) : Nat :=
  l.id.toNat + l.status <<< 16 + l.queue <<< 24 + (if l.status = 9 ∨ l.status = 10 then l.cause else 0) <<< 32 +
    (if l.status = 9 then l.core else 0) <<< 48 + (l.start % 2 ^ 64) <<< 64 + (l.ended % 2 ^ 64) <<< 128 + (l.freeze % 2 ^ 64).toNat <<< 192

/-- A completion record has been written, or could not be and CRFAIL is set; then the queue's MSI-X vector, if enabled (R40). -/
def State.recordEnd (s : State) (part queue : Nat) (ok : Bool) : State :=
  match vfOf part with
  | none => s
  | some n =>
    let s := if ok then s else s.modVf n fun v => { v with crfail := v.crfail ||| (1 <<< queue) }
    if (s.vfs[n].lqirqen).getLsbD queue then s.emit (.msix part queue) else s

/-- The completion record goes to CADDR: here, or by a packet to the package that holds it (R40; log entry 124). -/
def State.writeRecord (s : State) (l : Launch) : State :=
  match s.tenantPod l.part (svCaddr l.sv) true with
  | none => s.recordEnd l.part l.queue false
  | some pa =>
    if podPkg pa = s.pf.pkg.toNat then (s.tenantPut l.part (podLoc pa) 32 (completionRecord l)).recordEnd l.part l.queue true
    else s.sendOpen 3 (podPkg pa) l.part (.record pa l.queue (BitVec.ofNat 256 (completionRecord l)))

/-- The completion record of another package's launch is written here, if its partition may reach it (R40, R63). -/
def State.takeRecord (s : State) (src part pa queue : Nat) (data : BitVec 256) : State :=
  let ok := s.reachable part (podLoc pa)
  (if ok then s.tenantPut part (podLoc pa) 32 data.toNat else s).sendOpen 3 src part (.recordDone queue ok)

/-- A launch ends: its state, its completion record, and a selection (R36, R40). -/
def State.endLaunch (s : State) (lk status cause core : Nat) : State :=
  let s := s.modLaunch lk fun l =>
    { l with st := .ended, status := status, cause := cause, core := core, ended := s.now, endSeq := s.endCount, recorded := true, yreq := none }
  let s := { s with endCount := s.endCount + 1, selectDue := true }
  match s.launch lk with
  | some l => (s.writeRecord l).prune l.part
  | none => s

/-- A queued launch ends without being bound. -/
def State.reject (s : State) (l : Launch) (status cause : Nat) : State := (s.dequeue l).endLaunch l.key status cause 0

/-! ### Acceptance (R34, R35) -/

/-- The pod side of a launch at its arrival. -/
def PodSt.fresh : PodSt :=
  { variant := 0, contained := 0, starts := 0, pendRun := none, pendSel := none, ready := none, running := none, fo := none, notices := [], lastEp := none, strays := 0, res := none,
    endCause := none, lost := none, part := #v[none, none], heard := [], due := #v[none, none] }

/-- A launch as its start vector brings it. -/
def State.newLaunch (s : State) (part queue : Nat) (v : StartVec) : Launch :=
  let img := (s.images.find? fun i => i.handle == svImage v && i.part == part).map LoadedImage.img
  { key := s.nextKey, id := svLaunch v, part := part, queue := queue, prio := svPrio v, sv := v, pred := none, image := svImage v, st := .queued,
    headSince := s.now, aged := 0, recs := (img.map fun i => ((imageRecs i).filter fun r => r.pkg == svLpkg v).map RawRec.res).getD [], entries := [],
    bound := 0, start := 0, status := 0, cause := 0, core := 0, abort := none, stopped := false, yreq := none, ys := none, yr := none,
    parked := false, podmap := [], yieldAt := none, swapSaved := false, skips := (img.map imageSkips).getD 0, power := (img.map imagePower).getD 0, places := [],
    lpkg := svLpkg v, endSeq := 0, ended := 0, recorded := false, freeze := 0, pod := PodSt.fresh }

/-- The loader's launch status of a refused image (R26, R35 check 4). -/
def refusedStatus (code : Nat) : Nat := if code ≥ 0x80 then 12 else code

/-- Is a launch among those that PREDID may name: queued, bound, or of the last 256 of its partition to have ended (R35 check 6)? One that is kept for a queued successor alone is none of them. -/
def State.nameable (s : State) (l : Launch) : Bool :=
  l.st != .ended || decide (((s.launchesOf l.part).filter fun m => m.st == .ended && decide (l.endSeq < m.endSeq)).length < 256)

/-- The status of the first acceptance check that fails, check 1 apart; none when all pass (R35). A nonzero ENTRY with NENTRY 0 fails check 2 (log entry 116). -/
def State.acceptFault (s : State) (part : Nat) (q : List Nat) (v : StartVec) : Option Nat :=
  let ls := s.launchesOf part
  let taken (l : Launch) : Bool := l.st != .ended
  if !svClean v || svEntry v % 64 != 0 || (svEntry v == 0) != (svNentry v == 0) then some 12
  else match s.images.find? fun i => i.handle == svImage v && i.part == part with
    | none => some 12
    | some i =>
      if !i.checked || decide (imageNpkg i.img ≤ svLpkg v) then some 12
      else match i.refused with
        | some c => some (refusedStatus c)
        | none =>
          if ls.any (fun l => taken l && l.id == svLaunch v) then some 12
          else if svPred v && (svPredid v == svLaunch v || !ls.any fun l => l.id == svPredid v && s.nameable l) then some 12
          else if q.length ≥ 64 then some 11
          else none

/-- START_VECTOR (R32, R34, R35, R357): a posted write to the launch queues of a VF; off is its VF offset. -/
def execStartVector (vf : Fin 9) (off : Nat) (data : List (BitVec 8)) (s : State) : Out :=
  if off < 0x1000 ∨ off ≥ 0x1400 then .next s
  else
    let q : Fin 16 := Fin.ofNat 16 ((off - 0x1000) / 64)
    let part := vf.val + 1
    if data.length ≠ 64 ∨ off % 64 ≠ 0 ∨ !(List.range 9).any (fun d => s.holdsDie part d) ∨ s.vfs[vf].tdisp ≠ .run then .next (s.dropVector vf q)
    else
      let v : StartVec := BitVec.ofNat 512 (packNat 8 (data.map BitVec.toNat))
      if svCaddr v = 0 ∨ svCaddr v % 32 ≠ 0 then .next (s.dropVector vf q)
      else
        let queue := s.vfs[vf].queues[q]
        let fault := s.acceptFault part queue v
        let l := s.newLaunch part q.val v
        let s := { s with launches := s.launches ++ [l], nextKey := s.nextKey + 1 }
        match fault with
        | some st => .next (s.endLaunch l.key st 0 0)
        | none => .next { s.setQueue vf q (queue ++ [l.key]) with selectDue := true }

/-- LQPRIO (R39): bits [15:0] name a launch, [17:16] its new priority. -/
def execLqprio (vf : Fin 9) (val : BitVec 64) (s : State) : Out :=
  let ls := (s.launchesOf (vf.val + 1)).filter fun l => l.id == bits val 0 16
  match ls.find? fun l => l.st == .queued with
  | some l =>
    .next ((s.modLaunch l.key fun l => { l with prio := (bits val 16 2 : BitVec 2).toNat }).modVf vf fun v => { v with lqpriost := 0 })
  | none => .next (s.modVf vf fun v => { v with lqpriost := if ls.isEmpty then 2 else 1 })

/-! ### Power (R363) -/

/-- W(c) (R363). -/
def powerOf (c : Nat) : Nat := 375 * (c + 1)
/-- PWRBUD.BOUND: the sum of W over bound launches, pre-empted ones among them (R363). -/
def State.powerBound (s : State) : Nat := ((s.launches.filter Launch.live).map fun l => powerOf l.power).sum

/-! ### Selection (R36 to R38) -/

/-- eff_prio of R36. -/
def Launch.effPrio (l : Launch) (now : Nat) : Nat := l.prio - (now - l.headSince) / 1200 / 65536

/-- The state of the predecessor (R36). -/
inductive PredState where
  | holds | failed | waits
  deriving DecidableEq, Repr

/-- pred_state of R36. -/
def State.predState (s : State) (l : Launch) : PredState :=
  if !svPred l.sv then .holds
  else match s.predOf l with
    | some d =>
      if d.st = .bound ∨ d.st = .saved then .holds
      else if d.st = .ended then (if d.status = 0 then .holds else .failed)
      else .waits
    | none => .failed

/-- The record of a launch for a core. -/
def Launch.recOf (l : Launch) (core : Nat) : Option ResRec := l.recs.find? fun r => r.core == core

/-- The contexts of a resource record. -/
def ResRec.ctxs (r : ResRec) : List CtxId := (List.finRange 4).filter fun i => decide (r.ctxlo ≤ i.val) && decide (i.val < r.ctxlo + r.nctx)

/-- Are the contexts of a record free, or held by a launch that would leave them (R37, R331)? -/
def State.ctxsFree (s : State) (r : ResRec) (freed : Option Nat) : Bool :=
  match coreOf r.core with
  | some c => r.ctxs.all fun i => (s.ctx c i).lk.isNone || ((s.ctx c i).lk == freed && freed.isSome)
  | none => false

/-- Is a bank of a core held by a launch other than the one given (R37)? -/
def Core.bankHeld (k : Core) (b : Nat) (but : Option Nat) : Bool := k.lcs.any fun l => l.banks.getLsbD b && some l.lk != but

/-- Accumulator names reserved on a core (R195). -/
def Core.accsHeld (k : Core) : Nat := (k.lcs.map LaunchCore.accs).sum

/-- The conditions of R37 on one record. -/
def State.recFits (s : State) (l : Launch) (pred : Option Launch) (freed : Option Nat) (r : ResRec) : Bool :=
  match coreOf r.core with
  | none => false
  | some c =>
    let k := s.core c
    s.ctxsFree r freed &&
      (bankList (r.banks &&& ~~~r.inherit)).all (fun b => !k.bankHeld b none) &&
      (bankList r.inherit).all (fun b =>
        (pred.bind fun d => d.recOf r.core).any (fun q => q.release.getLsbD b) && !k.bankHeld b (pred.map Launch.key)) &&
      decide (r.accs + k.accsHeld ≤ 24) && l.st == .queued

/-- fits_now of R37; `freed` is a launch whose contexts count as free (R331). -/
def State.fitsNow (s : State) (l : Launch) (freed : Option Nat) : Bool :=
  l.recs.all (s.recFits l (s.predOf l) freed) && decide (powerOf l.power + s.powerBound ≤ s.pf.budget.toNat) && !s.pf.trip

/-- Does INHERIT hold a bank that the predecessor does not release, or stand without PRED (R38 check 2)? -/
def State.inheritBad (s : State) (l : Launch) : Bool :=
  let pred := s.predOf l
  l.recs.any fun r => r.inherit != 0 &&
    !(svPred l.sv && (pred.bind fun d => d.recOf r.core).any fun q => r.inherit &&& q.release == r.inherit)

/-- Skips declared by all bound launches of the package (R38 check 3). Saved and parked launches count, since their skips stay on the ring (R289, R333, R336; log entry 76). -/
def State.skipsBound (s : State) : Nat := ((s.launches.filter fun l => l.st == .bound || l.st == .saved).map Launch.skips).sum

/-- The entry records of a launch on this package, from its start vector's table or the image's; none when it cannot be read or breaks R20 (R34, R38 check 5). -/
def State.entryTable (s : State) (l : Launch) : Option (List (Nat × Nat × Nat)) :=
  match s.imageOf l with
  | none => none
  | some i =>
    let rs := imageRecs i.img
    if svEntry l.sv = 0 then (i.img.chunkOf 2).map fun c => entriesOf l.lpkg c.data (entryKeys rs).length
    else
      match s.tenantGet l.part (svEntry l.sv) (16 * svNentry l.sv) with
      | some d => if entriesOk rs d (svNentry l.sv) then some (entriesOf l.lpkg d (svNentry l.sv)) else none
      | none => none

/-- The map from logical index to pod package number, two bytes an entry (log entry 22); none when it cannot be read (R34, R38 check 5). -/
def State.podTable (s : State) (l : Launch) : Option (List Nat) :=
  match s.imageOf l with
  | none => none
  | some i =>
    if imageNpkg i.img ≤ 1 then some [s.pf.pkg.toNat]
    else (s.tenantGet l.part (svPodmap l.sv) (2 * imageNpkg i.img)).map fun d =>
      (List.range (imageNpkg i.img)).map fun j => planFld d (2 * j) 2 % 4096

/-- selection_check of R38. -/
def State.selectionCheck (s : State) (l : Launch) : Nat :=
  if l.recs.any fun r => !s.holdsDie l.part (r.core / 36) then 1
  else if s.inheritBad l then 2
  else if l.skips + s.skipsBound > 352 then 5
  else if powerOf l.power > s.pf.budget.toNat then 14
  else match s.entryTable l, s.podTable l, s.imageOf l with
    | some _, some m, some i => if !imagePod i.img || s.plansFit i.img m l.lpkg then 0 else 8
    | _, _, _ => 12

/-! ### Binding (R47 to R52, R84, R190, R195, R273) -/

/-- A bank is zeroed with its tags (R48). -/
def State.zeroBank (s : State) (c : CoreId) (b : Nat) : State :=
  let a := localPa c (0x20000 * b)
  let out (x : Nat) : Bool := decide (x < a) || decide (a + 0x20000 ≤ x)
  let t := c.val * 1536 + 32 * b
  { s with
    mem := s.mem.filter fun p => out p.1
    tags := s.tags.filter fun p => decide (p.1 < t) || decide (t + 32 ≤ p.1)
    poison := s.poison.filter fun w => out (8 * w)
    weak := s.weak.filter fun w => out (8 * w) }

/-- MEMBERn of a core of a launch (R51, R52). -/
def State.memberReg (s : State) (l : Launch) (core n : Nat) : Word :=
  let npkg := (s.imageOf l).elim 1 fun i => imageNpkg i.img
  let group (i : Nat) : Nat := (s.plan l 0).elim 0 fun d => planGroup d i
  let die := l.cores.filter fun x => x / 36 == core / 36
  let (dom, size, index) :=
    if n = 1 then (core / 36, die.length, (die.filter (· < core)).length)
    else if n = 2 then (0, l.cores.length, (l.cores.filter (· < core)).length)
    else if n = 3 then
      let g := group l.lpkg
      (g, ((List.range npkg).filter fun i => group i == g).length, ((List.range l.lpkg).filter fun i => group i == g).length)
    else (0, npkg, l.lpkg)
  BitVec.ofNat 64 (n <<< 60 + dom <<< 32 + size <<< 16 + index)

/-- A barrier view at binding (R273). -/
def BarView.fresh : BarView := { own := false, seen := [], met := true, done := 0, arrived := none, lvl := 0 }

/-- The state of a bank at binding, before a hand-over that is settled at once (R47, R275, R278). -/
def bindBank (k : Core) (r : ResRec) (pred : Option Launch) (b : Nat) : BankSt :=
  if !r.banks.getLsbD b then .foreign
  else if !r.inherit.getLsbD b then .owned
  else match pred with
    | some d => if d.st = .ended ∧ ((if h : b < 48 then (k.banks[b]).mark else none) ≠ some d.key ∨ k.bankHeld b none) then .lost else .awaited
    | none => .lost

/-- Slots for a launch's accumulators out of those that no launch of the core has reserved (R195). -/
def Core.reserve (k : Core) (ctr item accs : Nat) : List Nat :=
  reserveSlots ctr item ((List.range 48).filter fun x => !k.lcs.any fun l => l.slots.contains x) (2 * accs)

/-- The record of a launch on a core at binding. -/
def Core.bindRecord (k : Core) (ctr item : Nat) (l : Launch) (r : ResRec) (pred : Option Launch) : LaunchCore :=
  { lk := l.key, ctxlo := r.ctxlo, nctx := r.nctx, vregs := r.vregs, accs := r.accs, banks := r.banks, inherit := r.inherit,
    release := r.release, bst := Vector.ofFn fun b : Fin 48 => bindBank k r pred b.val, own := [], rel := [], scyc := 0, frz0 := k.frzcnt,
    paid0 := k.paidcnt, wmap := Vector.replicate 16 0, locks := 0, fchunk := 0, fpos := 0, accBase := [], accOver := [], accClr := 0,
    holder := Vector.replicate 24 none, lastW := Vector.replicate 24 none, slots := k.reserve ctr item r.accs, slotCk := [], slotCur := [],
    was := [], wasAt := 0, stale := false, tblStale := 0, accErr := [], accErrOver := [], bar1 := BarView.fresh,
    bar2 := BarView.fresh, done34 := #v[0, 0], came34 := #v[0, 0], started := false }

/-- The face and the attenuation tables at the binding of a launch of another partition (R190, R222). -/
def Core.bindFace (k : Core) (part : Nat) : Core :=
  if k.face.part = part then k
  else
    { k.heal (fun | .face .. | .scale .. | .att .. => true | _ => false) with
      face := { Face.reset with part := part }, att := Vector.replicate 4 attReset, attErr := [] }

/-- Binding on one core (R47, R48, R52, R84, R190, R273, R278, R354). -/
def State.bindCore (s : State) (l : Launch) (pred : Option Launch) (r : ResRec) : State :=
  match coreOf r.core with
  | none => s
  | some c =>
    let s := s.modCore c fun k =>
      let lc := k.bindRecord s.freeCtr (64 * (c.val + 1)) l r pred
      let k := { k.bindFace l.part with
        lcs := k.lcs ++ [lc]
        dbg := if k.dbg.profPart = l.part then k.dbg else { k.dbg with prof := [], profPart := l.part } }
      let k := { k with lcs := k.lcs.map fun x => if x.lk = l.key then k.mapAll x (fun _ => true) else x }
      let k := (bankList (r.banks &&& ~~~r.inherit)).foldl (fun k b => k.modBank b fun x => { x with ret := (x.ret.leave k.cyc).1 }) k
      let settled := (bankList r.inherit).filter fun b => lc.bank b == .awaited && pred.any fun d => d.st == .ended
      let k := settled.foldl (fun k b => k.giveBank l.key b k.cyc) k
      let k := (bankList r.banks).foldl (fun k b => k.modBank b fun x => { x with mark := none }) k
      r.ctxs.foldl (fun k i => k.modCtx i fun x =>
        { x with lk := some l.key, member := Vector.ofFn fun n : Fin 4 => s.memberReg l r.core (n.val + 1) }) k
    let s := (bankList (r.banks &&& ~~~r.inherit)).foldl (fun s b => s.zeroBank c b) s
    [false, true].foldl (fun s d2 =>
      let p := barBit c.val r.ctxlo d2
      s.modSkip p.1 fun k => { k with payload := setBit512 k.payload p.2 false }) s

/-- The start cycle for a binding at a tick (R49). -/
def startTick (now : Nat) : Nat := (now + 8192 + 359) / 360 * 360

/-- Clock periods after which a bank that is being claimed has left retention mode (R330). -/
def RetSt.periods (r : RetSt) (cyc : Nat) : Nat :=
  match r with
  | .active => 0
  | .entering t _ => (t - cyc) + 4096
  | .retained => 4096
  | .leaving t => t - cyc

/-- The banks that a launch takes out of retention mode between its binding and its start cycle: those that it owns at binding, inherited ones settled then among them (R48, R278). -/
def ResRec.claims (r : ResRec) (pred : Option Launch) : List Nat :=
  bankList (if pred.any (fun d => d.st != .ended) then r.banks &&& ~~~r.inherit else r.banks)

/-- Clock periods for which the binding of a launch waits for conversions of its banks (R330). -/
def State.claimPeriods (s : State) (l : Launch) (pred : Option Launch) : Nat :=
  l.recs.foldl (fun n r => match coreOf r.core with
    | some c => ((r.claims pred).filter fun b => bindBank (s.core c) r pred b != .lost).foldl (fun n b => max n (if h : b < 48 then ((s.core c).banks[b].ret).periods (s.core c).cyc else 0)) n
    | none => n) 0

/-- The start cycle of a launch bound now (R49). An entry into retention mode that is in progress at binding, with the exit after it, may outlast the 8,192 cycles: the start cycle waits for it (R330; log entry 133). -/
def State.startOf (s : State) (l : Launch) (pred : Option Launch) : Nat :=
  startTick (s.now + (s.claimPeriods l pred - 8192))

/-- A launch as it is bound: its start cycle is fixed and its tables are read (R34, R47, R49). -/
def State.boundAs (s : State) (l : Launch) : Launch :=
  { l with
    st := .bound, bound := s.now, start := s.startOf l (s.predOf l), pred := (s.predOf l).map Launch.key
    entries := (s.entryTable l).getD [], podmap := (s.podTable l).getD [] }

/-- The shift of link start ticks of a partition begins at 0 with each pod launch (R313). -/
def State.clearShift (s : State) (l : Launch) : State := match vfOf l.part with
  | some n => if s.podLaunch l then s.modVf n fun v => { v with lnkshift := 0 } else s
  | none => s

/-- Every core of a launch (R47). -/
def State.bindCores (s : State) (l : Launch) (pred : Option Launch) : State := (l.recs.foldl (fun s r => s.bindCore l pred r) s).tickFree

/-- bind of R36: every core of the launch in one step (R47). -/
def State.bind (s : State) (l : Launch) : State :=
  let b := s.boundAs l
  let s := ((((s.dequeue b).modLaunch l.key fun x => { b with headSince := x.headSince }).bindCores b (s.predOf l)).clearShift b)
  { s with lastPart := l.part, selectDue := true }

/-! ### Pre-emption (R331, R334) -/

/-- The contexts of a launch on a core, by number. -/
def Core.ctxsOf (k : Core) (lk : Nat) : List CtxId := (List.finRange 4).filter fun i => (k.ctx i).lk == some lk

/-- The cores of a launch. -/
def Launch.coreIds (l : Launch) : List CoreId := l.recs.filterMap fun r => coreOf r.core

/-- May a launch be pre-empted (R331)? -/
def State.preemptible (s : State) (l : Launch) : Bool :=
  l.st == .bound && l.abort.isNone && (s.imageOf l).any (fun i => imagePre i.img && !imagePod i.img) &&
    l.coreIds.all fun c =>
      let k := s.core c
      let cs := k.ctxsOf l.key
      cs.all (fun i => (k.ctx i).st != .trapped) && decide (k.shadow.length + cs.length ≤ 8)

/-- Is V a better choice than W: the larger PRIO, then the later bound (R331)? -/
def Launch.before (v w : Launch) : Bool := decide (w.prio < v.prio) || (v.prio == w.prio && decide (w.bound < v.bound))

/-- The launch that yields to a head (R331). -/
def State.victim (s : State) (h : Launch) : Option Launch :=
  let vs := (s.launchesOf h.part).filter fun v => s.preemptible v && decide (h.effPrio s.now < v.prio) && s.fitsNow h (some v.key)
  vs.foldl (fun acc v => match acc with
    | some w => if v.before w then some v else acc
    | none => some v) none

/-- A head that waits may ask a launch to yield; one request stands per partition (R331). -/
def State.askYield (s : State) (h : Launch) : State :=
  if (s.launchesOf h.part).any fun l => l.yreq.isSome then s
  else match s.victim h with
    | some v => s.modLaunch v.key fun l => { l with yreq := some .iteration, yieldAt := none }
    | none => s

/-- The least tick at or after `from_` that stands at the same stage as `ys` (R334, R337). -/
def sameStage (from_ ys : Nat) : Nat := from_ + (360 - (from_ + 360 - ys % 360) % 360) % 360

/-- The distributor resumes a Saved launch: its contexts are reserved and Yr is fixed (R334). -/
def State.resume (s : State) (l : Launch) : State :=
  let yr := sameStage (s.now + 1024) (l.ys.getD 0) + 360 * Config.stewardDelay s.freeCtr
  let s := (s.modLaunch l.key fun l => { l with yr := some yr }).tickFree
  let s := l.recs.foldl (fun s r => match coreOf r.core with
    | some c => r.ctxs.foldl (fun s i => s.modCtx c i fun x => { x with st := .saved, lk := some l.key }) s
    | none => s) s
  { s with lastPart := l.part }

/-- The partition is being swapped out (R336). -/
def State.swapping (s : State) (part : Nat) : Bool := s.pf.swap.any fun w => w.1 == part && w.2.1
/-- The partition is parked (R336). -/
def State.isParked (s : State) (part : Nat) : Bool := s.parked.any fun p => p.part == part

/-- Queue heads of a partition in the order of R36. -/
def insertHead (now : Nat) (h : Launch) : List Launch → List Launch
  | [] => [h]
  | a :: l =>
    if h.effPrio now < a.effPrio now ∨ (h.effPrio now = a.effPrio now ∧ h.key < a.key) then h :: a :: l else a :: insertHead now h l

def State.heads (s : State) (n : Fin 9) : List Launch :=
  ((List.finRange 16).filterMap fun q => s.queueHead n q).foldl (fun l h => insertHead s.now h l) []

/-- The Saved launch to be resumed (R334): free contexts, and a PRIO at least as high as every head that fits. A swap-out resumes whatever was Saved before it, for its node-boundary yield points (R336). -/
def State.resumable (s : State) (part : Nat) (hs : List Launch) : Option Launch :=
  let vs := (s.launchesOf part).filter fun v => v.st == .saved && !v.parked && !(s.swapping part && v.swapSaved) && v.yr.isNone && v.abort.isNone && v.recs.all (fun r => s.ctxsFree r none) &&
    (s.swapping part || hs.all fun h => decide (v.prio ≤ h.effPrio s.now) || s.selectionCheck h != 0 || s.predState h != .holds || !s.fitsNow h none)
  vs.foldl (fun acc v => match acc with
    | some w => if v.prio < w.prio then some v else acc
    | none => some v) none

/-- A swap-out brings back a launch of the partition that was Saved before it, once its contexts are free, whether or not a selection runs (R336; log entry 41). -/
def State.swapResume (s : State) (part : Nat) : State :=
  if s.swapping part then (s.resumable part []).elim s s.resume else s

/-- The heads in turn, until one is bound (R36). -/
def State.tryHeads (s : State) : List Launch → State
  | [] => s
  | h :: hs =>
    let st := s.selectionCheck h
    if st ≠ 0 then (s.reject h st 0).tryHeads hs
    else match s.predState h with
      | .failed => (s.reject h 13 0).tryHeads hs
      | .holds => if s.fitsNow h none then s.bind h else (if s.pf.trip then s else s.askYield h).tryHeads hs
      | .waits => s.tryHeads hs

/-- One selection for one partition (R36, R334, R336); while TRIP is set, heads that fail are still rejected, and none is bound (R364). -/
def State.select (s : State) (n : Fin 9) : State :=
  let part := n.val + 1
  if s.isParked part || s.pf.swap.any (fun w => w.1 == part && !w.2.1) then s
  else
    let hs := if s.swapping part then [] else s.heads n
    match (s.resumable part hs).filter fun _ => !s.pf.trip with
    | some v => s.resume v
    | none => s.tryHeads hs

/-- SELECTION_PASS (R36): the partitions in rotation. -/
def execSelectionPass (s : State) : Out :=
  if s.selectDue then
    let first := s.lastPart % 9
    .next (((List.range 9).map fun j => (Fin.ofNat 9 (first + j) : Fin 9)).foldl (fun s n => s.select n) { s with selectDue := false })
  else .fault (.notDue "SELECTION_PASS")

/-- Ticks of an aging step: 65,536 microseconds (R36). -/
def agingTicks : Nat := 1200 * 65536

/-- Has the wait of a queue's head passed a multiple of 65,536 microseconds that brought no aging step yet (R36)? -/
def State.ages (s : State) (n : Fin 9) (q : Fin 16) : Bool :=
  (s.queueHead n q).any fun h => decide (h.aged < (s.now - h.headSince) / agingTicks)

/-- AGING_STEP (R36): a selection follows. -/
def execAgingStep (vf : Fin 9) (queue : Fin 16) (s : State) : Out :=
  if s.ages vf queue then
    .next { (match s.queueHead vf queue with
      | some h => s.modLaunch h.key fun l => { l with aged := (s.now - l.headSince) / agingTicks }
      | none => s) with selectDue := true }
  else .fault (.notDue "AGING_STEP")

/-! ### The start cycle (R49, R50) -/

/-- Is the cycle before a launch's start cycle here (R49, R80)? -/
def State.startDue (s : State) (l : Launch) : Bool :=
  l.st == .bound && !l.stopped && l.abort.isNone && decide (l.start ≤ s.now + 1) &&
    l.coreIds.any fun c => ((s.core c).lc l.key).any fun lc => !lc.started

/-- A context at its start cycle (R50), which is its first checkpoint too. -/
def Ctx.atStart (x : Ctx) (cyc now : Nat) (pc : BitVec 12) (param : Word) : Ctx :=
  let x := { Ctx.reset with
    st := .ready, since := cyc, lk := x.lk, pc := pc, x := (Vector.replicate 32 (0 : Word)).set 10 param, member := x.member, cv := x.cv, sin := x.sin,
    atick := x.atick, rsin := x.rsin, rtick := x.rtick, sentTo := x.sentTo, sentPkg := x.sentPkg, lastCk := some cyc }
  { x with ck := x.copy (cyc + 1) (now + 1) pc [] }

/-- The launch index at which a context of a launch starts: that of its entry record (R20, R50). -/
def Launch.entryPc (l : Launch) (core : Nat) (i : CtxId) : BitVec 12 :=
  BitVec.ofNat 12 (((l.entries.find? fun e => e.1 == core && e.2.1 == i.val).map fun e => e.2.2).getD 0)

/-- A context takes its start state; no error mark of its registers stays (R50). -/
def Core.startCtx (k : Core) (now : Nat) (pc : BitVec 12) (param : Word) (i : CtxId) : Core :=
  { (k.modCtx i (fun x => x.atStart k.cyc now pc param)).heal (fun | .reg _ j _ _ _ _ => j == i | _ => false) with
    regErr := k.regErr.filter fun e : Nat × Nat × Nat × Nat => e.1 != i.val
    ckErr := k.ckErr.filter fun e : Nat × Nat × Nat × Nat => e.1 != i.val }

/-- The contexts of a record start on its core, and its launch cycle counter with them (R49, R50). -/
def Core.startRec (k : Core) (now : Nat) (l : Launch) (r : ResRec) : Core :=
  r.ctxs.foldl (fun k i => k.startCtx now (l.entryPc r.core i) (svParam l.sv) i) (k.modLc l.key fun x => { x with started := true, scyc := 0 })

/-- The banks that a launch has taken out of retention mode are Active at its start cycle, however many of the periods since its binding were frozen (R48, R49; log entry 133). -/
def Core.claimed (k : Core) (lk : Nat) (banks : List Nat) : Core :=
  let banks := banks.filter fun b => (k.lc lk).any fun l => l.bank b != .lost
  let k := banks.foldl (fun k b => k.modBank b fun x => { x with ret := .active }) k
  k.modLc lk fun x => { x with own := x.own.map fun q : Nat × Nat => if banks.contains q.1 then (q.1, min q.2 k.cyc) else q }

/-- One record of a launch starts. -/
def State.startRec (s : State) (l : Launch) (r : ResRec) : State :=
  let pred := (l.pred.bind s.launch).filter fun d => d.st != .ended || decide (l.bound ≤ d.ended)
  match coreOf r.core with
  | some c => s.modCore c fun k => (k.startRec s.now l r).claimed l.key (r.claims pred)
  | none => s

/-- START_CYCLE (R49, R50): on the cycle before the start cycle every bound context takes its start state and becomes Ready. -/
def execStartCycle (lk : Nat) (s : State) : Out :=
  match s.launch lk with
  | some l => if s.startDue l then .next (l.recs.foldl (fun s r => s.startRec l r) s) else .fault (.notDue "START_CYCLE")
  | none => .fault (.notDue "START_CYCLE")

/-! ### Work in flight (R339) -/

/-- Does a core hold work of a launch that has yet to perform or to land? A skip that only waits to be freed is none (R289), nor is what has landed and only waits to be taken off. -/
def Core.working (k : Core) (lk : Nat) : Bool :=
  (k.results.any fun r => r.lk == lk) || (k.acc.any fun a => a.lk == lk) || (k.cmds.any fun m => m.lk == lk && decide (k.cyc < m.slot + max m.pieces 1)) ||
    (k.cmdWait.any fun m => m.lk == lk) || (k.mcasts.any fun m => m.lk == lk) || (k.walks.any fun w => w.lk == lk) ||
    (k.mforms.any fun m => m.lk == lk && !m.isOver k.cyc) || (k.haul.any fun u => u.lk == lk && u.kind != .unclaim) || (k.leaving.any fun v => v.acc.lk == lk) ||
    (k.reports.any fun r => r.trap.lk == lk) || (k.traps.any fun t => t.lk == lk) ||
    ((List.finRange 64).any fun e => k.land[e].freeAt.isNone && (k.land[e].req).any fun r => r.lk == lk) ||
    ((List.finRange 4).any fun i => (k.ctx i).lk == some lk && !(k.ctx i).wh.isEmpty)

/-- Is work of a launch in flight on the package, untimed writes that their homes have not applied among it (R261, R325, R339)? Of an aborted launch, a write to another package that no answer has come for in time counts as lost (log entry 131). -/
def State.inFlight (s : State) (l : Launch) : Bool :=
  ((List.finRange 324).any fun c => (s.core c).working l.key) || (s.wire.any fun w => w.acc.lk == l.key) ||
    (s.away.any fun q => q.1 == l.key && decide (s.now ≤ q.2)) || (s.homeQ.any fun q => q.lk == l.key && q.kind != .gld) ||
    (s.farW.any fun w => w.lk == l.key && !(l.stopped && decide (w.until_ ≤ s.now))) || l.pod.running.any fun r => !r.isOver s.now

/-- Has a launch reached its retirement point (R325, R339)? -/
def State.retires (s : State) (l : Launch) : Bool :=
  (l.st == .bound || (l.st == .saved && l.stopped)) && (l.stopped || (l.abort.isNone && decide (l.start ≤ s.now))) &&
    l.coreIds.all (fun c =>
      let k := s.core c
      ((k.ctxsOf l.key).all fun i => (k.ctx i).st == .ended) && (l.stopped || ((k.lc l.key).any fun x => x.started))) &&
    !s.inFlight l

/-! ### The retirement point (R277, R340) -/

/-- FRZCNT less PAIDCNT of a core since binding (R245). -/
def Core.freezeOf (k : Core) (lk : Nat) : Int :=
  (k.lc lk).elim 0 fun l => ((k.frzcnt - l.frz0).toNat : Int) - (k.paidcnt - l.paid0).toNat

/-- A bank of a launch at its retirement point (R277, R278): a RELEASE bank of one that ends with status 0 passes on whatever its state in that launch is (log entry 45). -/
def Core.passBank (k : Core) (lc : LaunchCore) (ok : Bool) (b : Nat) (preds : Nat → Option Nat) : Core :=
  let heir := k.lcs.find? fun x => x.lk != lc.lk && x.bank b == .awaited && preds x.lk == some lc.lk
  let k := if lc.bank b = .owned then k.modBank b fun x => { x with idle := k.cyc } else k
  match heir with
  | some h =>
    if ok && lc.release.getLsbD b then k.giveBank h.lk b k.cyc
    else k.modLc h.lk fun x => if hb : b < 48 then { x with bst := x.bst.set b .lost } else x
  | none => if ok && lc.release.getLsbD b then k.modBank b fun x => { x with mark := some lc.lk } else k

/-- The retirement of a launch on one core, in the order of R340. -/
def State.retireCore (s : State) (l : Launch) (ok : Bool) (c : CoreId) : State :=
  let preds (lk : Nat) : Option Nat := (s.launch lk).bind Launch.pred
  let s := s.modLaunch l.key fun x => { x with freeze := x.freeze + (s.core c).freezeOf l.key }
  let s := s.modCore c fun k =>
    match k.lc l.key with
    | none => k
    | some lc =>
      let k := { k with squashed := k.squashed.filter fun (q : CtxId × Nat × Nat) => !(k.ctxsOf l.key).contains q.1 }
      let k := (k.ctxsOf l.key).foldl (fun k i => k.modCtx i fun x => { x with st := .free, lk := none, wait := .none, rb := none, loops := [], wakeTick := none, wakeCyc := none }) k
      let k := { k with lcs := k.lcs.map fun (x : LaunchCore) => if x.lk = l.key then { x with locks := 0 } else x }
      let k := (List.range 48).foldl (fun k b => k.passBank lc ok b preds) k
      { k with
        lcs := k.lcs.filter fun x => x.lk != l.key
        shadow := k.shadow.filter fun (x : Nat × CtxId × Ctx) => x.1 != l.key
        shadowErr := k.shadowErr.filter fun e : Nat × Nat × Nat × Nat × Nat => e.1 != l.key
        reissue := k.reissue.filter fun m => m.lk != l.key
        reports := k.reports.filter fun r => r.trap.lk != l.key }
  s.retryLocks c

/-- The core at stage 0 of the ring. -/
def stageZero : CoreId := ((List.finRange 324).find? fun c => stageOf c == 0).getD 0

/-- Every skip of a launch is freed at its first passage of stage 0 (R289). -/
def State.freeSkips (s : State) (lk : Nat) : State :=
  (List.range 360).foldl (fun s n => if (s.skip n).lk = some lk ∧ (s.skip n).kind = 1 then s.unclaim stageZero 0 lk n else s) s

/-! ### The yield wait and the saved state (R332 to R335) -/

/-- Does a core's queue hold an engine command of a context issued at or before a cycle? Of the work that the context issued then or later it is the first (R230). -/
def Core.queuedFrom (k : Core) (lk : Nat) (i : CtxId) (t : Nat) : Bool := k.cmds.any fun m => m.lk == lk && m.ctx == i && decide (m.issued ≤ t)

/-- Is an access a local piece of an engine command that stands in its core's queue? -/
def Core.pieceQueued (k : Core) (lk : Nat) (a : Access) : Bool := a.lk == lk && a.party == .engine && k.queuedFrom lk a.ctx a.issued

/-- Is an access on its way to another core such a piece? -/
def State.wireQueued (s : State) (lk : Nat) (a : Access) : Bool :=
  a.eng == 1 && a.act.origin.any fun o => o.pkg == s.pf.pkg.toNat && (coreOf o.core).any fun c => (s.core c).queuedFrom lk o.ctx o.issued

/-- Does a core still owe a launch what must land before it is saved (R177, R289, R333)? Engine commands in the queue may be squashed; before a partition swap what is discarded need not be waited for: engine work, and the untimed requests and outcomes of contexts that have ended (R336; log entry 42). -/
def Core.owes (k : Core) (lk : Nat) (keep : Bool) : Bool :=
  (k.results.any fun r => r.lk == lk) || (k.haul.any fun u => u.lk == lk) || (k.leaving.any fun v => v.acc.lk == lk) ||
    (k.traps.any fun t => t.lk == lk) || (k.reports.any fun r => r.trap.lk == lk) || (k.mforms.any fun m => m.lk == lk) ||
    (k.cmdWait.any fun m => m.lk == lk) || (k.acc.any fun a => a.lk == lk && a.party != .engine) || ((k.ctxsOf lk).any fun i => !(k.ctx i).wh.isEmpty) ||
    (keep && ((k.acc.any fun a => a.lk == lk && !k.pieceQueued lk a) || (k.mcasts.any fun m => m.lk == lk) || (k.walks.any fun w => w.lk == lk) ||
      (List.finRange 64).any fun e => (k.land[e].req).any fun r => r.lk == lk))

/-- Is every context of a launch in the yield wait, or ended, with all that it owes landed (R289, R333)? -/
def State.yielded (s : State) (l : Launch) : Bool :=
  let keep := l.yreq == some .iteration
  l.st == .bound && l.yreq.isSome && l.abort.isNone &&
    l.coreIds.all (fun c =>
      let k := s.core c
      ((k.ctxsOf l.key).all fun i => (k.ctx i).st == .ended || ((k.ctx i).st == .waiting && (k.ctx i).wait == .yield)) && !k.owes l.key keep) &&
    !(s.wire.any fun w => w.acc.lk == l.key && (w.acc.eng != 1 || (keep && !s.wireQueued l.key w.acc))) &&
    !((List.finRange 324).any fun c => (s.core c).acc.any fun a => a.lk == l.key && a.eng != 1 && a.act.origin.isSome) &&
    !(keep && s.away.any fun q => q.1 == l.key && decide (s.now ≤ q.2)) &&
    l.coreIds.any fun c => ((s.core c).ctxsOf l.key).any fun i => ((s.core c).ctx i).wait == .yield

/-- A context as the shadow storage takes it: the checkpoint copy of its YP bundle, or a context that has ended (R333). -/
def Ctx.saved (x : Ctx) (free : Nat → BitVec 4096) : Ctx :=
  if x.st = .ended then x
  else { x.restore x.ck free with st := .saved, wait := .none, wh := [] }

/-- The engine commands of a launch on a core are squashed, to be reissued or not; pieces that have performed stay (R335, R336). -/
def Core.squashCmds (k : Core) (lk now : Nat) (keep : Bool) : Core :=
  let firsts := (k.ctxsOf lk).filterMap fun i =>
    ((k.cmds.find? fun m => m.lk == lk && m.ctx == i).map fun m => (i, (if keep then m.issued else 0), now))
  { k with
    acc := k.acc.filter fun a => !(if keep then k.pieceQueued lk a else a.lk == lk && a.party == .engine)
    reissue := (k.reissue.filter fun m => keep || m.lk != lk) ++ if keep then k.cmds.filter fun m => m.lk == lk else []
    cmds := k.cmds.filter fun m => m.lk != lk
    mcasts := k.mcasts.filter fun m => m.lk != lk
    walks := k.walks.filter fun w => w.lk != lk
    squashed := k.squashed ++ firsts }

/-- Contexts of a launch leave their registers: uncorrectable words of the checkpoint copies stay so in the storage, and the registers hold no error any more (R328, R333; log entry 24). -/
def Core.saveErrs (k : Core) (lk : Nat) (cs : List CtxId) : Core :=
  let mine (e : Nat × Nat × Nat × Nat) : Bool := cs.any fun i => i.val == e.1
  { k.heal (fun | .reg _ j _ _ _ _ => cs.contains j | _ => false) with
    shadowErr := k.shadowErr ++ (k.ckErr.filter mine).map fun e => (lk, e)
    regErr := k.regErr.filter fun e => !mine e
    ckErr := k.ckErr.filter fun e => !mine e }

/-- A context of a launch takes its registers back: words that the storage holds as uncorrectable are so in the registers and the copy (R328, R334, R337; log entry 24). -/
def Core.backErr (k : Core) (lk : Nat) (i : CtxId) : Core :=
  let es := (k.shadowErr.filter fun e : Nat × Nat × Nat × Nat × Nat => e.1 == lk && e.2.1 == i.val).map Prod.snd
  { k.heal (fun | .reg _ j _ _ _ _ => j == i | _ => false) with
    shadowErr := k.shadowErr.filter fun e : Nat × Nat × Nat × Nat × Nat => !(e.1 == lk && e.2.1 == i.val)
    regErr := (k.regErr.filter fun e : Nat × Nat × Nat × Nat => e.1 != i.val) ++ es
    ckErr := (k.ckErr.filter fun e : Nat × Nat × Nat × Nat => e.1 != i.val) ++ es }

/-- The contexts of a launch on a core go to the shadow storage, where reads of the copies correct what they can (R328); its engine commands are squashed, and kept for the reissue where the scratchpad stays; before a partition swap the untimed requests of contexts that have ended are cancelled too (R333, R335, R336). -/
def State.saveCore (s : State) (lk : Nat) (keep : Bool) (c : CoreId) : State :=
  let cs := (s.core c).ctxsOf lk
  let gone (a : Access) : Bool := a.eng == 1 && a.act.origin.any fun o => o.pkg == s.pf.pkg.toNat && o.core == c.val && o.lk == lk
  let s := s.dropWire fun a => if keep then gone a && s.wireQueued lk a else gone a
  let s := if keep then s else s.cancelReqs c fun _ r => r.lk == lk
  let s := s.noteLoc c fun
    | .reg _ j _ _ _ true => cs.contains j
    | _ => false
  (s.modCore c fun k =>
    { cs.foldl (fun k i => k.setCtx i Ctx.reset) ((k.squashCmds lk s.now keep).saveErrs lk cs) with
      shadow := k.shadow ++ cs.map fun i => (lk, i, (k.ctx i).saved fun n => s.freeV (512 * (i.val + 1) + n)) }).tickFree

/-- The bits of a launch in the byte of a core in the system skips stand as its station holds them (R52, R273, R289; log entry 126). -/
def State.putBits (s : State) (c : CoreId) (lk : Nat) : State :=
  match (s.core c).lc lk with
  | some l => [false, true].foldl (fun s d2 => s.modSkip (c.val / 64) fun k => { k with payload := setBit512 k.payload (barBit c.val l.ctxlo d2).2 (l.view d2).own }) s
  | none => s

/-! ### The partition swap (R336, R337) -/

/-- The state that a swap keeps of a context (R336, R337). -/
def Ctx.reduced (x : Ctx) (cv : Vector (BitVec 16) 9) : Ctx :=
  { Ctx.reset with
    st := x.st, lk := x.lk, pc := x.pc, x := x.x, fpflags := x.fpflags, debt := x.debt, lfsr := x.lfsr, member := x.member,
    barcnt := x.barcnt, cv := cv, sin := x.sin, atick := x.atick, rsin := x.rsin, rtick := x.rtick, sentTo := x.sentTo, sentPkg := x.sentPkg, unheard := x.unheard }

/-- The dies of a partition (R32). -/
def State.diesOf (s : State) (part : Nat) : List Nat := (List.range 9).filter fun d => s.holdsDie part d

/-- A record with cause 0x7F for each launch (R322, R336). -/
def State.swapRecord (s : State) (l : Launch) : State :=
  s.postRecord l.key { ctx := 0, lk := l.key, cause := 0x7F, part := 9, eng := 7, addr := 0, bundle := 0, origin := 0, pslot := 0, frow := 0, pod := false } 0 0

/-- A launch's record of a core leaves it; its banks are zeroed and recorded (R336). -/
def State.parkCore (s : State) (lk : Nat) (c : CoreId) : State :=
  match (s.core c).lc lk with
  | none => s
  | some lc =>
    let s := (bankList lc.banks).foldl (fun s b => s.zeroBank c b) s
    let s := s.modCore c fun k =>
      let k := (bankList lc.banks).foldl (fun k b => k.modBank b fun x => { x with idle := k.cyc }) k
      { k with
        lcs := k.lcs.filter fun x => x.lk != lk
        shadow := k.shadow.filter fun (x : Nat × CtxId × Ctx) => x.1 != lk
        shadowErr := k.shadowErr.filter fun e : Nat × Nat × Nat × Nat × Nat => e.1 != lk || e.2.2.1 == 0
        reissue := k.reissue.filter fun m => m.lk != lk }
    s.retryLocks c

/-- The partition is parked: the reduced contexts and the records of its launches go to the parked storage (R336). -/
def State.park (s : State) (part ys began : Nat) : State :=
  let ls := (s.launchesOf part).filter fun l => l.st == .saved
  let ctxs := ls.flatMap fun l => l.coreIds.flatMap fun c =>
    ((s.core c).shadow.filter fun x => x.1 == l.key).map fun x => (c, x.2.1, x.2.2.reduced x.2.2.cv)
  let lcs := ls.flatMap fun l => l.coreIds.filterMap fun c => ((s.core c).lc l.key).map fun lc => (c, lc)
  let s := ls.foldl (fun s l => l.coreIds.foldl (fun s c => s.parkCore l.key c) s) s
  let s := ls.foldl (fun s l => (s.modLaunch l.key fun x => { x with parked := true, yreq := none }).swapRecord l) s
  let dies := s.diesOf part
  { s with
    parked := s.parked ++ [⟨part, dies, ys, ctxs, lcs⟩]
    dies := Vector.ofFn fun d : Fin 9 => if dies.contains d.val then { s.dies[d] with parked := some part } else s.dies[d]
    pf := { s.pf with swap := none, swapResult := 0, swapCycles := BitVec.ofNat 32 (s.now - began) } }

/-- Is every launch of a swapped partition Saved at its node-boundary yield points (R336)? One that was pre-empted before first comes back. -/
def State.allSaved (s : State) (part : Nat) : Bool := !(s.launchesOf part).any fun l => l.st == .bound || (l.st == .saved && !l.swapSaved)

/-- The end of a swap-out, when nothing of the partition is bound any more: its Ys is the last of its launches' (R336, R337). -/
def State.parkIfDone (s : State) (part : Nat) : State :=
  match s.pf.swap with
  | some (p, true, began, _) =>
    if p = part ∧ s.allSaved part then s.park part ((((s.launchesOf part).filter fun l => l.st == .saved).filterMap Launch.ys).foldl max 0) began else s
  | _ => s

/-- RETIREMENT_POINT (R325, R336, R339, R340): a swap-out may wait for it alone. -/
def execRetirementPoint (lk : Nat) (s : State) : Out :=
  match s.launch lk with
  | some l =>
    if s.retires l then
      let out := l.abort.getD (0, 0, 0)
      let s := l.coreIds.foldl (fun s c => s.retireCore l (decide (out.1 = 0)) c) s
      .next (((s.freeSkips lk).endLaunch lk out.1 out.2.1 out.2.2).parkIfDone l.part)
    else .fault (.notDue "RETIREMENT_POINT")
  | none => .fault (.notDue "RETIREMENT_POINT")

/-- YIELD_SAVE (R333, R335, R336): at Ys every context becomes Saved on every core; in a swap-out the last launch parks the partition. -/
def execYieldSave (lk : Nat) (s : State) : Out :=
  match s.launch lk with
  | some l =>
    if s.yielded l && l.ys.any (fun t => decide (t ≤ s.now)) then
      let s := l.coreIds.foldl (fun s c => s.saveCore lk (l.yreq == some .iteration) c) s
      let s := s.modLaunch lk fun x => { x with st := .saved, yreq := none, yieldAt := none, swapSaved := l.yreq == some .node }
      .next ((s.swapResume l.part).parkIfDone l.part)
    else .fault (.notDue "YIELD_SAVE")
  | none => .fault (.notDue "YIELD_SAVE")

/-- A context that comes back at Yr: Ready, or ended as it was (R334, R337). -/
def Ctx.back (x : Ctx) (lk cyc now : Nat) : Ctx :=
  let x := { x with lk := some lk, st := if x.st = CtxSt.ended then CtxSt.ended else CtxSt.ready, since := cyc, wait := .none, lastCk := some cyc }
  { x with ck := x.copy cyc now x.pc [] }

/-- The contexts of a launch on a core return from the shadow storage (R334); where all have ended, none issues any more and its engine commands are reissued now (log entry 125). -/
def Core.unsave (k : Core) (lk now : Nat) : Core :=
  let mine := k.shadow.filter fun x => x.1 == lk
  let k := { k with
    shadow := k.shadow.filter fun (x : Nat × CtxId × Ctx) => x.1 != lk
    lcs := k.lcs.map fun l => if l.lk = lk then k.mapAll l (fun _ => true) else l }
  let k := mine.foldl (fun k x => (k.setCtx x.2.1 (x.2.2.back lk k.cyc now)).backErr lk x.2.1) k
  if mine.all fun x => x.2.2.st == .ended then k.reissueCmds lk else k

/-- Is a launch due to come back (R334, R337)? -/
def State.resumeDue (s : State) (l : Launch) : Bool := l.st == .saved && l.abort.isNone && l.yr.any fun t => decide (t ≤ s.now)

/-- A launch comes back from the parked storage (R337): its banks zeroed and Owned, its locks applied, with the window maps of all that are back set again (R84, R88), the face reset, CV at DONE of the die. -/
def State.unpark (s : State) (q : Parked) (l : Launch) : State :=
  let s := (q.lcs.filter fun x => x.2.lk == l.key).foldl (fun s x =>
    s.modCore x.1 fun k =>
      let lc := { x.2 with
        bst := Vector.ofFn fun b : Fin 48 => if x.2.banks.getLsbD b.val then .owned else .foreign
        own := [], rel := [], accBase := [], accOver := [], accClr := 0, holder := Vector.replicate 24 none, lastW := Vector.replicate 24 none,
        slots := k.reserve s.freeCtr (64 * (x.1.val + 1)) x.2.accs, slotCk := [], slotCur := [], accErr := [], accErrOver := [] }
      let k := { k.bindFace 0 with lcs := k.lcs ++ [lc] }
      let k := { k with face := { k.face with part := l.part } }
      let k := (bankList lc.banks).foldl (fun k b => k.modBank b fun y => { y with ret := .active, mark := none }) k
      { k with lcs := k.lcs.map fun y => k.mapAll y fun _ => true }) s
  let s := (q.lcs.filter fun x => x.2.lk == l.key).foldl (fun s x => s.putBits x.1 l.key) s
  let s := (q.lcs.filter fun x => x.2.lk == l.key).foldl (fun s x => (bankList x.2.banks).foldl (fun s b => s.zeroBank x.1 b) s) s
  (q.ctxs.filter fun x => x.2.2.lk == some l.key).foldl (fun s x =>
    s.modCore x.1 fun k => (k.setCtx x.2.1 ((x.2.2.reduced (s.die (dieOf x.1)).done).back l.key k.cyc s.now)).backErr l.key x.2.1) s

/-- The end of a swap-in (R337). -/
def State.unparkDone (s : State) (part : Nat) : State :=
  match s.pf.swap with
  | some (p, false, began, _) =>
    if p = part ∧ !(s.launchesOf part).any (fun l => l.parked) then
      { s with
        parked := s.parked.filter fun q => q.part != part
        dies := s.dies.map fun d => if d.parked = some part then { d with parked := none } else d
        pf := { s.pf with swap := none, swapResult := 0, swapCycles := BitVec.ofNat 32 (s.now - began) } }
    else s
  | _ => s

/-- PREEMPT_RESUME (R334, R335, R337): at Yr the contexts of a Saved launch are restored and become Ready. -/
def execPreemptResume (lk : Nat) (s : State) : Out :=
  match s.launch lk with
  | some l =>
    if s.resumeDue l then
      let back (x : Launch) : Launch := { x with st := .bound, yr := none, ys := none, parked := false, swapSaved := false }
      if l.parked then
        match s.parked.find? fun q => q.part == l.part with
        | some q => .next (((s.unpark q l).modLaunch lk back).unparkDone l.part)
        | none => .fault (.notDue "PREEMPT_RESUME")
      else
        let s := l.coreIds.foldl (fun s c => (s.modCore c fun k => k.unsave lk s.now).putBits c lk) s
        let s := s.modLaunch lk back
        .next (if s.swapping l.part then s.modLaunch lk fun x => { x with yreq := some .node } else s)
    else .fault (.notDue "PREEMPT_RESUME")
  | none => .fault (.notDue "PREEMPT_RESUME")

/-- A write of an agent that does not own the package is ignored and counted (R30). -/
def State.denied (s : State) : State := { s with pf := { s.pf with deny := satAdd s.pf.deny 1 } }
/-- Does an agent own the package (R30)? -/
def State.owns (s : State) (a : Agent) : Bool := s.pf.owner.toNat == a.num

/-- A SWAPCMD that is refused: PART and RESULT (R336). -/
def State.swapRefused (s : State) (part : BitVec 4) (r : BitVec 3) : State := { s with pf := { s.pf with swapPart := part, swapResult := r } }

/-- May every bound launch of a partition be swapped (R336)? -/
def State.swappable (s : State) (part : Nat) : Bool :=
  (s.launchesOf part).all fun l => !l.live || (s.imageOf l).any fun i => imagePre i.img && !imagePod i.img

/-- A context of a launch that waits at an iteration-boundary yield point no longer qualifies once the node kind stands: it issues its YP bundle again (R112, R332; log entry 127). -/
def State.rejudgeYields (s : State) (l : Launch) : State :=
  l.coreIds.foldl (fun s c => ((s.core c).ctxsOf l.key).foldl (fun s i => s.modCtx c i fun x =>
    if x.st = .waiting ∧ x.wait = .yield ∧ !x.loops.isEmpty then { x with st := .ready, since := (s.core c).cyc, wait := .none } else x) s) s

/-- SWAP_OUT (R336): SWAPCMD with CMD 1. -/
def execSwapOut (agent : Agent) (part : BitVec 4) (s : State) : Out :=
  if !s.owns agent then .next s.denied
  else if part = 0 ∨ part.toNat > 9 then .next s
  else if s.pf.swap.isSome then .next { s with pf := { s.pf with swapPart := part, swapResult := 4 } }
  else if !s.swappable part.toNat then .next (s.swapRefused part 2)
  else if (s.diesOf part.toNat).any (fun d => (dieOf? d).any fun e => (s.die e).parked.isSome) then .next (s.swapRefused part 3)
  else
    let s := { s with
      pf := { s.pf with swapPart := part, swapResult := 1, swap := some (part.toNat, true, s.now, none) }
      launches := s.launches.map fun (l : Launch) => if l.part = part.toNat ∧ l.st = LaunchSt.bound then { l with yreq := some .node, yieldAt := none, ys := none } else l }
    .next ((((s.launchesOf part.toNat).foldl State.rejudgeYields s).swapResume part.toNat).parkIfDone part.toNat)

/-- SWAP_IN (R337): SWAPCMD with CMD 2; every context comes back at one cycle Yr, within 1,800 cycles. -/
def execSwapIn (agent : Agent) (part : BitVec 4) (s : State) : Out :=
  if !s.owns agent then .next s.denied
  else if part = 0 ∨ part.toNat > 9 then .next s
  else if s.pf.swap.isSome then .next (s.swapRefused part 4)
  else
    match s.parked.find? fun q => q.part == part.toNat with
    | none => .next (s.swapRefused part 3)
    | some q =>
      if s.diesOf part.toNat ≠ q.dies then .next (s.swapRefused part 3)
      else
        let yr := sameStage (s.now + 1) q.ys + 360 * (Config.stewardDelay s.freeCtr % 4)
        let s := { s with
          pf := { s.pf with swapPart := part, swapResult := 1, swap := some (part.toNat, false, s.now, some yr) }
          launches := s.launches.map fun (l : Launch) => if l.part = part.toNat ∧ l.parked then { l with yr := some yr } else l }
        .next (s.tickFree.unparkDone part.toNat)

/-! ### What the distributor fixes from tick to tick -/

/-- Ys of launches whose yield wait has completed, and its recall where it has not (R333); in a swap-out one Ys for the partition, or, for a launch that had to come back first, one at the same stage (R336, R337). -/
def State.fixYields (s : State) : State :=
  let s := { s with launches := s.launches.map fun (l : Launch) => if l.ys.isSome ∧ l.st = LaunchSt.bound ∧ !s.yielded l then { l with ys := none } else l }
  s.launches.foldl (fun s (l : Launch) =>
    if l.ys.isNone && s.yielded l && (!s.swapping l.part || (s.launchesOf l.part).all (fun m => m.st != .bound || (s.yielded m && m.ys.isNone))) then
      if s.swapping l.part then
        let at_ := s.now + 64 + Config.stewardDelay s.freeCtr % 1024
        let ys := (((s.launchesOf l.part).find? Launch.swapSaved).bind Launch.ys).elim at_ (sameStage at_)
        ({ s with launches := s.launches.map fun (m : Launch) => if m.part = l.part ∧ m.st = LaunchSt.bound then { m with ys := some ys } else m }).tickFree
      else
        (s.modLaunch l.key fun m => { m with ys := some (s.now + 64 + Config.stewardDelay s.freeCtr) }).tickFree
    else s) s

end Sys2Proof.Machine
end

