-- ==== Sys2Proof/Machine/Loader.lean ====
section
/-!
DEFINITION. The loader: the prefix check (R26), chunks as they land (R14, R28), and the full-image digest (R27). An image is named by its handle.
-/

namespace Sys2Proof.Machine

/-- The image with a handle. -/
def State.loaded (s : State) (handle : Nat) : Option LoadedImage := s.images.find? fun i => i.handle == handle

/-- Change the image with a handle. -/
def State.modImage (s : State) (handle : Nat) (f : LoadedImage → LoadedImage) : State :=
  { s with images := s.images.map fun i => if i.handle = handle then f i else i }

/-- An image begins to stream: its prefix has arrived (R26). A handle that is known names no second image. -/
def State.takeImage (s : State) (handle part : Nat) (img : Image) : State :=
  if (s.loaded handle).isSome then s
  else { s with images := s.images ++ [⟨handle, part, img, (imagePrefix img).length, false, none, false, false⟩] }

/-- IMAGE_PREFIX_CHECK (R26): the reply carries the code of the first check that fails, or 0. -/
def execImagePrefixCheck (img : Nat) (s : State) : Out :=
  match s.loaded img with
  | some i =>
    if i.checked then .fault (.notDue "IMAGE_PREFIX_CHECK")
    else
      let code := loaderCode i.img s.pf.parent
      .next ((s.modImage img fun i => { i with checked := true, refused := code, passed := code.isNone }).emit (.loader img (code.getD 0)))
  | none => .fault (.notDue "IMAGE_PREFIX_CHECK")

/-- The launches of an image in a state. -/
def State.usersOf (s : State) (i : LoadedImage) (p : Launch → Bool) : List Launch :=
  s.launches.filter fun l => l.image == i.handle && l.part == i.part && p l

/-- An image is refused after its prefix has passed: the second reply, and the end of its queued launches (R14, R27, R28). -/
def State.refuseImage (s : State) (i : LoadedImage) (code status cause : Nat) : State :=
  let s := (s.modImage i.handle fun i => { i with refused := some code }).emit (.loader i.handle code)
  (s.usersOf i fun l => l.st == .queued).foldl (fun s l => s.reject l status cause) s

/-- The stream of an image stops with a launch status (R14, R28). -/
def State.stopStream (s : State) (i : LoadedImage) (status : Nat) : State :=
  let s := s.refuseImage i status status 0
  (s.usersOf i fun l => l.st == .bound || l.st == .saved).foldl (fun s l => s.decideAbort l.key status 0 0) s

/-- CHUNK_LANDS (R14, R28): the next chunk of kinds 6 to 8 has arrived whole. -/
def execChunkLands (img : Nat) (s : State) : Out :=
  match s.loaded img with
  | some i =>
    match i.img.chunks[i.arrived]? with
    | some c =>
      if !i.checked || i.refused.isSome then .fault (.notDue "CHUNK_LANDS")
      else if chunkBreaks i.img c then .next (s.stopStream i 2)
      else if c.kind = 6 ∧ imagePre i.img ∧ c.payload.any bundleInplace then .next (s.stopStream i 7)
      else .next (s.modImage img fun i => { i with arrived := i.arrived + 1 })
    | none => .fault (.notDue "CHUNK_LANDS")
  | none => .fault (.notDue "CHUNK_LANDS")

/-- The last byte of an image has arrived, and its full digest is to be decided (R27). -/
def LoadedImage.digestDue (i : LoadedImage) : Bool :=
  i.checked && i.refused.isNone && !i.digested && decide (i.img.chunks.length ≤ i.arrived)

/-- The trap record of a digest that disagrees (R27). -/
def digestTrap (lk : Nat) : Trap :=
  { ctx := 0, lk := lk, cause := 1, part := 9, eng := 7, addr := 0, bundle := 0, origin := 0, pslot := 0, frow := 0, pod := false }

/-- FULL_DIGEST_DECIDED (R27). -/
def execFullDigestDecided (img : Nat) (s : State) : Out :=
  match s.loaded img with
  | some i =>
    if !i.digestDue then .fault (.notDue "FULL_DIGEST_DECIDED")
    else if digestOk i.img then .next (s.modImage img fun i => { i with digested := true })
    else
      let s := (s.modImage img fun i => { i with digested := true }).refuseImage i 0x81 9 1
      .next ((s.usersOf i fun l => l.st == .bound || l.st == .saved).foldl (fun s l =>
        (s.postRecord l.key (digestTrap l.key) 0 flagAbort).decideAbort l.key 9 1 0) s)
  | none => .fault (.notDue "FULL_DIGEST_DECIDED")

end Sys2Proof.Machine
end

