-- ==== Sys2Proof/Machine/HostRegs.lean ====
section
/-!
DEFINITION. Writes to device registers: ownership (R30, R31), partitions (R32), the tenant's registers (R55, R65, R90, R269), the owner's (R309, R315, R363, R364), registers without a row of their own (R8, R30), and package reset (R7).
-/

namespace Sys2Proof.Machine

/-! ### Ownership (R30, R31) -/

/-- MGMT_CLAIM (R31). -/
def execMgmtClaim (agent : Agent) (s : State) : Out :=
  let n := BitVec.ofNat 4 agent.num
  if s.pf.owner = 0 then .next { s with pf := { s.pf with owner := n } }
  else if s.pf.pending = n then .next { s with pf := { s.pf with owner := n, pending := 0 } }
  else .next s

/-- MGMT_RELEASE (R31). -/
def execMgmtRelease (agent : Agent) (s : State) : Out :=
  if s.owns agent then .next { s with pf := { s.pf with owner := 0, pending := 0 } } else .next s

/-- MGMT_HAND_OVER (R30, R31): TARGET is agent 1 or 2; another TARGET names none. -/
def execMgmtHandOver (agent : Agent) (target : BitVec 4) (s : State) : Out :=
  if s.owns agent && (target == 1 || target == 2) then .next { s with pf := { s.pf with pending := target } } else .next s

/-- PARTSTAT.BUSY is set (R32). -/
def State.setBusy (s : State) : State := { s with pf := { s.pf with busy := true } }

/-- Does a partition hold a launch that is bound, or Saved with its contexts kept (R55, R269, R358)? -/
def State.partBound (s : State) (part : Nat) : Bool := (s.launchesOf part).any Launch.live

/-! ### Partitions (R32, R357) -/

/-- DIEn of a PARTMAP value; 10 to 15 read as 0 (R32). -/
def partField (val : BitVec 64) (d : Nat) : BitVec 4 := let p : BitVec 4 := bits val (4 * d) 4; if p.toNat > 9 then 0 else p

/-- Is a partition's VF locked or running (R357)? -/
def State.vfFixed (s : State) (part : Nat) : Bool := (vfOf part).any fun n => s.vfs[n].tdisp == .locked || s.vfs[n].tdisp == .run

/-- Does a die hold no bound context (R32)? -/
def State.dieIdle (s : State) (d : Fin 9) : Bool := (List.finRange 324).all fun c => dieOf c != d || (s.core c).lcs.isEmpty

/-- Are the launch queues of a partition empty (R32)? -/
def State.queuesEmpty (s : State) (part : Nat) : Bool := (vfOf part).all fun n => s.vfs[n].queues.toList.all List.isEmpty

/-- May die d go to partition p (R32, R357)? -/
def State.dieMoves (s : State) (d : Fin 9) (p : BitVec 4) : Bool :=
  let old := s.pf.partmap[d].toNat
  p.toNat == old || (!s.vfFixed old && !s.vfFixed p.toNat && (old == 0 || (s.dieIdle d && s.queuesEmpty old)))

/-- A die goes to a partition: where that has other HBM keys, the die's stacks read as undefined values (R359; log entry 7). -/
def State.rekeyDie (s : State) (d : Fin 9) (part : Nat) : State :=
  let old := s.pf.partmap[d].toNat
  if part = old ∨ s.hbmKeys old = s.hbmKeys part then s
  else match (vfOf part).or (vfOf old) with
    | some n => s.otherKeys n fun e => e == d.val
    | none => s

/-- PARTMAP_WRITE (R30, R32, R357, R359). -/
def execPartmapWrite (agent : Agent) (val : BitVec 64) (s : State) : Out :=
  if !s.owns agent then .next s.denied
  else if (List.finRange 9).all fun d => s.dieMoves d (partField val d.val) then
    let s := (List.finRange 9).foldl (fun s d => s.rekeyDie d (partField val d.val).toNat) s
    .next { s with pf := { s.pf with partmap := Vector.ofFn fun d : Fin 9 => partField val d.val } }
  else .next s.setBusy

/-! ### The tenant's registers -/

/-- HWBASE_WRITE (R55). -/
def execHwbaseWrite (vf : Fin 9) (val : BitVec 64) (s : State) : Out :=
  if s.partBound (vf.val + 1) then .next s.setBusy
  else .next (s.modVf vf fun v => { v with hwbase := bits val 36 28 })

/-- The dies that are to acknowledge, each with its tick (R65, R90). -/
def State.ackTicks (s : State) (dies : List Nat) : List (Nat × Nat) := dies.map fun d => (d, s.now + 1 + Config.ackDelay s.freeCtr d)

/-- WCINV (R65). -/
def execWcinv (vf : Fin 9) (val : BitVec 64) (s : State) : Out :=
  let acks := s.ackTicks (s.diesOf (vf.val + 1))
  .next (s.modVf vf fun v => { v with wcinv := v.wcinv ++ [(val, acks)] }).tickFree

/-- A translation that a WCINV write names (R65). -/
def wcinvHits (part : Nat) (val : Word) (c : Cached) : Bool :=
  let va := (bits val 16 36 : BitVec 36).toNat * 2 ^ 16
  c.part == part && (val.getLsbD 0 || (decide (c.va ≤ va) && decide (va < c.va + c.size)))

/-- A die drops the translations that a WCINV write names. -/
def State.dropCached (s : State) (part : Nat) (val : Word) (d : Nat) : State :=
  match dieOf? d with
  | some d => s.modDie d fun x => { x with cache := x.cache.filter fun c => !wcinvHits part val c }
  | none => s

/-- The WCINV writes of a VF, as far as the dies have acknowledged them by now (R65). -/
def State.wcinvStep (s : State) (n : Fin 9) : State :=
  let due (a : Nat × Nat) : Bool := decide (a.2 ≤ s.now)
  let s' := s.vfs[n].wcinv.foldl (fun t w => (w.2.filter due).foldl (fun t a => t.dropCached (n.val + 1) w.1 a.1) t) s
  s'.modVf n fun v => { v with wcinv := (v.wcinv.map fun (w : Word × List (Nat × Nat)) => (w.1, w.2.filter fun a => !due a)).filter fun w => !w.2.isEmpty }

/-- BSINV (R90): a write waits until those before it, of whatever VF, are done. -/
def execBsinv (vf : Fin 9) (val : BitVec 64) (s : State) : Out :=
  let acks := if s.bsinv.isEmpty then s.ackTicks (List.range 9) else []
  .next { s with bsinv := s.bsinv ++ [(vf.val + 1, val, acks)] }.tickFree

/-- Is a content tag one that a BSINV write names: a launch of the partition, and a launch window of WMASK (R90)? -/
def State.bsinvHits (s : State) (part : Nat) (val : Word) (t : SlotTag) : Bool :=
  (s.launch t.lk).any fun l => l.part == part && (val.getLsbD 32 || l.id == bits val 16 16) && (bits val 0 16 : BitVec 16).getLsbD (t.idx.toNat / 256)

/-- A die marks the content that a BSINV write names stale. -/
def State.markStale (s : State) (part : Nat) (val : Word) (d : Nat) : State :=
  (List.finRange 324).foldl (fun t c =>
    if c.val / 36 = d ∧ !(t.core c).store.isEmpty then
      t.modCore c fun k => { k with store := k.store.map fun (x : Nat × SlotTag) => if s.bsinvHits part val x.2 then (x.1, { x.2 with stale := true }) else x }
    else t) s

/-- The BSINV write in progress, as far as the dies have acknowledged it by now; the next one begins when it is done (R90). -/
def State.bsinvStep (s : State) : State :=
  match s.bsinv with
  | [] => s
  | (part, val, acks) :: rest =>
    let due (a : Nat × Nat) : Bool := decide (a.2 ≤ s.now)
    let s := (acks.filter due).foldl (fun t a => t.markStale part val a.1) s
    let left := acks.filter fun a => !due a
    if !left.isEmpty then { s with bsinv := (part, val, left) :: rest }
    else match rest with
      | [] => { s with bsinv := [] }
      | (p, next, _) :: more => { s with bsinv := (p, next, s.ackTicks (List.range 9)) :: more }.tickFree

/-- What the dies acknowledge at the beginning of a tick (R65, R90). -/
def State.acknowledge (s : State) : State := ((List.finRange 9).foldl (fun s n => s.wcinvStep n) s).bsinvStep

/-- The shadow entries of a partition's stacks go to V = 0 (R266). -/
def State.clearShadows (s : State) (part : Nat) : State :=
  { s with
    shadows := s.shadows.filter fun (x : Nat × Shadow) => match regionOf (32 * x.1) with
      | .hbm d => !s.holdsDie part d
      | _ => true
    scrambled := (List.range 12).foldl (fun l st =>
      if s.holdsDie part (stackDie st) then carve (shadowAddr (st * 0x80000000)) (shadowAddr ((st + 1) * 0x80000000)) l else l) s.scrambled }

/-- RACEPOL_WRITE (R266, R269). -/
def execRacepolWrite (vf : Fin 9) (val : BitVec 64) (s : State) : Out :=
  let mode : BitVec 2 := bits val 0 2
  if s.partBound (vf.val + 1) then .next s.setBusy
  else if mode = 3 then .next s
  else
    let s := s.modVf vf fun v => { v with racepol := (val &&& 0xFFFFFFF000) ||| mode.setWidth 64 }
    .next (if mode = 0 then s else s.clearShadows (vf.val + 1))

/-! ### The owner's registers -/

/-- PODCFG_WRITE (R308, R315): the incarnation is announced to the neighbours. -/
def execPodcfgWrite (agent : Agent) (val : BitVec 64) (s : State) : Out :=
  if !s.owns agent then .next s.denied
  else if s.launches.any Launch.live then .next s.setBusy
  else
    let inc : BitVec 16 := bits val 32 16
    let s := { s with pf := { s.pf with len := bits val 48 12, inc := inc, parent := bits val 28 4, pkg := bits val 0 12 } }
    .next ((List.range 12).foldl (fun s p => match s.neighbour p with
      | some dst => s.queuePacket p (mkHdr s.pf.pkg.toNat 3 dst 0 inc (s.incOf dst) 0) (.clear (.announce inc))
      | none => s) s)

/-- LINKCMD_RETRAIN (R309): the named port trains, also from held down. -/
def execLinkcmdRetrain (agent : Agent) (val : BitVec 64) (s : State) : Out :=
  if !s.owns agent then .next s.denied
  else
    let p := (bits val 0 4 : BitVec 4).toNat
    if h : val.getLsbD 4 ∧ p < 12 then .next { s with ports := s.ports.set p { s.ports[p] with st := 1 } } else .next s

/-- PWRBUD_WRITE (R363). -/
def execPwrbudWrite (agent : Agent) (val : BitVec 64) (s : State) : Out :=
  if !s.owns agent then .next s.denied
  else .next { s with pf := { s.pf with budget := BitVec.ofNat 12 (min (bits val 0 12 : BitVec 12).toNat 3000) } }

/-- THERMST_CLEAR (R364): TRIP is W1C, and only once every sensor reads below 85 °C. -/
def execThermstClear (agent : Agent) (val : BitVec 64) (s : State) : Out :=
  if !s.owns agent then .next s.denied
  else if val.getLsbD 0 && s.sensors.toList.all (fun t => decide (t < 85)) then .next { s with pf := { s.pf with trip := false } }
  else .next s

/-! ### Registers without a row of their own (R8, R30) -/

/-- A W1C field after a write of the bits v. -/
def w1c {w : Nat} (f v : BitVec w) : BitVec w := f &&& ~~~v

/-- W1C of LINKSTATn (14_pod_fabric.md). -/
def Port.clear (p : Port) (val : BitVec 64) : Port :=
  { p with
    incdrop := w1c p.incdrop (bits val 48 16), opendrop := w1c p.opendrop (bits val 32 16), retrain := w1c p.retrain (bits val 12 8)
    fault := p.fault && !val.getLsbD 1 }

/-- W1C of DIEERRn (R330). -/
def Die.clear (d : Die) (val : BitVec 64) : Die :=
  { d with uncor := w1c d.uncor (bits val 48 16), corr := w1c d.corr (bits val 16 32), drop := w1c d.drop (bits val 0 16) }

/-- The owner writes a PF 0 register that has no row of its own. -/
def State.writePf (s : State) (off : Nat) (val : BitVec 64) : State :=
  if off = 0x48 then { s with pf := { s.pf with busy := s.pf.busy && !val.getLsbD 0 } }
  else if off = 0x700 then { s with pf := { s.pf with master := val.getLsbD 0 } }
  else if h : 0x480 ≤ off ∧ off < 0x4E0 ∧ off % 8 = 0 then
    let p : Fin 12 := ⟨(off - 0x480) / 8, by omega⟩
    { s with ports := s.ports.set p (s.ports[p].clear val) }
  else if h : 0x600 ≤ off ∧ off < 0x648 ∧ off % 8 = 0 then s.modDie ⟨(off - 0x600) / 8, by omega⟩ fun d => d.clear val
  else s

/-- The tenant runtime writes a VF register that has no row of its own. -/
def Vf.write (v : Vf) (off : Nat) (val : BitVec 64) : Vf :=
  if h : 0x100 ≤ off ∧ off < 0x180 ∧ off % 8 = 0 then
    let q : Fin 16 := ⟨(off - 0x100) / 8, by omega⟩
    { v with
      lqdrop := v.lqdrop.set q (w1c v.lqdrop[q] (bits val 16 16))
      crfail := if val.getLsbD 7 then w1c v.crfail (BitVec.ofNat 16 (2 ^ q.val)) else v.crfail }
  else if off = 0x180 then { v with lqirqen := bits val 0 16 }
  else if off = 0x200 then { v with ptroot := val &&& 0xFFFFF00001 }
  else if off = 0x248 then { v with raceTotal := w1c v.raceTotal (bits val 32 32) }
  else if off = 0x280 then { v with trapbase := val &&& 0xFFFFFFF003 }
  else if off = 0x288 then { v with trapTotal := w1c v.trapTotal (bits val 32 32), badcmd := v.badcmd && !val.getLsbD 16 }
  else if off = 0x300 ∧ !v.dbgbusy ∧ !((bits val 32 8 : BitVec 8).toNat ∈ List.range' 1 10) then { v with dbgerr := 3 }
  else if off = 0x308 then { v with dbgdata := val }
  else if 0x10000 ≤ off ∧ off + 8 ≤ 0x20000 then { v with window := v.window.write (off - 0x10000) 8 val.toNat }
  else v

/-- REGISTER_WRITE (R8, R30): a write of eight bytes to a register without a row of its own. MGMTCMD, which every agent may write, ignores every other command. -/
def execRegisterWrite (where_ : RegSpace) (off : Nat) (val : BitVec 64) (s : State) : Out :=
  match where_ with
  | .pf a => if off = 8 then .next s else if s.owns a then .next (s.writePf off val) else .next s.denied
  | .vf n => .next (s.modVf n fun v => v.write off val)

/-! ### Package reset (R7) -/

/-- PACKAGE_RESET (R7): what lies outside the package stays as it is. -/
def execPackageReset (s : State) : Out :=
  .next { State.reset with inputs := s.inputs, outbox := s.outbox, hostMem := s.hostMem, sensors := s.sensors, freeCtr := s.freeCtr + 1 }

end Sys2Proof.Machine
end

