-- ==== Sys2Proof/Machine/Debug.lean ====
section
/-!
DEFINITION. Debugging: the commands of a partition (R342 to R346), forwarded commands (R345), watch reports (R351), stop-all (R353), the profile control (R354), and the debug policy (R360, R361).
-/

namespace Sys2Proof.Machine

/-! ### Fields of DBGCMD (R343) -/

def dbgPkg (c : Word) : Nat := (bits c 52 12 : BitVec 12).toNat
def dbgFwd (c : Word) : Bool := c.getLsbD 51
def dbgCore (c : Word) : Nat := (bits c 42 9 : BitVec 9).toNat
def dbgCtx (c : Word) : CtxId := (bits c 40 2 : BitVec 2).toFin
def dbgNum (c : Word) : Nat := (bits c 32 8 : BitVec 8).toNat
def dbgSel (c : Word) : BitVec 32 := bits c 0 32

/-! ### Context registers (R344) -/

/-- Control state: item n of class 3 (R344). -/
def Ctx.control (x : Ctx) (n : Nat) : Option Word :=
  if n = 0 then some (zext64 x.pc)
  else if n = 1 then some (match x.pending with
    | some t => BitVec.ofNat 64 (2 ^ 63 + t.toNat)
    | none => 0)
  else if n ≤ 13 then
    some (match x.loops[(n - 2) / 2]? with
      | some e =>
        if n % 2 = 0 then BitVec.ofNat 64 (2 ^ 63 + 65536 * e.stop.toNat + e.start.toNat) else BitVec.ofNat 64 (2 ^ 32 * e.idx.toNat + e.count.toNat)
      | none => 0)
  else none

/-- Is a number one of the system registers of R290? -/
def sysListed (n : Nat) : Bool :=
  (decide (1 ≤ n) && decide (n ≤ 9)) || (decide (0x0C ≤ n) && decide (n ≤ 0x11)) || (decide (0x18 ≤ n) && decide (n ≤ 0x1B))

/-- A context register by its selector; none for one that does not exist (R344). -/
def State.debugReg (s : State) (c : CoreId) (i : CtxId) (sel : BitVec 32) : Option Word :=
  let x := s.ctx c i
  let fld (lo w : Nat) : Nat := (sel.toNat >>> lo) % 2 ^ w
  match fld 24 8 with
  | 0 => some (x.xr (bits sel 0 5))
  | 1 => some (BitVec.ofNat 64 ((x.vr (bits sel 8 5)).toNat >>> (32 * fld 0 7) % 2 ^ 32))
  | 2 => some (BitVec.ofNat 64 ((x.mr (bits sel 0 3)).toNat >>> (32 * fld 8 2) % 2 ^ 32))
  | 3 => x.control (fld 0 8)
  | 4 => if sysListed (fld 0 8) then some (s.sysReg c i (fld 0 8)) else none
  | 5 =>
    match (s.core c).lcOf i with
    | some l => if fld 16 5 < l.accs then some (BitVec.ofNat 64 ((l.accRow (fld 16 5) (fld 8 6)).toNat >>> (32 * fld 0 7) % 2 ^ 32)) else none
    | none => none
  | _ => none

/-- The class, register and 32-bit words that a selector writes, for R328. -/
def dbgWordsOf (sel : BitVec 32) : Nat × Nat × List Nat :=
  let fld (lo w : Nat) : Nat := (sel.toNat >>> lo) % 2 ^ w
  match fld 24 8 with
  | 0 => (0, fld 0 5, [0, 1])
  | 1 => (1, fld 8 5, [fld 0 7])
  | _ => (2, fld 0 3, [fld 8 2])

/-- The words that a selector of classes 0 to 2 or 5 reads, for R328; a launch's accumulators are those of the context's launch. -/
def dbgReads (i : CtxId) (lk : Option Nat) (sel : BitVec 32) (e : ErrLoc) : Bool :=
  let fld (lo w : Nat) : Nat := (sel.toNat >>> lo) % 2 ^ w
  let w := dbgWordsOf sel
  match e with
  | .reg _ j c n m copy => decide (fld 24 8 < 3) && !copy && j == i && c == w.1 && n == w.2.1 && w.2.2.contains m
  | .acc _ k name row col => fld 24 8 == 5 && some k == lk && name == fld 16 5 && row == fld 8 6 && col == fld 0 7
  | _ => false

/-- A word of 32 bits replaced. -/
def putWord32 {w : Nat} (v : BitVec w) (n : Nat) (d : BitVec 32) : BitVec w :=
  (v &&& ~~~(BitVec.ofNat w (2 ^ 32 - 1) <<< (32 * n))) ||| (d.setWidth w <<< (32 * n))

/-- Classes 0 to 2 of context registers are written (R344); the checkpoint copy is not. -/
def Ctx.debugWrite (x : Ctx) (sel : BitVec 32) (data : Word) : Ctx :=
  let fld (lo w : Nat) : Nat := (sel.toNat >>> lo) % 2 ^ w
  match fld 24 8 with
  | 0 => x.setX (bits sel 0 5) data
  | 1 => x.setV (bits sel 8 5) (putWord32 (x.vr (bits sel 8 5)) (fld 0 7) (bits data 0 32))
  | 2 => x.setM (bits sel 0 3) (putWord32 (x.mr (bits sel 0 3)) (fld 8 2) (bits data 0 32))
  | _ => x

/-- The write of a context register, which leaves no error in its words (R328). -/
def Core.debugWrite (k : Core) (i : CtxId) (sel : BitVec 32) (data : Word) : Core :=
  let w := dbgWordsOf sel
  { (k.modCtx i fun x => x.debugWrite sel data).heal (fun | .reg _ j c n m false => j == i && c == w.1 && n == w.2.1 && w.2.2.contains m | _ => false) with
    regErr := k.regErr.filter fun e : Nat × Nat × Nat × Nat => !(e.1 == i.val && e.2.1 == w.1 && e.2.2.1 == w.2.1 && w.2.2.contains e.2.2.2) }

/-! ### Core debug registers (R348 to R354) -/

/-- A word of the profile table: entry e, word w (R354). -/
def Debug.profWord (d : Debug) (e w : Nat) : Word :=
  match d.prof[e]? with
  | some p =>
    if w = 0 then (if e = 255 then 0xFFFFFFFF else BitVec.ofNat 64 (65536 * p.launch.toNat + p.bundle.toNat))
    else p.counts.toList.getD (w - 1) 0
  | none => 0

/-- A core debug register; none for a number that names none. -/
def Debug.read (d : Debug) (n : Nat) : Option Word :=
  if h : n < 4 then some d.wpaddr[n]
  else if h : n < 8 then some (d.wpctl[n - 4]'(by omega))
  else if n = 8 then some d.rec0
  else if n = 9 then some d.rec1
  else if n = 0xA then some d.haltcnt
  else if n = 0xB then some 0
  else if n = 0xC then some (BitVec.ofNat 64 (65536 * d.wtotal.toNat + d.wnext.toNat))
  else if n = 0xD then some (BitVec.ofNat 64 d.profEn.toNat)
  else if h : 0x10 ≤ n ∧ n < 0x50 then some ((d.wlog[(n - 0x10) / 4]'(by omega))[(n - 0x10) % 4]'(by omega))
  else if 0x1000 ≤ n ∧ n < 0x1800 ∧ n % 8 < 6 then some (d.profWord ((n - 0x1000) / 8) (n % 8))
  else none

/-- WPCTLn as a write leaves it: ACT 3 reads as 0 (R349). -/
def wpctlOf (v : Word) : Word :=
  let v := v &&& 0xFFFF001D
  if (bits v 3 2 : BitVec 2) = 3 then v &&& ~~~0x18 else v

/-- A core debug register is written; read-only ones stay (R6, R349, R354). -/
def Debug.write (d : Debug) (n : Nat) (v : Word) : Debug :=
  if h : n < 4 then { d with wpaddr := d.wpaddr.set n (v &&& 0x7FFFF0) }
  else if h : n < 8 then { d with wpctl := d.wpctl.set (n - 4) (wpctlOf v) }
  else if n = 0xD then { d with profEn := v.getLsbD 0, prof := if v.getLsbD 1 then [] else d.prof }
  else d

/-- Does a debug register belong to the profile table (R342, R354, R360)? -/
def isProfReg (n : Nat) : Bool := n == 0xD || decide (0x1000 ≤ n)

/-! ### Commands of this package (R342, R343) -/

/-- The launch that commands 9 and 10 name, with its cores. -/
def State.dbgLaunch (s : State) (part : Nat) (sel : BitVec 32) : Option Launch :=
  (s.launchNamed part (bits sel 0 16)).filter fun l => l.live

/-- A core is to halt: REASON, and the tick from which (R348). -/
def Core.askHalt (k : Core) (reason tick : Nat) : Core := { k with dbg := { k.dbg with req := k.dbg.req ++ [(reason, tick)] } }

/-- Does the policy of a partition open command n (R342, R353, R360)? -/
def State.dbgAllowed (s : State) (part n : Nat) (sel : BitVec 32) : Bool :=
  if s.pf.stopped then s.isOpen part 4
  else if n = 1 ∨ n = 2 ∨ n = 9 ∨ n = 10 then s.isOpen part 0
  else s.isOpen part 1 && ((n != 7 && n != 8) || !isProfReg sel.toNat || s.isOpen part 3)

/-- The core that a command names, when it is of the partition (R343). -/
def State.dbgCoreOf (s : State) (part : Nat) (cmd : Word) : Option CoreId := (coreOf (dbgCore cmd)).filter fun c => s.holdsDie part (dieOf c).val

/-- A command that reads: ERR and the result. -/
def State.dbgRead (s : State) (c : CoreId) (i : CtxId) (n : Nat) (sel : BitVec 32) (halted : Bool) : State × BitVec 3 × Word :=
  let a := sel.toNat % 2 ^ 23 / 8 * 8
  let res := match n with
    | 3 => s.debugReg c i sel
    | 5 => if a < 0x600000 then some (BitVec.ofNat 64 (s.pad c a 8)) else none
    | _ => (s.core c).dbg.read sel.toNat
  match res with
  | none => (s, 3, 0)
  | some v => if n != 7 && !halted then (s, 2, 0) else ((match n with
    | 5 => s.noteReads (dieOf c) [localPa c a / 8]
    | 3 => s.noteLoc c (dbgReads i (s.ctx c i).lk sel)
    | _ => s), 0, v)

/-- A command that writes: ERR. -/
def State.dbgWrite (s : State) (c : CoreId) (i : CtxId) (n : Nat) (sel : BitVec 32) (data : Word) (halted : Bool) : State × BitVec 3 :=
  let a := sel.toNat % 2 ^ 23 / 8 * 8
  let ok := match n with
    | 4 => decide (sel.toNat / 2 ^ 24 ≤ 2)
    | 6 => decide (a < 0x600000)
    | _ => ((s.core c).dbg.read sel.toNat).isSome
  if !ok then (s, 3)
  else if n != 8 && !halted then (s, 2)
  else match n with
    | 4 => (s.modCore c fun k => k.debugWrite i sel data, 0)
    | 6 => ((chunksFor a 8 data.toNat fun _ => true).foldl (fun s w => s.writeLocal c w) s, 0)
    | _ => (s.modCore c fun k => { k with dbg := k.dbg.write sel.toNat data }, 0)

/-- Command n of a partition on this package, with its operand: the state, ERR, and the result of a read (R342 to R346, R348, R353). -/
def State.dbgLocal (s : State) (part n : Nat) (cmd data : Word) : State × BitVec 3 × Word :=
  let sel := dbgSel cmd
  if n = 0 ∨ 10 < n ∨ (s.pf.stopped && !(n == 3 || n == 5 || n == 7)) then (s, 3, 0)
  else if !s.dbgAllowed part n sel then (s, 1, 0)
  else if n = 9 ∨ n = 10 then
    match s.dbgLaunch part sel with
    | none => (s, 3, 0)
    | some l =>
      if n = 9 ∧ data.toNat < s.now + 16384 then (s, 3, 0)
      else (l.coreIds.foldl (fun s c => s.modCore c fun k => if n = 9 then k.askHalt 5 data.toNat else k.unhalt) s, 0, 0)
  else
    match s.dbgCoreOf part cmd with
    | none => (s, 3, 0)
    | some c =>
      let halted := (s.core c).dbg.halted || s.pf.stopped
      if n = 1 then (s.modCore c fun k => k.askHalt 1 s.now, 0, 0)
      else if n = 2 then (if halted then (s.modCore c Core.unhalt, 0, 0) else (s, 2, 0))
      else if n = 3 ∨ n = 5 ∨ n = 7 then s.dbgRead c (dbgCtx cmd) n sel halted
      else let r := s.dbgWrite c (dbgCtx cmd) n sel data halted; (r.1, r.2, 0)

/-- A command ends with ERR (R343). -/
def State.dbgEnd (s : State) (n : Fin 9) (err : BitVec 3) : State := s.modVf n fun v => { v with dbgerr := err, dbgbusy := false, dbgfwd := none }

/-- A read command returns its result in DBGDATA when it ends without an error. -/
def State.dbgResult (s : State) (n : Fin 9) (num : Nat) (err : BitVec 3) (data : Word) : State :=
  if (num = 3 ∨ num = 5 ∨ num = 7) ∧ err = 0 then s.modVf n fun v => { v with dbgdata := data } else s

/-- The packages that a forwarded command goes to; none for a PKG that names none (R343, R345). -/
def State.dbgTargets (s : State) (part num : Nat) (cmd : Word) : Option (List Nat) :=
  let pkg := dbgPkg cmd
  if pkg = 0xFFF then
    if num = 9 ∨ num = 10 then (s.dbgLaunch part (dbgSel cmd)).map fun l => if l.podmap.isEmpty then [s.pf.pkg.toNat] else l.podmap else none
  else if pkg < s.rings.foldl (· * ·) 1 then some [pkg]
  else none

/-- A command is forwarded by the pod debug master; its own part of it is done at once (R345). -/
def State.dbgForward (s : State) (n : Fin 9) (num : Nat) (cmd data : Word) : State :=
  let part := n.val + 1
  if !s.pf.master || s.pf.stopped then s.dbgEnd n 3
  else match s.dbgTargets part num cmd with
    | none => s.dbgEnd n 3
    | some ts =>
      let far := ts.filter (· != s.pf.pkg.toNat)
      let r := if ts.contains s.pf.pkg.toNat then s.dbgLocal part num cmd data else (s, 0, 0)
      let s := r.1.dbgResult n num r.2.1 r.2.2
      if far.isEmpty then s.dbgEnd n r.2.1
      else
        let s := far.foldl (fun s d => s.sendOpen 3 d 0 (.dbg part cmd data)) s
        s.modVf n fun v => { v with dbgerr := r.2.1, dbgbusy := true, dbgfwd := some (s.now, far.length, num) }

/-- A write to DBGCMD with command num; it is ignored while BUSY is 1 (R343). -/
def State.dbgCommand (s : State) (n : Fin 9) (num : Nat) (cmd data : Word) : State :=
  if s.vfs[n].dbgbusy then s
  else if dbgFwd cmd then s.dbgForward n num cmd data
  else
    let r := s.dbgLocal (n.val + 1) num cmd data
    (r.1.dbgResult n num r.2.1 r.2.2).dbgEnd n r.2.1

/-- DBG_HALT (R343, R348): command 1. -/
def execDbgHalt (vf : Fin 9) (cmd : BitVec 64) (s : State) : Out := .next (s.dbgCommand vf 1 cmd s.vfs[vf].dbgdata)
/-- DBG_RESUME (R343, R346): command 2. -/
def execDbgResume (vf : Fin 9) (cmd : BitVec 64) (s : State) : Out := .next (s.dbgCommand vf 2 cmd s.vfs[vf].dbgdata)
/-- DBG_READ_REG (R344): command 3. -/
def execDbgReadReg (vf : Fin 9) (cmd : BitVec 64) (s : State) : Out := .next (s.dbgCommand vf 3 cmd s.vfs[vf].dbgdata)
/-- DBG_WRITE_REG (R344): command 4. -/
def execDbgWriteReg (vf : Fin 9) (cmd : BitVec 64) (s : State) : Out := .next (s.dbgCommand vf 4 cmd s.vfs[vf].dbgdata)
/-- DBG_READ_MEM (R343): command 5. -/
def execDbgReadMem (vf : Fin 9) (cmd : BitVec 64) (s : State) : Out := .next (s.dbgCommand vf 5 cmd s.vfs[vf].dbgdata)
/-- DBG_WRITE_MEM (R343): command 6. -/
def execDbgWriteMem (vf : Fin 9) (cmd : BitVec 64) (s : State) : Out := .next (s.dbgCommand vf 6 cmd s.vfs[vf].dbgdata)
/-- DBG_READ_DEBUG_REG (R343): command 7. -/
def execDbgReadDebugReg (vf : Fin 9) (cmd : BitVec 64) (s : State) : Out := .next (s.dbgCommand vf 7 cmd s.vfs[vf].dbgdata)
/-- DBG_WRITE_DEBUG_REG (R343): command 8. -/
def execDbgWriteDebugReg (vf : Fin 9) (cmd : BitVec 64) (s : State) : Out := .next (s.dbgCommand vf 8 cmd s.vfs[vf].dbgdata)
/-- DBG_HALT_LAUNCH (R343, R348): command 9. -/
def execDbgHaltLaunch (vf : Fin 9) (cmd : BitVec 64) (s : State) : Out := .next (s.dbgCommand vf 9 cmd s.vfs[vf].dbgdata)
/-- DBG_RESUME_LAUNCH (R343, R346): command 10. -/
def execDbgResumeLaunch (vf : Fin 9) (cmd : BitVec 64) (s : State) : Out := .next (s.dbgCommand vf 10 cmd s.vfs[vf].dbgdata)

/-- PROFCTL_CLR (R354): command 8 on register 0x0D with CLR set. -/
def execProfctlClr (vf : Fin 9) (cmd : BitVec 64) (s : State) : Out :=
  .next (s.dbgCommand vf 8 (cmd &&& ~~~0xFFFFFFFF ||| 0xD) (s.vfs[vf].dbgdata ||| 2))

/-- A forwarded command reaches its target, which answers (R345). -/
def State.dbgServe (s : State) (src part : Nat) (cmd data : Word) : State :=
  let r := s.dbgLocal part (dbgNum cmd) cmd data
  r.1.sendOpen 3 src 0 (.dbgReply part r.2.1 r.2.2)

/-- A reply to a forwarded command: the command ends with the last one, and ERR is the first that is not 0 (R345). -/
def State.dbgReply (s : State) (part : Nat) (err : BitVec 3) (data : Word) : State :=
  match vfOf part with
  | none => s
  | some n =>
    match s.vfs[n].dbgfwd with
    | none => s
    | some (t, k, num) =>
      let e := if s.vfs[n].dbgerr = 0 then err else s.vfs[n].dbgerr
      let s := s.dbgResult n num err data
      if k ≤ 1 then s.dbgEnd n e else s.modVf n fun v => { v with dbgerr := e, dbgfwd := some (t, k - 1, num) }

/-- A forwarded command whose reply is missing for 2²⁰ ticks (R345). -/
def State.dbgLate (s : State) (n : Fin 9) : Bool := s.vfs[n].dbgfwd.any fun q => decide (q.1 + 2 ^ 20 ≤ s.now)

/-- DBG_FORWARD_TIMEOUT (R345). -/
def execDbgForwardTimeout (vf : Fin 9) (s : State) : Out :=
  if s.dbgLate vf then .next (s.dbgEnd vf 4) else .fault (.notDue "DBG_FORWARD_TIMEOUT")

/-! ### Watch reports (R351) -/

/-- Is a report due? -/
def Core.watchDue (k : Core) (now : Nat) : Bool := k.dbg.pend.any fun r => decide (r.due ≤ now)

/-- WATCH_REPORT (R342, R348, R351): the records that fall due are posted while the policy opens watchpoints, and ACT 2 asks for a halt while it opens halts. -/
def execWatchReport (core : CoreId) (s : State) : Out :=
  let opens := s.isOpen (s.partOfCore core)
  if (s.core core).watchDue s.now then
    .next (s.modCore core fun k =>
      let due := (k.dbg.pend.filter fun r => decide (r.due ≤ s.now)).filter fun _ => opens 2
      let d := due.foldl (fun d r => d.post r.words) k.dbg
      { k with dbg := { d with
          pend := k.dbg.pend.filter fun r => !decide (r.due ≤ s.now)
          req := if opens 0 && due.any WatchRec.halt then d.req ++ [(4, s.now)] else d.req } })
  else .fault (.notDue "WATCH_REPORT")

/-! ### Stop-all (R353) -/

/-- STOPALL (R353): it acts on the next tick. -/
def execStopall (agent : Agent) (val : BitVec 64) (s : State) : Out :=
  if !s.owns agent then .next s.denied
  else if val.getLsbD 0 then .next { s with pf := { s.pf with stopAt := some (s.now + 1) } }
  else .next s

/-! ### The debug policy (R360, R361) -/

/-- What a policy leaves closed acts at once: halted cores of the partition resume and none is yet to halt; enabled watchpoints read EN = 0 and no record of theirs is yet to be posted (R342, R361). -/
def State.closeDebug (s : State) (part : Nat) (open_ : BitVec 5) : State :=
  (List.finRange 324).foldl (fun s c =>
    if s.holdsDie part (dieOf c).val then
      s.modCore c fun k =>
        let k := if open_.getLsbD 0 then k
          else { k.unhalt with dbg := { k.dbg with halted := false, req := [], pend := k.dbg.pend.map fun r => { r with halt := false } } }
        if open_.getLsbD 2 then k else { k with dbg := { k.dbg with pend := [], wpctl := k.dbg.wpctl.map fun w => w &&& ~~~1 } }
    else s) s

/-- The policy of a partition closes (R361). -/
def State.closePolicy (s : State) (n : Fin 9) : State :=
  (s.modVf n fun v => { v with open_ := 0, polst := 0, policy := none }).closeDebug (n.val + 1) 0

/-- Bytes of a signature SLH-DSA-SHAKE-256f (R355; FIPS 205). -/
def sigBytes : Nat := 49856

/-- Does a policy record pass (R360, R361)? -/
def State.policyOk (s : State) (n : Fin 9) (r : BitVec 1024) (sig : Nat) : Bool :=
  let v := s.vfs[n]
  (v.pubkey.any fun k => Config.verifies k r sig) && (bits r 0 16 : BitVec 16).toNat == n.val + 1 && bits r 16 16 == s.pf.inc &&
    bits r 32 256 == v.nonce && (bits r 293 3 : BitVec 3) == 0 && (bits r 296 728 : BitVec 728) == 0

/-- DBGPOL_COMMIT (R360, R361): each commit draws a new nonce. -/
def execDbgpolCommit (vf : Fin 9) (s : State) : Out :=
  let r : BitVec 1024 := BitVec.ofNat 1024 (s.vfs[vf].window.span 0 128)
  let ok := s.policyOk vf r (s.vfs[vf].window.span 128 sigBytes)
  let s' := s.modVf vf fun v =>
    let v := { v with nonce := Config.nonceOf s.freeCtr }
    if ok then { v with open_ := bits r 288 5, polst := 1, policy := some r } else { v with polst := 2 }
  .next (if ok then s'.closeDebug (vf.val + 1) (bits r 288 5) else s').tickFree

end Sys2Proof.Machine
end

