-- ==== Sys2Proof/Machine/Pod.lean ====
section
/-!
DEFINITION. The pod: starts and selections (R249, R306), the running of transfer programs (R304, R305, R310), flits and open packets as they arrive (R296, R297, R308), the time base (R298, R299), guard intervals (R300), barrier slots (R274, R307), and faults and containment (R311 to R313, R338).
-/

namespace Sys2Proof.Machine

/-! ### Starts and selections (R249, R306) -/

/-- Change the pod side of a launch. -/
def State.modPod (s : State) (lk : Nat) (f : PodSt → PodSt) : State := s.modLaunch lk fun l => { l with pod := f l.pod }

/-- LNKSHIFT of a launch's partition (R306, R313). -/
def State.lnkShift (s : State) (l : Launch) : Nat := ((vfOf l.part).map fun n => s.vfs[n].lnkshift).getD 0

/-- A start is running or pending with this program and effective tick (R249). -/
def PodSt.startIs (p : PodSt) (now prog b : Nat) : Bool :=
  p.pendRun == some (prog, b) || p.running.any fun r => r.prog == prog && r.b == b && !r.isOver now

/-- A start or a selection is pending at another tick (R249). -/
def PodSt.pendsElsewhere (p : PodSt) (b : Nat) : Bool := p.pendRun.any (fun r => r.2 != b) || p.pendSel.any fun q => q.2 != b

/-- The status of lnk.run, b with LNKSHIFT added, in the order of R249. -/
def State.runStatus (s : State) (l : Launch) (prog b : Nat) : Nat :=
  match s.plan l 0 with
  | none => 2
  | some d =>
    if planProgs d ≤ prog then 2
    else if l.pod.startIs s.now prog b then 0
    else if b ≤ s.now + 4096 ∨ !s.pf.lock then 3
    else if l.pod.pendsElsewhere b then 1
    else 0

/-- The status of lnk.sel likewise; after a containment no other variant may be named (R306). -/
def State.selStatus (s : State) (l : Launch) (variant b : Nat) : Nat :=
  if (s.plan l 0).isNone ∨ (s.plan l variant).isNone then 2
  else if l.pod.pendSel = some (variant, b) then 0
  else if b ≤ s.now + 4096 ∨ !s.pf.lock ∨ (l.pod.contained > 0 ∧ variant ≠ l.pod.variant) then 3
  else if l.pod.pendsElsewhere b then 1
  else 0

/-- LNK_RUN (R249, R299, R306): program a from TBNOW tick b. -/
def execLnkRun (o : COps) (s : State) : Out :=
  copySlot (.lnkRun o) "LNK_RUN" s fun f =>
    match s.launch (s.focusLk f) with
    | none => s
    | some l =>
      let prog := (s.readX f o.a).toNat
      let b := ((s.readX f o.b).toNat + s.lnkShift l) % 2 ^ 64
      let st := s.runStatus l prog b
      let s' := if st = 0 ∧ !l.pod.startIs s.now prog b then s.modPod l.key fun p => { p with pendRun := some (prog, b), ready := none } else s
      s'.resultX f 7 2 o.d o.nw 5 (BitVec.ofNat 64 st)

/-- LNK_SEL (R249, R299, R306): variant a from TBNOW tick b. -/
def execLnkSel (o : COps) (s : State) : Out :=
  copySlot (.lnkSel o) "LNK_SEL" s fun f =>
    match s.launch (s.focusLk f) with
    | none => s
    | some l =>
      let v := (s.readX f o.a).toNat
      let b := ((s.readX f o.b).toNat + s.lnkShift l) % 2 ^ 64
      let st := s.selStatus l v b
      let s' := if st = 0 then s.modPod l.key fun p => { p with pendSel := some (v, b) } else s
      s'.resultX f 7 2 o.d o.nw 5 (BitVec.ofNat 64 st)

/-! ### Where entries send and whence they receive (R303) -/

/-- The logical index at the far end of a port of an index. -/
def State.farOf (s : State) (podmap : List Nat) (i port : Nat) : Option Nat :=
  let n := portNeighbour s.rings (podmap.getD i 0) port
  if n = podmap.getD i 0 then none else (List.range podmap.length).find? fun j => podmap[j]? == some n

/-- A program of a launch under a variant: the plan and its entries by logical index. -/
def State.progOf (s : State) (l : Launch) (variant prog i : Nat) : List (BitVec 128) :=
  match s.plan l variant with
  | some d => planEntries d i prog
  | none => []

/-- Entries with their numbers. -/
def numberedEntries (es : List (BitVec 128)) : List (Nat × BitVec 128) := (List.range es.length).zip es

/-- The number of an entry in its program. -/
def entryNo (es : List (BitVec 128)) (e : BitVec 128) : Nat := ((numberedEntries es).find? fun q => q.2 == e).elim 0 Prod.fst

/-- The SEND at the beginning of the path that ends in a FWD or RECV: its index and entry (R310). -/
def State.sourceOf (s : State) (l : Launch) (variant prog : Nat) : Nat → Nat → BitVec 128 → Option (Nat × BitVec 128)
  | 0, _, _ => none
  | fuel + 1, i, e =>
    match s.farOf l.podmap i (peIport e) with
    | none => none
    | some j =>
      match feederOf (s.progOf l variant prog j) e with
      | some x => if peKind x = 0 then some (j, x) else s.sourceOf l variant prog fuel j x
      | none => none

/-- The index at the end of the path that begins with an entry that sends: through every FWD fed by it, to the package that forwards no more (R310). -/
def State.targetOf (s : State) (l : Launch) (variant prog : Nat) : Nat → Nat → BitVec 128 → Nat
  | 0, i, _ => i
  | fuel + 1, i, e =>
    match s.farOf l.podmap i (peOport e) with
    | none => i
    | some j =>
      let es := s.progOf l variant prog j
      let here := s.progOf l variant prog i
      match es.find? fun x => peKind x == 1 && peIport x == farPort (peOport e) && feederOf here x == some e with
      | some x => s.targetOf l variant prog fuel j x
      | none => j

/-- The IV of flit j of a SEND (R310). -/
def State.flitIv (s : State) (l : Launch) (r : Run) (src : Nat) (e : BitVec 128) (j : Nat) : BitVec 96 :=
  let dst := s.targetOf l r.variant r.prog l.podmap.length src e
  BitVec.ofNat 12 (l.podmap.getD src 0) ++ BitVec.ofNat 12 (l.podmap.getD dst 0) ++ l.id ++ BitVec.ofNat 8 l.pod.contained ++
    BitVec.ofNat 16 l.pod.starts ++ BitVec.ofNat 16 (entryNo (s.progOf l r.variant r.prog src) e) ++ BitVec.ofNat 8 r.prog ++ BitVec.ofNat 8 j

/-! ### A program starts (R304, R306) -/

/-- A program as it is to run, its entries from TOFF `from_` on (R304, R313). -/
def State.makeRun (s : State) (l : Launch) (variant prog : Nat) (b from_ : Nat) (old : Nat) : Run :=
  let es := s.progOf l variant prog l.lpkg
  { prog := prog, b := b, variant := variant
    flows := ((numberedEntries es).filter fun q => decide (from_ ≤ peToff q.2 + old)).map fun q =>
      let far := s.farOf l.podmap l.lpkg (peIport q.2)
      let feeder := far.bind fun j => feederOf (s.progOf l variant prog j) q.2
      let f := (far.bind fun j => (s.plan l variant).bind fun d => planFlight d l.lpkg (peIport q.2) j).getD 0
      { idx := q.1, entry := q.2, feed := (feeder.map peToff).getD (peToff q.2), inF := f, rd := 0, sent := 0, seen := 0, wrote := 0, buf := [] } }

/-- The variant current at a tick (R249). -/
def PodSt.variantAt (p : PodSt) (t : Nat) : Nat := match p.pendSel with
  | some (v, b) => if b ≤ t then v else p.variant
  | none => p.variant

/-- A launch whose pending start is due (R306). -/
def State.programDue (s : State) (l : Launch) : Bool := l.st == .bound && !l.stopped && l.pod.pendRun.any fun r => decide (r.2 ≤ s.now)

/-- The pending start that a launch is about to make. -/
def State.nextRun (s : State) (l : Launch) : Option Run :=
  match l.pod.ready, l.pod.pendRun with
  | some r, _ => some r
  | none, some (prog, b) => some (s.makeRun l (l.pod.variantAt b) prog b 0 0)
  | none, none => none

/-- OPENDROP of a port grows by one (R297, R306). -/
def State.countDrop (s : State) (p : Nat) : State :=
  if h : p < 12 then { s with ports := s.ports.set p { s.ports[p] with opendrop := satAdd s.ports[p].opendrop 1 } } else s

/-- The ports that an entry names. -/
def entryPorts (e : BitVec 128) : List Nat :=
  match peKind e with
  | 1 => [peOport e, peIport e]
  | 2 => [peIport e]
  | _ => [peOport e]

/-- A program ends before its last entry: its later entries are dropped and counted (R306). -/
def State.endRun (s : State) (l : Launch) : State :=
  match l.pod.running with
  | some r =>
    let late := r.flows.filter fun w => decide (s.now ≤ r.b + peToff w.entry)
    let s := late.foldl (fun s w => (entryPorts w.entry).foldl State.countDrop s) s
    s.modPod l.key fun p => { p with running := p.running.map fun r => { r with flows := [] } }
  | none => s

/-- PROGRAM_START (R304, R306). -/
def execProgramStart (lk : Nat) (s : State) : Out :=
  match s.launch lk with
  | some l =>
    match s.programDue l, s.nextRun l with
    | true, some r =>
      let s := s.launches.foldl (fun s m => if m.pod.running.any fun r => !r.isOver s.now then s.endRun m else s) s
      .next (s.modPod lk fun p =>
        { p with pendRun := none, ready := none, running := some r, starts := p.starts + 1, fo := some (p.fo.getD r.b) })
    | _, _ => .fault (.notDue "PROGRAM_START")
  | none => .fault (.notDue "PROGRAM_START")

/-! ### Entries act (R304, R305, R310) -/

/-- A flow of the running program of a launch. -/
def Launch.flow (l : Launch) (entry : Nat) : Option (Run × Flow) :=
  l.pod.running.bind fun r => (r.flows.find? fun w => w.idx == entry).map fun w => (r, w)

/-- Change a flow of the running program. -/
def State.modFlow (s : State) (lk entry : Nat) (f : Flow → Flow) : State :=
  s.modPod lk fun p => { p with running := p.running.map fun r => { r with flows := r.flows.map fun w => if w.idx = entry then f w else w } }

/-- The tick of the slot in which flit j of an entry leaves (R304). -/
def Flow.outTick (w : Flow) (b j : Nat) : Nat := sendTick (b + peToff w.entry) j
/-- The expected tick of flit j (R304). -/
def Flow.expected (w : Flow) (b j : Nat) : Nat := sendTick (b + w.feed) j + w.inF

/-- A flit that a flow holds. -/
def Flow.held (w : Flow) (j : Nat) : Option HeldFlit := w.buf.find? fun h => h.n == j

/-- A flit leaves on a port; a link that is not up carries nothing (R300, R304, R309). One for a later slot is carried in that slot. -/
def State.sendFlit (s : State) (port slot : Nat) (h : FlitHdr) (pay : BitVec 1024) (mark : BitVec 16) : State :=
  if hp : port < 12 then
    if s.ports[port].st = 2 then
      { s with ports := s.ports.set port { s.ports[port] with lastSched := if slotTick slot ≤ s.now then s.now else s.ports[port].lastSched } }.emit
        (.flit port slot h pay mark)
    else s
  else s

/-- Is the next flit of a SEND or FWD due? -/
def State.sendDue (s : State) (r : Run) (w : Flow) : Bool := decide (w.sent < peFlits w.entry) && decide (w.outTick r.b w.sent ≤ s.now)

/-- SEND (R304, R310): the next flit of the entry, encrypted, in its slot. -/
def execSend (lk entry : Nat) (s : State) : Out :=
  match s.launch lk with
  | some l =>
    match l.flow entry with
    | some (r, w) =>
      if peKind w.entry = 0 ∧ s.sendDue r w then
        let s' := s.modFlow lk entry fun w => { w with sent := w.sent + 1, buf := w.buf.filter fun h => h.n != w.sent }
        match w.held w.sent with
        | some ⟨_, _, _, some (pay, mark)⟩ =>
          let iv := s.flitIv l r l.lpkg w.entry w.sent
          let key := (vfOf l.part).bind fun n => s.vfs[n].keys[2]
          let sealed := flitSeal key iv pay
          let dst := l.podmap.getD (s.targetOf l r.variant r.prog l.podmap.length l.lpkg w.entry) 0
          .next (s'.sendFlit (peOport w.entry) (slotFrom (r.b + peToff w.entry) w.sent)
            (mkHdr s.pf.pkg.toNat 0 dst l.part s.pf.inc (s.incOf dst) sealed.2) sealed.1 mark)
        | _ => .next s'
      else .fault (.notDue "SEND")
    | none => .fault (.notDue "SEND")
  | none => .fault (.notDue "SEND")

/-- A void flit of this package (R296, R311). -/
def State.voidHdr (s : State) (l : Launch) (dst : Nat) : FlitHdr := mkHdr s.pf.pkg.toNat 1 dst l.part s.pf.inc (s.incOf dst) 0

/-- FWD (R304, R310, R311): the next flit as it arrived by its slot's tick − 64, else a void flit. -/
def execFwd (lk entry : Nat) (s : State) : Out :=
  match s.launch lk with
  | some l =>
    match l.flow entry with
    | some (r, w) =>
      if peKind w.entry = 1 ∧ s.sendDue r w then
        let s' := s.modFlow lk entry fun w => { w with sent := w.sent + 1, buf := w.buf.filter fun h => h.n != w.sent || decide (w.seen ≤ w.sent) }
        let slot := slotFrom (r.b + peToff w.entry) w.sent
        match (w.held w.sent).filter fun h => decide (h.at_ + 64 ≤ w.outTick r.b w.sent) with
        | some ⟨_, _, some h, some (pay, mark)⟩ => .next (s'.sendFlit (peOport w.entry) slot h pay mark)
        | _ => .next (s'.sendFlit (peOport w.entry) slot (s.voidHdr l ((s.neighbour (peOport w.entry)).getD 0)) 0 0)
      else .fault (.notDue "FWD")
    | none => .fault (.notDue "FWD")
  | none => .fault (.notDue "FWD")

/-- The flit of a RECV whose arrival tick + 128 has come (R304). -/
def State.recvDue (s : State) (w : Flow) : Option HeldFlit := if peKind w.entry = 2 then w.buf.find? fun h => decide (h.at_ + 128 ≤ s.now) else none

/-- The chunk writes of a flit at a local address. -/
def flitChunks (a : Nat) (pay : BitVec 1024) (mark : BitVec 16) : List ChunkW :=
  [wholeChunk a (bits pay 0 512) (bits mark 0 8), wholeChunk (a + 64) (bits pay 512 512) (bits mark 8 8)]

/-- RECV (R304, R305, R310): the next flit is decrypted and written, with its tag when K = 1; a void flit writes nothing. -/
def execRecv (lk entry : Nat) (s : State) : Out :=
  match s.launch lk with
  | some l =>
    match l.flow entry with
    | some (r, w) =>
      match s.recvDue w with
      | some h =>
        let s' := s.modFlow lk entry fun w => { w with wrote := w.wrote + 1, buf := w.buf.filter fun x => x.n != h.n }
        match h.data, regionOf (peLaddr w.entry + 128 * h.n), s.sourceOf l r.variant r.prog (l.podmap.length + 1) l.lpkg w.entry with
        | some (pay, mark), .pad c a, some (src, e) =>
          let key := (vfOf l.part).bind fun n => s.vfs[n].keys[2]
          let pay := flitOpen key (s.flitIv l r src e h.n) pay
          .next (s'.addAccess c
            { due := s.now, byTick := true, party := .link (peIport w.entry), always := true, prio := peIport w.entry, ctx := 0, lk := lk, issued := 0,
              part := 9, eng := 3, bundle := 0, rd := [], wr := flitChunks a pay mark, tagR := none,
              tagW := if peK w.entry then [(tileOf a, peTag w.entry)] else [], zero := [], hold := none, act := .linkWr (peIport w.entry), lost := [] })
        | _, _, _ => .next s'
      | none => .fault (.notDue "RECV")
    | none => .fault (.notDue "RECV")
  | none => .fault (.notDue "RECV")

/-- The reads of a SEND whose slot's tick − 128 has come (R304, R305). -/
def State.flowReads (s : State) (l : Launch) (r : Run) (w : Flow) : State × Nat :=
  (List.range (peFlits w.entry - w.rd)).foldl (fun (a : State × Nat) _ =>
    let j := w.rd + a.2
    if peKind w.entry = 0 ∧ a.2 + w.rd < peFlits w.entry ∧ w.outTick r.b j ≤ s.now + 128 then
      match regionOf (peLaddr w.entry + 128 * j) with
      | .pad c x =>
        (a.1.addAccess c
          { due := s.now, byTick := true, party := .link (peOport w.entry), always := true, prio := peOport w.entry, ctx := 0, lk := l.key, issued := 0,
            part := 9, eng := 3, bundle := 0, rd := [x, x + 64], wr := [], tagR := none, tagW := [], zero := [], hold := none,
            act := .linkRd (peOport w.entry) l.key w.idx j, lost := [] }, a.2 + 1)
      | _ => (a.1, a.2 + 1)
    else a) (s, 0)

/-- The reads of a run: the state, and the run with its reads counted. -/
def State.runReads (s : State) (l : Launch) (r : Run) : State × Run :=
  r.flows.foldl (fun (a : State × Run) w =>
    let q := a.1.flowReads l r w
    (q.1, { a.2 with flows := a.2.flows ++ [{ w with rd := w.rd + q.2 }] })) (s, { r with flows := [] })

/-! ### Faults (R311) -/

/-- Is a flit of a FWD or RECV missing at its expected tick + 64 (R311)? `seen` counts the flits judged so far. -/
def State.missingFlit (s : State) (r : Run) (w : Flow) : Bool :=
  (peKind w.entry == 1 || peKind w.entry == 2) && decide (w.seen < peFlits w.entry) && decide (w.expected r.b w.seen + 64 ≤ s.now) &&
    (w.held w.seen).isNone

/-- The key of the link at a port of this package, named by its lower end (R13, R294). -/
def State.linkAt (s : State) (l : Launch) (port : Nat) : Option Nat :=
  (s.farOf l.podmap l.lpkg port).map fun j => if l.lpkg < j then linkKey l.lpkg port else linkKey j (farPort port)

/-- LINKSTATn.FAULT is set (R311). -/
def State.setFault (s : State) (port : Nat) : State :=
  if h : port < 12 then { s with ports := s.ports.set port { s.ports[port] with fault := true } } else s

/-- A link fault of a launch is detected at a port now: FAULT, and this package's own notice, one for each link of an episode, under the port's key here where the far end is no package of the launch (R299, R311; log entries 67, 137). -/
def State.linkFault (s : State) (l : Launch) (port : Nat) : State :=
  let s := s.setFault port
  let k := BitVec.ofNat 16 ((s.linkAt l port).getD (linkKey l.lpkg port))
  if l.pod.notices.any fun n => n.link == some k && n.peer == l.lpkg then s
  else s.flood ⟨l.part, l.id, some k, l.lpkg, s.now⟩

/-- The flits of a flow that have been judged: those that have arrived by their expected tick + 64. -/
def State.judgeFlow (s : State) (r : Run) : Nat → Flow → Flow
  | 0, w => w
  | n + 1, w =>
    if (peKind w.entry = 1 ∨ peKind w.entry = 2) ∧ w.seen < peFlits w.entry ∧ w.expected r.b w.seen + 64 ≤ s.now ∧
        (w.held w.seen).isSome then
      s.judgeFlow r n { w with seen := w.seen + 1, buf := if peKind w.entry = 1 then w.buf.filter (fun h => !(h.n == w.seen && decide (h.n < w.sent))) else w.buf }
    else w

/-- The launches whose running program names a port. -/
def State.portLaunches (s : State) (port : Nat) : List Launch :=
  s.launches.filter fun l => l.st == .bound && l.pod.running.any fun r => !r.isOver s.now && r.flows.any fun w => (entryPorts w.entry).contains port

/-- ELASTIC_BUFFER_FAULT (R300): the occupancy fell below 4 or rose above 28. -/
def execElasticBufferFault (port : Fin 12) (s : State) : Out :=
  if s.ports[port].elastic < 4 ∨ 28 < s.ports[port].elastic then
    .next ((s.portLaunches port.val).foldl (fun s l => s.linkFault l port.val) (s.setFault port.val))
  else .fault (.notDue "ELASTIC_BUFFER_FAULT")

/-- Does a GUARD entry of a running program span this tick on a port (R300)? -/
def State.inGuard (s : State) (port : Nat) : Bool :=
  s.launches.any fun l => l.st == .bound && l.pod.running.any fun r => r.flows.any fun w =>
    peKind w.entry == 3 && peOport w.entry == port && decide (r.b + peToff w.entry ≤ s.now) && decide (s.now ≤ r.b + peToff w.entry + 511)

/-- Is a guard interval of a port here, with its buffer off its centre (R300)? -/
def State.guardDue (s : State) (port : Fin 12) : Bool :=
  let q := s.ports[port]
  q.elastic != 16 && (s.inGuard port.val ||
    (decide (q.lastSched + 512 ≤ s.now) && q.barSlots.all fun k => decide (s.now < slotTick k) || decide (slotTick k + 512 ≤ s.now)))

/-- GUARD_INTERVAL (R300). -/
def execGuardInterval (port : Fin 12) (s : State) : Out :=
  if s.guardDue port then .next { s with ports := s.ports.set port { s.ports[port] with elastic := 16 } }
  else .fault (.notDue "GUARD_INTERVAL")

/-- RETRAINING_DONE (R309): the two ends compare their views. A port that is not training takes no notice. -/
def execRetrainingDone (port : Fin 12) (near far : BitVec 32) (flight : BitVec 12) (s : State) : Out :=
  let p := s.ports[port]
  if p.st ≠ 1 then .next s
  else if near = far then .next { s with ports := s.ports.set port { p with st := 2, flight := flight } }
  else .next { s with ports := s.ports.set port { p with st := 3, retrain := satAdd p.retrain 1 } }

/-- FAULT_NOTICE (R311): the first copy is taken in and forwarded on every port, later ones are dropped. -/
def execFaultNotice (port : Fin 12) (notice : Notice) (s : State) : Out :=
  if s.ports[port].st = 2 then .next (s.flood notice) else .next s

/-! ### Flits arrive (R296, R304, R308, R310) -/

/-- INCDROP of a port grows by one (R296, R308, R310). -/
def State.countInc (s : State) (port : Fin 12) : State :=
  { s with ports := s.ports.set port { s.ports[port] with incdrop := satAdd s.ports[port].incdrop 1 } }

/-- Does a header break the incarnation rule (R308)? DINC is judged where the flit or packet ends. -/
def State.incBad (s : State) (h : FlitHdr) : Bool :=
  decide ((hdrSinc h).toNat < (s.incOf (hdrSrc h)).toNat) || (hdrDst h == s.pf.pkg.toNat && hdrDinc h != s.pf.inc)

/-- A flit reaches a flow that expects it from its slot: the number it has there. -/
def Flow.flitAt (w : Flow) (r : Run) (port slot : Nat) : Option Nat :=
  if (peKind w.entry = 1 ∨ peKind w.entry = 2) ∧ peIport w.entry = port then
    (List.range (peFlits w.entry)).find? fun j => slotFrom (r.b + w.feed) j == slot
  else none

/-- Does a RECV accept the tag of a flit (R310)? A void flit has none. -/
def State.tagOk (s : State) (l : Launch) (r : Run) (w : Flow) (j : Nat) (h : FlitHdr) (pay : BitVec 1024) : Bool :=
  peKind w.entry != 2 || hdrKind h == 1 ||
    match s.sourceOf l r.variant r.prog (l.podmap.length + 1) l.lpkg w.entry with
    | some (src, e) => flitOk ((vfOf l.part).bind fun n => s.vfs[n].keys[2]) (s.flitIv l r src e j) pay (hdrTag h)
    | none => false

/-- A flit is taken in by a flow that expects it; it waits in the elastic buffer until its expected tick (R304). -/
def State.takeFlit (s : State) (l : Launch) (r : Run) (w : Flow) (port : Fin 12) (slot : Nat) (h : FlitHdr) (pay : BitVec 1024) (mark : BitVec 16) : State :=
  match w.flitAt r port.val slot with
  | some j =>
    if j < w.seen ∨ (w.held j).isSome then s
    else if s.tagOk l r w j h pay then
      s.modFlow l.key w.idx fun w =>
        { w with buf := w.buf ++ [⟨j, max s.now (w.expected r.b j), some h, if hdrKind h = 0 then some (pay, mark) else none⟩] }
    else s.countInc port
  | none => s

/-- The members of a barrier of a launch: level 3 the group, level 4 the launch, without a lost package (R51, R307, R313). -/
def State.barMembers (s : State) (l : Launch) (level : Nat) : List Nat :=
  match s.plan l 0, s.imageOf l with
  | some d, some i =>
    let lost := ((imagePlans i.img)[l.pod.variant]?).bind fun c => if c.kind = 5 then some c.key else none
    (List.range l.podmap.length).filter fun q => (level == 4 || planGroup d q == planGroup d l.lpkg) && lost != some q
  | _, _ => [l.lpkg]

/-- BPER, BOFF and BLAT of the current variant (R301). -/
def State.barPlan (s : State) (l : Launch) : Option (Nat × Nat × Nat) :=
  (s.plan l l.pod.variant).map fun d => (planFld d 4 4, planFld d 8 4, planFld d 12 4)

/-- An arrival is carried: once every member's has been, the completion tick is fixed (R307). -/
def State.hearArrival (s : State) (lk level inst idx slot : Nat) : State :=
  let s := s.modPod lk fun p =>
    if p.heard.any fun h => h.1 == level && h.2.1 == inst && h.2.2.1 == idx then p else { p with heard := p.heard ++ [(level, inst, idx, slot)] }
  match s.launch lk with
  | some l =>
    let got := l.pod.heard.filter fun h => h.1 == level && h.2.1 == inst
    match s.barPlan l with
    | some (_, _, blat) =>
      if (s.barMembers l level).all (fun q => got.any fun h => h.2.2.1 == q) then
        let t := ((got.filter fun h => (s.barMembers l level).contains h.2.2.1).map fun h => h.2.2.2).foldl max 0 + blat
        s.modPod lk fun p => { p with due := p.due.set ((level - 3) % 2) (some t) (Nat.mod_lt _ (by decide)) }
      else s
    | none => s
  | none => s

/-- The instance of level 3 or 4 that a launch is at on this package. -/
def State.barInst (s : State) (l : Launch) (level : Nat) : Nat :=
  ((l.coreIds.head?).bind fun c => ((s.core c).lc l.key).map fun x => x.doneAt level).getD 0

/-- What a barrier flit carries: launch, level, instance, logical index, tick of the first slot that carried it. -/
def barPayload (id : BitVec 16) (level inst idx slot : Nat) : BitVec 1024 :=
  BitVec.ofNat 1024 (id.toNat + level * 2 ^ 16 + inst * 2 ^ 32 + idx * 2 ^ 64 + slot * 2 ^ 128)

/-- The ports that the BAR entries of a launch's current plan name on this package; of a plan without any here, the ports of the links that it uses (R302, R303; log entry 60). -/
def State.barPorts (s : State) (l : Launch) : List Nat :=
  match s.plan l l.pod.variant with
  | some d =>
    let named := (((List.range (planProgs d)).flatMap fun p => planEntries d l.lpkg p).filter fun e => peKind e == 4).map peOport |>.eraseDups
    if named.isEmpty then
      (List.range 12).filter fun p => (s.linkAt l p).any fun k => (planLinks d).any fun q => q.1 == k
    else named
  | none => []

/-- The slots of a port that an entry of a run takes for flits of its own: SEND and FWD entries send in them, BAR entries reserve them (R303, R304). -/
def flowSlots (r : Run) (w : Flow) : List Nat := (List.range (peFlits w.entry)).map fun j => slotFrom (r.b + peToff w.entry) j

/-- The slots of a port that entries of a kind of a launch's running program take. -/
def Launch.slotsOf (l : Launch) (port : Nat) (kind : Nat → Bool) : List Nat :=
  l.pod.running.elim [] fun r => (r.flows.filter fun w => kind (peKind w.entry) && peOport w.entry == port).flatMap (flowSlots r)

/-- The tick of a program's last entry (R297). -/
def Run.lastTick (r : Run) : Nat :=
  (r.flows.map fun w => match peKind w.entry with
    | 2 => w.expected r.b (peFlits w.entry - 1) + 128
    | 3 => r.b + peToff w.entry + 511
    | _ => w.outTick r.b (peFlits w.entry - 1)).foldl max 0

/-- The first slot at or after slot lo that no other launch's program holds on a port (R297). -/
def State.portFree (s : State) (l : Launch) (port lo : Nat) : Nat :=
  ((s.portLaunches port).filter fun m => m.key != l.key).foldl (fun lo m => max lo (m.pod.running.elim 0 fun r => firstSlot (r.lastTick + 1))) lo

/-- The slot of the next barrier flit on a port, none before a slot: the next that a BAR entry reserves, or, where none is left, the next that no SEND or FWD entry takes and no other launch holds (R297, R303; log entry 60). -/
def State.barSlotAt (s : State) (l : Launch) (port lo : Nat) : Nat :=
  match ((l.slotsOf port (· == 4)).filter fun k => decide (lo ≤ k)).min? with
  | some k => k
  | none =>
    let lo := s.portFree l port lo
    let taken := l.slotsOf port fun k => k == 0 || k == 1
    (((List.range (taken.length + 1)).map fun j => schedSlot (schedBelow lo + j)).find? fun k => !taken.contains k).getD lo

/-- A barrier flit leaves on the ports that carry barriers, in slots of its own (R303, R307). -/
def State.sendBarrier (s : State) (l : Launch) (pay : BitVec 1024) (but : Option Nat) : State :=
  ((s.barPorts l).filter fun p => some p != but).foldl (fun s p => match s.neighbour p with
    | some dst =>
      if hp : p < 12 then
        let q := s.ports[p]
        if q.st = 2 then
          let k := s.barSlotAt l p (max (firstSlot s.now) (q.barSlots.foldl (fun m k => max m (k + 1)) 0))
          { s with ports := s.ports.set p { q with barSlots := k :: q.barSlots.filter fun k => decide (s.now < slotTick k + 512) } }.sendFlit p k
            (mkHdr s.pf.pkg.toNat 2 dst l.part s.pf.inc (s.incOf dst) 0) pay 0
        else s
      else s
    | none => s) s

/-! ### Barrier flits that do not come (R307, R311; log entry 138) -/

/-- The slots that package index j reserves for barrier flits on a port of its own, in a running program (R303). -/
def State.barReserved (s : State) (l : Launch) (r : Run) (j port : Nat) : List Nat :=
  (s.plan l r.variant).elim [] fun d =>
    ((planEntries d j r.prog).filter fun e => peKind e == 4 && peOport e == port).flatMap fun e =>
      (List.range (peFlits e)).map fun n => slotFrom (r.b + peToff e) n

/-- The reserved slots in which the neighbour at a port sends its own arrivals until their barriers complete, from the first that carried one on (R307). -/
def State.barExpected (s : State) (l : Launch) (r : Run) (j port : Nat) : List Nat :=
  let per := ((s.barPlan l).map Prod.fst).getD 0
  let ks := s.barReserved l r j (farPort port)
  (l.pod.heard.filter fun h => h.2.2.1 == j && h.2.1 == s.barInst l h.1).flatMap fun h =>
    let ts := (List.range ((s.now - h.2.2.2) / max per 1 + 1)).map fun m => h.2.2.2 + m * per
    (ts.filter fun t => (l.pod.due[(h.1 - 3) % 2]'(Nat.mod_lt _ (by decide))).all fun x => decide (t < x)).filterMap fun t =>
      (ks.filter fun k => decide (firstSlot t ≤ k)).min?

/-- The slot of a barrier flit that has not come in at a port by its expected tick + 64 (R304, R307, R311). -/
def State.barMissing (s : State) (l : Launch) (p : Fin 12) : Option Nat :=
  match l.pod.running, s.farOf l.podmap l.lpkg p.val with
  | some r, some j =>
    match (s.plan l r.variant).bind fun d => planFlight d l.lpkg p.val j with
    | some f =>
      if l.st = .bound then (s.barExpected l r j p.val).find? fun k => decide (s.ports[p].barSeen < k) && decide (slotTick k + f + 64 ≤ s.now)
      else none
    | none => none
  | _, _ => none

/-- The port whose barrier flit of a launch is missing. -/
def State.barMissingAt (s : State) (l : Launch) : Option (Fin 12) :=
  if l.pod.heard.isEmpty then none else (List.finRange 12).find? fun p => (s.barMissing l p).isSome

/-- The flit of a FWD or RECV entry is missing (R311). -/
def State.flowFault (s : State) (l : Launch) (entry : Nat) (r : Run) (w : Flow) : Out :=
  if s.missingFlit r w then
    .next ((s.linkFault l (peIport w.entry)).modFlow l.key entry fun w => { w with seen := w.seen + 1, wrote := w.wrote + 1 })
  else .fault (.notDue "LINK_FAULT")

/-- LINK_FAULT (R307, R311): the flit of an entry is missing; an entry number from 65,536 on stands for the barrier flits of a port. -/
def execLinkFault (lk entry : Nat) (s : State) : Out :=
  match s.launch lk with
  | some l =>
    match l.flow entry with
    | some (r, w) => s.flowFault l entry r w
    | none =>
      match s.barMissingAt l with
      | some p =>
        if entry = 65536 + p.val then
          .next (match s.barMissing l p with
            | some k => { s.linkFault l p.val with ports := (s.linkFault l p.val).ports.set p { (s.linkFault l p.val).ports[p] with barSeen := k } }
            | none => s)
        else .fault (.notDue "LINK_FAULT")
      | none => .fault (.notDue "LINK_FAULT")
  | none => .fault (.notDue "LINK_FAULT")

/-- A barrier flit arrives: what it carries is heard, and passed on when it is new (R307). -/
def State.takeBarrier (s : State) (port : Fin 12) (h : FlitHdr) (pay : BitVec 1024) : State :=
  let v := pay.toNat
  let level := v / 2 ^ 16 % 2 ^ 16
  let inst := v / 2 ^ 32 % 2 ^ 32
  let idx := v / 2 ^ 64 % 2 ^ 64
  match s.launches.find? fun l => l.st == .bound && l.part == hdrPart h && l.id.toNat == v % 2 ^ 16 with
  | some l =>
    if (level ≠ 3 ∧ level ≠ 4) ∨ l.pod.heard.any (fun x => x.1 == level && x.2.1 == inst && x.2.2.1 == idx) then s
    else (s.sendBarrier l pay (some port.val)).hearArrival l.key level inst idx (v / 2 ^ 128)
  | none => s

/-- FLIT_ARRIVAL (R296, R304, R308, R310). A link that is not up carries nothing (R309). -/
def execFlitArrival (port : Fin 12) (slot : Nat) (hdr : BitVec 128) (payload : BitVec 1024) (mark : BitVec 16) (s : State) : Out :=
  if s.ports[port].st ≠ 2 then .next s
  else
    let s := { s with ports := s.ports.set port { s.ports[port] with lastSched := s.now } }
    if hdrKind hdr > 5 ∨ s.incBad hdr then .next (s.countInc port)
    else match hdrKind hdr with
      | 2 => .next ({ s with ports := s.ports.set port { s.ports[port] with barSeen := max slot s.ports[port].barSeen } }.takeBarrier port hdr payload)
      | 0 | 1 =>
        .next (s.launches.foldl (fun t l => match l.pod.running with
          | some r => if l.part = hdrPart hdr then r.flows.foldl (fun t w => t.takeFlit l r w port slot hdr payload mark) t else t
          | none => t) s)
      | _ => .next s

/-! ### Open packets arrive (R296, R297, R308, R329, R345) -/

/-- DROP of the die of a core, or of a home, grows by one (R329). -/
def State.countBad (s : State) (d : Option (Fin 9)) : State := match d with
  | some d => s.modDie d fun x => { x with drop := satAdd x.drop 1 }
  | none => s

/-- The die that a packet of untimed traffic concerns. -/
def bodyDie : PacketBody → Option (Fin 9)
  | .read _ _ _ pas _ => homeDie (podLoc (pas.headD 0))
  | .write _ _ _ ch _ => homeDie (podLoc ((ch.headD (0, 0, 0)).1))
  | .atom _ _ _ pa _ _ _ _ | .record pa _ _ => homeDie (podLoc pa)
  | .readReply c .. | .writeAck c .. | .atomReply c .. => (coreOf c).map dieOf
  | .release .. => some 0
  | _ => none

/-- A request of another package joins the queue of its home; one that its partition may not make goes unanswered (R63, R247, R261). -/
def State.takeRequest (s : State) (q : HomeReq) : State :=
  if q.chunks.all fun c => s.reachable q.part (podLoc c.1) then { s with homeQ := s.homeQ ++ [q] } else s

/-- A request of another package. -/
def State.farRequest (s : State) (kind : UKind) (h : FlitHdr) (core entry : Nat) (gen : BitVec 4) (chunks : List (Nat × BitVec 512 × BitVec 8))
    (op : Nat) (fp : Bool) (b : BitVec 32) (w : Who) : State :=
  s.takeRequest { kind := kind, lk := 0, held := false, pkg := hdrSrc h, core := core, entry := entry, gen := gen, chunks := chunks, op := op, fp := fp, b := b, die := none,
                  vec := none, at_ := s.now + 1, who := w, part := hdrPart h, ready := true }

/-- A reply of another package; no stamp comes with it (R261). -/
def State.farReply (s : State) (core entry : Nat) (gen : BitVec 4) (r : Reply) : State :=
  { s with replies := s.replies ++ [⟨core, entry, gen, s.now + 1, r, []⟩] }

/-- A write to another package has been applied there (R261). -/
def State.farApplied (s : State) (core entry : Nat) (gen : BitVec 4) : State :=
  { s with farW := s.farW.filter fun w => !(w.core == core && w.entry == entry && w.gen == gen) }

/-- A package holds the announcement of a context's release event; the last one lets a barrier complete (R267). -/
def State.heardBy (s : State) (gcid pkg : Nat) (sin : BitVec 16) : State :=
  match coreOf (gcid % 2048 / 4) with
  | some c =>
    let i : CtxId := Fin.ofNat 4 gcid
    let s := s.modCtx c i fun x => { x with unheard := x.unheard.filter (· != (pkg, sin)) }
    match (s.ctx c i).wait, (s.ctx c i).unheard with
    | .heard scope tick, [] => (s.acquireEvent c i scope tick).wakeAt c i (max (tick + 2) s.now)
    | _, _ => s
  | none => s

/-- The stamp of a packet that comes in now, in sixteenths of a tick: where in its tick it comes is a free value (R298; log entry 132). -/
def State.stampIn (s : State) : Nat := 16 * s.now + (bits (s.freeV 298) 0 4 : BitVec 4).toNat

/-- A packet that ends here acts. -/
def State.openPacket (s : State) (port : Fin 12) (h : FlitHdr) : PacketBody → State
  | .read c e g pas w => s.farRequest .gld h c e g (bareChunks pas) 0 false 0 w
  | .write c e g ch w => s.farRequest .gst h c e g ch 0 false 0 w
  | .atom c e g pa op fp b w => s.farRequest .gatom h c e g (bareChunks [pa]) op fp b w
  | .readReply c e g data race => s.farReply c e g ⟨data, 0, race⟩
  | .writeAck c e g race => (s.farApplied c e g).farReply c e g ⟨[], 0, race⟩
  | .atomReply c e g old race => (s.farApplied c e g).farReply c e g ⟨[], old, race⟩
  | .release gcid rsin rtick homes =>
    ((List.finRange 9).foldl (fun s d => if homes.getLsbD d.val then s.modDie d fun y => y.hear gcid rsin rtick else s) s).sendOpen 3 (hdrSrc h)
      (hdrPart h) (.releaseHeld gcid (rsin[2]))
  | .releaseHeld gcid sin => s.heardBy gcid (hdrSrc h) sin
  | .notice n => { s with todo := s.todo ++ [.faultNotice port n] }
  | .announce inc => { s with pf := { s.pf with incs := tabSet s.pf.incs (hdrSrc h) inc } }
  | .timeReq t1 => (s.sendOpen 5 (hdrSrc h) 0 (.timeRep t1 s.stampIn (16 * s.now))).tickFree
  | .timeRep t1 t2 t3 => ({ s with todo := s.todo ++ [.timeExchange t1 t2 t3 s.stampIn] } : State).tickFree
  | .dbg part cmd data => s.dbgServe (hdrSrc h) part cmd data
  | .dbgReply part err data => s.dbgReply part err data
  | .record pa q data => s.takeRecord (hdrSrc h) (hdrPart h) pa q data
  | .recordDone q ok => s.recordEnd (hdrPart h) q ok

/-- Is a packet an announcement of an incarnation (R308)? -/
def isAnnounce : PacketWire → Bool
  | .clear (.announce _) => true
  | _ => false

/-- Is a packet sealed? -/
def isSealed : PacketWire → Bool
  | .sealed _ _ => true
  | .clear _ => false

/-- A packet that has come to its end: one that fails its check is counted in DROP of the die that it concerns, or of the hub die, the others act (R310, R329; log entry 107). -/
def State.openEnd (s : State) (port : Fin 12) (h : BitVec 128) (body : PacketWire) : State :=
  let key := (vfOf (hdrPart h)).bind fun n => s.vfs[n].keys[3]
  if wireOk key (hdrTag h) body then
    match wireBody key body with
    | some b => s.openPacket port h b
    | none => s
  else s.countBad (((wireBody key body).bind bodyDie).or (some 4))

/-- Must a packet of this kind and partition be sealed (R296, R310)? -/
def mustSeal (h : BitVec 128) : Bool := hdrKind h == 3 && hdrPart h != 0

/-- OPEN_PACKET_ARRIVAL (R296, R297, R308, R310, R329): a packet for another package is routed on as it is, one for this package acts. -/
def execOpenPacketArrival (port : Fin 12) (hdr : BitVec 128) (body : PacketWire) (s : State) : Out :=
  if s.ports[port].st ≠ 2 then .next s
  else if hdrKind hdr < 3 ∨ 5 < hdrKind hdr then .next (s.countInc port)
  else if !isAnnounce body && s.incBad hdr then .next (s.countInc port)
  else if hdrDst hdr ≠ s.pf.pkg.toNat then
    .next (match s.openPort (hdrDst hdr) with
      | some p => s.queuePacket p hdr body
      | none => s)
  else if mustSeal hdr && !isSealed body then .next (s.countBad (some 4))
  else .next (s.openEnd port hdr body)

/-- The open slots of a tick (R295). -/
def openSlots (t : Nat) : List Nat := (List.range' (firstSlot t) (firstSlot (t + 1) - firstSlot t)).filter openSlot

/-- The time of a slot in sixteenths of a tick (R295, R298). -/
def slotStamp (k : Nat) : Nat := 16 * 54 * k / 125

/-- The stamps of a time exchange are taken at the port, as its packet leaves in a slot (R298). -/
def stampOut (own : Bool) (k : Nat) : PacketWire → PacketWire
  | .clear (.timeReq t1) => .clear (.timeReq (if own then slotStamp k else t1))
  | .clear (.timeRep t1 t2 t3) => .clear (.timeRep t1 t2 (if own then slotStamp k else t3))
  | b => b

/-- Queued packets leave in the open slots of this tick, on links that are up (R297). -/
def State.sendQueued (s : State) : State :=
  let ks := openSlots s.now
  (List.finRange 12).foldl (fun (s : State) (p : Fin 12) =>
    let q := s.ports[p]
    if q.st == 2 && !ks.isEmpty && !q.outq.isEmpty then
      let s' := { s with ports := s.ports.set p { q with outq := q.outq.drop ks.length } }
      (ks.zip q.outq).foldl (fun s x => s.emit (.packet p.val x.2.1 (stampOut (hdrSrc x.2.1 == s.pf.pkg.toNat) x.1 x.2.2))) s'
    else s) s

/-! ### The time base (R298, R299) -/

/-- A child's request to its parent every 65,536 ticks; the root, which has none, counts as exchanging with itself (R298, R299). -/
def State.askTime (s : State) : State :=
  if s.now % 65536 ≠ 0 then s
  else if s.pf.parent = 15 then { s with todo := s.todo ++ [.timeExchange (16 * s.now) (16 * s.now) (16 * s.now) (16 * s.now)] }
  else match s.neighbour s.pf.parent.toNat with
    | some p => s.queuePacket s.pf.parent.toNat (mkHdr s.pf.pkg.toNat 5 p 0 s.pf.inc (s.incOf p) 0) (.clear (.timeReq (16 * s.now)))
    | none => s

/-- TIME_EXCHANGE (R298, R299): t1 and t4 are the child's stamps, t2 and t3 the parent's, in sixteenths of a tick. -/
def execTimeExchange (t1 t2 t3 t4 : Nat) (s : State) : Out :=
  let there : Int := (t2 : Int) - t1
  let back : Int := (t4 : Int) - t3
  let delay := (there + back) / 2
  let offset := (there - back) / 2
  let streak := if offset.natAbs < 4 then s.pf.streak + 1 else 0
  let s := { s with pf := { s.pf with
    tbOffset := offset, tbDelay := BitVec.ofNat 16 (min (delay.toNat / 16) 65535), streak := streak, lock := s.pf.lock || decide (4 ≤ streak) } }
  let s := if 32 < offset.natAbs ∧ s.pf.lock then { s with todo := .lockLoss :: s.todo } else s
  .next (if 1024 < offset.natAbs ∧ !s.launches.any Launch.live then { s with now := ((s.now : Int) + offset / 16).toNat } else s)

/-- LOCK_LOSS (R299): a link fault of the parent-port link, while a program of a launch runs. -/
def execLockLoss (s : State) : Out :=
  if s.pf.lock && decide (32 < s.pf.tbOffset.natAbs) then
    let ls := s.launches.filter fun l => l.st == .bound && l.pod.running.any fun r => !r.isOver s.now
    .next (ls.foldl (fun s l => s.linkFault l s.pf.parent.toNat) { s with pf := { s.pf with lock := false, streak := 0 } })
  else .fault (.notDue "LOCK_LOSS")

/-! ### Barrier slots (R274, R307) -/

/-- Is now a barrier slot of a launch? -/
def State.isBarSlot (s : State) (l : Launch) : Bool :=
  match l.pod.fo, s.barPlan l with
  | some fo, some (per, off, _) => decide (0 < per) && decide (fo + off ≤ s.now) && (s.now - fo - off) % per == 0
  | _, _ => false

/-- The levels whose part of this package is complete in time for a slot now (R307). -/
def State.barReady (s : State) (l : Launch) : List Nat :=
  [3, 4].filter fun n => (l.pod.part[(n - 3) % 2]'(Nat.mod_lt _ (by decide))).any fun t => decide (t + 64 ≤ s.now)

/-- Has a launch an arrival to send in a barrier slot now? -/
def State.barSlotDue (s : State) (l : Launch) : Bool := l.st == .bound && s.isBarSlot l && !(s.barReady l).isEmpty

/-- POD_BARRIER_SLOT (R274, R307): the arrivals whose D2 part is complete go out, again in every slot until the barrier completes. -/
def execPodBarrierSlot (lk : Nat) (s : State) : Out :=
  match s.launch lk with
  | some l =>
    if s.barSlotDue l then
      .next ((s.barReady l).foldl (fun s n =>
        let i := s.barInst l n
        let first := ((l.pod.heard.find? fun h => h.1 == n && h.2.1 == i && h.2.2.1 == l.lpkg).map fun h => h.2.2.2).getD s.now
        (s.sendBarrier l (barPayload l.id n i l.lpkg first) none).hearArrival lk n i l.lpkg first) s)
    else .fault (.notDue "POD_BARRIER_SLOT")
  | none => .fault (.notDue "POD_BARRIER_SLOT")

/-- The levels of a launch that complete now. -/
def Launch.barOver (l : Launch) (now : Nat) : List Nat :=
  [3, 4].filter fun n => (l.pod.due[(n - 3) % 2]'(Nat.mod_lt _ (by decide))).any fun t => decide (t ≤ now)

/-- Is a barrier of a launch complete? -/
def State.barOverDue (s : State) (l : Launch) : Bool := l.st == .bound && !(l.barOver s.now).isEmpty

/-- POD_BARRIER_COMPLETE (R273, R274, R307): the waiting contexts become Ready at the tick + 2. -/
def execPodBarrierComplete (lk : Nat) (s : State) : Out :=
  match s.launch lk with
  | some l =>
    if s.barOverDue l then
      .next ((l.barOver s.now).foldl (fun s n =>
        let i := s.barInst l n
        let s := s.modPod lk fun p => { p with
          due := p.due.set ((n - 3) % 2) none (Nat.mod_lt _ (by decide)), part := p.part.set ((n - 3) % 2) none (Nat.mod_lt _ (by decide))
          heard := p.heard.filter fun h => !(h.1 == n && h.2.1 == i) }
        l.coreIds.foldl (fun s c => (s.modCore c fun k => k.modLc lk fun x => x.addDone n).barWake c lk s.now) s) s)
    else .fault (.notDue "POD_BARRIER_COMPLETE")
  | none => .fault (.notDue "POD_BARRIER_COMPLETE")

/-! ### Containment (R312, R313, R338) -/

/-- D0 of the episode: the earliest detection tick among its notices (R312). -/
def PodSt.firstNotice (p : PodSt) : Option Nat := (p.notices.map Notice.tick).min?

/-- Is the containment tick of a launch here (R312)? -/
def State.containDue (s : State) (l : Launch) : Bool :=
  (l.st == .bound || l.st == .saved) && l.pod.firstNotice.any fun d => decide (d + 16384 ≤ s.now)

/-- The two ends of a link key, by logical index (R13, R294). -/
def State.linkEnds (s : State) (l : Launch) (k : Nat) : List Nat := (k / 16) :: (s.farOf l.podmap (k / 16) (k % 16)).toList

/-- What an episode decides: the variant that becomes current, if any, the lost index, the cause, and what ADDR holds (R312). -/
structure Decision where
  variant : Option Nat
  lost : Option Nat
  cause : Nat
  addr : Nat

/-- The decision of R312 from the notices of an episode. -/
def State.verdict (s : State) (l : Launch) (ns : List Notice) : Decision :=
  let links := ((ns.filterMap Notice.link).map BitVec.toNat).eraseDups
  let peers := ((ns.filter fun n => n.link.isNone).map Notice.peer).eraseDups
  let ends := (links.map (s.linkEnds l)) ++ peers.map fun q => [q]
  let common := ((ends.headD []).filter fun q => ends.all fun e => e.contains q).foldl max 0
  let shared := (ends.headD []).any fun q => ends.all fun e => e.contains q
  let plans := ((s.imageOf l).map fun i => imagePlans i.img).getD []
  let find (kind key : Nat) : Option Nat := (List.range plans.length).find? fun v => (plans[v]?).any fun c => c.kind == kind && c.key == key
  if l.pod.variant ≠ 0 then ⟨none, none, if peers.isEmpty then 0x70 else 0x71, (links ++ peers).headD 0⟩
  else if peers.isEmpty ∧ links.length = 1 then ⟨find 4 (links.headD 0), none, 0x70, links.headD 0⟩
  else if shared then ⟨find 5 common, some common, 0x71, common⟩
  else ⟨none, none, if peers.isEmpty then 0x70 else 0x71, (links ++ peers).headD 0⟩

/-- The contexts of a launch on this package. -/
def State.ctxsOfLaunch (s : State) (l : Launch) : List (CoreId × CtxId) :=
  l.coreIds.flatMap fun c => ((s.core c).ctxsOf l.key).map fun i => (c, i)

/-- The checkpoint ticks of the contexts of a launch that have not executed end (R313). -/
def State.ckTicks (s : State) (l : Launch) : List Nat :=
  (s.ctxsOfLaunch l).filterMap fun q =>
    let x := s.ctx q.1 q.2
    if x.st = .ended then none else some (x.ck.tick - x.ck.debt.toNat)

/-- K: the checkpoint tick of the contexts that have not executed end (R313). Where they differ the results are undefined (R10): a free tick (log entry 108). -/
def State.commonTick (s : State) (l : Launch) : Nat :=
  let ts := s.ckTicks l
  if ts.all fun t => ts.head? == some t then (ts.max?).getD s.now
  else (bits (s.freeV 300) 0 64 : BitVec 64).toNat % (s.now + 1)

/-- The least tick at or after C + 4,096 with RES − K a multiple of 2,160 (R313). -/
def resumeTick (c k : Nat) : Nat := k + (c + 4096 - k + 2159) / 2160 * 2160

/-- The trap of an episode in a context (R312, R313, R323). -/
def podTrap (lk cause addr : Nat) (i : CtxId) (bundle : BitVec 12) : Trap :=
  { ctx := i, lk := lk, cause := cause, part := 9, eng := 3, addr := BitVec.ofNat 64 addr, bundle := bundle, origin := 0, pslot := 0, frow := 0, pod := true }

/-- Every context takes the episode's trap: its record is posted at the decision, and a halt of its core ends (R313, R338, R346). -/
def State.podTraps (s : State) (l : Launch) (cause addr flags : Nat) : State :=
  (s.ctxsOfLaunch l).foldl (fun s q =>
    let t := podTrap l.key cause addr q.2 (s.ctx q.1 q.2).ck.pc
    let s := s.postRecord l.key t (s.gcid q.1.val q.2.val).toNat flags
    s.modCore q.1 fun k => { k.unhalt.addTrap t with held := k.held.filter fun f => f.ctx != q.2 }) s

/-- The notices that remain after a decision: those detected at C or later; those between D0 + 8,192 and C are counted (R312). -/
def PodSt.settle (p : PodSt) (c : Nat) : PodSt :=
  { p with
    notices := p.notices.filter fun n => decide (c ≤ n.tick)
    strays := p.strays + (p.notices.filter fun n => decide (c < n.tick + 8192) && decide (n.tick < c)).length
    lastEp := some (c - 16384), pendRun := none, pendSel := none, ready := none }

/-- The program that the engines resume, when the fabric origin does not lie after K: its entries from K on, at b + (RES − K) (R313, R384). -/
def State.resumedRun (s : State) (l : Launch) (variant k res : Nat) : Option Run :=
  match l.pod.fo, l.pod.running with
  | some fo, some r => if fo ≤ k then some (s.makeRun l variant r.prog (r.b + (res - k)) k r.b) else none
  | _, _ => none

/-- CONTAINMENT (R312, R313, R324, R338): the records carry AUTO whatever the episode decides. -/
def execContainment (lk : Nat) (s : State) : Out :=
  match s.launch lk with
  | some l =>
    match s.containDue l, l.pod.firstNotice with
    | true, some d0 =>
      let c := d0 + 16384
      let q := s.verdict l (l.pod.notices.filter fun n => decide (n.tick ≤ d0 + 8192))
      match q.variant with
      | some v =>
        if q.lost = some l.lpkg ∨ l.stopped then
          let s := s.modPod lk fun p => { p.settle c with running := none }
          .next (if l.stopped then s else (s.podTraps l q.cause q.addr (flagAuto + flagAbort)).decideAbort lk 10 q.cause 0)
        else
          let k := s.commonTick l
          let res := resumeTick c k
          let s := (vfOf l.part).elim s fun n => s.modVf n fun x => { x with lnkshift := x.lnkshift + (res - k) }
          let s := s.podTraps l q.cause q.addr flagAuto
          .next (s.modPod lk fun p =>
            { p.settle c with variant := v, contained := p.contained + 1, res := some res, running := s.resumedRun l v k res })
      | none =>
        let s := s.modPod lk fun p => { p.settle c with running := none }
        .next (if l.stopped then s else (s.podTraps l q.cause q.addr (flagAuto + flagAbort)).decideAbort lk 10 q.cause 0)
    | _, _ => .fault (.notDue "CONTAINMENT")
  | none => .fault (.notDue "CONTAINMENT")

/-- Is a context rolled back by an episode, its rollback complete? -/
def Ctx.podHeld (x : Ctx) : Bool := x.st == .trapped && x.rb.any fun r => r.1.pod && r.2

/-- Has a context's rollback of a containment yet to complete (R338)? -/
def Ctx.podOwed (x : Ctx) : Bool := x.st == .trapped && x.rb.any fun r => r.1.pod && !r.2

/-- Is RES of a launch the next tick, with every rollback of the episode complete (R338)? The contexts issue at RES itself, as the first bundle does at a start cycle (R49). -/
def State.podResumeDue (s : State) (l : Launch) : Bool :=
  l.st == .bound && !l.stopped && l.pod.res.any (fun t => decide (t ≤ s.now + 1)) &&
    (s.ctxsOfLaunch l).all fun q => !(s.ctx q.1 q.2).podOwed && !(s.core q.1).traps.any fun t => t.pod && t.ctx == q.2

/-- CONTAINMENT_RESUME (R338). -/
def execContainmentResume (lk : Nat) (s : State) : Out :=
  match s.launch lk with
  | some l =>
    if s.podResumeDue l then
      let s := (s.ctxsOfLaunch l).foldl (fun s q => s.modCtx q.1 q.2 fun x => if x.podHeld then { x with wakeTick := some s.now } else x) s
      .next (s.modPod lk fun p => { p with res := none })
    else .fault (.notDue "CONTAINMENT_RESUME")
  | none => .fault (.notDue "CONTAINMENT_RESUME")

/-! ### What the link engines do from tick to tick -/

/-- A launch's pod side at the beginning of a tick: a selection takes effect (R249), a pending start is prepared for its first reads, flits are read, and those that arrived are judged (R304, R311). -/
def State.podTick (s : State) (lk : Nat) : State :=
  let s := s.modPod lk fun p => match p.pendSel with
    | some (v, t) => if t ≤ s.now then { p with variant := v, pendSel := none } else p
    | none => p
  match s.launch lk with
  | some l =>
    let ready := match l.pod.ready, l.pod.pendRun with
      | none, some (prog, b) => if b ≤ s.now + 128 then some (s.makeRun l (l.pod.variantAt b) prog b 0 0) else none
      | r, _ => r
    let s := s.modPod lk fun p => { p with ready := ready }
    match ready, l.pod.running with
    | some r, q =>
      let x := s.runReads l r
      x.1.modPod lk fun p => { p with ready := some x.2, running := q.map fun r => { r with flows := r.flows.map (s.judgeFlow r 256) } }
    | none, some r =>
      let x := s.runReads l r
      x.1.modPod lk fun p => { p with running := some { x.2 with flows := x.2.flows.map (s.judgeFlow r 256) } }
    | none, none => s
  | none => s

/-- The link engines at the beginning of a tick. -/
def State.linkStep (s : State) : State :=
  let s := (s.launches.filter fun l => l.st == .bound || l.st == .saved).foldl (fun s l =>
    if l.pod.pendRun.isSome ∨ l.pod.pendSel.isSome ∨ l.pod.running.isSome then s.podTick l.key else s) s
  s.askTime.sendQueued

end Sys2Proof.Machine
end

