-- ==== Sys2Proof/Machine/VecArith.lean ====
section
/-!
DEFINITION. How a vector form performs (R141 to R146), and element arithmetic, logic, shifts, comparison and masks (R147 to R154).
-/

namespace Sys2Proof.Machine

/-- The latch unit of a vector form: bv0 or bv1 (R71). -/
def vUnit (o : VOps) : Fin 8 := if o.v1 then 2 else 1
/-- The part of a vector form (R92). -/
def vPart (o : VOps) : Nat := if o.v1 then 3 else 2

/-- The operand values of a vector form whose sources are of class v, read at its issue (R141). -/
def State.vin (s : State) (f : Focus) (o : VOps) : VIn :=
  { fmt := o.fmt, md := o.md, fn := o.fn, mask := (s.ctx f.core f.ctx).mr o.mask, a := s.readV f o.a, b := s.readV f o.b,
    c := s.readV f o.c, lfsr := (s.ctx f.core f.ctx).lfsr }

/-- The draws of a form leave the context's LFSR states stepped on its issue cycle (R126). -/
def State.drawn (s : State) (f : Focus) (l : Lfsrs) : State := s.modCtx f.core f.ctx fun k => { k with lfsr := l }

/-- A vector result (R144). -/
def State.resultV (s : State) (f : Focus) (o : VOps) (lat : Nat) (unit : Fin 8) (r : VOut) : State :=
  (s.drawn f r.env.lfsr).result f (vPart o) lat (destV o.d o.nw) r.val r.wen (some unit) r.env.fl

/-- A form with a v result (R144). -/
def vecForm (i : Instr) (name : String) (o : VOps) (lat : Nat) (run : VIn → VOut) (s : State) : Out :=
  slotGo i name s fun f => s.resultV f o lat (vUnit o) (run (s.vin f o))

/-- A form with an m result at issue + 2 (R144, R153). -/
def maskForm (i : Instr) (name : String) (o : VOps) (run : State → Focus → MaskReg) (s : State) : Out :=
  slotGo i name s fun f =>
    s.result f (vPart o) 2 (destM o.d o.nw) ((run s f).zeroExtend 4096) allLanes (some (vUnit o)) 0

/-- A latency of 2 for integer formats and 3 for floating ones (R95). -/
def lat23 (f : Fmt) : Nat := if f.isIN || f.isP then 2 else 3

/-- VADD (R147). -/
def execVadd (o : VOps) (s : State) : Out :=
  vecForm (.vadd o) "VADD" o (lat23 o.fmt) vAdd s

/-- VSUB (R147). -/
def execVsub (o : VOps) (s : State) : Out :=
  vecForm (.vsub o) "VSUB" o (lat23 o.fmt) vSub s

/-- VMUL (R147). -/
def execVmul (o : VOps) (s : State) : Out :=
  vecForm (.vmul o) "VMUL" o 5 vMul s

/-- VFMA (R147). -/
def execVfma (o : VOps) (s : State) : Out :=
  vecForm (.vfma o) "VFMA" o 6 vFma s

/-- VFMS (R147). -/
def execVfms (o : VOps) (s : State) : Out :=
  vecForm (.vfms o) "VFMS" o 6 vFms s

/-- VFNMA (R147). -/
def execVfnma (o : VOps) (s : State) : Out :=
  vecForm (.vfnma o) "VFNMA" o 6 vFnma s

/-- VMAX (R147). -/
def execVmax (o : VOps) (s : State) : Out :=
  vecForm (.vmax o) "VMAX" o (lat23 o.fmt) vMax s

/-- VMIN (R147). -/
def execVmin (o : VOps) (s : State) : Out :=
  vecForm (.vmin o) "VMIN" o (lat23 o.fmt) vMin s

/-- VABS (R147). -/
def execVabs (o : VOps) (s : State) : Out :=
  vecForm (.vabs o) "VABS" o (lat23 o.fmt) vAbs s

/-- VNEG (R147). -/
def execVneg (o : VOps) (s : State) : Out :=
  vecForm (.vneg o) "VNEG" o (lat23 o.fmt) vNeg s

/-- VADDSAT (R147). -/
def execVaddsat (o : VOps) (s : State) : Out :=
  vecForm (.vaddsat o) "VADDSAT" o 2 vAddSat s

/-- VSUBSAT (R147). -/
def execVsubsat (o : VOps) (s : State) : Out :=
  vecForm (.vsubsat o) "VSUBSAT" o 2 vSubSat s

/-- VMULHI (R147). -/
def execVmulhi (o : VOps) (s : State) : Out :=
  vecForm (.vmulhi o) "VMULHI" o 5 vMulHi s

/-- VAND (R149). -/
def execVand (o : VOps) (s : State) : Out :=
  vecForm (.vand o) "VAND" o 2 vAnd s

/-- VOR (R149). -/
def execVor (o : VOps) (s : State) : Out :=
  vecForm (.vor o) "VOR" o 2 vOr s

/-- VXOR (R149). -/
def execVxor (o : VOps) (s : State) : Out :=
  vecForm (.vxor o) "VXOR" o 2 vXor s

/-- VNOT (R149). -/
def execVnot (o : VOps) (s : State) : Out :=
  vecForm (.vnot o) "VNOT" o 2 vNot s

/-- VSHL (R149). -/
def execVshl (o : VOps) (s : State) : Out :=
  vecForm (.vshl o) "VSHL" o 2 vShl s

/-- VSHR (R149). -/
def execVshr (o : VOps) (s : State) : Out :=
  vecForm (.vshr o) "VSHR" o 2 vShr s

/-- VSRA (R149). -/
def execVsra (o : VOps) (s : State) : Out :=
  vecForm (.vsra o) "VSRA" o 2 vSra s

/-- VCMP (R150, R151). -/
def execVcmp (o : VOps) (s : State) : Out :=
  maskForm (.vcmp o) "VCMP" o (fun s f => vCmp (s.vin f o)) s

/-- VSEL (R152). -/
def execVsel (o : VOps) (s : State) : Out :=
  vecForm (.vsel o) "VSEL" o 2 vSel s

/-- MAND (R153). -/
def execMand (o : VOps) (s : State) : Out :=
  maskForm (.mand o) "MAND" o (fun s f => s.readM f o.a &&& s.readM f o.b) s

/-- MOR (R153). -/
def execMor (o : VOps) (s : State) : Out :=
  maskForm (.mor o) "MOR" o (fun s f => s.readM f o.a ||| s.readM f o.b) s

/-- MXOR (R153). -/
def execMxor (o : VOps) (s : State) : Out :=
  maskForm (.mxor o) "MXOR" o (fun s f => s.readM f o.a ^^^ s.readM f o.b) s

/-- MNOT (R153). -/
def execMnot (o : VOps) (s : State) : Out :=
  maskForm (.mnot o) "MNOT" o (fun s f => ~~~(s.readM f o.a)) s

/-- MPOP (R154). -/
def execMpop (o : VOps) (s : State) : Out :=
  slotGo (.mpop o) "MPOP" s fun f =>
    s.result f (vPart o) 2 (destV o.d o.nw) (splat (BitVec.ofNat 32 (popUpTo (s.readM f o.a) 128))) allLanes (some (vUnit o)) 0

/-- MFIRST (R154). -/
def execMfirst (o : VOps) (s : State) : Out :=
  slotGo (.mfirst o) "MFIRST" s fun f =>
    s.result f (vPart o) 2 (destV o.d o.nw) (splat (BitVec.ofNat 32 (firstSet (s.readM f o.a) 128 0))) allLanes (some (vUnit o)) 0

end Sys2Proof.Machine
end

