-- ==== Sys2Proof/Machine/Rank.lean ====
section
/-!
DEFINITION. The rank-coded vector forms (R216 to R221).
-/

namespace Sys2Proof.Machine

/-- VRANK (R217, R218): the result reaches latch bk. -/
def execVrank (o : VOps) (s : State) : Out :=
  slotGo (.vrank o) "VRANK" s fun f =>
    s.result f 3 12 (destV o.d o.nw) (vRank (s.vin f o)) allLanes (some 7) 0

/-- VRECON (R221). -/
def execVrecon (o : VOps) (s : State) : Out :=
  slotGo (.vrecon o) "VRECON" s fun f =>
    s.resultV f o 4 2 (vRecon (s.vin f o) ((s.ctx f.core f.ctx).rtab[o.fn.toNat % 4]'(Nat.mod_lt _ (by decide))))

/-- VRTAB (R220): no register and no latch. -/
def execVrtab (o : VOps) (s : State) : Out :=
  slotGo (.vrtab o) "VRTAB" s fun f =>
    s.result f 3 4 (.rtab (o.fn.toNat % 4)) (s.readV f o.a) allLanes none 0

end Sys2Proof.Machine
end

