-- ==== Sys2Proof/Machine/Trust.lean ====
section
/-!
DEFINITION. Trust and heat: SPDM requests (R355, R356), TDISP and IDE (R357), keys (R358), the tenant's public key (R360), and the thermal trip (R364). The codes of SPDM messages are those of DMTF SPDM 1.3 (log entry 25).
-/

namespace Sys2Proof.Machine

/-! ### SPDM (R355) -/

/-- A response of the security engine. -/
def State.respond (s : State) (fn : Fin 10) (code : Nat) (payload : List (BitVec 512)) : State := s.emit (.spdm fn.val code payload)

/-- ERROR with its code. -/
def State.spdmError (s : State) (fn : Fin 10) (err : Nat) : State := s.respond fn 0x7F [BitVec.ofNat 512 err]

/-- A response whose content the spec leaves to SPDM, to the engine's identity key and to its certificate chain; `given` is what the request brings. -/
def State.spdmPlain (s : State) (fn : Fin 10) (req resp : Nat) (given : List (BitVec 512)) : State :=
  (s.respond fn resp (Config.spdmAnswer req given s.freeCtr)).tickFree

/-- The SPDM session of a function: 0 none, 1 in key exchange, 2 established. -/
def State.session (s : State) (fn : Fin 10) : Nat := s.pf.session[fn]

/-- The session of a function changes. -/
def State.setSession (s : State) (fn : Fin 10) (v : Nat) : State := { s with pf := { s.pf with session := s.pf.session.set fn v } }

/-- GET_VERSION (R355). -/
def execGetVersion (fn : Fin 10) (s : State) : Out := .next (s.spdmPlain fn 0x84 0x04 [])
/-- GET_CAPABILITIES (R355). -/
def execGetCapabilities (fn : Fin 10) (s : State) : Out := .next (s.spdmPlain fn 0xE1 0x61 [])
/-- NEGOTIATE_ALGORITHMS (R355). -/
def execNegotiateAlgorithms (fn : Fin 10) (s : State) : Out := .next (s.spdmPlain fn 0xE3 0x63 [])
/-- GET_DIGESTS (R355): of the certificate chain in slot 0. -/
def execGetDigests (fn : Fin 10) (s : State) : Out := .next (s.spdmPlain fn 0x81 0x01 [])
/-- GET_CERTIFICATE (R355): a part of the chain in slot 0. -/
def execGetCertificate (fn : Fin 10) (off len : Nat) (s : State) : Out :=
  .next (s.spdmPlain fn 0x82 0x02 [BitVec.ofNat 512 off, BitVec.ofNat 512 len])
/-- CHALLENGE (R355): signed with the identity key. -/
def execChallenge (fn : Fin 10) (nonce : BitVec 256) (s : State) : Out := .next (s.spdmPlain fn 0x83 0x03 [nonce.setWidth 512])

/-- KEY_EXCHANGE (R355): it opens a session, in key exchange, when the engine accepts the share. -/
def execKeyExchange (fn : Fin 10) (share : List (BitVec 8)) (s : State) : Out :=
  if Config.spdmAccepts 0xE4 share s.freeCtr then .next ((s.setSession fn 1).spdmPlain fn 0xE4 0x64 []) else .next (s.spdmError fn 1).tickFree

/-- FINISH (R355): the session is established when the engine accepts the code. -/
def execFinish (fn : Fin 10) (mac : List (BitVec 8)) (s : State) : Out :=
  if s.session fn = 1 ∧ Config.spdmAccepts 0xE5 mac s.freeCtr then .next ((s.setSession fn 2).spdmPlain fn 0xE5 0x65 [])
  else .next (s.spdmError fn 4).tickFree

/-- END_SESSION (R355). -/
def execEndSession (fn : Fin 10) (s : State) : Out :=
  if s.session fn = 2 then .next ((s.setSession fn 0).spdmPlain fn 0xEC 0x6C []) else .next (s.spdmError fn 4)

/-- UNSUPPORTED_REQUEST (R355): ERROR with UnsupportedRequest. -/
def execUnsupportedRequest (fn : Fin 10) (code : BitVec 8) (s : State) : Out :=
  .next (s.respond fn 0x7F [7, code.setWidth 512])

/-! ### Measurements (R356) -/

/-- PARTMAP as it reads (R32). -/
def State.partmapVal (s : State) : Nat := packNat 4 (s.pf.partmap.toList.map BitVec.toNat)
/-- PODCFG as it reads (R315). -/
def State.podcfgVal (s : State) : Nat :=
  s.pf.len.toNat * 2 ^ 48 + s.pf.inc.toNat * 2 ^ 32 + s.pf.parent.toNat * 2 ^ 28 + s.pf.pkg.toNat

/-- The images whose prefix has passed, in the order of their handles. -/
def State.measuredImages (s : State) : List LoadedImage :=
  (s.images.filter LoadedImage.passed).foldl (fun l i =>
    l.filter (fun j => decide (j.handle ≤ i.handle)) ++ i :: l.filter fun j => decide (i.handle < j.handle)) []

/-- A measurement block as a function sees it; empty when it is absent (R356). -/
def State.measurement (s : State) (fn : Fin 10) (index : Nat) : List (BitVec 512) :=
  match index with
  | 1 => [Config.firmwareDigest 1 0]
  | 2 => (List.range 9).map (Config.firmwareDigest 2)
  | 3 => [Config.firmwareDigest 3 0]
  | 4 => [shake256 (bytesOf s.partmapVal 8 ++ bytesOf s.podcfgVal 8 ++ bytesOf s.pf.budget.toNat 8)]
  | 5 =>
    match vfOf fn.val with
    | some n => [(s.vfs[n].policy.map fun r => shake256 (bytesOf r.toNat 128)).getD 0]
    | none => []
  | n =>
    if 16 ≤ n ∧ n ≤ 127 then
      match s.measuredImages[n - 16]? with
      | some i => if fn.val = 0 ∨ fn.val = i.part then [imageDigest i.img] else []
      | none => []
    else []

/-- GET_MEASUREMENTS (R355, R356): one block, all of them (0xFF), or their number (0), with the engine's signature. -/
def execGetMeasurements (fn : Fin 10) (index : BitVec 8) (s : State) : Out :=
  let present := (List.range 128).filter fun n => !(s.measurement fn n).isEmpty
  let body := if index = 0xFF then present.flatMap (s.measurement fn)
    else if index = 0 then [BitVec.ofNat 512 present.length] else s.measurement fn index.toNat
  .next (s.respond fn 0x60 (body ++ Config.spdmAnswer 0xE0 body s.freeCtr)).tickFree

/-! ### TDISP, IDE and keys (R357, R358, R360) -/

/-- A VF leaves RUN: keys erased, HWBASE 0, the debug policy closed (R55, R358, R361). -/
def State.leaveRun (s : State) (n : Fin 9) : State :=
  let s := if s.hbmKeys (n.val + 1) = (none, none) then s else s.otherKeys n (s.holdsDie (n.val + 1))
  (s.modVf n fun v => { v with keys := Vector.replicate 4 none, hwbase := 0 }).closePolicy n

/-- A VF goes to a TDISP state. -/
def State.tdispTo (s : State) (n : Fin 9) (t : Tdisp) : State :=
  let s' := if s.vfs[n].tdisp = .run ∧ t ≠ .run then s.leaveRun n else s
  s'.modVf n fun v => { v with tdisp := t }

/-- TDISP_REQUEST (R357): LOCK from CONFIG_UNLOCKED, START from CONFIG_LOCKED, STOP from every state; in another state a request moves nothing. -/
def execTdispRequest (vf : Fin 9) (req : TdispReq) (s : State) : Out :=
  match req, s.vfs[vf].tdisp with
  | .lock, .unlocked => .next (s.tdispTo vf .locked)
  | .start, .locked => .next (s.tdispTo vf .run)
  | .stop, _ => .next (s.tdispTo vf .unlocked)
  | _, _ => .next s

/-- TLP_OUTSIDE_STREAM (R357). -/
def execTlpOutsideStream (vf : Fin 9) (s : State) : Out :=
  if s.vfs[vf].tdisp = .run then .next (s.tdispTo vf .error) else .next s

/-- IDE_KM_REQUEST (R357). -/
def execIdeKmRequest (fn : Fin 10) (key : BitVec 256) (s : State) : Out :=
  match vfOf fn.val with
  | some n => .next (s.modVf n fun v => { v with ide := some key })
  | none => .next { s with pf := { s.pf with ide := some key } }

/-- KEYSET (R358): inside a secured session with the VF; ERROR (Busy) while a launch of the partition is bound. -/
def execKeyset (fn : Fin 10) (slot : BitVec 8) (key : BitVec 256) (s : State) : Out :=
  match vfOf fn.val with
  | none => .next (s.spdmError fn 7)
  | some n =>
    if s.session fn ≠ 2 then .next (s.spdmError fn 4)
    else if s.partBound fn.val then .next (s.spdmError fn 3)
    else if h : 1 ≤ slot.toNat ∧ slot.toNat ≤ 4 then
      let s := s.modVf n fun v => { v with keys := v.keys.set (slot.toNat - 1) (some key) }
      .next ((if slot.toNat ≤ 2 then s.otherKeys n (s.holdsDie fn.val) else s).respond fn 0x7E [])
    else .next (s.spdmError fn 1)

/-- TENANT_PUBLIC_KEY_DELIVERY (R360): in the tenant's session, before the VF enters CONFIG_LOCKED. -/
def execTenantPublicKeyDelivery (vf : Fin 9) (key : BitVec 512) (s : State) : Out :=
  let fn : Fin 10 := ⟨vf.val + 1, by omega⟩
  if s.session fn = 2 ∧ s.vfs[vf].tdisp = .unlocked then .next ((s.modVf vf fun v => { v with pubkey := some key }).respond fn 0x7E [])
  else .next (s.spdmError fn 4)

/-! ### Heat (R364) -/

/-- The hottest reading of a die's sensors. -/
def State.dieHeat (s : State) (d : Fin 9) : Nat :=
  max (max (s.sensors[4 * d.val]) (s.sensors[4 * d.val + 1])) (max (s.sensors[4 * d.val + 2]) (s.sensors[4 * d.val + 3]))

/-- A sensor reads t °C (R364): a die below 105 °C may trip again. -/
def State.senseHeat (s : State) (d : Fin 9) (n : Fin 4) (t : Nat) : State :=
  let s := { s with sensors := s.sensors.set (4 * d.val + n.val) t }
  if s.dieHeat d < 105 then { s with pf := { s.pf with hot := s.pf.hot &&& ~~~((1 : BitVec 9) <<< d.val) } } else s

/-- Does a die call for a thermal trip (R364)? Each reach of 105 °C brings one. -/
def State.tripDue (s : State) (d : Fin 9) : Bool := !s.pf.hot.getLsbD d.val && decide (105 ≤ s.dieHeat d)

/-- THERMAL_TRIP (R364): every bound or Saved launch stops at once and ends with status 9, CAUSE 0x00 and CORE 0. -/
def execThermalTrip (die : Fin 9) (s : State) : Out :=
  if s.tripDue die then
    let s := { s with pf := { s.pf with trip := true, tripDie := BitVec.ofNat 4 die.val, hot := s.pf.hot ||| ((1 : BitVec 9) <<< die.val) } }
    let ls := s.launches.filter fun l => (l.st == .bound || l.st == .saved) && !l.stopped
    .next (ls.foldl (fun s l => ((s.decideAbort l.key 9 0 0).stopLaunch l.key).floodLoss l) s)
  else .fault (.notDue "THERMAL_TRIP")

/-- TMAX_UPDATE (R364): every 65,536 ticks. -/
def execTmaxUpdate (s : State) : Out :=
  .next { s with pf := { s.pf with tmax := BitVec.ofNat 8 (min (((List.finRange 9).map s.dieHeat).foldl max 0) 255) } }

end Sys2Proof.Machine
end

