-- ==== Sys2Proof/Machine/SoftError.lean ====
section
/-!
DEFINITION. Bit errors of stored words (R328, R329) and the retention mode of banks (R277, R330).
-/

namespace Sys2Proof.Machine

/-! ### Bit errors (R328) -/

/-- UNCOR of a die grows (R328). -/
def State.countUncor (s : State) (d : Fin 9) (n : Nat) : State := s.modDie d fun x => { x with uncor := satAdd x.uncor n }

/-- Stored 64-bit words become uncorrectable: they are marked poisoned (R328). -/
def State.poisonWords (s : State) (ws : List Nat) : State :=
  { s with poison := ws.foldl (fun l w => setIns w l) s.poison, weak := ws.foldl (fun l w => setDel w l) s.weak }

/-- The words of the 256-bit group of a word. -/
def groupWords (w : Nat) : List Nat := (List.range 4).map (w / 4 * 4 + ·)

/-- A scratchpad word is struck: in retention mode its group of 256 bits is (R328). -/
def State.strikePad (s : State) (c : CoreId) (addr : Nat) (hard : Bool) : State :=
  let w := localPa c addr / 8
  let kept := match (s.core c).bankRet (bankOf addr) with
    | .retained => true
    | _ => false
  if hard ∨ (s.weak.contains w ∧ !kept) then
    let ws := if kept then groupWords w else [w]
    (s.poisonWords ws).countUncor (dieOf c) ws.length
  else { s with weak := setIns w s.weak }

/-- A word outside the scratchpad holds a correctable error; true where it held one already, so that it is uncorrectable now. -/
def State.strikeLoc (s : State) (c : CoreId) (l : ErrLoc) (hard : Bool) (mark : Core → Core) : State :=
  if hard ∨ (s.core c).weakLoc.contains l then
    (s.modCore c fun k => mark { k with weakLoc := k.weakLoc.filter (· != l) }).countUncor (dieOf c) 1
  else s.modCore c fun k => { k with weakLoc := k.weakLoc ++ [l] }

/-- Registers of a class, and 32-bit words of each: x, v, m, th (R50, R328). The spec states no width for a handle; it is given eight words (log entry 24). -/
def regWords : Nat → Option (Nat × Nat)
  | 0 => some (32, 2)
  | 1 => some (32, 128)
  | 2 => some (8, 4)
  | 3 => some (8, 8)
  | _ => none

/-- SOFT_ERROR (R328, R329): a bit error that the word's code corrects, or, when hard, one that it does not. A word outside the memories takes none. -/
def execSoftError (loc : ErrLoc) (hard : Bool) (s : State) : Out :=
  match loc with
  | .pad c a => if a < 0x600000 then .next (s.strikePad c a hard) else .next s
  | .hbm a =>
    match regionOf a with
    | .hbm _ => if hard then .next (s.poisonWords [a / 8]) else .next s
    | _ => .next s
  | .acc c lk name row col =>
    if ((s.core c).lc lk).any (fun l => decide (name < l.accs)) ∧ row < 64 ∧ col < 128 then
      .next (s.strikeLoc c loc hard fun k => k.modLc lk fun l => l.addErrs name row [col])
    else .next s
  | .face c bank row word =>
    if row < 2048 ∧ word < 256 then
      .next (s.strikeLoc c loc hard fun k =>
        if (s.core c).face.ffmt.any fun f => decide (64 * word < faceCols k.face.arr (some f) * f.width) then
          { k with face := { k.face with errRows := setIns (bank.toNat * 2048 + row) k.face.errRows } }
        else k)
    else .next s
  | .scale c block word =>
    if block < 64 ∧ word < 256 then
      .next (s.strikeLoc c loc hard fun k =>
        if 8 * word < faceCols k.face.arr k.face.ffmt then { k with face := { k.face with errScales := setIns block k.face.errScales } } else k)
    else .next s
  | .att c table word =>
    if table < 4 ∧ word < 17 then
      .next (s.strikeLoc c loc hard fun k =>
        { k with attErr := (if word = 16 then [128] else (List.range 8).map (8 * word + ·)).foldl (fun l e => setIns (256 * table + e) l) k.attErr })
    else .next s
  | .reg c ctx cls num word copy =>
    if (regWords cls).any fun q => decide (num < q.1) && decide (word < q.2) then
      .next (s.strikeLoc c loc hard fun k =>
        if copy then { k with ckErr := (ctx.val, cls, num, word) :: k.ckErr.filter (· != (ctx.val, cls, num, word)) }
        else { k with regErr := (ctx.val, cls, num, word) :: k.regErr.filter (· != (ctx.val, cls, num, word)) })
    else .next s
  | .store c slot word =>
    if slot < 4096 ∧ word < 8 then .next (s.strikeLoc c loc hard fun k => { k with storeErr := setIns slot k.storeErr }) else .next s

/-! ### Retention (R277, R330) -/

/-- Does a launch own a bank of a core, or await it from one that does (R277)? -/
def Core.bankTaken (k : Core) (b : Fin 48) : Bool := k.lcs.any fun l => l.bst[b] == .owned || l.bst[b] == .awaited

/-- Has no launch owned a bank for 2²⁰ consecutive cycles (R277, R330)? -/
def Core.retentionDue (k : Core) (b : Fin 48) : Bool :=
  (k.banks[b]).ret == .active && decide ((k.banks[b]).idle + 2 ^ 20 ≤ k.cyc) && !k.bankTaken b

/-- The words of a bank that hold a correctable error. -/
def State.weakIn (s : State) (c : CoreId) (b : Nat) : List Nat :=
  s.weak.filter fun w => decide (localPa c (b * 0x20000) ≤ 8 * w) && decide (8 * w < localPa c ((b + 1) * 0x20000))

/-- BANK_RETENTION_ENTRY (R330): every word is read, corrected and written anew, in 6,144 cycles. -/
def execBankRetentionEntry (core : CoreId) (bank : Fin 48) (s : State) : Out :=
  if (s.core core).retentionDue bank then
    let ws := s.weakIn core bank.val
    let s := { s.noteReads (dieOf core) ws with weak := ws.foldl (fun l w => setDel w l) s.weak }
    .next (s.modCore core fun k => k.modBank bank.val fun x => { x with ret := .entering (k.cyc + 6144) false })
  else .fault (.notDue "BANK_RETENTION_ENTRY")

/-- Is a conversion of a bank over (R330)? -/
def Core.conversionDue (k : Core) (b : Fin 48) : Bool :=
  match (k.banks[b]).ret with
  | .entering t _ | .leaving t => decide (t ≤ k.cyc)
  | _ => false

/-- What follows a conversion: an entry that a launch waits for is followed by the exit (R276, R330). -/
def RetSt.converted (r : RetSt) : RetSt :=
  match r with
  | .entering t true => .leaving (t + 4096)
  | .entering _ false => .retained
  | .leaving _ => .active
  | r => r

/-- RETENTION_CONVERSION_DONE (R330). -/
def execRetentionConversionDone (core : CoreId) (bank : Fin 48) (s : State) : Out :=
  if (s.core core).conversionDue bank then .next (s.modCore core fun k => k.modBank bank.val fun x => { x with ret := x.ret.converted })
  else .fault (.notDue "RETENTION_CONVERSION_DONE")

end Sys2Proof.Machine
end

