-- ==== Sys2Proof/Machine/VecConv.lean ====
section
/-!
DEFINITION. Conversions, block quantisation, special functions and classes (R155 to R159, R164, R165).
-/

namespace Sys2Proof.Machine

/-- VCVT (R155 to R157). -/
def execVcvt (o : VOps) (s : State) : Out :=
  vecForm (.vcvt o) "VCVT" o 3 vCvt s

/-- VNARROW (R155 to R157). -/
def execVnarrow (o : VOps) (s : State) : Out :=
  vecForm (.vnarrow o) "VNARROW" o 3 vNarrow s

/-- VWIDEN (R155 to R157). -/
def execVwiden (o : VOps) (s : State) : Out :=
  vecForm (.vwiden o) "VWIDEN" o 3 vWiden s

/-- VMXQ (R158). -/
def execVmxq (o : VOps) (s : State) : Out :=
  vecForm (.vmxq o) "VMXQ" o 3 vMxq s

/-- VMXD (R159). -/
def execVmxd (o : VOps) (s : State) : Out :=
  vecForm (.vmxd o) "VMXD" o 3 vMxd s

/-- VEXP2 (R164; log entry 20). -/
def execVexp2 (o : VOps) (s : State) : Out :=
  vecForm (.vexp2 o) "VEXP2" o 8 (vSpecial exp2Num) s

/-- VLOG2 (R164; log entry 20). -/
def execVlog2 (o : VOps) (s : State) : Out :=
  vecForm (.vlog2 o) "VLOG2" o 8 (vSpecial log2Num) s

/-- VRCP (R164; log entry 20). -/
def execVrcp (o : VOps) (s : State) : Out :=
  vecForm (.vrcp o) "VRCP" o 8 (vSpecial rcpNum) s

/-- VRSQRT (R164; log entry 20). -/
def execVrsqrt (o : VOps) (s : State) : Out :=
  vecForm (.vrsqrt o) "VRSQRT" o 8 (vSpecial rsqrtNum) s

/-- VCLASS (R165). -/
def execVclass (o : VOps) (s : State) : Out :=
  vecForm (.vclass o) "VCLASS" o 8 vClass s

end Sys2Proof.Machine
end

