-- ==== Sys2Proof/Machine/VecPerm.lean ====
section
/-!
DEFINITION. Permutes, reductions, scans and moves (R160 to R163).
-/

namespace Sys2Proof.Machine

/-- VPERM (R160). -/
def execVperm (o : VOps) (s : State) : Out :=
  vecForm (.vperm o) "VPERM" o 3 vPerm s

/-- VROT (R160). -/
def execVrot (o : VOps) (s : State) : Out :=
  vecForm (.vrot o) "VROT" o 3 vRot s

/-- VBCAST (R160). -/
def execVbcast (o : VOps) (s : State) : Out :=
  vecForm (.vbcast o) "VBCAST" o 3 vBcast s

/-- VSLIDE (R160). -/
def execVslide (o : VOps) (s : State) : Out :=
  vecForm (.vslide o) "VSLIDE" o 3 vSlide s

/-- VZIP (R160). -/
def execVzip (o : VOps) (s : State) : Out :=
  vecForm (.vzip o) "VZIP" o 3 vZip s

/-- VUNZIP (R160). -/
def execVunzip (o : VOps) (s : State) : Out :=
  vecForm (.vunzip o) "VUNZIP" o 3 vUnzip s

/-- VIOTA (R160). -/
def execViota (o : VOps) (s : State) : Out :=
  vecForm (.viota o) "VIOTA" o 3 vIota s

/-- VREDSUM (R132, R161). -/
def execVredsum (o : VOps) (s : State) : Out :=
  vecForm (.vredsum o) "VREDSUM" o 7 (vReduce .sum) s

/-- VREDMAX (R132, R161). -/
def execVredmax (o : VOps) (s : State) : Out :=
  vecForm (.vredmax o) "VREDMAX" o 7 (vReduce .max) s

/-- VREDMIN (R132, R161). -/
def execVredmin (o : VOps) (s : State) : Out :=
  vecForm (.vredmin o) "VREDMIN" o 7 (vReduce .min) s

/-- VSCAN (R133, R162). -/
def execVscan (o : VOps) (s : State) : Out :=
  vecForm (.vscan o) "VSCAN" o 9 (vScan .sum) s

/-- VSCANMAX (R133, R162). -/
def execVscanmax (o : VOps) (s : State) : Out :=
  vecForm (.vscanmax o) "VSCANMAX" o 9 (vScan .max) s

/-- VFILL (R163). -/
def execVfill (o : VOps) (s : State) : Out :=
  slotGo (.vfill o) "VFILL" s fun f =>
    s.resultV f o 2 (vUnit o) (vFill { s.vin f o with a := 0 } (s.readX f o.a))

/-- VEXT (R163): the 64-bit result fills the latch's bits [63:0]. -/
def execVext (o : VOps) (s : State) : Out :=
  slotGo (.vext o) "VEXT" s fun f =>
    s.resultX f (vPart o) 2 o.d o.nw (vUnit o) (vExt (s.vin f o) (s.readX f o.b))

/-- VINS (R163). -/
def execVins (o : VOps) (s : State) : Out :=
  slotGo (.vins o) "VINS" s fun f =>
    s.resultV f o 2 (vUnit o) (vIns (s.vin f o) (s.readX f o.b) (s.readX f o.c))

/-- VMOV (R163). -/
def execVmov (o : VOps) (s : State) : Out :=
  vecForm (.vmov o) "VMOV" o 2 vMov s

end Sys2Proof.Machine
end

