-- ==== Sys2Proof/Machine/Dispatch.lean ====
section
/-!
DEFINITION. What each row of the table does: one arm per constructor, one direct call of its meaning.
-/

namespace Sys2Proof.Machine

/-- Execute one row of the table. -/
def exec (i : Instr) (s : State) : Host.Outcome State Fault Refusal :=
  match i with
  | .lui rd imm => Sys2Proof.Machine.execLui rd imm s
  | .auipc rd imm => Sys2Proof.Machine.execAuipc rd imm s
  | .jal rd imm => Sys2Proof.Machine.execJal rd imm s
  | .jalr rd rs1 imm => Sys2Proof.Machine.execJalr rd rs1 imm s
  | .beq rs1 rs2 imm => Sys2Proof.Machine.execBeq rs1 rs2 imm s
  | .bne rs1 rs2 imm => Sys2Proof.Machine.execBne rs1 rs2 imm s
  | .blt rs1 rs2 imm => Sys2Proof.Machine.execBlt rs1 rs2 imm s
  | .bge rs1 rs2 imm => Sys2Proof.Machine.execBge rs1 rs2 imm s
  | .bltu rs1 rs2 imm => Sys2Proof.Machine.execBltu rs1 rs2 imm s
  | .bgeu rs1 rs2 imm => Sys2Proof.Machine.execBgeu rs1 rs2 imm s
  | .lb rd rs1 imm => Sys2Proof.Machine.execLb rd rs1 imm s
  | .lh rd rs1 imm => Sys2Proof.Machine.execLh rd rs1 imm s
  | .lw rd rs1 imm => Sys2Proof.Machine.execLw rd rs1 imm s
  | .ldd rd rs1 imm => Sys2Proof.Machine.execLdd rd rs1 imm s
  | .lbu rd rs1 imm => Sys2Proof.Machine.execLbu rd rs1 imm s
  | .lhu rd rs1 imm => Sys2Proof.Machine.execLhu rd rs1 imm s
  | .lwu rd rs1 imm => Sys2Proof.Machine.execLwu rd rs1 imm s
  | .sb rs1 rs2 imm => Sys2Proof.Machine.execSb rs1 rs2 imm s
  | .shh rs1 rs2 imm => Sys2Proof.Machine.execShh rs1 rs2 imm s
  | .sw rs1 rs2 imm => Sys2Proof.Machine.execSw rs1 rs2 imm s
  | .sd rs1 rs2 imm => Sys2Proof.Machine.execSd rs1 rs2 imm s
  | .addi rd rs1 imm => Sys2Proof.Machine.execAddi rd rs1 imm s
  | .slti rd rs1 imm => Sys2Proof.Machine.execSlti rd rs1 imm s
  | .sltiu rd rs1 imm => Sys2Proof.Machine.execSltiu rd rs1 imm s
  | .xori rd rs1 imm => Sys2Proof.Machine.execXori rd rs1 imm s
  | .ori rd rs1 imm => Sys2Proof.Machine.execOri rd rs1 imm s
  | .andi rd rs1 imm => Sys2Proof.Machine.execAndi rd rs1 imm s
  | .slli rd rs1 sh => Sys2Proof.Machine.execSlli rd rs1 sh s
  | .srli rd rs1 sh => Sys2Proof.Machine.execSrli rd rs1 sh s
  | .srai rd rs1 sh => Sys2Proof.Machine.execSrai rd rs1 sh s
  | .add rd rs1 rs2 => Sys2Proof.Machine.execAdd rd rs1 rs2 s
  | .sub rd rs1 rs2 => Sys2Proof.Machine.execSub rd rs1 rs2 s
  | .sll rd rs1 rs2 => Sys2Proof.Machine.execSll rd rs1 rs2 s
  | .slt rd rs1 rs2 => Sys2Proof.Machine.execSlt rd rs1 rs2 s
  | .sltu rd rs1 rs2 => Sys2Proof.Machine.execSltu rd rs1 rs2 s
  | .xorR rd rs1 rs2 => Sys2Proof.Machine.execXorR rd rs1 rs2 s
  | .srl rd rs1 rs2 => Sys2Proof.Machine.execSrl rd rs1 rs2 s
  | .sra rd rs1 rs2 => Sys2Proof.Machine.execSra rd rs1 rs2 s
  | .orR rd rs1 rs2 => Sys2Proof.Machine.execOrR rd rs1 rs2 s
  | .andR rd rs1 rs2 => Sys2Proof.Machine.execAndR rd rs1 rs2 s
  | .mul rd rs1 rs2 => Sys2Proof.Machine.execMul rd rs1 rs2 s
  | .mulh rd rs1 rs2 => Sys2Proof.Machine.execMulh rd rs1 rs2 s
  | .mulhsu rd rs1 rs2 => Sys2Proof.Machine.execMulhsu rd rs1 rs2 s
  | .mulhu rd rs1 rs2 => Sys2Proof.Machine.execMulhu rd rs1 rs2 s
  | .div rd rs1 rs2 => Sys2Proof.Machine.execDiv rd rs1 rs2 s
  | .divu rd rs1 rs2 => Sys2Proof.Machine.execDivu rd rs1 rs2 s
  | .rem rd rs1 rs2 => Sys2Proof.Machine.execRem rd rs1 rs2 s
  | .remu rd rs1 rs2 => Sys2Proof.Machine.execRemu rd rs1 rs2 s
  | .addiw rd rs1 imm => Sys2Proof.Machine.execAddiw rd rs1 imm s
  | .slliw rd rs1 sh => Sys2Proof.Machine.execSlliw rd rs1 sh s
  | .srliw rd rs1 sh => Sys2Proof.Machine.execSrliw rd rs1 sh s
  | .sraiw rd rs1 sh => Sys2Proof.Machine.execSraiw rd rs1 sh s
  | .addw rd rs1 rs2 => Sys2Proof.Machine.execAddw rd rs1 rs2 s
  | .subw rd rs1 rs2 => Sys2Proof.Machine.execSubw rd rs1 rs2 s
  | .sllw rd rs1 rs2 => Sys2Proof.Machine.execSllw rd rs1 rs2 s
  | .srlw rd rs1 rs2 => Sys2Proof.Machine.execSrlw rd rs1 rs2 s
  | .sraw rd rs1 rs2 => Sys2Proof.Machine.execSraw rd rs1 rs2 s
  | .mulw rd rs1 rs2 => Sys2Proof.Machine.execMulw rd rs1 rs2 s
  | .divw rd rs1 rs2 => Sys2Proof.Machine.execDivw rd rs1 rs2 s
  | .divuw rd rs1 rs2 => Sys2Proof.Machine.execDivuw rd rs1 rs2 s
  | .remw rd rs1 rs2 => Sys2Proof.Machine.execRemw rd rs1 rs2 s
  | .remuw rd rs1 rs2 => Sys2Proof.Machine.execRemuw rd rs1 rs2 s
  | .nopY => Sys2Proof.Machine.execNopY s
  | .loop a len => Sys2Proof.Machine.execLoop a len s
  | .loopx a b => Sys2Proof.Machine.execLoopx a b s
  | .lbrk a => Sys2Proof.Machine.execLbrk a s
  | .lbrkU => Sys2Proof.Machine.execLbrkU s
  | .bankAcq a => Sys2Proof.Machine.execBankAcq a s
  | .bankRel a => Sys2Proof.Machine.execBankRel a s
  | .bar comm level => Sys2Proof.Machine.execBar comm level s
  | .guard a => Sys2Proof.Machine.execGuard a s
  | .fence kind scope => Sys2Proof.Machine.execFence kind scope s
  | .bankTst a d nw => Sys2Proof.Machine.execBankTst a d nw s
  | .haulBoard b d nw => Sys2Proof.Machine.execHaulBoard b d nw s
  | .haulAlight a b sv => Sys2Proof.Machine.execHaulAlight a b sv s
  | .haulLd a d nw => Sys2Proof.Machine.execHaulLd a d nw s
  | .haulSt a b all lane => Sys2Proof.Machine.execHaulSt a b all lane s
  | .haulOp a b d nw fp op lane => Sys2Proof.Machine.execHaulOp a b d nw fp op lane s
  | .haulXchg a b d nw lane => Sys2Proof.Machine.execHaulXchg a b d nw lane s
  | .haulCas a b d nw lane => Sys2Proof.Machine.execHaulCas a b d nw lane s
  | .haulLse a b d nw lane => Sys2Proof.Machine.execHaulLse a b d nw lane s
  | .haulBar a b v => Sys2Proof.Machine.execHaulBar a b v s
  | .haulPass a d nw => Sys2Proof.Machine.execHaulPass a d nw s
  | .codeLock a d nw => Sys2Proof.Machine.execCodeLock a d nw s
  | .codeLockW a d nw => Sys2Proof.Machine.execCodeLockW a d nw s
  | .codeUnlock a => Sys2Proof.Machine.execCodeUnlock a s
  | .sysrd d nw k => Sys2Proof.Machine.execSysrd d nw k s
  | .syswr a k => Sys2Proof.Machine.execSyswr a k s
  | .trap a => Sys2Proof.Machine.execTrap a s
  | .ebrk => Sys2Proof.Machine.execEbrk s
  | .endCtx => Sys2Proof.Machine.execEndCtx s
  | .vadd o => Sys2Proof.Machine.execVadd o s
  | .vsub o => Sys2Proof.Machine.execVsub o s
  | .vmul o => Sys2Proof.Machine.execVmul o s
  | .vfma o => Sys2Proof.Machine.execVfma o s
  | .vfms o => Sys2Proof.Machine.execVfms o s
  | .vfnma o => Sys2Proof.Machine.execVfnma o s
  | .vmax o => Sys2Proof.Machine.execVmax o s
  | .vmin o => Sys2Proof.Machine.execVmin o s
  | .vabs o => Sys2Proof.Machine.execVabs o s
  | .vneg o => Sys2Proof.Machine.execVneg o s
  | .vaddsat o => Sys2Proof.Machine.execVaddsat o s
  | .vsubsat o => Sys2Proof.Machine.execVsubsat o s
  | .vmulhi o => Sys2Proof.Machine.execVmulhi o s
  | .vand o => Sys2Proof.Machine.execVand o s
  | .vor o => Sys2Proof.Machine.execVor o s
  | .vxor o => Sys2Proof.Machine.execVxor o s
  | .vnot o => Sys2Proof.Machine.execVnot o s
  | .vshl o => Sys2Proof.Machine.execVshl o s
  | .vshr o => Sys2Proof.Machine.execVshr o s
  | .vsra o => Sys2Proof.Machine.execVsra o s
  | .vcmp o => Sys2Proof.Machine.execVcmp o s
  | .vsel o => Sys2Proof.Machine.execVsel o s
  | .mand o => Sys2Proof.Machine.execMand o s
  | .mor o => Sys2Proof.Machine.execMor o s
  | .mxor o => Sys2Proof.Machine.execMxor o s
  | .mnot o => Sys2Proof.Machine.execMnot o s
  | .mpop o => Sys2Proof.Machine.execMpop o s
  | .mfirst o => Sys2Proof.Machine.execMfirst o s
  | .vcvt o => Sys2Proof.Machine.execVcvt o s
  | .vnarrow o => Sys2Proof.Machine.execVnarrow o s
  | .vwiden o => Sys2Proof.Machine.execVwiden o s
  | .vmxq o => Sys2Proof.Machine.execVmxq o s
  | .vmxd o => Sys2Proof.Machine.execVmxd o s
  | .vperm o => Sys2Proof.Machine.execVperm o s
  | .vrot o => Sys2Proof.Machine.execVrot o s
  | .vbcast o => Sys2Proof.Machine.execVbcast o s
  | .vslide o => Sys2Proof.Machine.execVslide o s
  | .vzip o => Sys2Proof.Machine.execVzip o s
  | .vunzip o => Sys2Proof.Machine.execVunzip o s
  | .viota o => Sys2Proof.Machine.execViota o s
  | .vredsum o => Sys2Proof.Machine.execVredsum o s
  | .vredmax o => Sys2Proof.Machine.execVredmax o s
  | .vredmin o => Sys2Proof.Machine.execVredmin o s
  | .vscan o => Sys2Proof.Machine.execVscan o s
  | .vscanmax o => Sys2Proof.Machine.execVscanmax o s
  | .vfill o => Sys2Proof.Machine.execVfill o s
  | .vext o => Sys2Proof.Machine.execVext o s
  | .vins o => Sys2Proof.Machine.execVins o s
  | .vmov o => Sys2Proof.Machine.execVmov o s
  | .vexp2 o => Sys2Proof.Machine.execVexp2 o s
  | .vlog2 o => Sys2Proof.Machine.execVlog2 o s
  | .vrcp o => Sys2Proof.Machine.execVrcp o s
  | .vrsqrt o => Sys2Proof.Machine.execVrsqrt o s
  | .vclass o => Sys2Proof.Machine.execVclass o s
  | .vrank o => Sys2Proof.Machine.execVrank o s
  | .vrecon o => Sys2Proof.Machine.execVrecon o s
  | .vrtab o => Sys2Proof.Machine.execVrtab o s
  | .mcfg o => Sys2Proof.Machine.execMcfg o s
  | .mwld o => Sys2Proof.Machine.execMwld o s
  | .mwbank o => Sys2Proof.Machine.execMwbank o s
  | .msc o => Sys2Proof.Machine.execMsc o s
  | .mma o => Sys2Proof.Machine.execMma o s
  | .mmaR o => Sys2Proof.Machine.execMmaR o s
  | .mmaT o => Sys2Proof.Machine.execMmaT o s
  | .mmr o => Sys2Proof.Machine.execMmr o s
  | .matt o => Sys2Proof.Machine.execMatt o s
  | .mxt o => Sys2Proof.Machine.execMxt o s
  | .mdr o => Sys2Proof.Machine.execMdr o s
  | .mrel o => Sys2Proof.Machine.execMrel o s
  | .matrixRowLand core => Sys2Proof.Machine.execMatrixRowLand core s
  | .vld o => Sys2Proof.Machine.execVld o s
  | .vldb o => Sys2Proof.Machine.execVldb o s
  | .vlds o => Sys2Proof.Machine.execVlds o s
  | .vldm o => Sys2Proof.Machine.execVldm o s
  | .vldh o => Sys2Proof.Machine.execVldh o s
  | .ldtag o => Sys2Proof.Machine.execLdtag o s
  | .vst o => Sys2Proof.Machine.execVst o s
  | .vstm o => Sys2Proof.Machine.execVstm o s
  | .vsts o => Sys2Proof.Machine.execVsts o s
  | .vsth o => Sys2Proof.Machine.execVsth o s
  | .tzero o => Sys2Proof.Machine.execTzero o s
  | .amo o => Sys2Proof.Machine.execAmo o s
  | .amoCas o => Sys2Proof.Machine.execAmoCas o s
  | .withholdRelease core ctx => Sys2Proof.Machine.execWithholdRelease core ctx s
  | .cp o => Sys2Proof.Machine.execCp o s
  | .cpRed o => Sys2Proof.Machine.execCpRed o s
  | .rwr o => Sys2Proof.Machine.execRwr o s
  | .rrd o => Sys2Proof.Machine.execRrd o s
  | .ramo o => Sys2Proof.Machine.execRamo o s
  | .xlat o => Sys2Proof.Machine.execXlat o s
  | .gld o => Sys2Proof.Machine.execGld o s
  | .gst o => Sys2Proof.Machine.execGst o s
  | .gatom o => Sys2Proof.Machine.execGatom o s
  | .mcast o => Sys2Proof.Machine.execMcast o s
  | .lnkRun o => Sys2Proof.Machine.execLnkRun o s
  | .lnkSel o => Sys2Proof.Machine.execLnkSel o s
  | .enginePiece core => Sys2Proof.Machine.execEnginePiece core s
  | .cpRedInplaceEnqueue core => Sys2Proof.Machine.execCpRedInplaceEnqueue core s
  | .timedRemoteArrival core => Sys2Proof.Machine.execTimedRemoteArrival core s
  | .remoteFailureReport core => Sys2Proof.Machine.execRemoteFailureReport core s
  | .gldLanding core entry => Sys2Proof.Machine.execGldLanding core entry s
  | .gstAck core entry => Sys2Proof.Machine.execGstAck core entry s
  | .gatomValue core entry => Sys2Proof.Machine.execGatomValue core entry s
  | .mcastOutcome core => Sys2Proof.Machine.execMcastOutcome core s
  | .walkEnd core => Sys2Proof.Machine.execWalkEnd core s
  | .landingTimeout core entry => Sys2Proof.Machine.execLandingTimeout core entry s
  | .spoil core => Sys2Proof.Machine.execSpoil core s
  | .homeApplyWrite n => Sys2Proof.Machine.execHomeApplyWrite n s
  | .homeServeRead n => Sys2Proof.Machine.execHomeServeRead n s
  | .haulPassage core => Sys2Proof.Machine.execHaulPassage core s
  | .boardExhausted core => Sys2Proof.Machine.execBoardExhausted core s
  | .fallbackCheck core => Sys2Proof.Machine.execFallbackCheck core s
  | .podBarrierSlot lk => Sys2Proof.Machine.execPodBarrierSlot lk s
  | .podBarrierComplete lk => Sys2Proof.Machine.execPodBarrierComplete lk s
  | .rollback core ctx => Sys2Proof.Machine.execRollback core ctx s
  | .rollbackComplete core ctx => Sys2Proof.Machine.execRollbackComplete core ctx s
  | .abort lk => Sys2Proof.Machine.execAbort lk s
  | .retirementPoint lk => Sys2Proof.Machine.execRetirementPoint lk s
  | .startVector vf off data => Sys2Proof.Machine.execStartVector vf off data s
  | .agingStep vf queue => Sys2Proof.Machine.execAgingStep vf queue s
  | .startCycle lk => Sys2Proof.Machine.execStartCycle lk s
  | .yieldSave lk => Sys2Proof.Machine.execYieldSave lk s
  | .preemptResume lk => Sys2Proof.Machine.execPreemptResume lk s
  | .imagePrefixCheck img => Sys2Proof.Machine.execImagePrefixCheck img s
  | .chunkLands img => Sys2Proof.Machine.execChunkLands img s
  | .fullDigestDecided img => Sys2Proof.Machine.execFullDigestDecided img s
  | .reusingChunkWrite core lk => Sys2Proof.Machine.execReusingChunkWrite core lk s
  | .lateLanding core => Sys2Proof.Machine.execLateLanding core s
  | .watchReport core => Sys2Proof.Machine.execWatchReport core s
  | .thermalTrip die => Sys2Proof.Machine.execThermalTrip die s
  | .registerWrite where_ off val => Sys2Proof.Machine.execRegisterWrite where_ off val s
  | .bankRetentionEntry core bank => Sys2Proof.Machine.execBankRetentionEntry core bank s
  | .retentionConversionDone core bank => Sys2Proof.Machine.execRetentionConversionDone core bank s
  | .timeExchange t1 t2 t3 t4 => Sys2Proof.Machine.execTimeExchange t1 t2 t3 t4 s
  | .programStart lk => Sys2Proof.Machine.execProgramStart lk s
  | .send lk entry => Sys2Proof.Machine.execSend lk entry s
  | .fwd lk entry => Sys2Proof.Machine.execFwd lk entry s
  | .recv lk entry => Sys2Proof.Machine.execRecv lk entry s
  | .linkFault lk entry => Sys2Proof.Machine.execLinkFault lk entry s
  | .elasticBufferFault port => Sys2Proof.Machine.execElasticBufferFault port s
  | .faultNotice port notice => Sys2Proof.Machine.execFaultNotice port notice s
  | .containment lk => Sys2Proof.Machine.execContainment lk s
  | .containmentResume lk => Sys2Proof.Machine.execContainmentResume lk s
  | .guardInterval port => Sys2Proof.Machine.execGuardInterval port s
  | .dbgForwardTimeout vf => Sys2Proof.Machine.execDbgForwardTimeout vf s
  | .mgmtClaim agent => Sys2Proof.Machine.execMgmtClaim agent s
  | .partmapWrite agent val => Sys2Proof.Machine.execPartmapWrite agent val s
  | .flitArrival port slot hdr payload mark => Sys2Proof.Machine.execFlitArrival port slot hdr payload mark s
  | .openPacketArrival port hdr body => Sys2Proof.Machine.execOpenPacketArrival port hdr body s
  | .retrainingDone port near far flight => Sys2Proof.Machine.execRetrainingDone port near far flight s
  | .tdispRequest vf req => Sys2Proof.Machine.execTdispRequest vf req s
  | .lqprio vf val => Sys2Proof.Machine.execLqprio vf val s
  | .mgmtRelease agent => Sys2Proof.Machine.execMgmtRelease agent s
  | .mgmtHandOver agent target => Sys2Proof.Machine.execMgmtHandOver agent target s
  | .hwbaseWrite vf val => Sys2Proof.Machine.execHwbaseWrite vf val s
  | .wcinv vf val => Sys2Proof.Machine.execWcinv vf val s
  | .bsinv vf val => Sys2Proof.Machine.execBsinv vf val s
  | .racepolWrite vf val => Sys2Proof.Machine.execRacepolWrite vf val s
  | .podcfgWrite agent val => Sys2Proof.Machine.execPodcfgWrite agent val s
  | .linkcmdRetrain agent val => Sys2Proof.Machine.execLinkcmdRetrain agent val s
  | .trapcmdResume vf val => Sys2Proof.Machine.execTrapcmdResume vf val s
  | .trapcmdAbort vf val => Sys2Proof.Machine.execTrapcmdAbort vf val s
  | .swapOut agent part => Sys2Proof.Machine.execSwapOut agent part s
  | .swapIn agent part => Sys2Proof.Machine.execSwapIn agent part s
  | .dbgHalt vf cmd => Sys2Proof.Machine.execDbgHalt vf cmd s
  | .dbgResume vf cmd => Sys2Proof.Machine.execDbgResume vf cmd s
  | .dbgReadReg vf cmd => Sys2Proof.Machine.execDbgReadReg vf cmd s
  | .dbgWriteReg vf cmd => Sys2Proof.Machine.execDbgWriteReg vf cmd s
  | .dbgReadMem vf cmd => Sys2Proof.Machine.execDbgReadMem vf cmd s
  | .dbgWriteMem vf cmd => Sys2Proof.Machine.execDbgWriteMem vf cmd s
  | .dbgReadDebugReg vf cmd => Sys2Proof.Machine.execDbgReadDebugReg vf cmd s
  | .dbgWriteDebugReg vf cmd => Sys2Proof.Machine.execDbgWriteDebugReg vf cmd s
  | .dbgHaltLaunch vf cmd => Sys2Proof.Machine.execDbgHaltLaunch vf cmd s
  | .dbgResumeLaunch vf cmd => Sys2Proof.Machine.execDbgResumeLaunch vf cmd s
  | .dbgpolCommit vf => Sys2Proof.Machine.execDbgpolCommit vf s
  | .stopall agent val => Sys2Proof.Machine.execStopall agent val s
  | .profctlClr vf cmd => Sys2Proof.Machine.execProfctlClr vf cmd s
  | .pwrbudWrite agent val => Sys2Proof.Machine.execPwrbudWrite agent val s
  | .thermstClear agent val => Sys2Proof.Machine.execThermstClear agent val s
  | .getVersion fn => Sys2Proof.Machine.execGetVersion fn s
  | .getCapabilities fn => Sys2Proof.Machine.execGetCapabilities fn s
  | .negotiateAlgorithms fn => Sys2Proof.Machine.execNegotiateAlgorithms fn s
  | .getDigests fn => Sys2Proof.Machine.execGetDigests fn s
  | .getCertificate fn off len => Sys2Proof.Machine.execGetCertificate fn off len s
  | .challenge fn nonce => Sys2Proof.Machine.execChallenge fn nonce s
  | .getMeasurements fn index => Sys2Proof.Machine.execGetMeasurements fn index s
  | .keyExchange fn share => Sys2Proof.Machine.execKeyExchange fn share s
  | .finish fn mac => Sys2Proof.Machine.execFinish fn mac s
  | .endSession fn => Sys2Proof.Machine.execEndSession fn s
  | .keyset fn slot key => Sys2Proof.Machine.execKeyset fn slot key s
  | .unsupportedRequest fn code => Sys2Proof.Machine.execUnsupportedRequest fn code s
  | .tlpOutsideStream vf => Sys2Proof.Machine.execTlpOutsideStream vf s
  | .ideKmRequest fn key => Sys2Proof.Machine.execIdeKmRequest fn key s
  | .tenantPublicKeyDelivery vf key => Sys2Proof.Machine.execTenantPublicKeyDelivery vf key s
  | .softError loc hard => Sys2Proof.Machine.execSoftError loc hard s
  | .packageReset => Sys2Proof.Machine.execPackageReset s
  | .checkpoint => Sys2Proof.Machine.execCheckpoint s
  | .yieldPoint => Sys2Proof.Machine.execYieldPoint s
  | .loopEndCount => Sys2Proof.Machine.execLoopEndCount s
  | .decodeTrap => Sys2Proof.Machine.execDecodeTrap s
  | .selectionPass => Sys2Proof.Machine.execSelectionPass s
  | .lockLoss => Sys2Proof.Machine.execLockLoss s
  | .tmaxUpdate => Sys2Proof.Machine.execTmaxUpdate s

end Sys2Proof.Machine
end

