-- ==== Sys2Proof/Machine/Sched.lean ====
section
/-!
DEFINITION. The sequencing of a tick (R5, R76, R167, R243; log entry 5): inputs, the package, the haul ring, then core by core the start of its cycle, its due rows, its ports, its issue and its traps, and the end of the tick. Each step runs one row of the table or makes one silent move.
-/

namespace Sys2Proof.Machine

/-- What a step does next: a row executes in a state, or the machine moves on silently. -/
inductive Move where
  | row (i : Instr) (s : State)
  | silent (s : State)

/-- A row where one is due, else a silent move. -/
def Move.of (i : Option Instr) (s next : State) : Move :=
  match i with
  | some i => .row i s
  | none => .silent next

/-! ### Inputs -/

/-- The rows that reach the machine from outside: register writes, messages, flits and packets, bit errors, package reset. -/
def isInput : Instr → Bool
  | .startVector .. | .lqprio .. | .mgmtClaim .. | .mgmtRelease .. | .mgmtHandOver .. | .partmapWrite .. | .hwbaseWrite .. | .wcinv ..
  | .bsinv .. | .racepolWrite .. | .podcfgWrite .. | .linkcmdRetrain .. | .registerWrite .. | .trapcmdResume .. | .trapcmdAbort ..
  | .swapOut .. | .swapIn .. | .dbgHalt .. | .dbgResume .. | .dbgReadReg .. | .dbgWriteReg .. | .dbgReadMem .. | .dbgWriteMem ..
  | .dbgReadDebugReg .. | .dbgWriteDebugReg .. | .dbgHaltLaunch .. | .dbgResumeLaunch .. | .dbgpolCommit .. | .stopall ..
  | .profctlClr .. | .pwrbudWrite .. | .thermstClear .. | .getVersion .. | .getCapabilities .. | .negotiateAlgorithms .. | .getDigests ..
  | .getCertificate .. | .challenge .. | .getMeasurements .. | .keyExchange .. | .finish .. | .endSession .. | .keyset ..
  | .unsupportedRequest .. | .tlpOutsideStream .. | .ideKmRequest .. | .tenantPublicKeyDelivery .. | .tdispRequest .. | .softError ..
  | .flitArrival .. | .openPacketArrival .. | .retrainingDone .. | .packageReset => true
  | _ => false

/-- The words that lie whole in n bytes from an address carry no stamp (R258, R261). -/
def State.clearStamps (s : State) (addr n : Nat) : State := s.setStamps ((addr + 3) / 4) ((addr + n) / 4 - (addr + 3) / 4) none

/-- The host writes its own memory, or HBM of the package (R261). -/
def State.hostPut (s : State) (host : Bool) (addr : Nat) (data : List Byte) : State :=
  if host then
    { s with hostMem := s.hostMem.write addr data.length (packNat 8 (data.map BitVec.toNat)) }.clearStamps (2 ^ 40 + addr) data.length
  else
    (((List.range data.length).zip data).foldl (fun s b =>
      match regionOf (addr + b.1) with
      | .hbm _ => s.putHbm (addr + b.1) 1 b.2.toNat 0
      | _ => s) s).clearStamps addr data.length

/-- The answer to a timed access at another package comes back; that of squashed work changes nothing (R209, R235, R236, R248, R250). -/
def State.takeAnswer (s : State) (c : CoreId) (a : Access) (data : List (BitVec 512 × BitVec 8)) (fail : Option (Nat × Nat)) : State :=
  match a.act.origin with
  | none => s
  | some o =>
    let member := match a.act with | .remWr _ m => m | _ => none
    let back (cause addr : Nat) : State :=
      s.modCore c fun k => { k with reports := k.reports ++ [⟨s.now, o.trap cause (BitVec.ofNat 64 addr), member, o⟩] }
    if (s.core c).isSquashed o || (s.launch o.lk).isNone then s
    else match fail with
    | some (cause, addr) => back cause addr
    | none => if member.isSome then back 0 0 else s.replyHome c o a data

/-- The loader has something to land of an image (R14, R28). -/
def LoadedImage.landing (i : LoadedImage) : Bool := i.checked && i.refused.isNone && decide (i.arrived < i.img.chunks.length)

/-- The state of a link changes; one that is held down stays so until the owner writes LINKCMD (R309). -/
def State.setLink (s : State) (p : Fin 12) (st : Nat) : State :=
  if s.ports[p].st = 3 then s else { s with ports := s.ports.set p { s.ports[p] with st := BitVec.ofNat 2 st } }

/-- An input takes place. -/
def State.takeInput (s : State) : Input → Move
  | .ev i => if isInput i then .row i s else .silent s
  | .hostWrite host addr data => .silent (s.hostPut host addr data)
  | .image h part img => .silent (s.takeImage h part img)
  | .chunk h => if (s.loaded h).any LoadedImage.landing then .row (.chunkLands h) s else .silent s
  | .sensor d n t => .silent (s.senseHeat d n t)
  | .remote w => .silent { s with wire := s.wire ++ [w] }
  | .answer c a data fail => .silent (s.takeAnswer c a data fail)
  | .elastic p n =>
    let s := { s with ports := s.ports.set p { s.ports[p] with elastic := n } }
    .silent (if n < 4 ∨ 28 < n then { s with todo := .elasticBufferFault p :: s.todo } else s)
  | .link p st => .silent (s.setLink p st)

/-- The rows that a tick brings to the package by its number: aging steps (R36), the update of TMAX (R364), barrier slots (R307). -/
def State.tickRows (s : State) : List Instr :=
  ((List.finRange 9).flatMap fun n => ((List.finRange 16).filter fun q => s.ages n q).map fun q => Instr.agingStep n q) ++
    (if s.now % 65536 = 0 then [.tmaxUpdate] else []) ++
    (s.launches.filter s.barSlotDue).map fun l => .podBarrierSlot l.key

/-- The package begins its part of the tick. -/
def State.enterPackage (s : State) : State :=
  let s := (s.fixYields.acknowledge).linkStep
  { s with phase := .package, todo := s.todo ++ s.tickRows }

/-- Rank among inputs of one tick: a claim by its agent (R31), a start vector by its queue (R34). -/
def Input.rank : Input → Option (Nat × Nat)
  | .ev (.mgmtClaim a) => some (0, a.num)
  | .ev (.startVector _ off _) => some (1, off)
  | _ => none

/-- Of inputs that take place on one tick and have a rank, the one that comes first (R31, R34). -/
def State.firstOf (s : State) (q : Nat × Input) : Nat × Input :=
  match q.2.rank with
  | none => q
  | some (k, _) =>
    s.inputs.foldl (fun b x => match x.2.rank, b.2.rank with
      | some (k', n), some (_, m) => if k' = k ∧ x.1 = q.1 ∧ n < m then x else b
      | _, _ => b) q

/-- Does an input act after a stop-all? What only a stopped link engine, haul station, core or engine could take is lost (R353, log entry 122). -/
def Input.outlives : Input → Bool
  | .ev (.flitArrival ..) | .ev (.openPacketArrival ..) | .ev (.retrainingDone ..) => false
  | .ev _ | .hostWrite .. | .image .. | .sensor .. => true
  | .chunk _ | .remote _ | .answer .. | .elastic .. | .link .. => false

/-- The input of the earliest tick, in the order of R31 and R34 within it. -/
def State.earliest (s : State) : Option (Nat × Input) :=
  match s.inputs with
  | [] => none
  | q :: rest => some (s.firstOf (rest.foldl (fun b x => if x.1 < b.1 then x else b) q))

/-- After a stop-all nothing moves but inputs, in the order of their ticks: registers still take writes, and debug commands read (R353). -/
def State.stoppedMove (s : State) : Move :=
  match s.earliest with
  | none => .silent s
  | some q =>
    let s := { s with inputs := s.inputs.erase q }
    if q.2.outlives then s.takeInput q.2 else .silent s

/-- Inputs: rows that wait, images to be checked, then what is due; a package that is stopped takes inputs alone (R353). -/
def State.inputsMove (s : State) : Move :=
  if s.pf.stopped then s.stoppedMove
  else match s.todo with
  | i :: rest => .row i { s with todo := rest }
  | [] =>
    match s.images.find? fun i => !i.checked with
    | some i => .row (.imagePrefixCheck i.handle) s
    | none =>
      match (s.inputs.find? fun q => decide (q.1 ≤ s.now)).map s.firstOf with
      | some q => State.takeInput { s with inputs := s.inputs.erase q } q.2
      | none => .silent s.enterPackage

/-! ### The package -/

/-- The first element of a list with a property, as a row. -/
def rowOf {α : Type} (l : List α) (p : α → Bool) (i : α → Instr) : Option Instr := (l.find? p).map i

/-- The first flow of a running program with a property, as a row. -/
def State.flowRow (s : State) (p : Run → Flow → Bool) (i : Nat → Nat → Instr) : Option Instr :=
  s.launches.findSome? fun l => l.pod.running.bind fun r => rowOf r.flows (p r) fun w => i l.key w.idx

/-- May a launch come back: from the parked storage, only when it stands there (R334, R337)? -/
def State.mayResume (s : State) (l : Launch) : Bool := s.resumeDue l && (!l.parked || s.isParked l.part)

/-- The steward's rows (R26 to R28, R36, R49, R312, R331 to R340). -/
def State.stewardRow (s : State) : Option Instr :=
  rowOf s.launches s.retires (fun l => .retirementPoint l.key)
  <|> (if s.selectDue then some .selectionPass else none)
  <|> rowOf s.launches s.startDue (fun l => .startCycle l.key)
  <|> rowOf s.launches (fun l => s.yielded l && l.ys.any fun t => decide (t ≤ s.now)) (fun l => .yieldSave l.key)
  <|> rowOf s.launches s.mayResume (fun l => .preemptResume l.key)
  <|> rowOf s.images LoadedImage.digestDue (fun i => .fullDigestDecided i.handle)
  <|> rowOf s.launches s.containDue (fun l => .containment l.key)
  <|> rowOf s.launches s.podResumeDue (fun l => .containmentResume l.key)

/-- The link engines' rows (R300, R304, R306, R307, R311, R345). -/
def State.linkRow (s : State) : Option Instr :=
  rowOf s.launches (fun l => s.programDue l && (s.nextRun l).isSome) (fun l => .programStart l.key)
  <|> s.flowRow s.missingFlit .linkFault
  <|> (s.launches.findSome? fun l => (s.barMissingAt l).map fun p => .linkFault l.key (65536 + p.val))
  <|> s.flowRow (fun r w => peKind w.entry == 0 && s.sendDue r w) .send
  <|> s.flowRow (fun r w => peKind w.entry == 1 && s.sendDue r w) .fwd
  <|> s.flowRow (fun _ w => (s.recvDue w).isSome) .recv
  <|> rowOf (List.finRange 12) s.guardDue .guardInterval
  <|> rowOf s.launches s.barOverDue (fun l => .podBarrierComplete l.key)
  <|> rowOf (List.finRange 9) s.dbgLate .dbgForwardTimeout

/-- The homes' rows: the first request, in order of leaving, that its home may perform (R257, R259). -/
def State.homeRow (s : State) : Option Instr :=
  rowOf ((List.range s.homeQ.length).zip s.homeQ) (fun q => s.homeMay q.2) fun q =>
    if q.2.kind = .gld then .homeServeRead q.1 else .homeApplyWrite q.1

/-- Replies reach their cores: one that fits its request waits there, another is dropped (R240, R247). -/
def State.replyMove (s : State) (next : Move) : Move :=
  match s.replies.find? fun r => decide (r.at_ ≤ s.now) with
  | none => next
  | some r =>
    if s.replyFits r then .silent (({ s with replies := s.replies.erase r }).takeReply r)
    else match coreOf r.core with
      | some c => .row (.spoil c) s
      | none => .silent { s with replies := s.replies.erase r }

/-- The package's part of a tick. -/
def State.packageMove (s : State) : Move :=
  match s.todo with
  | i :: rest => .row i { s with todo := rest }
  | [] =>
    match s.stewardRow <|> s.linkRow <|> s.homeRow with
    | some i => .row i s
    | none => s.replyMove (.silent { s with phase := .haul 0 })

/-! ### The haul ring -/

/-- The haul stations in order of cores: every board that finds no skip, then at most one passage of each station (R282, R285). -/
def State.haulMove (s : State) (n : Nat) : Move :=
  match (List.finRange 324).find? fun c => decide (n ≤ c.val) && (((s.core c).exhausted s.now).isSome || s.passageDue c) with
  | none => .silent { s with phase := .begin 0 }
  | some c =>
    if ((s.core c).exhausted s.now).isSome then .row (.boardExhausted c) { s with phase := .haul c.val }
    else .row (.haulPassage c) { s with phase := .haul (c.val + 1) }

/-! ### A core's clock period -/

/-- Does a core have anything to do in this tick? One without launches and work only counts its cycles. -/
def State.awake (s : State) (c : CoreId) : Bool :=
  let k := s.core c
  !k.lcs.isEmpty || k.frozen || k.dbg.halted || k.dbg.profEn || !k.dbg.req.isEmpty || !k.dbg.pend.isEmpty || !k.acc.isEmpty || !k.results.isEmpty ||
    !k.mforms.isEmpty || !k.cmds.isEmpty || !k.cmdWait.isEmpty || !k.mcasts.isEmpty || !k.walks.isEmpty || !k.haul.isEmpty ||
    !k.leaving.isEmpty || !k.traps.isEmpty || !k.reports.isEmpty || k.held.isSome || k.mid || k.woke || k.refetch.isSome || k.vacated ||
    (k.land.toList.any fun e => e.req.isSome) || (s.wire.any fun w => w.target == c && decide (w.acc.due ≤ s.now)) ||
    (decide (2 ^ 20 ≤ k.cyc) && (List.finRange 48).any fun b => k.retentionDue b || k.conversionDue b)

/-- The traps that contexts of a core take now (R319). -/
def Core.trapRow (k : Core) (c : CoreId) : Option Instr :=
  if k.dbg.halted then none else rowOf (List.finRange 4) (fun i => (k.trapOf i).isSome) (.rollback c)

/-- A row, if it is due. -/
def rowIf (b : Bool) (i : Instr) : Option Instr := if b then some i else none

/-- Requests of the landing buffer that time out (R247). -/
def Core.timeoutRow (k : Core) (c : CoreId) : Option Instr :=
  rowOf ((List.finRange 64).filter fun e => k.land[e].req.isSome) (fun e => (k.timedOut e).isSome) (.landingTimeout c)

/-- What comes before a core's clock period: watch reports, which may halt it (R348, R351); timeouts, which end a freeze (R247); on a resume, what became a trap in the halt and the traps that waited (R346, R347). -/
def State.firstRow (s : State) (c : CoreId) : Option Instr :=
  let k := s.core c
  rowIf (k.watchDue s.now) (.watchReport c)
  <|> k.timeoutRow c
  <|> if k.woke && !k.dbg.halted then rowIf (k.reportDue s.now).isSome (.remoteFailureReport c) <|> k.trapRow c else none

/-- The start of a core's clock period; the traps that a halt has held are taken first (R346, R347). -/
def State.beginMove (s : State) (n : Nat) : Move :=
  match (List.finRange 324).find? fun c => decide (n ≤ c.val) && s.awake c with
  | none => .silent { s with phase := .tickEnd }
  | some c =>
    let s := s.purgeTraps c
    let s := if (s.core c).woke && !(s.core c).dbg.halted then s.modCore c fun k => k.failTraps s.now else s
    Move.of (s.firstRow c) { s with phase := .begin c.val } { s.beginPeriod c with phase := .rows c.val }

/-- The landing buffer's rows of a core (R239 to R242). -/
def Core.landRow (k : Core) (c : CoreId) : Option Instr :=
  let es := (List.finRange 64).filter fun e => k.land[e].req.isSome
  rowOf es (fun e => (k.landing e .gld).isSome) (.gldLanding c)
  <|> rowOf es (fun e => (k.landing e .gst).isSome) (.gstAck c)
  <|> rowOf es (fun e => (k.landing e .gatom).isSome) (.gatomValue c)

/-- The retention rows of a core's banks (R330). -/
def Core.retentionRow (k : Core) (c : CoreId) : Option Instr :=
  if 2 ^ 20 ≤ k.cyc then
    rowOf (List.finRange 48) k.conversionDue (.retentionConversionDone c) <|> rowOf (List.finRange 48) k.retentionDue (.bankRetentionEntry c)
  else none

/-- The rows due on a core in every clock period, frozen ones among them (R88, R236). -/
def State.alwaysRow (s : State) (c : CoreId) : Option Instr :=
  rowIf (s.wire.any fun w => w.target == c && decide (w.acc.due ≤ s.now)) (.timedRemoteArrival c)
  <|> rowIf (s.lateDue c) (.lateLanding c)

/-- The rows of an unfrozen cycle that come before its results land: those among them that bring a result of their own (R76). -/
def State.valueRow (s : State) (c : CoreId) : Option Instr :=
  let k := s.core c
  (k.releaseDue.map fun i => .withholdRelease c i)
  <|> rowIf (k.cmds.any fun m => decide (m.next < m.pieces) && decide (m.slot + m.next ≤ k.cyc)) (.enginePiece c)
  <|> rowIf (k.cmdWait.any (fun m => decide (m.slot ≤ k.cyc)) && !k.queueFull) (.cpRedInplaceEnqueue c)
  <|> k.landRow c
  <|> rowIf (k.mcasts.any fun m => decide (m.due ≤ k.cyc) && m.settled) (.mcastOutcome c)

/-- The rows due on a core on an unfrozen cycle after its results have landed. -/
def State.cycleRow (s : State) (c : CoreId) : Option Instr :=
  let k := s.core c
  s.alwaysRow c
  <|> rowIf (k.reportDue s.now).isSome (.remoteFailureReport c)
  <|> rowIf k.fbCheck.isSome (.fallbackCheck c)
  <|> rowIf k.rowDue.isSome (.matrixRowLand c)
  <|> rowIf (s.walkDue c).isSome (.walkEnd c)
  <|> rowOf (List.finRange 4) (s.rolledBack c) (.rollbackComplete c)
  <|> k.retentionRow c

/-- Has a core results that are due? -/
def Core.owesResults (k : Core) (now : Nat) : Bool := k.results.any fun r => r.isDue k.cyc now

/-- The rows due on a core, one after another, its results in between in the order of R76; then its ports. -/
def State.rowsMove (s : State) (c : CoreId) : Move :=
  if (s.core c).frozen || (s.core c).mid then Move.of (s.alwaysRow c) s { s with phase := .ports c.val }
  else match s.valueRow c with
    | some i => .row i s
    | none =>
      if (s.core c).owesResults s.now then .silent (s.modCore c fun k => k.landResults s.now)
      else Move.of (s.cycleRow c) s { s with phase := .ports c.val }

/-- The ports of a core: accesses perform, and the fetch engine writes its next word, a reusing chunk's as a row of its own (R15, R87, R167 to R171). -/
def State.portsMove (s : State) (c : CoreId) : Move :=
  let k := s.core c
  let busy := ((k.acc.filter fun a => a.isDue k s.now).flatMap Access.claims).map Prod.fst
  let s := s.fetchInitials c
  let word := if k.mid then none else (s.fetchNext c busy).filter fun w => w.2.2.1.kind != 6 || k.rewrote != some s.now
  let s := { s.performAll c with phase := .issue c.val }
  match word with
  | none => .silent s
  | some (l, _, _, true) => .row (.reusingChunkWrite c l.lk) s
  | some (l, no, k, false) => .silent (s.fetchWrite c l no k)

/-- A core issues: the rest of a held bundle, a new one, or none (R81, R92). -/
def State.issueMove (s : State) (c : CoreId) : Move :=
  if (s.core c).frozen then .silent { s with phase := .finish c.val }
  else
    let s := s.openIssue c
    .silent { s with phase := if s.focus.isSome then .part c.val else .finish c.val }

/-- The bundle in issue: its checks, its header, its parts in order, its end (R92, R347). -/
def State.partMove (s : State) (c : CoreId) : Move :=
  match s.focus with
  | none => .silent { s with phase := .finish c.val }
  | some f =>
    if f.hdr = 0 ∧ f.done = 0 ∧ !(s.bundleTraps f).isEmpty then .row .decodeTrap s
    else match s.bundleStep f with
      | some (i, g) => .row i { s.noteRegs f i with focus := some g }
      | none => .silent { s.endBundle f with phase := .finish c.val }

/-- The end of a core's clock period: contexts take their traps, and an unfrozen cycle closes (R319, R346). -/
def State.finishMove (s : State) (c : CoreId) : Move :=
  let s := s.purgeTraps c
  Move.of ((s.core c).trapRow c) s
    { (if (s.core c).frozen then s else s.closeCycle c) with phase := .begin (c.val + 1) }

/-! ### The end of a tick -/

/-- Time moves on: every core's cycle counters, a stop-all that acts now (R353), a thermal trip that this tick's readings call for (R364). -/
def State.endTick (s : State) : State :=
  let started (lk : Nat) : Bool := (s.launch lk).any fun l => l.st == .bound && decide (l.start ≤ s.now)
  { s with
    now := s.now + 1
    phase := .inputs
    freeCtr := s.freeCtr + 1
    cores := s.cores.map fun k => k.endPeriod started
    pf := { s.pf with stopped := s.pf.stopped || s.pf.stopAt.any fun t => decide (t ≤ s.now + 1) }
    todo := s.todo ++ ((List.finRange 9).filter s.tripDue).map .thermalTrip }

/-- The end of a tick: launches abort, then time moves on (R325). -/
def State.tickEndMove (s : State) : Move := Move.of (rowOf s.launches (fun l => s.abortDue l.key) fun l => .abort l.key) s s.endTick

/-! ### The move -/

/-- A move of a core's phase; a core number that names none ends the tick. -/
def onCore (s : State) (n : Nat) (f : CoreId → Move) : Move :=
  match coreOf n with
  | some c => f c
  | none => .silent { s with phase := .tickEnd }

/-- What comes next. -/
def State.sched (s : State) : Move :=
  match s.phase with
  | .inputs => s.inputsMove
  | .package => s.packageMove
  | .haul n => s.haulMove n
  | .begin n => s.beginMove n
  | .rows n => onCore s n s.rowsMove
  | .ports n => onCore s n s.portsMove
  | .issue n => onCore s n s.issueMove
  | .part n => onCore s n s.partMove
  | .finish n => onCore s n s.finishMove
  | .tickEnd => s.tickEndMove

/-! ### Placing an instruction (log entry 6) -/

/-- The bundle that holds a 32-bit word, and the part it stands in: a scalar form in slot S, another word in slot Y of a bundle with CK and WT, so that forms that ask for them may stand there; the other slots hold nothing (R66, R67, R93). -/
def placeWord (w : BitVec 32) : BundleWord × Nat :=
  match decodeS w with
  | some _ => (((w.zeroExtend 512) <<< 16) ||| ((1 : BundleWord) <<< 5), 1)
  | none => (((w.zeroExtend 512) <<< 320) ||| ((0x13 : BundleWord) <<< 16) ||| ((0x9020 : BundleWord)), 8)

/-- The resource record of the launch that a placed instruction runs in: four contexts and all of core 0. -/
def placeRec : ResRec := ⟨0, 4, 32, 24, 0, BitVec.allOnes 48, 0, 0⟩

/-- The launch that a placed instruction runs in. -/
def State.placeLaunch (s : State) : Launch :=
  { s.newLaunch 1 0 0 with st := .bound, recs := [placeRec], bound := s.now, start := s.now }

/-- Core 0 with that launch bound and context 0 running. -/
def State.placeCore (s : State) (k : Core) : Core :=
  let l := s.placeLaunch
  { k.modCtx 0 fun x => { x with st := .running, lk := some l.key, wait := .none, ck := x.copy k.cyc s.now x.pc [] } with
    lcs := k.mapAll { k.bindRecord s.freeCtr 64 l placeRec none with started := true } (fun _ => true) :: k.lcs
    port := 0, frozen := false }

/-- The focus of a placed instruction: every other part of its bundle is done. -/
def State.placeFocus (s : State) (w : BitVec 32) : Focus :=
  let p := placeWord w
  { core := 0, ctx := 0, idx := (s.ctx 0 0).pc, word := p.1, loops := (s.ctx 0 0).loops, jump := none, lr := none, part := 0,
    done := BitVec.allOnes 9 ^^^ (1 <<< p.2), exempt := 0, yield := false, blocked := false, hdr := 3, seed := s.freeCtr }

end Sys2Proof.Machine
end

