-- ==== Sys2Proof/Machine/Step.lean ====
section
/-!
DEFINITION. The step: one row of the table, or one silent move of the sequencing (log entry 5); and an instruction placed for the next step.
-/

namespace Sys2Proof.Machine

/-- One step. -/
def step (s : State) : Host.Outcome State Fault Refusal :=
  match s.sched with
  | .row i t => exec i t
  | .silent t => .next t

/-- The state with an instruction of a 32-bit table row in the bundle in issue on core 0, context 0, so that the next step runs it (log entry 6). -/
def State.withFetchWord (s : State) (_nbits w : Nat) : State :=
  { s.modCore 0 s.placeCore with
    phase := .part 0
    focus := some (s.placeFocus (BitVec.ofNat 32 w))
    launches := s.launches ++ [s.placeLaunch]
    nextKey := s.nextKey + 1 }

end Sys2Proof.Machine
end

