-- ==== Sys2Proof/Safety.lean ====
section
/-!
DEFINITION. What the statements about the machine are said in: a slot form that its bundle admits, an access no watchpoint may stop, memories in canonical form, and what a program sees of a context.
-/

namespace Sys2Proof.Machine

/-- The bundle in issue is f, and form i passes the checks made before a slot performs: its fields are legal (R93), its literals exist (R68), its vector registers stand below VREGS (R19), and no register word it reads holds an uncorrectable error (R328). -/
def State.admits (s : State) (f : Focus) (i : Instr) : Prop :=
  s.focus = some f ∧ i.wf = true ∧ (∀ q ∈ sourcesOf i, litBad f q = false) ∧
    (∀ n ∈ vregsOf i, n.toNat < (((s.core f.core).lcOf f.ctx).map LaunchCore.vregs).getD 32) ∧
    ∀ q ∈ sourcesOf i, regBad (s.core f.core) f.ctx q = false

/-- The debug policy of the partition of the bundle in issue leaves watchpoints closed (R342, R349). -/
def State.unwatched (s : State) (f : Focus) : Prop := s.isOpen (s.partOf (s.focusLk f)) 2 = false

/-- The bytes that a form touches pass the checks of R170: in the scratchpad, aligned, in banks the launch owns. -/
def State.reachesPad (s : State) (f : Focus) (ea align : Nat) (touched : List Nat) : Prop :=
  accessBad ((s.core f.core).lcOf f.ctx) ea align touched = none

/-- The withhold buffer of the context has room (R174). -/
def State.hasRoom (s : State) (f : Focus) : Prop := (s.ctx f.core f.ctx).wh.length < 128

/-- Both memories stand in their canonical form. -/
def State.canonical (s : State) : Prop := s.mem.wf ∧ s.hostMem.wf

/-- Two states hold the same bytes, tags and poison marks in every memory (R54, R172, R329). -/
def State.sameMemory (s t : State) : Prop :=
  (∀ a, t.mem.byte a = s.mem.byte a) ∧ (∀ a, t.hostMem.byte a = s.hostMem.byte a) ∧ t.tags = s.tags ∧ t.poison = s.poison

/-- Two contexts agree in every register that a program names: x, v, m and th registers, rank tables, FPFLAGS, LFSRs, loop stack, barrier counts, memberships and DEBT (R69, R50). -/
def Ctx.sameRegs (k l : Ctx) : Prop :=
  l.x = k.x ∧ l.v = k.v ∧ l.m = k.m ∧ l.th = k.th ∧ l.rtab = k.rtab ∧ l.fpflags = k.fpflags ∧ l.lfsr = k.lfsr ∧ l.loops = k.loops ∧
    l.barcnt = k.barcnt ∧ l.member = k.member ∧ l.debt = k.debt

/-- Every context agrees with what it was. -/
def State.sameRegs (s t : State) : Prop := ∀ c k, (s.ctx c k).sameRegs (t.ctx c k)

end Sys2Proof.Machine
end

