-- ==== Sys2Proof/Certificates/Slice0/Obligations.lean ====
section
/-!
DEFINITION. The statements for the provers: what the rules of spec/ say the instructions, the events and the machine do.
-/

open Sys2Proof Sys2Proof.Machine

/-- addi x5, x6, -1; sd x7, 8(x2); div x1, x2, x3; a bne; vadd.i32 v3, v1, lit0; an mdr; vld v3, x1+512; vst.k x5, v1, x7 under m3; cp.k x5, x6, x7; loop of lit2 with a body of 1 bundle; bar.c.d4; fence.rel.pod: each word, written bit by bit from the slot layouts, decodes to its form with its operands; unused opcodes decode to no form, and the zero word of a native slot to its NOP. (R66, R93, R94, R95, R96, R97, R98, R108, R182, R227, R262, R270) -/
def Obligations.DecodedWords : Prop :=
  decodeS (0b111111111111_00110_000_00101_0010011) = some (.addi 5 6 (-1)) ∧
    decodeS (0b0000000_00111_00010_011_01000_0100011) = some (.sd 2 7 8) ∧
    decodeS (0b0000001_00011_00010_100_00001_0110011) = some (.div 1 2 3) ∧
    decodeS (0b1_000000_00001_00010_001_1100_0_1100011) = some (.bne 2 1 (0b100000001100 : BitVec 12)) ∧
    decodeSlot (.v0 0b00000001_0110_000001_110000_000000_00011_0_000_000_000000) = .form (.vadd ⟨false, .i32, .reg 1, .lit 0, .reg 0, 3, false, 0, 0, 0⟩) ∧
    decodeSlot (.m 0b00001101_0001_000001_000010_000000_01001_0010_000011111) = .form (.mdr ⟨.bf16, .reg 1, .reg 2, .reg 0, 9, 2, 31⟩) ∧
    decodeSlot (.ld 0b00001_000001_000000_00011_0_000_0_00_00000001000) = .form (.vld ⟨.reg 1, .reg 0, 3, false, 0, false, 0, 8⟩) ∧
    decodeSlot (.st 0b00001_000101_000001_000111_00000_011_1_0_0_000_000) = .form (.vst ⟨.reg 5, .reg 1, .reg 7, 0, 3, true, false, false, 0⟩) ∧
    decodeSlot (.c 0b00001_000101_000110_000000_00111_0_0000_1000_0_0000000000) = .form (.cp ⟨.reg 5, .reg 6, .reg 0, 7, false, .fp32, 8, false, 0⟩) ∧
    decodeSlot (.y 0b000001_110010_000000_00000_0_00000000) = .form (.loop (.lit 2) 0) ∧
    decodeSlot (.y 0b001010_000000_000000_00000_0_00000111) = .form (.bar true 3) ∧
    decodeSlot (.y 0b001100_000000_000000_00000_0_00001100) = .form (.fence 1 4) ∧
    decodeSlot (.y 0x3000000C) = .form (.fence 1 4) ∧ decodeSlot (.y 0x28000007) = .form (.bar true 3) ∧
    decodeS 0xFFFFFFFF = none ∧ decodeS 0 = none ∧ decodeSlot (.v0 0xFF0000000000) = .illegal ∧ decodeSlot (.v0 0) = .idle

/-- For every well-formed form of the nine slots, with every operand at every value the encoding admits, decoding its slot word gives the form back; and every well-formed form of a slot has such a word. (R93, R96, R97, R141, R179, R182, R202, R227) -/
def Obligations.SlotDecodeEncode : Prop :=
  (∀ (i : Instr) (w : SlotWord), i.wf = true → encode i = some w → decodeSlot w = .form i) ∧
    ∀ i : Instr, i.wf = true → partOf i ≠ 0 → (encode i).isSome = true

/-- In the issue part of a core with a bundle in issue whose checks pass or are past, when the next part of the bundle that holds a form is p and its slot word decodes to i, the step is exec of i at the state with that part noted as begun in the bundle in issue and the corrected reads of its register operands counted in CORR of the die. (R74, R79, R92, R328) -/
def Obligations.StepRunsTheDecodedForm : Prop :=
  ∀ (s : State) (f g : Focus) (i : Instr) (c : CoreId), s.phase = .part c.val → s.focus = some f →
    ¬(f.hdr = 0 ∧ f.done = 0 ∧ s.bundleTraps f ≠ []) → s.bundleStep f = some (i, g) →
    step s = exec i { s.noteRegs f i with focus := some g } ∧
    (f.hdr = 3 → decodeSlot (bundleSlot f.word g.part) = .form i ∧ f.done.getLsbD g.part = false ∧
      (∀ p, 1 ≤ p → p < g.part → f.done.getLsbD p = true ∨ ∀ j, decodeSlot (bundleSlot f.word p) ≠ .form j) ∧ g = { f with part := g.part, exempt := (if g.part = f.part then f.exempt else 0), done := g.done })

/-- When a bundle comes to its checks and slot p of it decodes to no form, the step raises trap 0x01, the bundle leaves issue and nothing else of it performs. The part it names is p where the header, the literals and every lower part pass their checks, 0 where the header or the literals fail, and in every case the first part that fails. (R79, R92, R93) -/
def Obligations.UndecodableSlotTraps : Prop :=
  ∀ (s : State) (f : Focus) (c : CoreId) (p : Nat), s.phase = .part c.val → s.focus = some f → f.hdr = 0 → f.done = 0 → 1 ≤ p → p ≤ 8 →
    decodeSlot (bundleSlot f.word p) = .illegal →
    (headerBad f.word = false → literalsBad f.word = false → s.contextBad f = false → (∀ q, 1 ≤ q → q < p → s.slotBad f q = false) →
      step s = .next { s.raise f p 0x01 0 with focus := none }) ∧
    ((headerBad f.word = true ∨ literalsBad f.word = true ∨ s.contextBad f = true) → step s = .next { s.raise f 0 0x01 0 with focus := none }) ∧
    ∃ q ≤ p, s.bundleBad f = some q ∧ step s = .next { s.raise f q 0x01 0 with focus := none }

/-- After package reset OWNER, PENDING and MGMTDENY are 0, every die is in no partition, PODCFG.PARENT is 15, PWRBUD is 3,000, LOCK and TRIP are clear, the freeze counters are 0, no launch stands, every context is free, the first eight skips are system skips and the others are free. (R7, R30, R245, R281, R298, R363) -/
def Obligations.ResetValues : Prop :=
  let s := State.reset;
    s.pf.owner = 0 ∧ s.pf.pending = 0 ∧ s.pf.deny = 0 ∧ s.pf.partmap = Vector.replicate 9 0 ∧ s.pf.parent = 15 ∧ s.pf.budget = 3000 ∧
    s.pf.lock = false ∧ s.pf.trip = false ∧ s.launches = [] ∧ s.images = [] ∧
    (∀ c k, (s.ctx c k).st = .free ∧ (s.ctx c k).debt = 0 ∧ (s.ctx c k).fpflags = 0) ∧
    (∀ c, (s.core c).frzcnt = 0 ∧ (s.core c).paidcnt = 0 ∧ (s.core c).spoil = 0) ∧
    ∀ n : Fin 360, s.skips[n].kind = if n.val < 8 then 2 else 0

/-- Both memories of the reset state list strictly rising addresses and no zero byte. (R53, R54) -/
def Obligations.ResetIsCanonical : Prop :=
  State.reset.canonical

/-- From every state whose memories list strictly rising addresses and no zero byte, every step that answers a next state answers one of which the same holds. (R53, R54, R167) -/
def Obligations.StepKeepsCanonical : Prop :=
  ∀ s t : State, s.canonical → step s = .next t → t.canonical

/-- Whatever the context holds, x0 reads zero and m0 all ones; a write to x0 or m0 changes nothing; a write to another x, v or m register is read back and leaves every other register as it was. (R69, R70) -/
def Obligations.HardwiredRegisters : Prop :=
  ∀ (k : Ctx) (n p : BitVec 5) (i j : BitVec 3) (x : Word) (v : VReg) (m : MaskReg),
    k.xr 0 = 0 ∧ k.mr 0 = BitVec.allOnes 128 ∧ k.setX 0 x = k ∧ k.setM 0 m = k ∧
    (n ≠ 0 → (k.setX n x).xr n = x) ∧ (p ≠ n → (k.setX n x).xr p = k.xr p) ∧ (k.setX n x).v = k.v ∧ (k.setX n x).m = k.m ∧
    (k.setV n v).vr n = v ∧ (p ≠ n → (k.setV n v).vr p = k.vr p) ∧ (k.setV n v).x = k.x ∧ (k.setV n v).m = k.m ∧
    (i ≠ 0 → (k.setM i m).mr i = m) ∧ (j ≠ i → (k.setM i m).mr j = k.mr j) ∧ (k.setM i m).x = k.x ∧ (k.setM i m).v = k.v

/-- When the only result due on a core is for an x register, that register of its context reads its low 64 bits and every other x register reads as before; for a v register, each lane of the write mask is the lane of the result and every other lane stays; for an m register it reads the low 128 bits; its flags are ORed into FPFLAGS, after a syswr of FPFLAGS that lands, and bits 5, 6 and above 8 of FPFLAGS take none; registers of the other contexts stay; a result not due changes no register. (R74, R76, R144, R129, R130) -/
def Obligations.ResultsLand : Prop :=
  ∀ (k : Core) (now : Nat) (r : Result), k.results = [r] →
    (r.isDue k.cyc now = false → k.landResults now = k) ∧
    (r.isDue k.cyc now = true → (k.landResults now).results = [] ∧
      (∀ c, c ≠ r.ctx → (k.landResults now).ctx c = k.ctx c) ∧
      (∀ n, r.dest = .x n → ∀ p, ((k.landResults now).ctx r.ctx).xr p = if p = n ∧ n ≠ 0 then r.val.extractLsb' 0 64 else (k.ctx r.ctx).xr p) ∧
      (∀ n, r.dest = .v n → (∀ l < 128, (((k.landResults now).ctx r.ctx).vr n).extractLsb' (32 * l) 32 =
          if r.wen.getLsbD l then r.val.extractLsb' (32 * l) 32 else ((k.ctx r.ctx).vr n).extractLsb' (32 * l) 32) ∧
        ∀ p, p ≠ n → ((k.landResults now).ctx r.ctx).vr p = (k.ctx r.ctx).vr p) ∧
      (∀ n, r.dest = .m n → n ≠ 0 → ((k.landResults now).ctx r.ctx).mr n = r.val.extractLsb' 0 128) ∧
      ((k.landResults now).ctx r.ctx).fpflags =
        (if r.dest = .fpflags then r.val.extractLsb' 0 9 &&& 0x19F else (k.ctx r.ctx).fpflags) ||| (r.fl &&& 0x19F))

/-- When two results for one register are due on one cycle, an x or m register reads the one of the later-issued bundle, and of one bundle the one of the higher part, in whichever order they were noted; each lane of a v register reads that one where it writes the lane, else the other where that one writes it, else what it held. (R76) -/
def Obligations.LaterResultKept : Prop :=
  ∀ (k : Core) (now : Nat) (n : BitVec 5) (i : BitVec 3) (p q : Result), k.results = [] → p.ctx = q.ctx →
    p.isDue k.cyc now = true → q.isDue k.cyc now = true → (p.issued < q.issued ∨ (p.issued = q.issued ∧ p.part < q.part)) →
    let both (g : Ctx → Prop) : Prop :=
      g ((((k.addResult p).addResult q).landResults now).ctx q.ctx) ∧ g ((((k.addResult q).addResult p).landResults now).ctx q.ctx)
    (n ≠ 0 → p.dest = .x n → q.dest = .x n → both fun x => x.xr n = q.val.extractLsb' 0 64) ∧
    (p.dest = .v n → q.dest = .v n → both fun x => ∀ l < 128, (x.vr n).extractLsb' (32 * l) 32 =
      if q.wen.getLsbD l then q.val.extractLsb' (32 * l) 32 else if p.wen.getLsbD l then p.val.extractLsb' (32 * l) 32
      else ((k.ctx q.ctx).vr n).extractLsb' (32 * l) 32) ∧
    (i ≠ 0 → p.dest = .m i → q.dest = .m i → both fun x => x.mr i = q.val.extractLsb' 0 128)

/-- When a result with a latch lands, the newer content of its unit is the result (lanes it does not write reading zero) and the older content is what the newer one was; every other unit keeps both; a result without a latch ages none. That a latch holds 4,096 bits, 128 lanes, is the model's reading (log entry 8). (R71, R72) -/
def Obligations.LatchesAge : Prop :=
  ∀ (k : Core) (r : Result) (u w : Fin 8),
    (r.latch = some u → ((k.landOne r).latches[u]).a0 = some (mergeLanes r.wen r.val 0, k.cyc) ∧ ((k.landOne r).latches[u]).a1 = (k.latches[u]).a0 ∧
      (w ≠ u → (k.landOne r).latches[w] = k.latches[w])) ∧
    (r.latch = none → (k.landOne r).latches = k.latches)

/-- A draw of a lane returns its 16-bit state r and steps that lane by the step of R125, the other 127 lanes staying; the step of a state that is not zero is not zero; the step puts s[0] xor s[2] xor s[3] xor s[5] above s shifted right by one; the seeds of a start or of any SRSEED are never zero. (R125) -/
def Obligations.LfsrStates : Prop :=
  (∀ (v : FpEnv) (l j : Nat), l < 128 → j < 128 → (v.draw .sr l).1 = (lfsrGet v.lfsr l).toNat ∧
      lfsrGet (v.draw .sr l).2.lfsr j = (if j = l then lfsrStep (lfsrGet v.lfsr l) else lfsrGet v.lfsr j)) ∧
    (∀ s : BitVec 16, s ≠ 0 → lfsrStep s ≠ 0) ∧
    (∀ s : BitVec 16, lfsrStep s = (s >>> 1) ||| ((BitVec.ofBool (s.getLsbD 0 ^^ s.getLsbD 2 ^^ s.getLsbD 3 ^^ s.getLsbD 5)).zeroExtend 16 <<< 15)) ∧
    ∀ (seed : BitVec 16) (l : Nat), l < 128 → lfsrGet (lfsrSeed seed) l ≠ 0

/-- add, sub, the register shifts, slt, sltu and the bitwise register forms, admitted by their bundle, answer the state in which the result of R99 is on its way to rd and latch bs at issue + 1 (none for x0). (R99, R100) -/
def Obligations.ScalarRegisterForms : Prop :=
  ∀ (s : State) (f : Focus) (rd a b : BitVec 5),
    (s.admits f (.add rd a b) → exec (.add rd a b) s = .next (s.resultS f 1 rd (s.xs f a + s.xs f b))) ∧
    (s.admits f (.sub rd a b) → exec (.sub rd a b) s = .next (s.resultS f 1 rd (s.xs f a - s.xs f b))) ∧
    (s.admits f (.sll rd a b) → exec (.sll rd a b) s = .next (s.resultS f 1 rd (s.xs f a <<< ((s.xs f b).toNat % 64)))) ∧
    (s.admits f (.slt rd a b) → exec (.slt rd a b) s = .next (s.resultS f 1 rd (if (s.xs f a).toInt < (s.xs f b).toInt then 1 else 0))) ∧
    (s.admits f (.sltu rd a b) → exec (.sltu rd a b) s = .next (s.resultS f 1 rd (if (s.xs f a).toNat < (s.xs f b).toNat then 1 else 0))) ∧
    (s.admits f (.xorR rd a b) → exec (.xorR rd a b) s = .next (s.resultS f 1 rd (s.xs f a ^^^ s.xs f b))) ∧
    (s.admits f (.srl rd a b) → exec (.srl rd a b) s = .next (s.resultS f 1 rd (s.xs f a >>> ((s.xs f b).toNat % 64)))) ∧
    (s.admits f (.sra rd a b) → exec (.sra rd a b) s = .next (s.resultS f 1 rd ((s.xs f a).sshiftRight ((s.xs f b).toNat % 64)))) ∧
    (s.admits f (.orR rd a b) → exec (.orR rd a b) s = .next (s.resultS f 1 rd (s.xs f a ||| s.xs f b))) ∧
    (s.admits f (.andR rd a b) → exec (.andR rd a b) s = .next (s.resultS f 1 rd (s.xs f a &&& s.xs f b)))

/-- addi, slti, sltiu, xori, ori, andi, addiw, slli, srli, srai, slliw, srliw, sraiw, lui and auipc answer the state in which the result of R99 is on its way to rd and bs at issue + 1. (R98, R99, R100) -/
def Obligations.ScalarImmediateForms : Prop :=
  ∀ (s : State) (f : Focus) (rd a : BitVec 5) (i : BitVec 12) (n : BitVec 6) (m : BitVec 5) (u : BitVec 20),
    (s.admits f (.addi rd a i) → exec (.addi rd a i) s = .next (s.resultS f 1 rd (s.xs f a + i.signExtend 64))) ∧
    (s.admits f (.slti rd a i) → exec (.slti rd a i) s = .next (s.resultS f 1 rd (if (s.xs f a).toInt < i.toInt then 1 else 0))) ∧
    (s.admits f (.sltiu rd a i) → exec (.sltiu rd a i) s = .next (s.resultS f 1 rd (if (s.xs f a).toNat < (i.signExtend 64).toNat then 1 else 0))) ∧
    (s.admits f (.xori rd a i) → exec (.xori rd a i) s = .next (s.resultS f 1 rd (s.xs f a ^^^ i.signExtend 64))) ∧
    (s.admits f (.ori rd a i) → exec (.ori rd a i) s = .next (s.resultS f 1 rd (s.xs f a ||| i.signExtend 64))) ∧
    (s.admits f (.andi rd a i) → exec (.andi rd a i) s = .next (s.resultS f 1 rd (s.xs f a &&& i.signExtend 64))) ∧
    (s.admits f (.addiw rd a i) → exec (.addiw rd a i) s = .next (s.resultS f 1 rd (((s.xs f a + i.signExtend 64).extractLsb' 0 32).signExtend 64))) ∧
    (s.admits f (.slli rd a n) → exec (.slli rd a n) s = .next (s.resultS f 1 rd (s.xs f a <<< n.toNat))) ∧
    (s.admits f (.srli rd a n) → exec (.srli rd a n) s = .next (s.resultS f 1 rd (s.xs f a >>> n.toNat))) ∧
    (s.admits f (.srai rd a n) → exec (.srai rd a n) s = .next (s.resultS f 1 rd ((s.xs f a).sshiftRight n.toNat))) ∧
    (s.admits f (.slliw rd a m) → exec (.slliw rd a m) s = .next (s.resultS f 1 rd (((((s.xs f a).extractLsb' 0 32) <<< m.toNat).signExtend 64)))) ∧
    (s.admits f (.srliw rd a m) → exec (.srliw rd a m) s = .next (s.resultS f 1 rd (((((s.xs f a).extractLsb' 0 32) >>> m.toNat).signExtend 64)))) ∧
    (s.admits f (.sraiw rd a m) → exec (.sraiw rd a m) s = .next (s.resultS f 1 rd (((((s.xs f a).extractLsb' 0 32).sshiftRight m.toNat).signExtend 64)))) ∧
    (s.admits f (.lui rd u) → exec (.lui rd u) s = .next (s.resultS f 1 rd ((u ++ (0 : BitVec 12)).signExtend 64))) ∧
    (s.admits f (.auipc rd u) → exec (.auipc rd u) s = .next (s.resultS f 1 rd (BitVec.ofNat 64 (64 * f.idx.toNat) + (u ++ (0 : BitVec 12)).signExtend 64)))

/-- addw, subw, sllw, srlw, sraw and mulw work on the low words and sign-extend; mul, mulh, mulhsu and mulhu give the low or high 64 bits of the exact product; results are due at issue + 1, those of multiplies at issue + 3. (R99, R100) -/
def Obligations.ScalarWordForms : Prop :=
  ∀ (s : State) (f : Focus) (rd a b : BitVec 5),
    (s.admits f (.addw rd a b) → exec (.addw rd a b) s = .next (s.resultS f 1 rd ((((s.xs f a).extractLsb' 0 32) + ((s.xs f b).extractLsb' 0 32)).signExtend 64))) ∧
    (s.admits f (.subw rd a b) → exec (.subw rd a b) s = .next (s.resultS f 1 rd ((((s.xs f a).extractLsb' 0 32) - ((s.xs f b).extractLsb' 0 32)).signExtend 64))) ∧
    (s.admits f (.sllw rd a b) → exec (.sllw rd a b) s = .next (s.resultS f 1 rd ((((s.xs f a).extractLsb' 0 32) <<< ((s.xs f b).toNat % 32)).signExtend 64))) ∧
    (s.admits f (.srlw rd a b) → exec (.srlw rd a b) s = .next (s.resultS f 1 rd ((((s.xs f a).extractLsb' 0 32) >>> ((s.xs f b).toNat % 32)).signExtend 64))) ∧
    (s.admits f (.sraw rd a b) → exec (.sraw rd a b) s = .next (s.resultS f 1 rd ((((s.xs f a).extractLsb' 0 32).sshiftRight ((s.xs f b).toNat % 32)).signExtend 64))) ∧
    (s.admits f (.mulw rd a b) → exec (.mulw rd a b) s = .next (s.resultS f 3 rd ((((s.xs f a).extractLsb' 0 32) * ((s.xs f b).extractLsb' 0 32)).signExtend 64))) ∧
    (s.admits f (.mul rd a b) → exec (.mul rd a b) s = .next (s.resultS f 3 rd (BitVec.ofNat 64 ((s.xs f a).toNat * (s.xs f b).toNat)))) ∧
    (s.admits f (.mulh rd a b) → exec (.mulh rd a b) s = .next (s.resultS f 3 rd (BitVec.ofInt 64 ((s.xs f a).toInt * (s.xs f b).toInt / 2 ^ 64)))) ∧
    (s.admits f (.mulhsu rd a b) → exec (.mulhsu rd a b) s = .next (s.resultS f 3 rd (BitVec.ofInt 64 ((s.xs f a).toInt * ((s.xs f b).toNat : Int) / 2 ^ 64)))) ∧
    (s.admits f (.mulhu rd a b) → exec (.mulhu rd a b) s = .next (s.resultS f 3 rd (BitVec.ofNat 64 ((s.xs f a).toNat * (s.xs f b).toNat / 2 ^ 64))))

/-- div, divu, rem, remu and the W forms answer the state in which the result is due at issue + 20: all ones and the dividend for a zero divisor, the dividend and 0 for the most negative value over -1, the truncated quotient and the remainder with the sign of the dividend else; the W forms by the same rules at 32 bits, then sign-extended. (R101) -/
def Obligations.DivisionForms : Prop :=
  (∀ (w : Nat) (a b : BitVec w), 0 < w →
      (b = 0 → divS a b = BitVec.allOnes w ∧ divU a b = BitVec.allOnes w ∧ remS a b = a ∧ remU a b = a) ∧
      (a = BitVec.intMin w ∧ b = BitVec.allOnes w → divS a b = a ∧ remS a b = 0) ∧
      (b ≠ 0 → (divU a b).toNat = a.toNat / b.toNat ∧ (remU a b).toNat = a.toNat % b.toNat) ∧
      (b ≠ 0 ∧ ¬(a = BitVec.intMin w ∧ b = BitVec.allOnes w) →
        (divS a b).toInt = a.toInt.tdiv b.toInt ∧ (remS a b).toInt = a.toInt.tmod b.toInt)) ∧
  ∀ (s : State) (f : Focus) (rd a b : BitVec 5),
    (s.admits f (.div rd a b) → exec (.div rd a b) s = .next (s.resultS f 20 rd (divS (s.xs f a) (s.xs f b)))) ∧
    (s.admits f (.divu rd a b) → exec (.divu rd a b) s = .next (s.resultS f 20 rd (divU (s.xs f a) (s.xs f b)))) ∧
    (s.admits f (.rem rd a b) → exec (.rem rd a b) s = .next (s.resultS f 20 rd (remS (s.xs f a) (s.xs f b)))) ∧
    (s.admits f (.remu rd a b) → exec (.remu rd a b) s = .next (s.resultS f 20 rd (remU (s.xs f a) (s.xs f b)))) ∧
    (s.admits f (.divw rd a b) → exec (.divw rd a b) s = .next (s.resultS f 20 rd ((divS ((s.xs f a).extractLsb' 0 32) ((s.xs f b).extractLsb' 0 32)).signExtend 64))) ∧
    (s.admits f (.divuw rd a b) → exec (.divuw rd a b) s = .next (s.resultS f 20 rd ((divU ((s.xs f a).extractLsb' 0 32) ((s.xs f b).extractLsb' 0 32)).signExtend 64))) ∧
    (s.admits f (.remw rd a b) → exec (.remw rd a b) s = .next (s.resultS f 20 rd ((remS ((s.xs f a).extractLsb' 0 32) ((s.xs f b).extractLsb' 0 32)).signExtend 64))) ∧
    (s.admits f (.remuw rd a b) → exec (.remuw rd a b) s = .next (s.resultS f 20 rd ((remU ((s.xs f a).extractLsb' 0 32) ((s.xs f b).extractLsb' 0 32)).signExtend 64)))

/-- A branch whose condition holds, jal and jalr set the redirect to their target when it is a multiple of 64 up to 0x3_FFC0 and raise trap 0x02 with the target in ADDR otherwise; a branch not taken changes nothing; jal and jalr send ((index + 2) mod 4,096) x 64 to rd, with x[rs1] read before. (R99, R102, R103, R83) -/
def Obligations.BranchesAndJumps : Prop :=
  ∀ (s : State) (f : Focus) (rd a b : BitVec 5) (i : BitVec 12) (j : BitVec 20),
    let pcb : Word := BitVec.ofNat 64 (64 * f.idx.toNat)
    let link : Word := BitVec.ofNat 64 ((f.idx.toNat + 2) % 4096 * 64)
    let bt : Word := pcb + (i ++ (0 : BitVec 1)).signExtend 64
    let jt : Word := pcb + (j ++ (0 : BitVec 1)).signExtend 64
    let rt : Word := s.xs f a + i.signExtend 64
    let good (t : Word) : Prop := t.toNat % 64 = 0 ∧ t.toNat ≤ 0x3FFC0
    let go (u : State) (t : Word) : State := { u with focus := some { f with jump := some (BitVec.ofNat 12 (t.toNat / 64)) } }
    (s.admits f (.beq a b i) → (¬(s.xs f a = s.xs f b) → exec (.beq a b i) s = .next s) ∧ (s.xs f a = s.xs f b → good bt → exec (.beq a b i) s = .next (go s bt)) ∧
      (s.xs f a = s.xs f b → ¬good bt → exec (.beq a b i) s = .next (s.raise f 1 0x02 bt))) ∧
    (s.admits f (.bne a b i) → (¬(s.xs f a ≠ s.xs f b) → exec (.bne a b i) s = .next s) ∧ (s.xs f a ≠ s.xs f b → good bt → exec (.bne a b i) s = .next (go s bt)) ∧
      (s.xs f a ≠ s.xs f b → ¬good bt → exec (.bne a b i) s = .next (s.raise f 1 0x02 bt))) ∧
    (s.admits f (.blt a b i) → (¬((s.xs f a).toInt < (s.xs f b).toInt) → exec (.blt a b i) s = .next s) ∧ ((s.xs f a).toInt < (s.xs f b).toInt → good bt → exec (.blt a b i) s = .next (go s bt)) ∧
      ((s.xs f a).toInt < (s.xs f b).toInt → ¬good bt → exec (.blt a b i) s = .next (s.raise f 1 0x02 bt))) ∧
    (s.admits f (.bge a b i) → (¬((s.xs f b).toInt ≤ (s.xs f a).toInt) → exec (.bge a b i) s = .next s) ∧ ((s.xs f b).toInt ≤ (s.xs f a).toInt → good bt → exec (.bge a b i) s = .next (go s bt)) ∧
      ((s.xs f b).toInt ≤ (s.xs f a).toInt → ¬good bt → exec (.bge a b i) s = .next (s.raise f 1 0x02 bt))) ∧
    (s.admits f (.bltu a b i) → (¬((s.xs f a).toNat < (s.xs f b).toNat) → exec (.bltu a b i) s = .next s) ∧ ((s.xs f a).toNat < (s.xs f b).toNat → good bt → exec (.bltu a b i) s = .next (go s bt)) ∧
      ((s.xs f a).toNat < (s.xs f b).toNat → ¬good bt → exec (.bltu a b i) s = .next (s.raise f 1 0x02 bt))) ∧
    (s.admits f (.bgeu a b i) → (¬((s.xs f b).toNat ≤ (s.xs f a).toNat) → exec (.bgeu a b i) s = .next s) ∧ ((s.xs f b).toNat ≤ (s.xs f a).toNat → good bt → exec (.bgeu a b i) s = .next (go s bt)) ∧
      ((s.xs f b).toNat ≤ (s.xs f a).toNat → ¬good bt → exec (.bgeu a b i) s = .next (s.raise f 1 0x02 bt))) ∧
    (s.admits f (.jal rd j) → (good jt → exec (.jal rd j) s = .next (go (s.resultS f 1 rd link) jt)) ∧
      (¬good jt → exec (.jal rd j) s = .next ((s.resultS f 1 rd link).raise f 1 0x02 jt))) ∧
    (s.admits f (.jalr rd a i) → (good rt → exec (.jalr rd a i) s = .next (go (s.resultS f 1 rd link) rt)) ∧
      (¬good rt → exec (.jalr rd a i) s = .next ((s.resultS f 1 rd link).raise f 1 0x02 rt)))

/-- With watchpoints closed, a scalar load whose bytes pass R170 answers the state with one read access at issue + 1 of its width at x[rs1] + imm, for rd (x0: no register and no latch); one that fails R170 raises trap 0x03 with the failing address. With watchpoints closed, sb, sh, sw and sd whose bytes pass R170 take one withhold entry with the low bytes of x[rs2] at x[rs1] + imm while the buffer has room, raise trap 0x12 when it is full, and trap 0x03 with the failing address when R170 fails. (R104, R170, R167, R105, R174) -/
def Obligations.ScalarLoadsAndStores : Prop :=
  (∀ (s : State) (f : Focus) (rd a : BitVec 5) (i : BitVec 12), s.unwatched f →
    let rec_ (w : Nat) (signed : Bool) : LdRec :=
      { kind := .scal w signed, ea := (s.xs f a + i.signExtend 64).toNat, dest := if rd = 0 then .none else .x rd, wen := allLanes,
        tagWant := none, unit := if rd = 0 then none else some 0 }
    let answers (j : Instr) (w : Nat) (signed : Bool) : Prop := s.admits f j →
      (s.reachesPad f (rec_ w signed).ea w (rec_ w signed).touched →
        exec j s = .next (s.addAccess f.core (s.loadAccess f 1 .scalar (rec_ w signed)))) ∧
      ∀ bad, accessBad ((s.core f.core).lcOf f.ctx) (rec_ w signed).ea w (rec_ w signed).touched = some bad →
        exec j s = .next (s.raise f 1 0x03 (BitVec.ofNat 64 bad))
    answers (.lb rd a i) 1 true ∧ answers (.lh rd a i) 2 true ∧ answers (.lw rd a i) 4 true ∧ answers (.ldd rd a i) 8 true ∧ answers (.lbu rd a i) 1 false ∧ answers (.lhu rd a i) 2 false ∧ answers (.lwu rd a i) 4 false) ∧
  (∀ (s : State) (f : Focus) (a b : BitVec 5) (i : BitVec 12), s.unwatched f →
    let ea : Nat := (s.xs f a + i.signExtend 64).toNat
    let wr (w : Nat) : List ChunkW := chunksFor ea w ((s.xs f b).toNat % 2 ^ (8 * w)) (fun _ => true)
    let answers (j : Instr) (w : Nat) : Prop := s.admits f j →
      (s.reachesPad f ea w ((wr w).map ChunkW.addr) → s.hasRoom f → exec j s = .next (s.withhold f 1 (.store (wr w) none))) ∧
      (s.reachesPad f ea w ((wr w).map ChunkW.addr) → ¬s.hasRoom f → exec j s = .next (s.raise f 1 0x12 0)) ∧
      ∀ bad, accessBad ((s.core f.core).lcOf f.ctx) ea w ((wr w).map ChunkW.addr) = some bad →
        exec j s = .next (s.raise f 1 0x03 (BitVec.ofNat 64 bad))
    answers (.sb a b i) 1 ∧ answers (.shh a b i) 2 ∧ answers (.sw a b i) 4 ∧ answers (.sd a b i) 8)

/-- Each form of R147 and R149 reads its operands at issue and answers the state in which its result, the lanes it writes, its flags and its LFSR draws are those of the form, due after the latency of R95 at latch bv0 or bv1. (R95, R141, R144, R147, R149) -/
def Obligations.VectorArithmeticForms : Prop :=
  ∀ (s : State) (f : Focus) (o : VOps),
    let answers (i : Instr) (lat : Nat) (run : VIn → VOut) : Prop := s.admits f i →
      exec i s = .next (s.resultV f o lat (if o.v1 then 2 else 1) (run (s.vin f o)))
    answers (.vadd o) (lat23 o.fmt) vAdd ∧ answers (.vsub o) (lat23 o.fmt) vSub ∧ answers (.vmul o) 5 vMul ∧ answers (.vfma o) 6 vFma ∧ answers (.vfms o) 6 vFms ∧ answers (.vfnma o) 6 vFnma ∧ answers (.vmax o) (lat23 o.fmt) vMax ∧ answers (.vmin o) (lat23 o.fmt) vMin ∧ answers (.vabs o) (lat23 o.fmt) vAbs ∧ answers (.vneg o) (lat23 o.fmt) vNeg ∧ answers (.vaddsat o) 2 vAddSat ∧ answers (.vsubsat o) 2 vSubSat ∧ answers (.vmulhi o) 5 vMulHi ∧ answers (.vand o) 2 vAnd ∧ answers (.vor o) 2 vOr ∧ answers (.vxor o) 2 vXor ∧ answers (.vnot o) 2 vNot ∧ answers (.vshl o) 2 vShl ∧ answers (.vshr o) 2 vShr ∧ answers (.vsra o) 2 vSra

/-- vcvt, vnarrow, vwiden, vmxq and vmxd answer at latency 3, the special functions and vclass at 8; the values of the special functions rest on log entry 20 where no closed form is exact. (R95, R155, R158, R159, R164, R165) -/
def Obligations.VectorConversionForms : Prop :=
  ∀ (s : State) (f : Focus) (o : VOps),
    let answers (i : Instr) (lat : Nat) (run : VIn → VOut) : Prop := s.admits f i →
      exec i s = .next (s.resultV f o lat (if o.v1 then 2 else 1) (run (s.vin f o)))
    answers (.vcvt o) 3 vCvt ∧ answers (.vnarrow o) 3 vNarrow ∧ answers (.vwiden o) 3 vWiden ∧ answers (.vmxq o) 3 vMxq ∧ answers (.vmxd o) 3 vMxd ∧ answers (.vexp2 o) 8 (vSpecial exp2Num) ∧ answers (.vlog2 o) 8 (vSpecial log2Num) ∧ answers (.vrcp o) 8 (vSpecial rcpNum) ∧ answers (.vrsqrt o) 8 (vSpecial rsqrtNum) ∧ answers (.vclass o) 8 vClass

/-- The permute forms answer at latency 3, reductions by the fixed tree at 7, scans at 9, vmov at 2. (R95, R160, R161, R162, R163) -/
def Obligations.VectorPermuteForms : Prop :=
  ∀ (s : State) (f : Focus) (o : VOps),
    let answers (i : Instr) (lat : Nat) (run : VIn → VOut) : Prop := s.admits f i →
      exec i s = .next (s.resultV f o lat (if o.v1 then 2 else 1) (run (s.vin f o)))
    answers (.vperm o) 3 vPerm ∧ answers (.vrot o) 3 vRot ∧ answers (.vbcast o) 3 vBcast ∧ answers (.vslide o) 3 vSlide ∧ answers (.vzip o) 3 vZip ∧ answers (.vunzip o) 3 vUnzip ∧ answers (.viota o) 3 vIota ∧ answers (.vredsum o) 7 (vReduce .sum) ∧ answers (.vredmax o) 7 (vReduce .max) ∧ answers (.vredmin o) 7 (vReduce .min) ∧ answers (.vscan o) 9 (vScan .sum) ∧ answers (.vscanmax o) 9 (vScan .max) ∧ answers (.vmov o) 2 vMov

/-- Each answers the state in which, due at issue + 2 for the mask register and the latch of the unit, every one of the 128 bits of the mask is the bitwise function of the operand bits; a literal or loop index is zero-extended, a latch gives bits [127:0], and the latch holds the mask in bits [127:0] and zeros above. (R153) -/
def Obligations.MaskForms : Prop :=
  ∀ (s : State) (f : Focus) (o : VOps),
    (∀ n, s.readM f (.lit n) = (f.literal n).zeroExtend 128 ∧ s.readM f (.loop n) = (f.lp n).zeroExtend 128) ∧
    (∀ n, s.readM f (.latch n) = (s.latchVal f n).extractLsb' 0 128) ∧
    ∀ (i : Instr) (g : Bool → Bool → Bool),
      ((i = .mand o ∧ g = fun x y => x && y) ∨ (i = .mor o ∧ g = fun x y => x || y) ∨ (i = .mxor o ∧ g = fun x y => x ^^ y) ∨
        (i = .mnot o ∧ g = fun x _ => !x)) → s.admits f i →
      ∃ m : MaskReg, (∀ k < 128, m.getLsbD k = g ((s.readM f o.a).getLsbD k) ((s.readM f o.b).getLsbD k)) ∧
        exec i s = .next (s.result f (if o.v1 then 3 else 2) 2 (if o.nw then .none else .m (o.d.extractLsb' 0 3)) (m.zeroExtend 4096) allLanes
          (some (if o.v1 then 2 else 1)) 0)

/-- mpop answers the state in which every lane of the result holds, as INT32, the number of indices below 128 whose bit is set; mfirst the lowest such index, or 128 when no bit is set; both write every lane. (R154) -/
def Obligations.MaskCounts : Prop :=
  ∀ (s : State) (f : Focus) (o : VOps),
    let m := s.readM f o.a
    let same (v : VReg) (n : Nat) : Prop := ∀ l < 128, v.extractLsb' (32 * l) 32 = BitVec.ofNat 32 n
    let gives (i : Instr) (v : VReg) : Prop :=
      exec i s = .next (s.result f (if o.v1 then 3 else 2) 2 (if o.nw then .none else .v o.d) v allLanes (some (if o.v1 then 2 else 1)) 0)
    (s.admits f (.mpop o) → ∃ v, same v ((List.range 128).countP fun k => m.getLsbD k) ∧ gives (.mpop o) v) ∧
    (s.admits f (.mfirst o) → ∃ v, gives (.mfirst o) v ∧
      (∀ k < 128, m.getLsbD k = true → (∀ j < k, m.getLsbD j = false) → same v k) ∧ ((∀ k < 128, m.getLsbD k = false) → same v 128))

/-- vsel answers the state in which every lane l of the result is lane l of a when bit gov(l, F) of the named mask is 1 and lane l of b otherwise; every lane is written, and with m0 the result is a. (R152) -/
def Obligations.VectorSelect : Prop :=
  ∀ (s : State) (f : Focus) (o : VOps), s.admits f (.vsel o) →
    ∃ v : VReg, (∀ l < 128, v.extractLsb' (32 * l) 32 =
        if ((s.ctx f.core f.ctx).mr o.mask).getLsbD (govLane o.fmt.width l) then (s.readV f o.a).extractLsb' (32 * l) 32
        else (s.readV f o.b).extractLsb' (32 * l) 32) ∧
      (o.mask = 0 → v = s.readV f o.a) ∧
      exec (.vsel o) s = .next (s.result f (if o.v1 then 3 else 2) 2 (destV o.d o.nw) v allLanes (some (if o.v1 then 2 else 1)) 0)

/-- With watchpoints closed, each load-slot form whose chunks pass R170 answers the state with one read access at issue + 1 for its register and latch bl; one that fails R170 raises trap 0x03 with the failing address; vlds with a stride that is no multiple of 64 raises trap 0x03 with EA. With watchpoints closed, each store-slot form whose addresses pass R170 takes one withhold entry with the bytes, mask and tag it names while the buffer has room, raises trap 0x12 when it is full, and trap 0x03 with the failing address when R170 fails; vsts with a stride that is no multiple of 64 raises trap 0x03 with EA. That ADDR of a stride fault is EA is the model's reading (log entry 57), as is the order of trap 0x03 before trap 0x12 and before watchpoints (log entry 54). (R179, R180, R173, R170, R174, R182, R183, R184, R186) -/
def Obligations.VectorLoadsAndStores : Prop :=
  (∀ (s : State) (f : Focus) (o : LdOps), s.unwatched f →
    let ea : Nat := (s.readX f o.a + (o.off.signExtend 64) * 64).toNat
    let m : MaskReg := (s.ctx f.core f.ctx).mr o.mask
    let rec_ (kind : LdKind) (dest : Dest) (wen : MaskReg) (tag : Option (BitVec 16)) : LdRec :=
      { kind := kind, ea := ea, dest := dest, wen := wen, tagWant := tag, unit := some 3 }
    let answers (i : Instr) (align : Nat) (l : LdRec) : Prop := s.admits f i →
      (s.reachesPad f ea align l.touched → exec i s = .next (s.addAccess f.core (s.loadAccess f 5 .load l))) ∧
      ∀ bad, accessBad ((s.core f.core).lcOf f.ctx) ea align l.touched = some bad → exec i s = .next (s.raise f 5 0x03 (BitVec.ofNat 64 bad))
    answers (.vld o) 512 (rec_ .vld (destV o.d o.nw) m (if o.k then some ((s.readX f o.b).extractLsb' 0 16) else none)) ∧
    answers (.vldb o) (2 ^ o.part.toNat) (rec_ (.vldb (2 ^ o.part.toNat)) (destV o.d o.nw) allLanes none) ∧
    ((s.readX f o.b).toNat % 64 = 0 → answers (.vlds o) 64 (rec_ (.vlds (s.readX f o.b)) (destV o.d o.nw) m none)) ∧
    ((s.readX f o.b).toNat % 64 ≠ 0 → s.admits f (.vlds o) → exec (.vlds o) s = .next (s.raise f 5 0x03 (BitVec.ofNat 64 ea))) ∧
    answers (.vldm o) 512 (rec_ (.vldm (s.readX f o.b).toNat) (destV o.d o.nw) m none) ∧
    answers (.vldh o) 256 (rec_ (.vldh (o.part.toNat % 2)) (destV o.d o.nw) (m &&& laneRun (64 * (o.part.toNat % 2)) 64) none) ∧
    answers (.ldtag o) 1 (rec_ .ldtag (destX o.d o.nw) allLanes none)) ∧
  (∀ (s : State) (f : Focus) (o : StOps), s.unwatched f →
    let ea : Nat := (s.readX f o.a).toNat
    let m : MaskReg := (s.ctx f.core f.ctx).mr o.mask
    let v : VReg := s.readV f o.b
    let answers (i : Instr) (align : Nat) (touched : List Nat) (w : WKind) : Prop := s.admits f i →
      (s.reachesPad f ea align touched → s.hasRoom f → exec i s = .next (s.withhold f 6 w)) ∧
      (s.reachesPad f ea align touched → ¬s.hasRoom f → exec i s = .next (s.raise f 6 0x12 0)) ∧
      ∀ bad, accessBad ((s.core f.core).lcOf f.ctx) ea align touched = some bad → exec i s = .next (s.raise f 6 0x03 (BitVec.ofNat 64 bad))
    let plain (i : Instr) (align : Nat) (wr : List ChunkW) : Prop := answers i align (wr.map ChunkW.addr) (.store wr none)
    let whole : List ChunkW := chunksFor ea 512 v.toNat (fun i => m.getLsbD (i / 4))
    (o.k = false → plain (.vst o) 512 whole) ∧
    (o.k = true → answers (.vst o) 512 (whole.map ChunkW.addr ++ [ea]) (.store whole (some (tileOf ea, (s.readX f o.c).extractLsb' 0 16)))) ∧
    (o.nb = true → plain (.vstm o) 64 (if m = 0 then [] else [⟨ea, v.extractLsb' (512 * o.fn.toNat) 512, m, 0⟩])) ∧
    (o.nb = false → plain (.vstm o) 128 (chunksFor ea 128 (v.toNat >>> (1024 * o.fn.toNat) % 2 ^ 1024) (fun i => m.getLsbD i))) ∧
    ((s.readX f o.c).toNat % 64 = 0 → plain (.vsts o) 64 ((List.range 8).flatMap fun j =>
      chunksFor (BitVec.ofNat 64 ea + BitVec.ofNat 64 j * s.readX f o.c).toNat 64 (v.extractLsb' (512 * j) 512).toNat
        (fun i => m.getLsbD (16 * j + i / 4)))) ∧
    ((s.readX f o.c).toNat % 64 ≠ 0 → s.admits f (.vsts o) → exec (.vsts o) s = .next (s.raise f 6 0x03 (BitVec.ofNat 64 ea))) ∧
    plain (.vsth o) 256 (chunksFor ea 256 (v.extractLsb' (2048 * (o.fn.toNat % 2)) 2048).toNat (fun i => m.getLsbD (64 * (o.fn.toNat % 2) + i / 4))) ∧
    answers (.tzero o) 4096 [ea] (.tzero (tileOf ea) ((s.readX f o.c).extractLsb' 0 16)) ∧
    answers (.amo o) 4 [ea] (.amo ea o.fn.toNat o.fp false ((s.readX f o.b).extractLsb' 0 32) 0 o.d) ∧
    answers (.amoCas o) 4 [ea] (.amo ea 0 false true ((s.readX f o.b).extractLsb' 0 32) ((s.readX f o.c).extractLsb' 0 32) o.d))

/-- vcmp answers the state in which the mask of its comparison is on its way to the mask register and the latch of its unit, due at issue + 2. vfill and vins give a v result at issue + 2 from x operands, vext an x result; vrank reaches latch bk at issue + 12; vrecon reads the table as it stands and gives its result at issue + 4; vrtab writes a table at issue + 4 and no register and no latch. (R151, R144, R163, R217, R220, R221, R71) -/
def Obligations.VectorCompareMoveAndRankForms : Prop :=
  (∀ (s : State) (f : Focus) (o : VOps), s.admits f (.vcmp o) →
    exec (.vcmp o) s = .next (s.result f (if o.v1 then 3 else 2) 2 (destM o.d o.nw) ((vCmp (s.vin f o)).zeroExtend 4096) allLanes
      (some (if o.v1 then 2 else 1)) 0)) ∧
  (∀ (s : State) (f : Focus) (o : VOps),
    let unit : Fin 8 := if o.v1 then 2 else 1
    let part : Nat := if o.v1 then 3 else 2
    (s.admits f (.vfill o) → exec (.vfill o) s = .next (s.resultV f o 2 unit (vFill { s.vin f o with a := 0 } (s.readX f o.a)))) ∧
    (s.admits f (.vext o) → exec (.vext o) s = .next (s.resultX f part 2 o.d o.nw unit (vExt (s.vin f o) (s.readX f o.b)))) ∧
    (s.admits f (.vins o) → exec (.vins o) s = .next (s.resultV f o 2 unit (vIns (s.vin f o) (s.readX f o.b) (s.readX f o.c)))) ∧
    (s.admits f (.vrank o) → exec (.vrank o) s = .next (s.result f 3 12 (destV o.d o.nw) (vRank (s.vin f o)) allLanes (some 7) 0)) ∧
    (s.admits f (.vrecon o) → ∀ t : Fin 4, t.val = o.fn.toNat % 4 →
      exec (.vrecon o) s = .next (s.resultV f o 4 2 (vRecon (s.vin f o) (s.ctx f.core f.ctx).rtab[t]))) ∧
    (s.admits f (.vrtab o) → exec (.vrtab o) s = .next (s.result f 3 4 (.rtab (o.fn.toNat % 4)) (s.readV f o.a) allLanes none 0)))

/-- A matrix form with legal operand values enters: its path is taken, its names are held and its reads stand on their cycles, with what mcfg, mwbank, mwld, msc, matt and mdr change at once; of a plan with failing checks the lowest cause is raised with part 4 and nothing of the form performs; a background load in whose cycles a form that changes the face issues raises trap 0x11. That the lowest cause is raised with its first address is the model's reading (log entry 101), as is the ADDR of a pitch fault (log entry 57); the values the spec leaves open, the ADDR of some traps (log entry 10) and the slot of a version (log entry 16), are free values. (R191, R202, R204, R205, R206, R207, R208, R209, R210, R211, R212, R225) -/
def Obligations.MatrixForms : Prop :=
  ∀ (s : State) (f : Focus) (o : MOps),
    let runs (i : Instr) (p : MatPlan) (also : State → State) : Prop := s.admits f i → s.matBad f i = false →
      (s.planFails f p = none → exec i s = .next ((also (s.planEnter f p)).backTrap f (p.loads && p.path == .face))) ∧
      ∀ c a, s.planFails f p = some (c, a) → exec i s = .next ((s.raise f 4 c a).backTrap f p.loads)
    let facing (g : Face → Face) (t : State) : State :=
      t.modCore f.core fun k => { k with face := { g k.face with part := t.partOf (t.focusLk f) } }
    let fresh (g : LaunchCore → LaunchCore) (t : State) : State := t.modCore f.core fun k => k.modLc (s.focusLk f) g
    runs (.mcfg o) (s.cfgPlan f o) (fun t => t.setArr f o.arr (s.readX f o.a).toNat (s.readX f o.b).toNat) ∧
    runs (.mwbank o) (s.cfgPlan f o) (facing fun fc => { fc with bank := o.fl.getLsbD 0 }) ∧
    runs (.mwld o) (s.mwldPlan f o) (fun t => fresh (fun l => { l with stale := false })
      (t.setFfmt f o.fmt (o.fl.getLsbD 0) (s.readX f o.c).toNat (32 * o.count))) ∧
    runs (.msc o) (s.mscPlan f o) (facing id) ∧ runs (.mma o) (s.mmaPlan f o) id ∧ runs (.mmaT o) (s.mmaTPlan f o) id ∧
    runs (.mmaR o) (s.mmaRPlan f o) id ∧ runs (.mmr o) (s.mmrPlan f o) id ∧
    runs (.matt o) (s.mattPlan f o) (fun t => fresh (fun l => { l with tblStale := l.tblStale &&& ~~~((1 : BitVec 4) <<< o.table) }) (facing id t)) ∧
    runs (.mxt o) (s.mxtPlan f o) id ∧ runs (.mdr o) (s.mdrPlan f o) (fun t => t.mdrDrawn f o)

/-- mrel of names below ACCS, held by no other context and with no row still to land, answers a next state in which every row of each released name of the launch reads zero and the rows of every other name read as before; with a row still to land it raises trap 0x11 and nothing else changes. (R213, R196, R197) -/
def Obligations.MatrixRelease : Prop :=
  ∀ (s : State) (f : Focus) (o : MOps) (l : LaunchCore),
    let names : List Nat := (List.range 24).filter fun n => (s.readX f o.a).getLsbD n
    s.admits f (.mrel o) → (s.core f.core).lcOf f.ctx = some l → (∀ n ∈ names, n < l.accs ∧ l.heldByOther f.ctx n = false) →
    ((∀ n ∈ names, (s.core f.core).toLand (s.focusLk f) n = false) →
      ∃ t m, exec (.mrel o) s = .next t ∧ (t.core f.core).lcOf f.ctx = some m ∧
        ∀ n < 24, ∀ r < 64, m.accRow n r = if n ∈ names then 0 else l.accRow n r) ∧
    ((∃ n ∈ names, (s.core f.core).toLand (s.focusLk f) n = true) → exec (.mrel o) s = .next (s.raise f 4 0x11 0))

/-- cp, cp.red, rwr and rrd whose checks pass, with room in the queue, stand last in it with the first slot max(issue + 15, the cycle after the last slot of the queue); in place cp.red takes a withhold entry; mcast takes its place and reads its member table at issue + 1; the failing check with the lowest cause raises its trap; cp.red into its own local source raises trap 0x01. Which cause and address are reported among several is the model's reading (log entries 101 and 57). (R229, R230, R231, R232, R233, R234, R235, R248) -/
def Obligations.EngineCommands : Prop :=
  ∀ (s : State) (f : Focus) (o : COps),
    let k := s.core f.core
    let first : Nat := max (k.cyc + 15) k.afterQueue
    let full : List (Nat × Word) := if k.cmds.length ≥ 16 then [(0x11, 0)] else []
    let queued (i : Instr) (p : List (Nat × Word) × EngCmd) : Prop := s.admits f i → s.copyBad f i = false →
      (lowest (p.1 ++ full) = none → exec i s = .next (s.modCore f.core fun k => { k with cmds := k.cmds ++ [{ p.2 with slot := first }] })) ∧
      ∀ c a, lowest (p.1 ++ full) = some (c, a) → exec i s = .next (s.raise f 7 c a)
    queued (.cp o) (s.cpPlan f o) ∧ queued (.rwr o) (s.rwrPlan f o) ∧ queued (.rrd o) (s.rrdPlan f o) ∧
    (o.inplace = false → queued (.cpRed o) (s.redPlan f o)) ∧
    (o.inplace = false → s.admits f (.cpRed o) → s.readX f o.c = s.readX f o.b → exec (.cpRed o) s = .next (s.raise f 7 0x01 0)) ∧
    (o.inplace = true → s.admits f (.cpRed o) →
      (lowest ((s.redPlan f o).1 ++ s.whFull f) = none → exec (.cpRed o) s = .next (s.withhold f 7 (.cpRed (s.redPlan f o).2))) ∧
      ∀ c a, lowest ((s.redPlan f o).1 ++ s.whFull f) = some (c, a) → exec (.cpRed o) s = .next (s.raise f 7 c a)) ∧
    (s.admits f (.mcast o) →
      (lowest (s.mcastFails f o) = none → exec (.mcast o) s = .next (s.modCore f.core fun k =>
        { k with cmds := k.cmds ++ [s.mcastCmd f o], mcasts := k.mcasts ++ [s.mcastCmd f o],
                 acc := k.acc ++ [f.access s 7 1 .engine (s.cycle f + 1) [(s.readX f o.b).toNat] [] (.table (s.mcastCmd f o))] })) ∧
      ∀ c a, lowest (s.mcastFails f o) = some (c, a) → exec (.mcast o) s = .next (s.raise f 7 c a))

/-- ramo and gatom take a withhold entry, gatom also the lowest free landing entry; gld and gst take that entry and their request leaves at issue, gst reading its data at issue + 1; xlat starts a walk for its handle, or traps 0x11 while one is under way for it; the failing check with the lowest cause raises its trap. lnk.run and lnk.sel of a bound launch answer the state with the status for rd at issue + 2; with status 0 the named start or selection becomes the pending one, and with another status nothing else changes. Which cause is reported among several is the model's reading (log entry 101), the lowest free landing entry its choice (log entry 120), and status 1 across a pending start and a pending selection its reading (log entry 72). (R237, R238, R239, R240, R241, R242, R174, R249, R306) -/
def Obligations.UntimedRemoteAndLinkForms : Prop :=
  (∀ (s : State) (f : Focus) (o : COps),
    let va : Nat := (s.readX f o.b).toNat
    let h := s.handleOf f o.a
    let fails (i : Instr) (l : List (Nat × Word)) : Prop := s.admits f i → ∀ c a, lowest l = some (c, a) → exec i s = .next (s.raise f 7 c a)
    (s.admits f (.ramo o) → lowest (s.ramoFails f o) = none →
      exec (.ramo o) s = .next (s.withhold f 7 (.ramo (podOf h va) va o.fn.toNat (o.fmt == .fp32) ((s.readX f o.c).extractLsb' 0 32)))) ∧
    fails (.ramo o) (s.ramoFails f o) ∧
    (∀ e, (s.core f.core).freeEntry = some e →
      (s.admits f (.gld o) → lowest (s.blockFails f o true false) = none →
        exec (.gld o) s = .next ((s.takeEntry f.core e (s.blockReq f o .gld)).sendReq f.core e (s.blockReq f o .gld) true
          (bareChunks (s.blockReq f o .gld).pas))) ∧
      (s.admits f (.gst o) → lowest (s.blockFails f o false true) = none →
        exec (.gst o) s = .next (((s.takeEntry f.core e (s.blockReq f o .gst)).sendReq f.core e (s.blockReq f o .gst) false
          (bareChunks (s.blockReq f o .gst).pas)).addAccess f.core
            (f.access s 7 6 .engine (s.cycle f + 1) (chunkVas (s.readX f o.c).toNat o.num) [] (.gstRd e.val)))) ∧
      (s.admits f (.gatom o) → lowest (s.gatomFails f o) = none →
        exec (.gatom o) s = .next ((s.takeEntry f.core e (s.ureq f o .gatom va 0 [podOf h va])).withhold f 7 (.gatom e.val)))) ∧
    fails (.gld o) (s.blockFails f o true false) ∧ fails (.gst o) (s.blockFails f o false true) ∧ fails (.gatom o) (s.gatomFails f o) ∧
    (s.admits f (.xlat o) →
      let d : BitVec 3 := o.d.extractLsb' 0 3
      let busy := (s.core f.core).walks.any fun w => w.ctx == f.ctx && w.d == d
      (busy = true → exec (.xlat o) s = .next (s.raise f 7 0x11 0)) ∧
      (busy = false → ∃ ends, s.now < ends ∧ exec (.xlat o) s = .next ((s.modCore f.core fun k => { k with walks := k.walks ++
        [{ ctx := f.ctx, lk := s.focusLk f, issued := s.cycle f, bundle := f.idx, d := d, va := (s.readX f o.a).toNat, ends := ends, res := none }] }).tickFree)))) ∧
  (∀ (s : State) (f : Focus) (o : COps) (l : Launch), s.launch (s.focusLk f) = some l →
    let a : Nat := (s.readX f o.a).toNat
    let b : Nat := ((s.readX f o.b).toNat + s.lnkShift l) % 2 ^ 64
    (s.admits f (.lnkRun o) →
      (s.runStatus l a b ≠ 0 ∨ l.pod.startIs s.now a b = true → exec (.lnkRun o) s = .next (s.resultX f 7 2 o.d o.nw 5 (BitVec.ofNat 64 (s.runStatus l a b)))) ∧
      (s.runStatus l a b = 0 → l.pod.startIs s.now a b = false → exec (.lnkRun o) s =
        .next ((s.modPod l.key fun p => { p with pendRun := some (a, b), ready := none }).resultX f 7 2 o.d o.nw 5 0))) ∧
    (s.admits f (.lnkSel o) →
      (s.selStatus l a b ≠ 0 → exec (.lnkSel o) s = .next (s.resultX f 7 2 o.d o.nw 5 (BitVec.ofNat 64 (s.selStatus l a b)))) ∧
      (s.selStatus l a b = 0 → exec (.lnkSel o) s = .next ((s.modPod l.key fun p => { p with pendSel := some (a, b) }).resultX f 7 2 o.d o.nw 5 0))))

/-- Without LE, loop and loopx push an entry from index + 1 to index + length with their count, or, with a count of 0, redirect past the body; a break pops the innermost entry and redirects past its end; a loop with LE, a length outside 1 to 4,096, a seventh entry or a break without an entry raises trap 0x01; nop does nothing. (R108, R109, R96) -/
def Obligations.LoopForms : Prop :=
  ∀ (s : State) (f : Focus) (a b : Src) (len : BitVec 8),
    let pushed (n : Nat) (c : BitVec 32) : State :=
      s.modCtx f.core f.ctx fun k => { k with loops := ⟨f.idx + 1, f.idx + BitVec.ofNat 12 n, c, 0⟩ :: k.loops }
    let into (t : State) (i : BitVec 12) : State := { t with focus := t.focus.map fun g => { g with lr := some i } }
    let loops (i : Instr) (n : Nat) : Prop := s.admits f i →
      let c : BitVec 32 := (s.readX f a).extractLsb' 0 32
      let ok : Prop := hdrLE f.word = false ∧ 0 < n ∧ n ≤ 4096
      (ok → c = 0 → exec i s = .next (into s (f.idx + BitVec.ofNat 12 (1 + n)))) ∧
      (ok → c ≠ 0 → f.loops.length < 6 → exec i s = .next (pushed n c)) ∧
      (¬ok ∨ (c ≠ 0 ∧ 6 ≤ f.loops.length) → exec i s = .next (s.raise f 8 0x01 0))
    let breaks (i : Instr) : Prop := s.admits f i →
      (f.loops = [] → exec i s = .next (s.raise f 8 0x01 0)) ∧
      ∀ e rest, f.loops ≠ [] → (s.ctx f.core f.ctx).loops = e :: rest →
        exec i s = .next (into (s.modCtx f.core f.ctx fun k => { k with loops := rest }) (e.stop + 1))
    (s.admits f .nopY → exec .nopY s = .next s) ∧ loops (.loop a len) (len.toNat + 1) ∧ loops (.loopx a b) (s.readX f b).toNat ∧
    (s.readX f a = 0 → s.admits f (.lbrk a) → exec (.lbrk a) s = .next s) ∧ (s.readX f a ≠ 0 → breaks (.lbrk a)) ∧ breaks .lbrkU

/-- With DEBT at most n, guard clears DEBT, adds the old DEBT to PAIDCNT and SCYC, and the next bundle issues at issue + 1 + n - DEBT; with DEBT above n it raises trap 0x13 with DEBT in ADDR and changes neither. bar in a WT bundle, with the phase of its count, makes the context wait for instance BARCNT of its level and lets the core arrive; with the other phase, or without WT, it raises trap 0x01; fence of context or core scope does nothing, of a wider one freezes the core until it is done. (R246, R85, R82, R263, R264, R271, R272) -/
def Obligations.GuardBarrierAndFence : Prop :=
  (∀ (s : State) (f : Focus) (a : Src), s.admits f (.guard a) →
    let n : Nat := ((s.readX f a).extractLsb' 0 32).toNat
    let debt : BitVec 32 := (s.ctx f.core f.ctx).debt
    (n < debt.toNat → exec (.guard a) s = .next (s.raise f 8 0x13 (debt.zeroExtend 64))) ∧
    (debt.toNat ≤ n → ∃ t, exec (.guard a) s = .next t ∧ (t.ctx f.core f.ctx).debt = 0 ∧ (t.core f.core).paidcnt = (s.core f.core).paidcnt + debt ∧
      (t.core f.core).issueFrom = s.cycle f + 1 + n - debt.toNat ∧
      ∀ l, (s.core f.core).lc (s.focusLk f) = some l → ((t.core f.core).lc (s.focusLk f)).map LaunchCore.scyc = some (l.scyc + debt.toNat))) ∧
  (∀ (s : State) (f : Focus) (comm : Bool) (level kind : BitVec 2) (scope : BitVec 3),
    let n : BitVec 32 := (s.ctx f.core f.ctx).barcnt[level.toNat]
    (s.admits f (.bar comm level) →
      (hdrWT f.word = true → n.getLsbD 0 = comm →
        exec (.bar comm level) s = .next ((s.block f (.bar (level.toNat + 1) n.toNat)).tryArrive f.core (s.focusLk f))) ∧
      (hdrWT f.word = false ∨ n.getLsbD 0 ≠ comm → exec (.bar comm level) s = .next (s.raise f 8 0x01 0))) ∧
    (s.admits f (.fence kind scope) →
      (scope.toNat ≤ 1 → exec (.fence kind scope) s = .next s) ∧
      (2 ≤ scope.toNat → exec (.fence kind scope) s = .next (s.modCore f.core fun k =>
        { k with fence := some ⟨f.ctx, kind.getLsbD 0, kind.getLsbD 1, scope.toNat, false⟩ }))))

/-- bank.acq in a WT bundle does nothing when all named banks are Owned, waits and asks for the Released ones else, and traps 0x03 with the mask when one is Lost or outside BANKS; bank.rel in a CK bundle makes the named Owned banks Released at issue + 3, withheld writes of earlier intervals staying as they are, and what an unreleased one would write to such a bank is a free value (R178; log entry 2); bank.tst gives the state code and the retention bit at issue + 2. code.lock answers the state after one try with its status for rd at issue + 2; code.lock.w the same unless the status is 1, and then waits; code.unlock of windows the launch holds clears their locks and tries the waiting requests again, and else does nothing. (R82, R275, R276, R89, R84) -/
def Obligations.BankAndCodeLockForms : Prop :=
  (∀ (s : State) (f : Focus) (a : Src) (d : BitVec 5) (nw : Bool) (l : LaunchCore), (s.core f.core).lcOf f.ctx = some l →
    let m : BitVec 48 := (s.readX f a).extractLsb' 0 48
    let named : List Nat := (List.range 48).filter fun b => m.getLsbD b
    let outside : Prop := ∃ b ∈ named, l.bank b = .foreign
    let lost : Prop := ∃ b ∈ named, l.bank b = .lost
    let owned : Prop := ∀ b ∈ named, l.bank b = .owned
    let b : Nat := ((s.readX f a).extractLsb' 0 6).toNat
    (s.admits f (.bankAcq a) → hdrWT f.word = true →
      (outside ∨ lost → exec (.bankAcq a) s = .next (s.raise f 8 0x03 (m.zeroExtend 64))) ∧
      (owned → exec (.bankAcq a) s = .next s) ∧
      (¬outside → ¬lost → ¬owned → exec (.bankAcq a) s = .next ((s.block f (.bankAcq m (s.cycle f) f.idx)).modCore f.core fun k =>
        (named.filter fun b => l.bank b == .released && !l.own.any (fun o => o.1 == b)).foldl (fun k b => k.giveBank l.lk b (s.cycle f + 1)) k))) ∧
    (s.admits f (.bankRel a) → hdrCK f.word = true →
      (outside → exec (.bankRel a) s = .next (s.raise f 8 0x03 (m.zeroExtend 64))) ∧
      (¬outside → exec (.bankRel a) s = .next ((s.modCtx f.core f.ctx fun x => x.breach (named.filter fun b => l.bank b == .owned) s.freeV).modCore f.core
        fun k => k.modLc l.lk fun l' => { l' with rel := l'.rel ++ (named.filter fun b => l.bank b == .owned).map fun b => (b, s.cycle f + 3) }))) ∧
    (∀ (x : Ctx) (bs : List Nat), ∀ (n : Nat) (e : WEntry), x.wh[n]? = some e → e.rel.isSome = true → (x.breach bs s.freeV).wh[n]? = some e) ∧
    (s.admits f (.bankTst a d nw) →
      (l.bank b ≠ .foreign → exec (.bankTst a d nw) s = .next (s.resultX f 8 2 d nw 6 (BitVec.ofNat 64 ((match l.bank b with
          | .owned => 0 | .awaited => 1 | .released => 2 | .lost => 3 | .foreign => 0) +
          if (s.core f.core).bankRet b = .active then 0 else 4)))) ∧
      (l.bank b = .foreign → ∃ x, exec (.bankTst a d nw) s = .next (s.raise f 8 0x03 x)))) ∧
  (∀ (s : State) (f : Focus) (a : Src) (d : BitVec 5) (nw : Bool) (l : LaunchCore), (s.core f.core).lcOf f.ctx = some l → l.lk = s.focusLk f →
    let m : BitVec 16 := (s.readX f a).extractLsb' 0 16
    let r : Nat × State := s.tryLock f.core (s.focusLk f) m
    (s.admits f (.codeLock a d nw) → exec (.codeLock a d nw) s = .next (r.2.resultX f 8 2 d nw 6 (BitVec.ofNat 64 r.1))) ∧
    (s.admits f (.codeLockW a d nw) → hdrWT f.word = true →
      (r.1 ≠ 1 → exec (.codeLockW a d nw) s = .next (r.2.resultX f 8 2 d nw 6 (BitVec.ofNat 64 r.1))) ∧
      (r.1 = 1 → exec (.codeLockW a d nw) s = .next (r.2.block f (.lock m d nw (r.2.cycle f))))) ∧
    (s.admits f (.codeUnlock a) →
      (l.locks &&& m = 0 → exec (.codeUnlock a) s = .next s) ∧
      (l.locks &&& m ≠ 0 → exec (.codeUnlock a) s =
        .next ((s.modCore f.core fun k => k.modLc (s.focusLk f) fun l' => { l' with locks := l'.locks &&& ~~~m }).retryLocks f.core))))

/-- With a legal skip operand haul.ld, haul.pass and haul.bar on the ring, in a WT bundle, wait for a passage; haul.bar off the ring updates its record and checks it later, its arrival bit being its own flag where no update of the skip is withheld (else a free value, log entry 2); haul.bar of more than 512 members or with an index outside them raises trap 0x01; haul.board waits for a free skip while the launch may hold more, else gives status 2; haul.st, haul.op, haul.xchg, haul.cas, haul.lse and haul.alight take a withhold entry while the buffer has room and raise trap 0x12 when it is full; haul.alight with a bitmap then waits for its capture, and raises trap 0x03 with the address when the 64 bytes do not pass R170; a bad skip operand raises trap 0x03 with the operand. That ADDR holds what failed is the model's reading (log entry 57). (R82, R174, R282, R283, R284, R285, R286, R287) -/
def Obligations.HaulForms : Prop :=
  ∀ (s : State) (f : Focus) (a b : Src) (d : BitVec 5) (nw fp all v sv : Bool) (op : BitVec 3) (lane : BitVec 4),
    let k : Word := s.readX f a
    let w : BitVec 512 := (s.readX f b).zeroExtend 512
    let waits (i : Instr) (u : HaulOp) : Prop := s.admits f i → hdrWT f.word = true →
      (skipBad k = false → exec i s = .next (s.haulWait f u)) ∧ (skipBad k = true → exec i s = .next (s.raise f 8 0x03 k))
    let took (t : State) (e : WKind) : Prop := t = s.modCtx f.core f.ctx fun x => { x with wh := x.wh ++ [⟨s.cycle f, 8, f.idx, e, none⟩] }
    let updates (i : Instr) (kind : HaulKind) (x : BitVec 512) (d : BitVec 5) (nw : Bool) : Prop := s.admits f i →
      (skipBad k = false → s.hasRoom f → ∃ t, exec i s = .next t ∧ took t (.haul (s.haulOp f kind k lane.toNat x d nw))) ∧
      (skipBad k = false → ¬s.hasRoom f → exec i s = .next (s.raise f 8 0x12 0)) ∧
      (skipBad k = true → exec i s = .next (s.raise f 8 0x03 k))
    let n : Nat := ((s.readX f b).extractLsb' 16 10).toNat + 1
    let i : Nat := ((s.readX f b).extractLsb' 0 9).toNat
    let arrive : HaulOp := s.haulOp f (.barArrive i n v) k 0 (s.barBitOf f k v) 0 false
    waits (.haulLd a d nw) (s.haulOp f .ld k 0 0 d nw) ∧ waits (.haulPass a d nw) (s.haulOp f .pass k 0 0 d nw) ∧
    (n ≤ 512 → i < n → isRing k = true → waits (.haulBar a b v) arrive) ∧
    (n ≤ 512 → i < n → isRing k = false → skipBad k = false → s.admits f (.haulBar a b v) → hdrWT f.word = true →
      exec (.haulBar a b v) s = .next (((s.block f .haul).addHaul f.core { arrive with kind := .barCheck n v, after := s.cycle f + 4 }).fbUpdate f.core
        arrive 1 0 false)) ∧
    (512 < n ∨ n ≤ i → s.admits f (.haulBar a b v) → exec (.haulBar a b v) s = .next (s.raise f 8 0x01 0)) ∧
    (n ≤ 512 → i < n → skipBad k = true → s.admits f (.haulBar a b v) → hdrWT f.word = true → exec (.haulBar a b v) s = .next (s.raise f 8 0x03 k)) ∧
    ((s.ctx f.core f.ctx).holdsUpdate k = false → arrive.b = BitVec.ofNat 512 v.toNat) ∧
    (s.admits f (.haulBoard b d nw) → hdrWT f.word = true →
      ((((s.launch (s.focusLk f)).map Launch.skips).getD 0 ≤ s.skipsHeld (s.focusLk f) →
        exec (.haulBoard b d nw) s = .next (s.resultX f 8 2 d nw 6 0x20000)) ∧
      (s.skipsHeld (s.focusLk f) < ((s.launch (s.focusLk f)).map Launch.skips).getD 0 →
        exec (.haulBoard b d nw) s = .next (s.haulWait f { s.haulOp f .board 0 0 ((s.readV f b).extractLsb' 0 512) d nw with ring := true })))) ∧
    updates (.haulSt a b all lane) (.st all) (if all then (s.readV f b).extractLsb' 0 512 else w) 0 false ∧
    updates (.haulOp a b d nw fp op lane) (.op op.toNat fp) w d nw ∧ updates (.haulXchg a b d nw lane) .xchg w d nw ∧
    updates (.haulCas a b d nw lane) .cas w d nw ∧ updates (.haulLse a b d nw lane) .lse w d nw ∧
    (s.admits f (.haulAlight a b sv) → hdrWT f.word = true →
      let u := s.haulOp f .free k 0 0 0 false
      let dst := (s.readX f b).toNat
      let reach : Prop := sv = true → localOk ((s.core f.core).lcOf f.ctx) dst 64 = true
      (skipBad k = true → exec (.haulAlight a b sv) s = .next (s.raise f 8 0x03 k)) ∧
      (skipBad k = false → ¬reach → exec (.haulAlight a b sv) s = .next (s.raise f 8 0x03 (s.readX f b))) ∧
      (skipBad k = false → reach → ¬s.hasRoom f → exec (.haulAlight a b sv) s = .next (s.raise f 8 0x12 0)) ∧
      (skipBad k = false → reach → s.hasRoom f → ∃ t, took t (.alight u (if sv then some dst else none) none) ∧
        exec (.haulAlight a b sv) s = .next (if sv then t.haulWait f { u with kind := .capture dst } else t)))

/-- sysrd answers the state with the value of its register for rd at issue + 2: MEMBERn, GCID (package, core, context), LAUNCHID, STATION, TBNOW, SCYC, BARCNTn, FPFLAGS, 0 for SRSEED, WHUSE, DEBT, PAIDCNT and FRZCNT, TIMEOUTS and SPOILS; syswr sends its operand to FPFLAGS or to the seeds, due at issue + 2, and to no latch. (R290, R130, R127, R52, R271, R279, R177) -/
def Obligations.SystemRegisters : Prop :=
  ∀ (s : State) (f : Focus) (a : Src) (d : BitVec 5) (nw : Bool),
    let x := s.ctx f.core f.ctx
    let k := s.core f.core
    let reads (n : BitVec 8) (v : Word) : Prop := s.admits f (.sysrd d nw n) → exec (.sysrd d nw n) s = .next (s.resultX f 8 2 d nw 6 v)
    let writes (n : BitVec 8) (dest : Dest) : Prop := s.admits f (.syswr a n) →
      exec (.syswr a n) s = .next (s.result f 8 2 dest ((s.readX f a).zeroExtend 4096) allLanes none 0)
    reads 0x01 x.member[0] ∧ reads 0x02 x.member[1] ∧ reads 0x03 x.member[2] ∧ reads 0x04 x.member[3] ∧
    reads 0x05 (BitVec.ofNat 64 (2048 * s.pf.pkg.toNat + 4 * f.core.val + f.ctx.val)) ∧
    reads 0x06 (((x.lk.bind s.launch).map fun l => l.id.zeroExtend 64).getD 0) ∧
    reads 0x07 (BitVec.ofNat 64 (stageOf f.core)) ∧ reads 0x08 (BitVec.ofNat 64 s.now) ∧
    reads 0x09 (((k.lcOf f.ctx).map fun l => BitVec.ofNat 64 l.scyc).getD 0) ∧
    reads 0x0C (x.barcnt[0].zeroExtend 64) ∧ reads 0x0D (x.barcnt[1].zeroExtend 64) ∧ reads 0x0E (x.barcnt[2].zeroExtend 64) ∧
    reads 0x0F (x.barcnt[3].zeroExtend 64) ∧ reads 0x10 (x.fpflags.zeroExtend 64) ∧ reads 0x11 0 ∧
    reads 0x18 (BitVec.ofNat 64 x.wh.length) ∧ reads 0x19 (x.debt.zeroExtend 64) ∧ reads 0x1A (k.paidcnt ++ k.frzcnt) ∧
    reads 0x1B (k.timeout ++ k.spoil) ∧ writes 0x10 .fpflags ∧ writes 0x11 .srseed

/-- trap answers the state with trap 0x50 raised and operand a in ADDR; ebrk raises trap 0x61 where the policy leaves halts closed and halts the core with reason 2 after part 8 where it opens them; end in a CK bundle ends the context, which counts as arrived; end without CK raises trap 0x01 with part 8. (R291, R292, R348) -/
def Obligations.TrapBreakEnd : Prop :=
  ∀ (s : State) (f : Focus) (a : Src),
    (s.admits f (.trap a) → exec (.trap a) s = .next (s.raise f 8 0x50 (s.readX f a))) ∧
    (s.admits f .ebrk →
      (s.isOpen (s.partOf (s.focusLk f)) 0 = false → exec .ebrk s = .next (s.raise f 8 0x61 0)) ∧
      (s.isOpen (s.partOf (s.focusLk f)) 0 = true → ∃ t, exec .ebrk s = .next t ∧ t.focus = none ∧ (t.core f.core).dbg.halted = true ∧
        (t.core f.core).dbg.rec0 = haltWord f.ctx.val 2 0x1FF 8 f.idx ∧ (t.core f.core).held = some { f with part := 9, done := 0x1FF, exempt := 0 })) ∧
    (s.admits f .endCtx →
      (hdrCK f.word = true → exec .endCtx s = .next ((s.modCtx f.core f.ctx fun k => { k with st := .ended }).tryArrive f.core (s.focusLk f))) ∧
      (hdrCK f.word = false → exec .endCtx s = .next (s.raise f 8 0x01 0)))

/-- A bundle whose checks fail raises trap 0x01 with the failing part, or the traps of its vector slots, and nothing of it performs (that the header of a bundle whose vector slot fails performs nothing either is the model's reading, log entry 114); a CK bundle takes the checkpoint copy, gives every unreleased withhold entry of its context the release cycle issue + 2, every other entry staying as it is, commits the versions its context holds and sets the end of the provisional state of its claims on skips to issue + 2; a qualifying YP bundle does that, releases the names it holds, and its context enters the yield wait with no slot performed; a CK or YP bundle with something outstanding traps 0x11 with part 0 and performs nothing (the model's reading, log entry 85); an LE bundle counts its loop ends. (R68, R79, R92, R109, R111, R112, R199, R251, R316, R318, R332) -/
def Obligations.IssueRows : Prop :=
  ∀ (s : State) (f : Focus), s.focus = some f →
    let k : Core := (s.core f.core).checkpoint s.now f.ctx f.idx (s.openDests f.core f.ctx)
    (∀ p, s.bundleBad f = some p → exec .decodeTrap s = .next { s.raise f p 0x01 0 with focus := none }) ∧
    (s.bundleBad f = none → s.bundleTraps f ≠ [] → exec .decodeTrap s =
      .next { (s.bundleTraps f).foldl (fun s x => s.raise f x.1 x.2.1 x.2.2) s with focus := none }) ∧
    (f.hdr = 0 → hdrCK f.word = true → s.yieldFails f = false →
      ∃ t, exec .checkpoint s = .next t ∧ t.core f.core = k ∧ t.skips = (s.settleClaims f.core f.ctx).skips ∧
        (t.ctx f.core f.ctx).ck = (s.ctx f.core f.ctx).copy (s.core f.core).cyc s.now f.idx (s.openDests f.core f.ctx) ∧
        (t.ctx f.core f.ctx).wh = (s.ctx f.core f.ctx).wh.map (fun e => if e.rel = none then { e with rel := some ((s.core f.core).cyc + 2) } else e) ∧
        t.focus = some { f with hdr := 1, done := f.done ||| 1 }) ∧
    (f.hdr = 0 → hdrCK f.word = true → s.yieldFails f = true →
      exec .checkpoint s = .next { s.raise f 0 0x11 0 with focus := none }) ∧
    (f.hdr = 0 → s.yields f = true → s.yieldFails f = true →
      exec .yieldPoint s = .next { s.raise f 0 0x11 0 with focus := none }) ∧
    (f.hdr = 0 → s.yields f = true → s.yieldFails f = false →
      ∃ t, exec .yieldPoint s = .next t ∧ t.ctx f.core f.ctx = { k.ctx f.ctx with st := .waiting, wait := .yield } ∧
        (t.core f.core).lcOf f.ctx = (k.lcOf f.ctx).map (fun l => { l.relNames f.ctx (l.ypNames f.ctx) with stale := true, tblStale := 15 }) ∧
        t.skips = (s.settleClaims f.core f.ctx).skips ∧ t.focus = some { f with yield := true, hdr := 3, done := 0x1FF, part := 9 }) ∧
    (f.hdr = 1 → s.counts f = true →
      ∃ t, exec .loopEndCount s = .next t ∧ (t.ctx f.core f.ctx).loops = (countAt f.idx (s.ctx f.core f.ctx).loops).1 ∧
        t.focus = some { f with lr := (countAt f.idx (s.ctx f.core f.ctx).loops).2, hdr := 2 })

/-- At index i, entries whose last iteration is done are popped from the inside; the first other entry that ends there advances its index and fetch goes to its start, and when none is left that ends at i there is no redirect; entries further out stay as they are. (R109) -/
def Obligations.LoopEndsCountFromTheInside : Prop :=
  ∀ (i : BitVec 12) (done out : List LoopEntry),
    (∀ e ∈ done, e.stop = i ∧ e.count.toNat ≤ (e.idx + 1).toNat) →
    (∀ e, e.stop = i → (e.idx + 1).toNat < e.count.toNat → countAt i (done ++ e :: out) = ({ e with idx := e.idx + 1 } :: out, some e.start)) ∧
    ((∀ e ∈ out.head?, e.stop ≠ i) → countAt i (done ++ out) = (out, none))

/-- In the bundle that issues, lpn reads the iteration index of entry n of the context loop stack as it stood when the bundle came into issue, counted from the innermost, and 0 where there is no such entry; a slot form that changes the stack leaves what the bundle reads unchanged, and the next bundle of the context reads the changed stack. (R107) -/
def Obligations.LoopIndices : Prop :=
  (∀ (s : State) (c : CoreId) (k : CtxId) (w : BundleWord) (n : BitVec 3),
      (∀ e, (s.ctx c k).loops[n.toNat]? = some e → (s.focusOf c k w).lp n = e.idx) ∧
      ((s.ctx c k).loops.length ≤ n.toNat → (s.focusOf c k w).lp n = 0) ∧
      s.readX (s.focusOf c k w) (.loop n) = ((s.focusOf c k w).lp n).zeroExtend 64) ∧
    ∀ (s t : State) (f : Focus) (i : Instr), isLoopForm i = true ∨ i = .loopEndCount → s.focus = some f → exec i s = .next t →
      ∀ g, t.focus = some g → ∀ n, g.lp n = f.lp n

/-- A bundle with no redirect is followed by the next index, index 4,095 by index 0; a jump whose target is a multiple of 64 up to 0x3_FFC0 redirects to it, and any other target raises trap 0x02. (R83) -/
def Obligations.SequentialFetchAndTargets : Prop :=
  (∀ (x : Ctx) (f : Focus), x.pending = none → f.lr = none →
      (x.nextIndex f).pc.toNat = (f.idx.toNat + 1) % 4096) ∧
    ∀ (s : State) (f : Focus) (target : Word),
      (target.toNat ≤ 0x3FFC0 → target.toNat % 64 = 0 →
        s.jumpTo f target = { s with focus := some { f with jump := some (BitVec.ofNat 12 (target.toNat / 64)) } }) ∧
      (0x3FFC0 < target.toNat ∨ target.toNat % 64 ≠ 0 → s.jumpTo f target = s.raise f 1 0x02 target)

/-- When a bundle with a taken branch ends with no redirect pending, the next index is the one after it or the loop redirect, and the target is pending; when that next bundle ends, whatever its own loop redirect, the context goes to the target. (R77, R109) -/
def Obligations.DelayBundle : Prop :=
  ∀ (x : Ctx) (f g : Focus) (t : BitVec 12), x.pending = none → f.jump = some t →
    (x.nextIndex f).pc = (match f.lr with | some r => r | none => f.idx + 1) ∧ (x.nextIndex f).pending = some t ∧
    ((x.nextIndex f).nextIndex g).pc = t ∧ ((x.nextIndex f).nextIndex g).pending = g.jump

/-- A context takes the replayable trap that R319 chooses: it is Trapped, its unreleased withhold entries and waits go and no trap of it stays; once its older work has landed its registers are those of the checkpoint, with a free value where a result was still to reach one, and the trap counts as reported; a TRAPCMD with another ACTION does nothing, one that misses, or whose context has not rolled back, sets BADCMD, a resume of a rolled-back context wakes it and an abort of one (also of one that waits at a yield point) ends its launch with status 9; an abort that is due stops the launch. (R319, R320, R321, R325, R326) -/
def Obligations.TrapRows : Prop :=
  ∀ (s : State) (c : CoreId) (k : CtxId) (vf : Fin 9) (val : BitVec 64) (lk : Nat),
    (∀ tr, (s.core c).trapOf k = some tr → ∃ t, exec (.rollback c k) s = .next t ∧ (t.ctx c k).st = .trapped ∧ (t.ctx c k).rb = some (tr, false) ∧
      (∀ u ∈ (t.core c).traps, u.ctx ≠ k) ∧ (∀ e ∈ (t.ctx c k).wh, e.rel.isSome = true) ∧ (t.ctx c k).wait = .none) ∧
    (∀ tr b, s.rolledBack c k = true → (s.ctx c k).rb = some (tr, b) → ∃ t free, exec (.rollbackComplete c k) s = .next t ∧
      (t.ctx c k).rb = some (tr, true) ∧
      { t.ctx c k with wakeCyc := none } = { ((s.core c).restoreCtx k tr free).ctx k with wakeCyc := none }) ∧
    (s.abortDue lk = true → ∃ t, exec (.abort lk) s = .next t ∧ ∀ l ∈ t.launches, l.key = lk → l.stopped = true) ∧
    (val.extractLsb' 24 2 ≠ 1#2 → exec (.trapcmdResume vf val) s = .next s) ∧ (val.extractLsb' 24 2 ≠ 2#2 → exec (.trapcmdAbort vf val) s = .next s) ∧
    (val.extractLsb' 24 2 = 1#2 → ∀ d i m, s.trapTarget vf val = some (d, i, m) →
      ((s.ctx d i).rolledBack = true → exec (.trapcmdResume vf val) s = .next (s.modCtx d i fun x => { x with wakeTick := some s.now })) ∧
      ((s.ctx d i).rolledBack = false → exec (.trapcmdResume vf val) s = .next (s.modVf vf fun v => { v with badcmd := true }))) ∧
    (val.extractLsb' 24 2 = 2#2 → ∀ d i m, s.trapTarget vf val = some (d, i, m) →
      ((s.ctx d i).rolledBack = true ∨ (s.ctx d i).wait = .yield →
        exec (.trapcmdAbort vf val) s = .next (s.decideAbort m 9 (((s.ctx d i).rb.map fun r => r.1.cause).getD 0) d.val)) ∧
      ((s.ctx d i).rolledBack = false → (s.ctx d i).wait ≠ .yield →
        exec (.trapcmdAbort vf val) s = .next (s.modVf vf fun v => { v with badcmd := true }))) ∧
    (s.trapTarget vf val = none → (val.extractLsb' 24 2 = 1#2 → exec (.trapcmdResume vf val) s = .next (s.modVf vf fun v => { v with badcmd := true })) ∧
      (val.extractLsb' 24 2 = 2#2 → exec (.trapcmdAbort vf val) s = .next (s.modVf vf fun v => { v with badcmd := true })))

/-- When the rollback of a trap on a context completes, be it an ordinary trap or one of a containment, its program counter, pending redirect, loop stack, x, v and m registers, DEBT, LFSRs and barrier counts are those of the checkpoint copy where no result was still to reach them at the CK bundle, FPFLAGS those of the copy with the flags of older matrix rows, and every other context of the core keeps its registers. That DEBT goes back to the copy is the model's reading (DEDUCED, log entry 99). (R316, R320, R131) -/
def Obligations.RollbackRestoresTheCheckpoint : Prop :=
  ∀ (s : State) (c : CoreId) (k : CtxId) (tr : Trap) (q : Ckpt), s.rolledBack c k = true → (s.ctx c k).rb = some (tr, false) →
    (s.ctx c k).ck = q → q.open_ = [] →
    ∃ t, exec (.rollbackComplete c k) s = .next t ∧ (t.ctx c k).pc = q.pc ∧ (t.ctx c k).pending = q.pending ∧ (t.ctx c k).loops = q.loops ∧
      (t.ctx c k).x = q.x ∧ (t.ctx c k).v = q.v ∧ (t.ctx c k).m = q.m ∧ (t.ctx c k).th = q.th ∧ (t.ctx c k).debt = q.debt ∧
      (t.ctx c k).lfsr = q.lfsr ∧ (t.ctx c k).rtab = q.rtab ∧ (t.ctx c k).barcnt = q.barcnt ∧
      (t.ctx c k).fpflags = q.fpflags ||| (s.ctx c k).lateFl ∧ (t.ctx c k).rb = some (tr, true) ∧ ∀ j, j ≠ k → t.ctx c j = s.ctx c j

/-- A context with traps of one cycle, none of them older than its checkpoint and none of a containment, takes one of them whose cause is not above that of any other; with an older one it takes none, and the launch is to be aborted with the lowest cause among the older ones. (R319) -/
def Obligations.TrapsTaken : Prop :=
  ∀ (k : Core) (i : CtxId),
    (∀ t, k.trapOf i = some t → t ∈ k.traps ∧ t.ctx = i ∧ k.stale t = false ∧
      (t.pod = false → ∀ u ∈ k.traps, u.ctx = i → k.stale u = false ∧ u.pod = false ∧ t.cause ≤ u.cause)) ∧
    (k.trapOf i = none → ∀ u ∈ k.traps, u.ctx = i → ∃ v ∈ k.traps, v.ctx = i ∧ k.stale v = true) ∧
    ∀ lk t, k.staleTrap lk = some t → t ∈ k.traps ∧ t.lk = lk ∧ k.stale t = true ∧
      ∀ u ∈ k.traps, u.lk = lk → k.stale u = true → t.cause ≤ u.cause

/-- The entries whose release cycle has come leave the buffer and perform; a due piece of the queue takes its slot once; a released in-place cp.red takes a free place with s = max(g, f + 1); the bitmap of a settled mcast joins the results of the cycle; a remote access that arrives at banks its partition owns stands for its port, and else fails back with 0x21; a report raises its trap at the issuing core. A passage of a user skip performs reads, then updates, then checks, then boarding; a passage of a system skip serves the barriers; a board that found no skip in 360 passages gives status 1 at issue + 362 and wakes its context; a fallback check reads its record and stands again 360 cycles later. That ownership is judged before ports, so an access that fails both reports 0x21, is the model's reading (log entry 50), as is the bitmap of an mcast that waits for every member (log entry 59). (R175, R230, R233, R236, R244, R248, R273, R282, R285, R288) -/
def Obligations.EngineWithholdAndHaulRows : Prop :=
  (∀ (s : State) (c : CoreId) (k : CtxId),
    (∀ e es, (s.ctx c k).wh.filter (fun e => e.rel.any fun r => decide (r ≤ (s.core c).cyc)) = e :: es →
      exec (.withholdRelease c k) s = .next ((s.modCtx c k fun x =>
        { x with wh := x.wh.filter fun e => !e.rel.any fun r => decide (r ≤ (s.core c).cyc) }).release c k (s.core c).cyc (e :: es))) ∧
    (∀ m, (s.core c).cmds.find? (fun m => decide (m.next < m.pieces) && decide (m.slot + m.next ≤ (s.core c).cyc)) = some m →
      let u := s.modCore c fun k => k.modCmd m fun x => { x with next := x.next + 1 }
      (m.kind = .rrd → exec (.enginePiece c) s = .next (u.sendRrd c m m.next)) ∧
      (m.kind ≠ .rrd → exec (.enginePiece c) s = .next (u.addAccess c (m.access (s.core c).cyc (m.pieceReads m.next) [] (.piece m m.next))))) ∧
    (∀ m, (s.core c).cmdWait.find? (fun m => decide (m.slot ≤ (s.core c).cyc)) = some m → (s.core c).cmds.length < 16 →
      exec (.cpRedInplaceEnqueue c) s = .next (s.modCore c fun k =>
        { k with cmdWait := k.cmdWait.erase m, cmds := k.cmds ++ [{ m with slot := max k.cyc k.afterQueue }] })) ∧
    (∀ m, (s.core c).mcasts.find? (fun m => decide (m.due ≤ (s.core c).cyc) && m.settled) = some m →
      exec (.mcastOutcome c) s = .next (s.modCore c fun k => ({ k with mcasts := k.mcasts.filter fun x => !x.same m }).addResult
        ⟨m.ctx, m.lk, m.issued, 7, (s.core c).cyc, false, destX m.d m.nw, m.failed.zeroExtend 4096, allLanes, some 5, 0, false⟩)) ∧
    (∀ w, s.wire.find? (fun w => w.target == c && decide (w.acc.due ≤ s.now)) = some w →
      let u : State := { s with wire := s.wire.erase w }
      ((∀ b ∈ w.acc.banks, s.ownedBy c w.part b = true) → exec (.timedRemoteArrival c) s = .next (u.addAccess c w.acc)) ∧
      ((∃ b ∈ w.acc.banks, s.ownedBy c w.part b = false) → ∃ a, exec (.timedRemoteArrival c) s = .next (u.failAcc c w.acc 0x21 a))) ∧
    (∀ r, (s.core c).reportDue s.now = some r →
      exec (.remoteFailureReport c) s = .next (s.modCore c fun k => { k with reports := k.reports.erase r }.addTrap r.trap))) ∧
  (∀ (s : State) (c : CoreId),
    (s.passageDue c = true →
      (skipAt (stageOf c) s.now ≤ 5 → exec (.haulPassage c) s = .next (s.passSystem c (skipAt (stageOf c) s.now))) ∧
      (5 < skipAt (stageOf c) s.now → exec (.haulPassage c) s = .next (s.passUser c (skipAt (stageOf c) s.now)))) ∧
    (∀ u, (s.core c).exhausted s.now = some u →
      exec (.boardExhausted c) s = .next (((s.dropHaul c u).wakeAt c u.ctx (u.after + 362)).addResult c
        (u.result (u.after + 362) true false (destX u.d u.nw) (BitVec.ofNat 4096 0x10000)))) ∧
    (∀ u, (s.core c).fbCheck = some u →
      exec (.fallbackCheck c) s = .next ((s.putHaul c u { u with after := u.after + 360 }).fbRead c { u with after := 0 } 0
        ((s.core c).cyc + 2 * fbTime c u.skip + 2))))

/-- A gld reply that is due frees its entry on the next cycle and stands to write its chunks on this one; a gst acknowledgement that is due frees its entry; a gatom value that is due joins the results of this cycle for its register, its checkpoint copy and latch bc (nothing for x0); a race mark raises trap 0x40 instead; a request whose reply is still missing 2^20 clock periods after its due cycle frees its entry with a new generation, counts in TIMEOUTS and traps 0x14; a reply that fits no request is dropped and counted in SPOILS. (R177, R239, R240, R241, R242, R247, R269) -/
def Obligations.LandingRows : Prop :=
  ∀ (s : State) (c : CoreId) (e : Fin 64) (r : UReq) (p : Reply),
    let k := s.core c
    let u : State := s.modCore c fun k => k.freeNext e
    let due (kind : UKind) : Prop :=
      k.land[e].req = some r ∧ k.land[e].freeAt = none ∧ r.kind = kind ∧ (∃ d, r.due = some d ∧ d ≤ k.cyc) ∧ r.reply = some p
    let raced (i : Instr) : Prop := ∀ a, p.race = some a → exec i s = .next (u.modCore c fun k => k.addTrap (r.trap 0x40 a))
    (due .gld → raced (.gldLanding c e) ∧ (p.race = none → exec (.gldLanding c e) s = .next (u.addAccess c
      { due := k.cyc, byTick := false, party := .landing, always := false, prio := 0, ctx := r.ctx, lk := r.lk, issued := r.issued, part := 7, eng := 1,
        bundle := r.bundle, rd := [], wr := zipWrites (chunkVas r.loc p.data.length) p.data, tagR := none, tagW := [], zero := [], hold := none,
        act := .write, lost := [] }))) ∧
    (due .gst → raced (.gstAck c e) ∧ (p.race = none → exec (.gstAck c e) s = .next u)) ∧
    (due .gatom → raced (.gatomValue c e) ∧
      (p.race = none → r.nw = false → r.d = 0 → exec (.gatomValue c e) s = .next u) ∧
      (p.race = none → r.nw = true ∨ r.d ≠ 0 → exec (.gatomValue c e) s = .next (u.addResult c
        ⟨r.ctx, r.lk, r.issued, 7, k.cyc, false, destX r.d r.nw, (amoOld r.fp p.old).zeroExtend 4096, allLanes, some 5, 0, true⟩))) ∧
    (k.land[e].req = some r → k.land[e].freeAt = none → r.reply = none → 2 ^ 20 ≤ r.late → ∃ t, exec (.landingTimeout c e) s = .next t ∧
      (t.core c).land[e].req = none ∧ (t.core c).land[e].freeAt = none ∧ (t.core c).land[e].gen = k.land[e].gen + 1 ∧
      (t.core c).timeout = satAdd k.timeout 1 ∧ (t.core c).traps = k.traps ++ [r.trap 0x14 (BitVec.ofNat 64 r.va)]) ∧
    (∀ m rest, s.replies = m :: rest → m.at_ ≤ s.now → m.core = c.val → s.replyFits m = false →
      exec (.spoil c) s = .next (({ s with replies := rest }).modCore c fun k => { k with spoil := satAdd k.spoil 1 })) ∧
    ∀ m, s.replies.find? (fun m => decide (m.at_ ≤ s.now) && m.core == c.val && !s.replyFits m) = some m →
      exec (.spoil c) s = .next (({ s with replies := s.replies.erase m }).modCore c fun k => { k with spoil := satAdd k.spoil 1 })

/-- A read that its homes may perform, with no race, is answered with the bytes that stand in its chunks and leaves both memories as they are; a gst that its homes may perform, with no race, writes its chunks one after the other; of one chunk of HBM at a multiple of 64 the 64 bytes, every other byte of memory staying as it is; a gatom writes the new value of its word; in each case the request leaves the queue. A gld, gst or gatom with a race of mode 1 is answered with the mark of its first sector and no data, and neither memory changes. That a request with chunks of several homes is performed in one step, the first in which all of them may, is the model's choice (log entry 105). (R240, R241, R242, R257, R259, R268, R269) -/
def Obligations.HomeRows : Prop :=
  ∀ (s : State) (n : Nat) (q : HomeReq), s.homeQ[n]? = some q → s.homeMay q = true →
    let left (t : State) : Prop := t.homeQ = s.homeQ.eraseIdx n
    (q.kind = .gld → (∃ t, exec (.homeServeRead n) s = .next t ∧ left t ∧ (s.races q = [] → t.mem = s.mem ∧ t.hostMem = s.hostMem)) ∧
      (∀ a, raceMark s.pf.pkg.toNat (s.races q) = some a → ∃ t, exec (.homeServeRead n) s = .next t ∧ left t ∧ t.mem = s.mem ∧ t.hostMem = s.hostMem ∧
        (q.pkg = s.pf.pkg.toNat → ∃ r, t.replies = s.replies ++ [r] ∧ r.reply.race = some a ∧ r.reply.data = [])) ∧
      (s.races q = [] → q.pkg = s.pf.pkg.toNat → ∃ t r, exec (.homeServeRead n) s = .next t ∧ t.replies = s.replies ++ [r] ∧ r.core = q.core ∧
        r.entry = q.entry ∧ r.gen = q.gen ∧ r.reply.race = none ∧
        r.reply.data.map Prod.fst = q.chunks.map fun c => BitVec.ofNat 512 (s.homeRead q.part (podLoc c.1) 64))) ∧
    (q.kind ≠ .gld → (∃ t, exec (.homeApplyWrite n) s = .next t ∧ left t) ∧
      (∀ a, raceMark s.pf.pkg.toNat (s.races q) = some a → ∃ t, exec (.homeApplyWrite n) s = .next t ∧ t.mem = s.mem ∧ t.hostMem = s.hostMem ∧
        (q.pkg = s.pf.pkg.toNat → ∃ r, t.replies = s.replies ++ [r] ∧ r.reply.race = some a ∧ r.reply.data = []))) ∧
    (q.kind = .gst → raceMark s.pf.pkg.toNat (s.races q) = none → s.races q = [] →
      (∃ t, exec (.homeApplyWrite n) s = .next t ∧ t.mem = (q.chunks.foldl (fun s c => s.homeChunk q c) s).mem ∧
        t.hostMem = (q.chunks.foldl (fun s c => s.homeChunk q c) s).hostMem) ∧
      ∀ a d m die, q.chunks = [(a, d, m)] → regionOf (podLoc a) = .hbm die → podLoc a % 64 = 0 →
        ∃ t, exec (.homeApplyWrite n) s = .next t ∧ (∀ i < 64, t.mem.byte (podLoc a + i) = d.extractLsb' (8 * i) 8) ∧
          ∀ x, x < podLoc a ∨ podLoc a + 64 ≤ x → t.mem.byte x = s.mem.byte x) ∧
    (q.kind = .gatom → s.races q = [] → ∀ a d m rest, q.chunks = (a, d, m) :: rest →
      let old := BitVec.ofNat 32 (s.homeRead q.part (podLoc a) 4)
      ∃ t, exec (.homeApplyWrite n) s = .next t ∧
        t.mem = (s.homeWrite q.part (podLoc a) 4 (amoValue q.op q.fp old q.b).toNat 0).mem ∧
        t.hostMem = (s.homeWrite q.part (podLoc a) 4 (amoValue q.op q.fp old q.b).toNat 0).hostMem ∧
        (q.pkg = s.pf.pkg.toNat → ∃ r, t.replies = s.replies ++ [r] ∧ r.reply.old = old ∧ r.reply.race = none))

/-- A due row of a matrix form lands in its accumulators, or, where an older form of the same interval writes the same slot on that cycle, traps 0x11 and its form stops; a walk that is over and wanted writes its handle, or raises its translation trap with part 7 and the address; a refetched slot whose time has come is rewritten from the chunk of the image that covers its index, and a word or tile that stays late for the limit of R86 raises its trap and counts in TIMEOUTS; a reusing chunk whose cycle has come has its next word written. The limit of 2^20 periods for a late word is the model's choice (log entry 13), as is a free value in ADDR of its trap (log entry 10). (R86, R87, R208, R223, R238) -/
def Obligations.MatrixAndWalkRows : Prop :=
  ∀ (s : State) (c : CoreId) (lk : Nat),
    (∀ m r, (s.core c).rowDue = some (m, r) →
      ((s.core c).slotTaken m = true → exec (.matrixRowLand c) s =
        .next ((s.matTrap c m 0x11 0 0 0).modCore c fun k => k.stopForms fun q => q.id == m.id)) ∧
      ((s.core c).slotTaken m = false → exec (.matrixRowLand c) s =
        .next ((s.modCore c fun k => k.modForm m.id fun m => { m with lands := m.lands.filter fun q => q.i != r.i }).landRow c m r))) ∧
    (∀ m r rest lands, (s.core c).mforms = m :: rest → m.lands = r :: lands → r.at_ ≤ (s.core c).cyc → ∃ t, exec (.matrixRowLand c) s = .next t) ∧
    (∀ w, s.walkDue c = some w → ∃ t, exec (.walkEnd c) s = .next t ∧ t = s.landWalk c w ∧
      (t.core c).walks = (s.core c).walks.filter (fun q => !(q.ctx == w.ctx && q.d == w.d)) ∧
      (∀ h x, w.res = some (some h, x) → (t.ctx c w.ctx).th[w.d.toNat]? = some (some h) ∧ (t.core c).traps = (s.core c).traps) ∧
      ∀ x, w.res = some (none, x) → t.ctx c w.ctx = s.ctx c w.ctx ∧ ∃ tr, (t.core c).traps = (s.core c).traps ++ [tr] ∧ tr.cause = x ∧ tr.part = 7 ∧
        tr.ctx = w.ctx ∧ tr.addr = BitVec.ofNat 64 w.va) ∧
    (∀ k idx t0, (s.core c).refetch = some (k, idx, t0) → t0 ≤ s.now →
      (∃ t, exec (.lateLanding c) s = .next t ∧ (t.core c).refetch = none) ∧
      ∀ l no ch, (s.core c).lc k = some l → s.expected c l idx.toNat = some (no, ch) → exec (.lateLanding c) s =
        .next ((s.modCore c fun q => { q with refetch := none }).modCore c fun q => { q.storeSlot l idx no with rewrote := some s.now })) ∧
    (∀ tr, (s.core c).refetch = none → s.lateNow c = some tr → s.lateOut c = true → exec (.lateLanding c) s =
      .next (s.modCore c fun k => { k with lateSince := none, timeout := satAdd k.timeout 1 }.addTrap tr)) ∧
    (∀ l no w, (s.core c).lc lk = some l → (s.stream c lk)[l.fchunk]? = some (no, w) → reusing (s.stream c lk) l.fchunk = true →
      s.fetchMay [] l no w true = true → exec (.reusingChunkWrite c lk) s = .next (s.fetchWrite c l no w))

/-- The prefix check of an image that waits for it replies with the code of the first failing check, or 0; the next chunk of an accepted image counts as arrived, stops the stream with status 2 when it breaks its bounds, and with status 7 when an in-place form stands in a preemptible image; a digest that agrees is noted, and one that does not refuses the image with 0x81. A start vector that is no 64-byte write to a queue of a running VF with dies, or has a bad CADDR, is dropped and counted; one that fails acceptance ends with its status; any other is queued and asks for a selection; a priority change reaches a queued launch and reports 1 or 2 else; a due selection visits the nine partitions in rotation; an aging step asks for a selection; a start cycle gives every context of the launch its start state: Ready at its entry, x10 the parameter, every other x, v and m register but the wired m0 zero, no loop, no flag, no DEBT, a first checkpoint; at a due retirement point the launch ends with its status. Status 2 for a bundle past index 4,095 and what the prefix check judges are the model's readings (log entries 32 and 31), that a rejected start vector leaves an ended launch its choice (log entry 38). (R14, R26, R27, R28, R32, R34, R35, R36, R39, R49, R50, R340) -/
def Obligations.LoaderAndLaunchRows : Prop :=
  (∀ (s : State) (h : Nat) (i : LoadedImage), s.loaded h = some i →
    (i.checked = false → exec (.imagePrefixCheck h) s =
      .next ((s.modImage h fun i' => { i' with checked := true, refused := loaderCode i.img s.pf.parent, passed := (loaderCode i.img s.pf.parent).isNone }).emit (.loader h ((loaderCode i.img s.pf.parent).getD 0)))) ∧
    (i.checked = true → i.refused = none → ∀ ch, i.img.chunks[i.arrived]? = some ch →
      (chunkBreaks i.img ch = true → exec (.chunkLands h) s = .next (s.stopStream i 2)) ∧
      (chunkBreaks i.img ch = false → ch.kind = 6 → imagePre i.img = true → ch.payload.any bundleInplace = true →
        exec (.chunkLands h) s = .next (s.stopStream i 7)) ∧
      (chunkBreaks i.img ch = false → ch.kind ≠ 6 ∨ imagePre i.img = false ∨ ch.payload.any bundleInplace = false →
        exec (.chunkLands h) s = .next (s.modImage h fun i' => { i' with arrived := i'.arrived + 1 }))) ∧
    (i.digestDue = true →
      (digestOk i.img = true → exec (.fullDigestDecided h) s = .next (s.modImage h fun i' => { i' with digested := true })) ∧
      (digestOk i.img = false → ∃ t, exec (.fullDigestDecided h) s = .next t ∧
        ∀ j ∈ t.images, j.handle = h → j.refused = some 0x81 ∧ j.digested = true))) ∧
  (∀ (s : State) (vf : Fin 9) (off : Nat) (data : List (BitVec 8)) (val : BitVec 64) (q : Fin 16) (lk : Nat),
    (0x1000 ≤ off → off < 0x1400 → q.val = (off - 0x1000) / 64 →
      let v : StartVec := BitVec.ofNat 512 (packNat 8 (data.map BitVec.toNat))
      let dropped : State := s.modVf vf fun x => { x with lqdrop := x.lqdrop.set q (satAdd x.lqdrop[q] 1) }
      let heard : Prop := data.length = 64 ∧ off % 64 = 0 ∧ (∃ d < 9, s.holdsDie (vf.val + 1) d = true) ∧ s.vfs[vf].tdisp = .run ∧
        svCaddr v ≠ 0 ∧ svCaddr v % 32 = 0
      let l := s.newLaunch (vf.val + 1) q.val v
      let u : State := { s with launches := s.launches ++ [l], nextKey := s.nextKey + 1 }
      (¬heard → exec (.startVector vf off data) s = .next dropped) ∧
      (heard → ∀ st, s.acceptFault (vf.val + 1) s.vfs[vf].queues[q] v = some st → exec (.startVector vf off data) s = .next (u.endLaunch l.key st 0 0)) ∧
      (heard → s.acceptFault (vf.val + 1) s.vfs[vf].queues[q] v = none →
        exec (.startVector vf off data) s = .next { u.setQueue vf q (s.vfs[vf].queues[q] ++ [l.key]) with selectDue := true })) ∧
    (off < 0x1000 ∨ 0x1400 ≤ off → exec (.startVector vf off data) s = .next s) ∧
    (let ls := (s.launchesOf (vf.val + 1)).filter fun l => l.id == val.extractLsb' 0 16;
      (ls = [] → exec (.lqprio vf val) s = .next (s.modVf vf fun v => { v with lqpriost := 2 })) ∧
      (ls ≠ [] → (∀ l ∈ ls, l.st ≠ .queued) → exec (.lqprio vf val) s = .next (s.modVf vf fun v => { v with lqpriost := 1 })) ∧
      ∀ l, ls.find? (fun l => l.st == .queued) = some l → exec (.lqprio vf val) s =
        .next ((s.modLaunch l.key fun l => { l with prio := (val.extractLsb' 16 2).toNat }).modVf vf fun v => { v with lqpriost := 0 })) ∧
    (s.selectDue = true → exec .selectionPass s = .next
      (((List.range 9).map fun j => (Fin.ofNat 9 (s.lastPart % 9 + j) : Fin 9)).foldl (fun s n => s.select n) { s with selectDue := false })) ∧
    (∀ h, s.queueHead vf q = some h → h.aged < (s.now - h.headSince) / agingTicks → exec (.agingStep vf q) s =
      .next { s.modLaunch h.key (fun l => { l with aged := (s.now - h.headSince) / agingTicks }) with selectDue := true }) ∧
    (∀ l, s.launch lk = some l → s.startDue l = true → exec (.startCycle lk) s = .next (l.recs.foldl (fun s r => s.startRec l r) s)) ∧
    (∀ l r c i, coreOf r.core = some c → i ∈ r.ctxs →
      let x := (s.startRec l r).ctx c i
      x.st = .ready ∧ x.pc = l.entryPc r.core i ∧ (∀ n, x.xr n = if n = 10 then svParam l.sv else 0) ∧ (∀ n, x.vr n = 0) ∧
        (∀ n, n ≠ 0 → x.mr n = 0) ∧ x.fpflags = 0 ∧ x.debt = 0 ∧ x.loops = [] ∧ x.pending = none ∧ x.ck.pc = x.pc ∧ x.ck.x = x.x ∧ x.ck.v = x.v ∧ x.ck.m = x.m ∧ x.ck.loops = []) ∧
    (∀ l, s.launch lk = some l → s.retires l = true → ∃ t, exec (.retirementPoint lk) s = .next t ∧
      ∀ m ∈ t.launches, m.key = lk → m.st = .ended ∧ m.status = (l.abort.getD (0, 0, 0)).1))

/-- At Ys a yielded launch becomes Saved; a launch due back becomes bound; a swap of a partition outside 1 to 9 does nothing (log entry 40), one while another runs is refused with RESULT 4, a swap-in of a partition that is not parked with RESULT 3, a swap-out with a launch that may not be saved with RESULT 2, and else a swap-out of dies that hold a parked partition with RESULT 3 (the order of these refusals is the model's reading, log entry 41); a swap-out that may start, and a swap-in of a partition parked on the dies it holds, name it in PART and are in progress with RESULT 1, or are over with RESULT 0 when nothing of the partition is bound or parked. (R331, R333, R334, R336, R337) -/
def Obligations.PreemptionAndSwapRows : Prop :=
  ∀ (s : State) (a : Agent) (p : BitVec 4) (lk : Nat),
    let ends (t : State) : Prop := t.pf.swapPart = p ∧ ((t.pf.swap.isSome = true ∧ t.pf.swapResult = 1) ∨ (t.pf.swap = none ∧ t.pf.swapResult = 0))
    (∀ l, s.launch lk = some l → s.yielded l = true → (∃ t, l.ys = some t ∧ t ≤ s.now) →
      ∃ t, exec (.yieldSave lk) s = .next t ∧ ∀ m ∈ t.launches, m.key = lk → m.st = .saved ∧ m.yreq = none) ∧
    (∀ l, s.launch lk = some l → s.resumeDue l = true → l.parked = false ∨ s.isParked l.part = true → ∃ t, exec (.preemptResume lk) s = .next t ∧
      ∀ m ∈ t.launches, m.key = lk → m.st = .bound ∧ m.yr = none) ∧
    (s.owns a = true →
      (p = 0 ∨ 9 < p.toNat → exec (.swapOut a p) s = .next s ∧ exec (.swapIn a p) s = .next s) ∧
      (p ≠ 0 → p.toNat ≤ 9 → s.pf.swap.isSome = true →
        exec (.swapOut a p) s = .next { s with pf := { s.pf with swapPart := p, swapResult := 4 } } ∧
        exec (.swapIn a p) s = .next { s with pf := { s.pf with swapPart := p, swapResult := 4 } }) ∧
      (p ≠ 0 → p.toNat ≤ 9 → s.pf.swap = none → s.isParked p.toNat = false →
        exec (.swapIn a p) s = .next { s with pf := { s.pf with swapPart := p, swapResult := 3 } }) ∧
      (p ≠ 0 → p.toNat ≤ 9 → s.pf.swap = none → s.swappable p.toNat = false →
        exec (.swapOut a p) s = .next { s with pf := { s.pf with swapPart := p, swapResult := 2 } }) ∧
      (p ≠ 0 → p.toNat ≤ 9 → s.pf.swap = none → s.swappable p.toNat = true →
        (∃ d : Fin 9, d.val ∈ s.diesOf p.toNat ∧ (s.die d).parked ≠ none) →
        exec (.swapOut a p) s = .next { s with pf := { s.pf with swapPart := p, swapResult := 3 } }) ∧
      (p ≠ 0 → p.toNat ≤ 9 → s.pf.swap = none → s.swappable p.toNat = true →
        (∀ d : Fin 9, d.val ∈ s.diesOf p.toNat → (s.die d).parked = none) → ∃ t, exec (.swapOut a p) s = .next t ∧ ends t) ∧
      (p ≠ 0 → p.toNat ≤ 9 → s.pf.swap = none → (∀ q, s.parked.find? (fun q => q.part == p.toNat) = some q → s.diesOf p.toNat = q.dies) →
        s.isParked p.toNat = true → ∃ t, exec (.swapIn a p) s = .next t ∧ ends t))

/-- A claim while OWNER is 0 makes the writer the owner; a claim by the agent in PENDING makes it the owner and clears PENDING; any other claim changes nothing; a hand-over by the owner to agent 1 or 2 sets PENDING and leaves OWNER; a hand-over to a TARGET other than 1 and 2 changes nothing (DESIGN CHOICE, log entry 129); a release by the owner clears both; by another agent hand-over and release change nothing; no launch changes. (R30, R31) -/
def Obligations.OwnershipRules : Prop :=
  ∀ (s : State) (a : Agent) (g : BitVec 4),
    let n : BitVec 4 := BitVec.ofNat 4 a.num
    let own (o p : BitVec 4) : State := { s with pf := { s.pf with owner := o, pending := p } }
    (s.pf.owner = 0 → exec (.mgmtClaim a) s = .next (own n s.pf.pending)) ∧
    (s.pf.owner ≠ 0 → s.pf.pending = n → exec (.mgmtClaim a) s = .next (own n 0)) ∧
    (s.pf.owner ≠ 0 → s.pf.pending ≠ n → exec (.mgmtClaim a) s = .next s) ∧
    (s.pf.owner = n → g = 1 ∨ g = 2 → exec (.mgmtHandOver a g) s = .next (own s.pf.owner g)) ∧
    (s.pf.owner ≠ n ∨ (g ≠ 1 ∧ g ≠ 2) → exec (.mgmtHandOver a g) s = .next s) ∧
    (s.pf.owner = n → exec (.mgmtRelease a) s = .next (own 0 0)) ∧ (s.pf.owner ≠ n → exec (.mgmtRelease a) s = .next s) ∧
    State.reset.pf.owner = 0

/-- PARTMAP, PODCFG, LINKCMD, SWAPCMD, PWRBUD, THERMST, STOPALL and the other owner-only registers written by an agent that is not the owner leave everything as it is but MGMTDENY, which counts up to 255 and stays there. (R30) -/
def Obligations.OwnerOnlyWrites : Prop :=
  ∀ (s : State) (a : Agent) (v : BitVec 64) (p : BitVec 4) (off : Nat), s.owns a = false → off ≠ 8 →
    let t : State := { s with pf := { s.pf with deny := if s.pf.deny = 255 then 255 else s.pf.deny + 1 } }
    exec (.partmapWrite a v) s = .next t ∧ exec (.podcfgWrite a v) s = .next t ∧ exec (.linkcmdRetrain a v) s = .next t ∧
    exec (.swapOut a p) s = .next t ∧ exec (.swapIn a p) s = .next t ∧ exec (.pwrbudWrite a v) s = .next t ∧
    exec (.thermstClear a v) s = .next t ∧ exec (.stopall a v) s = .next t ∧ exec (.registerWrite (.pf a) off v) s = .next t

/-- PARTMAP changes when every die may move and reports busy else; HWBASE and RACEPOL change while no launch is bound and report busy else; PODCFG while no launch is live; LINKCMD trains its port; PWRBUD is clamped to 3,000 W; THERMST.TRIP clears when every sensor is below 85; STOPALL acts from the next tick; WCINV and BSINV note their request; a VF register takes its writable bits; package reset gives the reset state with the surroundings as they are. That a Saved launch counts as bound is the model's reading (log entry 76); that memory reads zero after reset and that host memory, inputs and sensors stay is its choice (log entries 1 and 81). (R32, R55, R65, R90, R269, R309, R315, R353, R363, R364, R7) -/
def Obligations.HostRegisterWrites : Prop :=
  ∀ (s : State) (a : Agent) (vf : Fin 9) (v : BitVec 64) (off : Nat),
    let busy : State := { s with pf := { s.pf with busy := true } }
    (s.owns a = true →
      ((∀ d : Fin 9, s.dieMoves d (partField v d.val) = true) → exec (.partmapWrite a v) s =
        .next { s with pf := { s.pf with partmap := Vector.ofFn fun d : Fin 9 => partField v d.val } }) ∧
      ((∃ d : Fin 9, s.dieMoves d (partField v d.val) = false) → exec (.partmapWrite a v) s = .next busy) ∧
      (s.launches.any Launch.live = true → exec (.podcfgWrite a v) s = .next busy) ∧
      (s.launches.any Launch.live = false → ∃ t, exec (.podcfgWrite a v) s = .next t ∧ t.pf.len = v.extractLsb' 48 12 ∧ t.pf.inc = v.extractLsb' 32 16 ∧
        t.pf.parent = v.extractLsb' 28 4 ∧ t.pf.pkg = v.extractLsb' 0 12) ∧
      (∀ p : Fin 12, v.extractLsb' 0 4 = BitVec.ofNat 4 p.val → v.getLsbD 4 = true →
        exec (.linkcmdRetrain a v) s = .next { s with ports := s.ports.set p { s.ports[p] with st := 1 } }) ∧
      (v.getLsbD 4 = false → exec (.linkcmdRetrain a v) s = .next s) ∧
      exec (.pwrbudWrite a v) s = .next { s with pf := { s.pf with budget := BitVec.ofNat 12 (min (v.extractLsb' 0 12).toNat 3000) } } ∧
      (v.getLsbD 0 = true → (∀ t ∈ s.sensors.toList, t < 85) → exec (.thermstClear a v) s = .next { s with pf := { s.pf with trip := false } }) ∧
      (v.getLsbD 0 = false ∨ (∃ t ∈ s.sensors.toList, 85 ≤ t) → exec (.thermstClear a v) s = .next s) ∧
      (v.getLsbD 0 = true → exec (.stopall a v) s = .next { s with pf := { s.pf with stopAt := some (s.now + 1) } }) ∧
      (off ≠ 8 → exec (.registerWrite (.pf a) off v) s = .next (s.writePf off v))) ∧
    (s.partBound (vf.val + 1) = true → exec (.hwbaseWrite vf v) s = .next busy ∧ exec (.racepolWrite vf v) s = .next busy) ∧
    (s.partBound (vf.val + 1) = false →
      exec (.hwbaseWrite vf v) s = .next (s.modVf vf fun x => { x with hwbase := v.extractLsb' 36 28 }) ∧
      (v.extractLsb' 0 2 = 3#2 → exec (.racepolWrite vf v) s = .next s) ∧
      (v.extractLsb' 0 2 = 0#2 → exec (.racepolWrite vf v) s = .next (s.modVf vf fun x => { x with racepol := v &&& 0xFFFFFFF000 })) ∧
      (v.extractLsb' 0 2 = 1#2 ∨ v.extractLsb' 0 2 = 2#2 → ∃ t, exec (.racepolWrite vf v) s = .next t ∧
        t.vfs[vf].racepol = (v &&& 0xFFFFFFF000) ||| (v &&& 3))) ∧
    (∃ t acks, exec (.wcinv vf v) s = .next t ∧ t.vfs[vf].wcinv = s.vfs[vf].wcinv ++ [(v, acks)]) ∧
    (∃ t acks, exec (.bsinv vf v) s = .next t ∧ t.bsinv = s.bsinv ++ [(vf.val + 1, v, acks)] ∧ t.vfs = s.vfs) ∧
    exec (.registerWrite (.vf vf) off v) s = .next (s.modVf vf fun x => x.write off v) ∧
    (∃ t, exec .packageReset s = .next t ∧ t.mem = [] ∧ t.now = 0 ∧ t.launches = [] ∧ t.cores = State.reset.cores ∧ t.pf = State.reset.pf ∧
      t.vfs = State.reset.vfs ∧ t.hostMem = s.hostMem ∧ t.inputs = s.inputs ∧ t.sensors = s.sensors)

/-- A command written while BUSY is 1 changes nothing; one for this package runs under the policy of its partition and ends with its ERR and, for a read, its value in DBGDATA; a command that its policy closes ends with ERR 1 and nothing else changes; a halt, resume or read of a core that is not the partition own ends with ERR 3. A forwarded command without a reply for 2^20 ticks ends with ERR 4 and BUSY 0; due watch records leave the pending list and, while the policy leaves watchpoints open, enter the log in their order and ask for a halt where they name one and halts are open; a policy record whose checks pass opens its access bits with status 1, one that fails sets status 2 and opens nothing new; CLR of the profile control empties the table of the core. That a refused COMMIT keeps OPEN is the model's reading (log entry 64), as are the access bits each command needs (log entry 62) and the fields that end with ERR 3 (log entry 63). (R342, R343, R344, R346, R348, R345, R351, R354, R360, R361) -/
def Obligations.DebugCommandsAndRows : Prop :=
  (∀ (s : State) (vf : Fin 9) (cmd : BitVec 64),
    let answers (i : Instr) (n : Nat) : Prop :=
      let r := s.dbgLocal (vf.val + 1) n cmd s.vfs[vf].dbgdata
      let ends (t : State) (e : BitVec 3) : State := t.modVf vf fun v => { v with dbgerr := e, dbgbusy := false, dbgfwd := none }
      (s.vfs[vf].dbgbusy = true → exec i s = .next s) ∧
      (s.vfs[vf].dbgbusy = false → cmd.getLsbD 51 = false →
        exec i s = .next (ends (if (n = 3 ∨ n = 5 ∨ n = 7) ∧ r.2.1 = 0 then r.1.modVf vf (fun v => { v with dbgdata := r.2.2 }) else r.1) r.2.1) ∧
        (s.pf.stopped = false → s.dbgAllowed (vf.val + 1) n (cmd.extractLsb' 0 32) = false → exec i s = .next (ends s 1)) ∧
        (s.pf.stopped = false → s.dbgAllowed (vf.val + 1) n (cmd.extractLsb' 0 32) = true → n ≤ 8 → s.dbgCoreOf (vf.val + 1) cmd = none →
          exec i s = .next (ends s 3))) ∧
      (s.vfs[vf].dbgbusy = false → cmd.getLsbD 51 = true → exec i s = .next (s.dbgForward vf n cmd s.vfs[vf].dbgdata))
    answers (.dbgHalt vf cmd) 1 ∧ answers (.dbgResume vf cmd) 2 ∧ answers (.dbgReadReg vf cmd) 3 ∧ answers (.dbgWriteReg vf cmd) 4 ∧ answers (.dbgReadMem vf cmd) 5 ∧ answers (.dbgWriteMem vf cmd) 6 ∧ answers (.dbgReadDebugReg vf cmd) 7 ∧ answers (.dbgWriteDebugReg vf cmd) 8 ∧ answers (.dbgHaltLaunch vf cmd) 9 ∧ answers (.dbgResumeLaunch vf cmd) 10 ∧
    (∀ c, s.vfs[vf].dbgbusy = false → cmd.getLsbD 51 = false → s.pf.stopped = false → s.isOpen (vf.val + 1) 0 = true →
      s.dbgCoreOf (vf.val + 1) cmd = some c → ∃ t, exec (.dbgHalt vf cmd) s = .next t ∧ (t.core c).dbg.req = (s.core c).dbg.req ++ [(1, s.now)])) ∧
  (∀ (s : State) (vf : Fin 9) (c : CoreId) (cmd : BitVec 64),
    (s.dbgLate vf = true → exec (.dbgForwardTimeout vf) s = .next (s.modVf vf fun v => { v with dbgerr := 4, dbgbusy := false, dbgfwd := none })) ∧
    ((s.core c).watchDue s.now = true → ∃ t, exec (.watchReport c) s = .next t ∧
      (t.core c).dbg.pend = (s.core c).dbg.pend.filter (fun r => !decide (r.due ≤ s.now)) ∧
      (let due := (s.core c).dbg.pend.filter fun r => decide (r.due ≤ s.now)
       let d := due.foldl (fun d r => d.post r.words) (s.core c).dbg
       let log (x : Debug) := (x.wlog, x.wnext, x.wtotal)
       (s.isOpen (s.partOfCore c) 2 = true → log (t.core c).dbg = log d ∧
         (s.isOpen (s.partOfCore c) 0 = true → (∃ r ∈ due, r.halt = true) → (t.core c).dbg.req = (s.core c).dbg.req ++ [(4, s.now)])) ∧
       (s.isOpen (s.partOfCore c) 2 = false → log (t.core c).dbg = log (s.core c).dbg ∧ (t.core c).dbg.req = (s.core c).dbg.req))) ∧
    (let r : BitVec 1024 := BitVec.ofNat 1024 (s.vfs[vf].window.span 0 128)
      let ok := s.policyOk vf r (s.vfs[vf].window.span 128 sigBytes);
      ∃ t, exec (.dbgpolCommit vf) s = .next t ∧ t.vfs[vf].polst = (if ok then 1 else 2) ∧
        t.vfs[vf].open_ = if ok then r.extractLsb' 288 5 else s.vfs[vf].open_) ∧
    (s.vfs[vf].dbgbusy = false → cmd.getLsbD 51 = false → s.pf.stopped = false → s.isOpen (vf.val + 1) 1 = true → s.isOpen (vf.val + 1) 3 = true →
      s.dbgCoreOf (vf.val + 1) cmd = some c → ∃ t, exec (.profctlClr vf cmd) s = .next t ∧ (t.core c).dbg.prof = [] ∧ t.vfs[vf].dbgerr = 0))

/-- A due program starts and becomes the running one; a due SEND counts its flit and, over a link that is up, sends its data sealed under the fabric key of the partition in its slot; a due FWD sends the flit as it arrived, or a void flit when none is there; a due RECV counts its flit, and the opened data stand to be written at its address with the tag it names, nothing for a void flit; a missing flit raises a link fault and counts as seen; an elastic buffer outside 4 to 28 marks its port; a due guard interval re-centres it to 16; LOCK falls at an offset above 2 ticks; in a due barrier slot the own arrival counts as carried; a due completion ends the instance of its level; a containment discards pending starts and selections; its resume is made once. A link that is not up brings no flit, packet or notice; an unknown kind or a wrong incarnation is counted in INCDROP and dropped; a packet for another package is queued towards it, and one for this package acts, a sealed one as its opened words say when its tag agrees; a notice is taken in and flooded; equal views after training bring the link up with its flight time, others hold it down; a time exchange sets OFFSET and, after four offsets below a quarter tick, LOCK. The content and the slots of barrier flits are the model's choice (log entry 60), and so is that an open packet of kinds 0 to 2 is counted in INCDROP (log entry 142); who tells an incarnation and who judges it (log entry 65), what a containment discards (log entry 70), a package without a parent (log entry 71), the path of a SEND (log entry 73), the step of TBNOW (log entry 82) and the stamps of an exchange (log entry 132) are its readings. (R299, R300, R304, R306, R309, R311, R313, R338, R274, R307, R296, R297) -/
def Obligations.PodAndLinkRows : Prop :=
  (∀ (s : State) (lk entry : Nat) (p : Fin 12) (l : Launch),
    let flowIn (t : State) : Option Flow := ((t.launch lk).bind fun m => m.flow entry).map Prod.snd
    let key (l : Launch) : Option (BitVec 256) := (vfOf l.part).bind fun n => s.vfs[n].keys[2]
    let slotOut (r : Run) (w : Flow) : Nat := slotFrom (r.b + peToff w.entry) w.sent
    (s.launch lk = some l →
      (∀ r, s.programDue l = true → s.nextRun l = some r → ∃ t, exec (.programStart lk) s = .next t ∧
        ∀ m ∈ t.launches, m.key = lk → m.pod.running = some r ∧ m.pod.pendRun = none) ∧
      (∀ r w, l.flow entry = some (r, w) →
        (peKind w.entry = 0 → s.sendDue r w = true → ∃ t, exec (.send lk entry) s = .next t ∧ (flowIn t).map Flow.sent = some (w.sent + 1) ∧
          ∀ x pay mark, w.held w.sent = some x → x.data = some (pay, mark) → (∃ q : Fin 12, q.val = peOport w.entry ∧ s.ports[q].st = 2) →
            let dst := l.podmap.getD (s.targetOf l r.variant r.prog l.podmap.length l.lpkg w.entry) 0
            let sealed := flitSeal (key l) (s.flitIv l r l.lpkg w.entry w.sent) pay
            t.outbox = (s.now, .flit (peOport w.entry) (slotOut r w) (mkHdr s.pf.pkg.toNat 0 dst l.part s.pf.inc (s.incOf dst) sealed.2) sealed.1 mark) :: s.outbox) ∧
        (peKind w.entry = 1 → s.sendDue r w = true → ∃ t, exec (.fwd lk entry) s = .next t ∧ (flowIn t).map Flow.sent = some (w.sent + 1) ∧
          ((∃ q : Fin 12, q.val = peOport w.entry ∧ s.ports[q].st = 2) →
            (∀ x h pay mark, w.held w.sent = some x → x.hdr = some h → x.data = some (pay, mark) → x.at_ + 64 ≤ w.outTick r.b w.sent →
              t.outbox = (s.now, .flit (peOport w.entry) (slotOut r w) h pay mark) :: s.outbox) ∧
            (w.held w.sent = none → t.outbox = (s.now, .flit (peOport w.entry) (slotOut r w)
              (s.voidHdr l ((s.neighbour (peOport w.entry)).getD 0)) 0 0) :: s.outbox))) ∧
        (∀ h, s.recvDue w = some h → ∃ t, exec (.recv lk entry) s = .next t ∧ (flowIn t).map Flow.wrote = some (w.wrote + 1) ∧
          (h.data = none → t.cores = s.cores) ∧
          ∀ pay mark c a src e, h.data = some (pay, mark) → regionOf (peLaddr w.entry + 128 * h.n) = .pad c a →
            s.sourceOf l r.variant r.prog (l.podmap.length + 1) l.lpkg w.entry = some (src, e) →
            ∃ x : Access, (t.core c).acc = (s.core c).acc ++ [x] ∧ x.due = s.now ∧ x.byTick = true ∧ x.always = true ∧
              x.party = .link (peIport w.entry) ∧ x.wr = flitChunks a (flitOpen (key l) (s.flitIv l r src e h.n) pay) mark ∧
              x.tagW = if peK w.entry then [(tileOf a, peTag w.entry)] else []) ∧
        (s.missingFlit r w = true → exec (.linkFault lk entry) s = .next ((s.linkFault l (peIport w.entry)).modFlow lk entry fun w =>
          { w with seen := w.seen + 1, wrote := w.wrote + 1 }))) ∧
      (s.barSlotDue l = true → ∃ t, exec (.podBarrierSlot lk) s = .next t ∧ ∀ m ∈ t.launches, m.key = lk → ∀ n ∈ s.barReady l,
        ∃ h ∈ m.pod.heard, h.1 = n ∧ h.2.2.1 = l.lpkg) ∧
      (s.barOverDue l = true → ∃ t, exec (.podBarrierComplete lk) s = .next t ∧ ∀ m ∈ t.launches, m.key = lk →
        (3 ∈ l.barOver s.now → m.pod.due[0] = none ∧ m.pod.part[0] = none) ∧ (4 ∈ l.barOver s.now → m.pod.due[1] = none ∧ m.pod.part[1] = none)) ∧
      (∀ d, s.containDue l = true → l.pod.firstNotice = some d → ∃ t, exec (.containment lk) s = .next t ∧
        ∀ m ∈ t.launches, m.key = lk → m.pod.pendRun = none ∧ m.pod.pendSel = none) ∧
      (s.podResumeDue l = true → ∃ t, exec (.containmentResume lk) s = .next t ∧ ∀ m ∈ t.launches, m.key = lk → m.pod.res = none)) ∧
    (s.ports[p].elastic < 4 ∨ 28 < s.ports[p].elastic → exec (.elasticBufferFault p) s =
      .next ((s.portLaunches p.val).foldl (fun s l => s.linkFault l p.val) (s.setFault p.val))) ∧
    (s.guardDue p = true → exec (.guardInterval p) s = .next { s with ports := s.ports.set p { s.ports[p] with elastic := 16 } }) ∧
    (s.pf.lock = true → 32 < s.pf.tbOffset.natAbs → ∃ t, exec .lockLoss s = .next t ∧ t.pf.lock = false)) ∧
  (∀ (s : State) (p : Fin 12) (slot : Nat) (h : BitVec 128) (pay : BitVec 1024) (m : BitVec 16) (b : PacketWire) (n : Notice) (x y : BitVec 32)
    (fl : BitVec 12) (t1 t2 t3 t4 : Nat),
    (s.ports[p].st ≠ 2 → exec (.flitArrival p slot h pay m) s = .next s ∧ exec (.openPacketArrival p h b) s = .next s ∧ exec (.faultNotice p n) s = .next s) ∧
    (s.ports[p].st = 2 →
      (5 < hdrKind h ∨ s.incBad h = true → exec (.flitArrival p slot h pay m) s =
        .next (({ s with ports := s.ports.set p { s.ports[p] with lastSched := s.now } } : State).countInc p)) ∧
      (hdrKind h ≤ 5 → s.incBad h = false → ∃ t, exec (.flitArrival p slot h pay m) s = .next t ∧ (3 ≤ hdrKind h →
        t = { s with ports := s.ports.set p { s.ports[p] with lastSched := s.now } })) ∧
      (hdrKind h < 3 ∨ 5 < hdrKind h → exec (.openPacketArrival p h b) s = .next (s.countInc p)) ∧
      (s.incBad h = true → isAnnounce b = false → exec (.openPacketArrival p h b) s = .next (s.countInc p)) ∧
      (3 ≤ hdrKind h → hdrKind h ≤ 5 → s.incBad h = false → hdrDst h ≠ s.pf.pkg.toNat → ∀ q, s.openPort (hdrDst h) = some q →
        exec (.openPacketArrival p h b) s = .next (s.queuePacket q h b)) ∧
      (3 ≤ hdrKind h → hdrKind h ≤ 5 → s.incBad h = false → hdrDst h = s.pf.pkg.toNat → hdrPart h = 0 →
        ∀ d, b = .clear d → exec (.openPacketArrival p h b) s = .next (s.openPacket p h d)) ∧
      (3 ≤ hdrKind h → hdrKind h ≤ 5 → s.incBad h = false → hdrDst h = s.pf.pkg.toNat → ∀ iv text n d, b = .sealed iv text → vfOf (hdrPart h) = some n →
        Config.openTag s.vfs[n].keys[3] iv text = hdrTag h → packetOfWords (padWords s.vfs[n].keys[3] iv 0 text) = some d →
        exec (.openPacketArrival p h b) s = .next (s.openPacket p h d)) ∧
      exec (.faultNotice p n) s = .next (s.flood n)) ∧
    (s.ports[p].st ≠ 1 → exec (.retrainingDone p x y fl) s = .next s) ∧
    (s.ports[p].st = 1 →
      (x = y → exec (.retrainingDone p x y fl) s = .next { s with ports := s.ports.set p { s.ports[p] with st := 2, flight := fl } }) ∧
      (x ≠ y → ∃ t, exec (.retrainingDone p x y fl) s = .next t ∧ t.ports[p].st = 3)) ∧
    (∃ t, exec (.timeExchange t1 t2 t3 t4) s = .next t ∧ t.pf.tbOffset = (((t2 : Int) - t1) - ((t4 : Int) - t3)) / 2 ∧
      (s.pf.lock = true → t.pf.lock = true) ∧
      (s.pf.lock = false → t.pf.lock = decide (t.pf.tbOffset.natAbs < 4 ∧ 3 ≤ s.pf.streak))))

/-- Each SPDM request gets one response of its code, an unknown one ERROR with UnsupportedRequest; a session opens, is established and ends in that order; KEYSET installs a key in an established session while no launch is bound; IDE_KM sets a stream key; TDISP moves LOCK, START and STOP from their states and a TLP outside the stream of a running VF ends in ERROR; TMAX takes the hottest reading; a sensor at 105 sets TRIP and stops every bound or Saved launch, with an abort decided for each that was not stopped before. The codes of the responses are taken from SPDM (PRESUMED, log entry 25); the moves of TDISP (log entry 79), that a Saved launch counts as bound (log entry 76) and when TRIP is decided (log entry 78) are the model's readings. (R355, R356, R357, R358, R360, R364) -/
def Obligations.TrustRows : Prop :=
  ∀ (s : State) (fn : Fin 10) (vf : Fin 9) (off len : Nat) (n c : BitVec 256) (idx code slot : BitVec 8) (bs : List (BitVec 8)) (pk : BitVec 512) (die : Fin 9),
    let answers (i : Instr) (code : Nat) : Prop := ∃ t body, exec i s = .next t ∧ t.outbox = (s.now, Output.spdm fn.val code body) :: s.outbox
    answers (.getVersion fn) 0x04 ∧ answers (.getCapabilities fn) 0x61 ∧ answers (.negotiateAlgorithms fn) 0x63 ∧ answers (.getDigests fn) 0x01 ∧
    answers (.getCertificate fn off len) 0x02 ∧ answers (.challenge fn n) 0x03 ∧ answers (.getMeasurements fn idx) 0x60 ∧
    exec (.unsupportedRequest fn code) s = .next { s with outbox := (s.now, .spdm fn.val 0x7F [7, code.setWidth 512]) :: s.outbox } ∧
    (∃ t, exec (.keyExchange fn bs) s = .next t ∧ t.session fn = if Config.spdmAccepts 0xE4 bs s.freeCtr then 1 else s.session fn) ∧
    (∃ t, exec (.finish fn bs) s = .next t ∧ t.session fn = if s.session fn = 1 ∧ Config.spdmAccepts 0xE5 bs s.freeCtr then 2 else s.session fn) ∧
    (∃ t, exec (.endSession fn) s = .next t ∧ t.session fn = if s.session fn = 2 then 0 else s.session fn) ∧
    (∀ v : Fin 9, fn.val = v.val + 1 →
      exec (.ideKmRequest fn c) s = .next (s.modVf v fun x => { x with ide := some c }) ∧
      (∀ k : Fin 4, slot.toNat = k.val + 1 → s.session fn = 2 → s.partBound fn.val = false → ∃ t, exec (.keyset fn slot c) s = .next t ∧ t.vfs[v].keys[k] = some c) ∧
      (s.session fn ≠ 2 → ∃ t, exec (.keyset fn slot c) s = .next t ∧ t.vfs = s.vfs) ∧
      (s.session fn = 2 → s.vfs[v].tdisp = .unlocked → ∃ t, exec (.tenantPublicKeyDelivery v pk) s = .next t ∧ t.vfs[v].pubkey = some pk)) ∧
    (s.vfs[vf].tdisp = .unlocked → ∃ t, exec (.tdispRequest vf .lock) s = .next t ∧ t.vfs[vf].tdisp = .locked) ∧
    (s.vfs[vf].tdisp = .locked → ∃ t, exec (.tdispRequest vf .start) s = .next t ∧ t.vfs[vf].tdisp = .run) ∧
    (∃ t, exec (.tdispRequest vf .stop) s = .next t ∧ t.vfs[vf].tdisp = .unlocked) ∧
    (s.vfs[vf].tdisp = .run → ∃ t, exec (.tlpOutsideStream vf) s = .next t ∧ t.vfs[vf].tdisp = .error) ∧
    (∃ t, exec .tmaxUpdate s = .next t ∧ (∀ d : Fin 9, min (s.dieHeat d) 255 ≤ t.pf.tmax.toNat) ∧ ∃ d : Fin 9, t.pf.tmax.toNat ≤ s.dieHeat d) ∧
    (s.tripDue die = true → ∃ t, exec (.thermalTrip die) s = .next t ∧ t.pf.trip = true ∧
      ∀ l ∈ t.launches, l.st = .bound ∨ l.st = .saved → l.stopped = true ∧ (l.abort.isSome = true ∨ ∃ m ∈ s.launches, m.key = l.key ∧ m.stopped = true))

/-- An uncorrectable error of a scratchpad word marks it poisoned, in a retained bank with the other three words of its 256-bit group; one that is corrected is noted, and a second one in a word that holds a noted one poisons the word, but not in a retained bank (the model's reading, log entry 26). A hard error of an HBM word marks it poisoned, one that is not hard leaves HBM as it is (log entry 26 again); a hard error of a register word is noted for its context; an error outside the memories does nothing; a bank due for retention enters it for 6,144 cycles, and a conversion that is due is done. (R328, R329, R330) -/
def Obligations.SoftErrorRows : Prop :=
  ∀ (s : State) (c : CoreId) (b : Fin 48) (a : Nat) (loc : ErrLoc) (hard : Bool),
    (∃ t, exec (.softError loc hard) s = .next t) ∧
    (∀ k cls num w, ∃ t, exec (.softError (.reg c k cls num w false) true) s = .next t ∧ (k.val, cls, num, w) ∈ (t.core c).regErr) ∧
    (a < 0x600000 → (s.core c).bankRet (bankOf a) ≠ .retained → exec (.softError (.pad c a) true) s =
      .next ((s.poisonWords [localPa c a / 8]).countUncor (dieOf c) 1)) ∧
    (a < 0x600000 → (s.core c).bankRet (bankOf a) = .retained → exec (.softError (.pad c a) true) s =
      let g : Nat := localPa c a / 32 * 4
      .next ((s.poisonWords [g, g + 1, g + 2, g + 3]).countUncor (dieOf c) 4)) ∧
    (a < 0x600000 → localPa c a / 8 ∉ s.weak → exec (.softError (.pad c a) false) s = .next { s with weak := setIns (localPa c a / 8) s.weak }) ∧
    (a < 0x600000 → localPa c a / 8 ∈ s.weak → (s.core c).bankRet (bankOf a) ≠ .retained → exec (.softError (.pad c a) false) s =
      .next ((s.poisonWords [localPa c a / 8]).countUncor (dieOf c) 1)) ∧
    (a < 0x600000 → localPa c a / 8 ∈ s.weak → (s.core c).bankRet (bankOf a) = .retained → exec (.softError (.pad c a) false) s =
      .next { s with weak := setIns (localPa c a / 8) s.weak }) ∧
    (∀ d, regionOf a = .hbm d → exec (.softError (.hbm a) true) s = .next (s.poisonWords [a / 8]) ∧ exec (.softError (.hbm a) false) s = .next s) ∧
    (0x600000 ≤ a → exec (.softError (.pad c a) hard) s = .next s) ∧
    ((s.core c).retentionDue b = true → ∃ t, exec (.bankRetentionEntry c b) s = .next t ∧ (t.core c).banks[b].ret = .entering ((s.core c).cyc + 6144) false) ∧
    ((s.core c).conversionDue b = true →
      exec (.retentionConversionDone c b) s = .next (s.modCore c fun k => k.modBank b.val fun x => { x with ret := x.ret.converted }))

/-- Whatever slot form executes, every byte of both memories, every tile tag and every poison mark is what it was: loads read and stores perform at their own later cycles. (R167, R174, R79) -/
def Obligations.SlotFormsKeepMemory : Prop :=
  ∀ (s t : State) (i : Instr), partOf i ≠ 0 → exec i s = .next t → s.sameMemory t

/-- A scalar, load-slot, store-slot or copy form leaves every x, v, m and th register, the rank tables, FPFLAGS, LFSRs, loop stack, barrier counts, memberships and DEBT of every context as they were: results reach their registers when they land. A vector or matrix form changes none but the LFSR states of its own context, a sync form none but the loop stack and DEBT of its own context. (R74, R109, R120, R126, R144, R174, R246) -/
def Obligations.RegisterFormsFrame : Prop :=
  ∀ (s t : State) (f : Focus) (i : Instr), s.focus = some f → exec i s = .next t →
    (partOf i = 1 ∨ partOf i = 5 ∨ partOf i = 6 ∨ partOf i = 7 → s.sameRegs t) ∧
    (partOf i = 2 ∨ partOf i = 3 ∨ partOf i = 4 → ∀ c k,
      (c ≠ f.core ∨ k ≠ f.ctx → (s.ctx c k).sameRegs (t.ctx c k)) ∧
      ({ s.ctx c k with lfsr := 0 } : Ctx).sameRegs { t.ctx c k with lfsr := 0 }) ∧
    (partOf i = 8 → ∀ c k,
      (c ≠ f.core ∨ k ≠ f.ctx → (s.ctx c k).sameRegs (t.ctx c k)) ∧
      ({ s.ctx c k with loops := [], debt := 0 } : Ctx).sameRegs { t.ctx c k with loops := [], debt := 0 })

/-- The chunk writes that a store of n bytes at local address a under a byte mask makes, performed on a memory, put byte i of the value at a + i where the mask allows it and leave every other byte of memory as it was; addressed so, a store touches a byte exactly when the mask allows it. When the one access due on a running core with DEBT 0 is a scalar load or a vld, its result is on its way at issue + 4 for its register, lanes and latch: each byte is the one in memory, or that of the last store in the withhold buffer of its context, issued two cycles before it or earlier, that writes the byte; a scalar load extends it with its sign or with zeros; a byte in a poisoned word raises trap 0x30 and gives no result. When a load of the load slot and one of the scalar slot need one read port on one cycle, both raise trap 0x11, neither gives a result and memory stays as it was. (R105, R183, R167, R180, R176, R168, R170, R329) -/
def Obligations.LoadsAndStoresPerform : Prop :=
  (∀ (s : State) (c : CoreId) (a n v : Nat) (allow : Nat → Bool), a + n ≤ 0x600000 →
    let t := (chunksFor a n v allow).foldl (fun s w => s.writeLocal c w) s
    (∀ i < n, allow i = true → t.mem.byte (localPa c (a + i)) = BitVec.ofNat 8 (v >>> (8 * i))) ∧
    (∀ p, (∀ i < n, allow i = true → p ≠ localPa c (a + i)) → t.mem.byte p = s.mem.byte p) ∧
    ∀ p, touches (chunksFor a n v allow) p = decide (∃ i < n, allow i = true ∧ p = a + i)) ∧
  (∀ (s : State) (c : CoreId) (a : Access) (l : LdRec) (es : List (Nat × Nat × Nat × Nat × (Nat → Bool))),
    let ld : Access :=
      { a with byTick := false, always := false, act := .load l, rd := l.chunks, wr := [], tagR := none, tagW := [], zero := [], hold := none, lost := [] }
    let t := s.performAll c
    (s.core c).acc = [ld] → a.due ≤ (s.core c).cyc → (s.core c).frozen = false → (∀ i, (s.ctx c i).debt = 0) → l.tagWant = none → l.dest ≠ .none →
    (s.ctx c a.ctx).wh.map (fun e => (e.issued, e.kind)) =
      es.map (fun q => (q.1, WKind.store (chunksFor q.2.1 q.2.2.1 q.2.2.2.1 q.2.2.2.2) none)) →
    (∀ q ∈ es, q.2.1 + q.2.2.1 ≤ 0x600000) →
    let sees (x : Nat) : Byte := (es.filter fun q => decide (q.1 + 2 ≤ a.issued)).foldl (fun y q =>
      if q.2.1 ≤ x ∧ x < q.2.1 + q.2.2.1 ∧ q.2.2.2.2 (x - q.2.1) = true then BitVec.ofNat 8 (q.2.2.2.1 >>> (8 * (x - q.2.1))) else y)
      (s.mem.byte (localPa c x))
    let lands (P : VReg → Prop) : Prop := (∀ x ∈ l.bytes, s.poisoned (localPa c x) = false) → ∃ r ∈ (t.core c).results,
      r.ctx = a.ctx ∧ r.due = a.issued + 4 ∧ r.byTick = false ∧ r.dest = l.dest ∧ r.wen = l.wen ∧ r.latch = l.unit ∧ P r.val
    (∀ w signed, l.kind = .scal w signed → w = 1 ∨ w = 2 ∨ w = 4 ∨ w = 8 → l.ea % w = 0 → l.ea + w ≤ 0x600000 →
      lands (fun v => (∀ i < w, v.extractLsb' (8 * i) 8 = sees (l.ea + i)) ∧
        ∀ i, w ≤ i → i < 8 → v.extractLsb' (8 * i) 8 = if signed = true ∧ (sees (l.ea + (w - 1))).msb = true then 0xFF else 0) ∧
      ((∃ x ∈ l.bytes, s.poisoned (localPa c x) = true) → (t.core c).results = (s.core c).results ∧
        ∃ u, (t.core c).traps = (s.core c).traps ++ [u] ∧ u.cause = 0x30 ∧ u.ctx = a.ctx ∧ u.part = a.part)) ∧
    (l.kind = .vld → l.ea % 512 = 0 → l.ea + 512 ≤ 0x600000 →
      lands fun v => ∀ k < 128, l.wen.getLsbD k = true → ∀ i < 4, v.extractLsb' (32 * k + 8 * i) 8 = sees (l.ea + 4 * k + i))) ∧
  ∀ (s : State) (c : CoreId) (a b : Access) (l m : LdRec),
    let ld (x : Access) (p : Party) (l : LdRec) : Access :=
      { x with party := p, byTick := false, always := false, act := .load l, rd := l.chunks, wr := [], tagR := none, tagW := [], zero := [], hold := none, lost := [] }
    let t := s.performAll c
    (s.core c).acc = [ld a .load l, ld b .scalar m] → a.due ≤ (s.core c).cyc → b.due ≤ (s.core c).cyc → (s.core c).frozen = false →
    (∃ x ∈ l.chunks, ∃ y ∈ m.chunks, rdPort x = rdPort y) →
    (t.core c).results = (s.core c).results ∧ (t.core c).acc = [] ∧ t.mem = s.mem ∧
      ∃ u v, (t.core c).traps = (s.core c).traps ++ [u, v] ∧ u.cause = 0x11 ∧ u.ctx = a.ctx ∧ u.part = a.part ∧ v.cause = 0x11 ∧ v.ctx = b.ctx ∧ v.part = b.part
end

