-- ==== Sys2Proof/Laws/Memory.lean ====
section
/-!
SUPPORT. The byte memory keeps its canonical form, and a read after a write (R3, R53, R54, R167).
-/

namespace Sys2Proof.Machine

/-! ### Reading one byte -/

theorem tabGet_nil {α : Type} (k : Nat) (d : α) : tabGet ([] : List (Nat × α)) k d = d := rfl

theorem tabGet_cons {α : Type} (p : Nat × α) (l : List (Nat × α)) (k : Nat) (d : α) :
    tabGet (p :: l) k d = if p.1 = k then p.2 else tabGet l k d := by
  by_cases h : p.1 = k
  · simp [tabGet, List.find?, h]
  · have : (p.1 == k) = false := by simpa using h
    simp [tabGet, List.find?, this, h]

/-- A key below every key of a table is not listed in it. -/
theorem tabGet_none {α : Type} (l : List (Nat × α)) (k : Nat) (d : α) (h : ∀ p ∈ l, p.1 ≠ k) : tabGet l k d = d := by
  induction l with
  | nil => rfl
  | cons p l ih =>
    rw [tabGet_cons, if_neg (h p List.mem_cons_self)]
    exact ih fun q hq => h q (List.mem_cons_of_mem _ hq)

theorem tabGet_append {α : Type} (l r : List (Nat × α)) (k : Nat) (d : α) (h : ∀ p ∈ l, p.1 ≠ k) :
    tabGet (l ++ r) k d = tabGet r k d := by
  induction l with
  | nil => rfl
  | cons p l ih =>
    rw [List.cons_append, tabGet_cons, if_neg (h p List.mem_cons_self)]
    exact ih fun q hq => h q (List.mem_cons_of_mem _ hq)

theorem tabGet_append_right {α : Type} (l r : List (Nat × α)) (k : Nat) (d : α) (h : ∀ p ∈ r, p.1 ≠ k) :
    tabGet (l ++ r) k d = tabGet l k d := by
  induction l with
  | nil => exact tabGet_none r k d h
  | cons p l ih => rw [List.cons_append, tabGet_cons, tabGet_cons, ih]

/-- A filter that keeps a key does not change what is read there. -/
theorem tabGet_filter {α : Type} (l : List (Nat × α)) (P : Nat → Bool) (k : Nat) (d : α) (h : P k = true) :
    tabGet (l.filter fun p => P p.1) k d = tabGet l k d := by
  induction l with
  | nil => rfl
  | cons p l ih =>
    by_cases hp : P p.1 = true
    · rw [List.filter_cons_of_pos (p := fun p : Nat × α => P p.1) hp, tabGet_cons, tabGet_cons, ih]
    · have hk : p.1 ≠ k := fun e => hp (e ▸ h)
      rw [List.filter_cons_of_neg (p := fun p : Nat × α => P p.1) hp, tabGet_cons, if_neg hk, ih]

/-! ### Cells -/

theorem mem_cellsOf {a n : Nat} {f : Nat → Byte} {p : Nat × Byte} (h : p ∈ cellsOf a n f) :
    ∃ i, i < n ∧ p = (a + i, f i) ∧ f i ≠ 0 := by
  unfold cellsOf at h
  rw [List.mem_filterMap] at h
  obtain ⟨i, hi, h⟩ := h
  by_cases hz : f i = 0#8
  · simp [hz] at h
  · simp [hz] at h
    exact ⟨i, List.mem_range.mp hi, h.symm, hz⟩

theorem cellsOf_succ (a n : Nat) (f : Nat → Byte) :
    cellsOf a (n + 1) f = cellsOf a n f ++ (if f n = 0 then [] else [(a + n, f n)]) := by
  unfold cellsOf
  rw [List.range_succ, List.filterMap_append]
  by_cases h : f n = 0#8 <;> simp [h]

theorem tabGet_cellsOf (a n : Nat) (f : Nat → Byte) (i : Nat) (h : i < n) : tabGet (cellsOf a n f) (a + i) 0 = f i := by
  induction n with
  | zero => omega
  | succ n ih =>
    rw [cellsOf_succ]
    by_cases hi : i = n
    · subst hi
      rw [tabGet_append]
      · by_cases hz : f i = 0#8
        · simp [hz, tabGet_nil]
        · simp [hz, tabGet_cons]
      · intro p hp
        obtain ⟨j, hj, rfl, _⟩ := mem_cellsOf hp
        simp; omega
    · rw [tabGet_append_right]
      · exact ih (by omega)
      · intro p hp
        by_cases hz : f n = 0#8
        · simp [hz] at hp
        · simp [hz] at hp
          subst hp
          simp; omega

theorem cellsOf_pairwise (a n : Nat) (f : Nat → Byte) : (cellsOf a n f).Pairwise fun p q => p.1 < q.1 := by
  induction n with
  | zero => simp [cellsOf]
  | succ n ih =>
    rw [cellsOf_succ, List.pairwise_append]
    refine ⟨ih, ?_, ?_⟩
    · by_cases h : f n = 0#8 <;> simp [h]
    · intro p hp q hq
      obtain ⟨i, hi, rfl, _⟩ := mem_cellsOf hp
      by_cases h : f n = 0#8
      · simp [h] at hq
      · simp [h] at hq
        subst hq
        simp; omega

/-! ### Writing -/

/-- Every write of bytes keeps the canonical form. -/
theorem Memory.put_wf (m : Memory) (a n : Nat) (f : Nat → Byte) (h : m.wf) : (m.put a n f).wf := by
  obtain ⟨hp, hz⟩ := h
  constructor
  · unfold Memory.put
    rw [List.pairwise_append, List.pairwise_append]
    refine ⟨⟨hp.filter _, cellsOf_pairwise a n f, ?_⟩, hp.filter _, ?_⟩
    · intro p h1 q h2
      obtain ⟨i, hi, rfl, _⟩ := mem_cellsOf h2
      have := (List.mem_filter.mp h1).2
      simp at this ⊢; omega
    · intro p h1 q h2
      have hq := (List.mem_filter.mp h2).2
      rcases List.mem_append.mp h1 with h1 | h1
      · have := (List.mem_filter.mp h1).2
        simp at this hq; omega
      · obtain ⟨i, hi, rfl, _⟩ := mem_cellsOf h1
        simp at hq ⊢; omega
  · intro p h
    unfold Memory.put at h
    rcases List.mem_append.mp h with h | h
    · rcases List.mem_append.mp h with h | h
      · exact hz p (List.mem_filter.mp h).1
      · obtain ⟨i, _, rfl, hn⟩ := mem_cellsOf h
        exact hn
    · exact hz p (List.mem_filter.mp h).1

/-- A byte after a write: the byte written inside the span, the byte before outside it. -/
theorem Memory.byte_put (m : Memory) (a n : Nat) (f : Nat → Byte) (x : Nat) :
    (m.put a n f).byte x = if a ≤ x ∧ x < a + n then f (x - a) else m.byte x := by
  unfold Memory.put Memory.byte
  by_cases h1 : x < a
  · rw [if_neg (by omega), List.append_assoc, tabGet_append_right, tabGet_filter m (fun k => decide (k < a)) x 0 (by simpa using h1)]
    intro p hp
    rcases List.mem_append.mp hp with hp | hp
    · obtain ⟨i, _, rfl, _⟩ := mem_cellsOf hp
      simp; omega
    · have := (List.mem_filter.mp hp).2
      simp at this; omega
  · have hl : ∀ p ∈ m.filter (fun p => decide (p.1 < a)), p.1 ≠ x := by
      intro p hp
      have := (List.mem_filter.mp hp).2
      simp at this; omega
    by_cases h2 : x < a + n
    · rw [if_pos (by omega), tabGet_append_right, tabGet_append _ _ _ _ hl]
      · have : x = a + (x - a) := by omega
        rw [this, tabGet_cellsOf a n f (x - a) (by omega), Nat.add_sub_cancel_left]
      · intro p hp
        have := (List.mem_filter.mp hp).2
        simp at this; omega
    · rw [if_neg (by omega), tabGet_append]
      · exact tabGet_filter m (fun k => decide (a + n ≤ k)) x 0 (by simp; omega)
      · intro p hp
        rcases List.mem_append.mp hp with hp | hp
        · exact hl p hp
        · obtain ⟨i, _, rfl, _⟩ := mem_cellsOf hp
          simp; omega

theorem Memory.write_wf (m : Memory) (a n v : Nat) (h : m.wf) : (m.write a n v).wf := m.put_wf a n _ h
theorem Memory.writeMask_wf (m : Memory) (a n v mask : Nat) (h : m.wf) : (m.writeMask a n v mask).wf := m.put_wf a n _ h

theorem Memory.byte_write (m : Memory) (a n v x : Nat) :
    (m.write a n v).byte x = if a ≤ x ∧ x < a + n then byteOf v (x - a) else m.byte x := m.byte_put a n _ x

/-- Taking cells out keeps the canonical form. -/
theorem Memory.filter_wf (m : Memory) (P : Nat × Byte → Bool) (h : m.wf) : Memory.wf (m.filter P) :=
  ⟨h.1.filter _, fun p hp => h.2 p (List.mem_filter.mp hp).1⟩

theorem Memory.nil_wf : Memory.wf [] := by simp [Memory.wf]

/-! ### Memory of the package -/

theorem State.writeChunk_wf (s : State) (pa : Nat) (w : ChunkW) (h : s.mem.wf) : (s.writeChunk pa w).mem.wf :=
  Memory.writeMask_wf _ _ _ _ _ h

theorem State.writeLocal_wf (s : State) (c : CoreId) (w : ChunkW) (h : s.mem.wf) : (s.writeLocal c w).mem.wf :=
  s.writeChunk_wf _ w h

/-- A chunk write reaches no byte outside its chunk. -/
theorem State.byte_writeChunk_outside (s : State) (pa : Nat) (w : ChunkW) (x : Nat) (h : x < pa ∨ pa + 64 ≤ x) :
    (s.writeChunk pa w).mem.byte x = s.mem.byte x := by
  show (s.mem.writeMask pa 64 w.data.toNat w.mask.toNat).byte x = _
  rw [Memory.writeMask, Memory.byte_put, if_neg (by omega)]

theorem reset_mem_wf : State.reset.mem.wf := Memory.nil_wf
theorem reset_hostMem_wf : State.reset.hostMem.wf := Memory.nil_wf

end Sys2Proof.Machine
end

