-- ==== Sys2Proof/Laws/Registers.lean ====
section
/-!
SUPPORT. Packed elements, and registers read after a write (R69, R70, R72, R74, R114, R144).
-/

namespace Sys2Proof.Machine

/-! ### Packed elements (R114) -/

theorem packNat_nil (w : Nat) : packNat w [] = 0 := rfl
theorem packNat_cons (w e : Nat) (l : List Nat) : packNat w (e :: l) = e % 2 ^ w + (packNat w l) <<< w := rfl

/-- Element k of packed elements is element k, taken in the width. -/
theorem packNat_element (w : Nat) (l : List Nat) (k : Nat) :
    (packNat w l >>> (k * w)) % 2 ^ w = (l[k]?.getD 0) % 2 ^ w := by
  induction l generalizing k with
  | nil => simp [packNat]
  | cons e l ih =>
    rw [packNat_cons, Nat.shiftLeft_eq]
    cases k with
    | zero => simp [Nat.add_mul_mod_self_right]
    | succ k =>
      have hw : 0 < 2 ^ w := Nat.two_pow_pos w
      have h : e % 2 ^ w < 2 ^ w := Nat.mod_lt _ hw
      rw [Nat.add_mul, Nat.one_mul, Nat.add_comm (k * w) w, Nat.shiftRight_add]
      rw [Nat.shiftRight_eq_div_pow _ w, Nat.add_mul_div_right _ _ hw, Nat.div_eq_of_lt h, Nat.zero_add, ih]
      simp

/-- Packed elements take w bits each. -/
theorem packNat_lt (w : Nat) (l : List Nat) : packNat w l < 2 ^ (w * l.length) := by
  induction l with
  | nil => simp [packNat]
  | cons e l ih =>
    rw [packNat_cons, Nat.shiftLeft_eq, List.length_cons, Nat.mul_succ, Nat.pow_add]
    have hw : 0 < 2 ^ w := Nat.two_pow_pos w
    have h : e % 2 ^ w < 2 ^ w := Nat.mod_lt _ hw
    calc e % 2 ^ w + packNat w l * 2 ^ w < 2 ^ w + packNat w l * 2 ^ w := by omega
      _ = (packNat w l + 1) * 2 ^ w := by rw [Nat.add_mul]; omega
      _ ≤ 2 ^ (w * l.length) * 2 ^ w := Nat.mul_le_mul_right _ ih

/-- Field k of a register of packed elements. -/
theorem extract_pack (w n N : Nat) (f : Nat → Nat) (k : Nat) (hk : k < n) (hN : w * n ≤ N) :
    (BitVec.ofNat N (packNat w ((List.range n).map f))).extractLsb' (w * k) w = BitVec.ofNat w (f k) := by
  apply BitVec.eq_of_toNat_eq
  rw [BitVec.extractLsb'_toNat, BitVec.toNat_ofNat, BitVec.toNat_ofNat, Nat.mod_eq_of_lt (b := 2 ^ N), Nat.mul_comm w k, packNat_element]
  · simp [hk]
  · refine Nat.lt_of_lt_of_le (packNat_lt w _) ?_
    rw [List.length_map, List.length_range]
    exact Nat.pow_le_pow_right (by decide) hN

/-- A register element read as a number is that field. -/
theorem elemNat_extract {n : Nat} (w : Nat) (v : BitVec n) (k : Nat) : BitVec.ofNat w (elemNat w v k) = v.extractLsb' (w * k) w := by
  apply BitVec.eq_of_toNat_eq
  rw [BitVec.extractLsb'_toNat, BitVec.toNat_ofNat, elemNat, Nat.mod_mod, Nat.mul_comm w k]

/-- Each lane of a merge is that of the new value where the mask is set (R144). -/
theorem mergeLanes_lane (wen : MaskReg) (new old : VReg) (l : Nat) (h : l < 128) :
    (mergeLanes wen new old).extractLsb' (32 * l) 32 = if wen.getLsbD l then new.extractLsb' (32 * l) 32 else old.extractLsb' (32 * l) 32 := by
  unfold mergeLanes
  rw [extract_pack 32 128 4096 _ l h (by decide)]
  split <;> exact elemNat_extract 32 _ l

/-! ### Registers (R69, R70) -/

@[simp] theorem Core.ctx_setCtx (k : Core) (n : CtxId) (x : Ctx) : (k.setCtx n x).ctx n = x := by
  simp [Core.ctx, Core.setCtx]

theorem Core.ctx_setCtx_ne (k : Core) (n p : CtxId) (x : Ctx) (h : p ≠ n) : (k.setCtx n x).ctx p = k.ctx p := by
  have : n.val ≠ p.val := fun e => h (Fin.ext e).symm
  simp [Core.ctx, Core.setCtx, this]

@[simp] theorem Core.ctx_modCtx (k : Core) (n : CtxId) (f : Ctx → Ctx) : (k.modCtx n f).ctx n = f (k.ctx n) := Core.ctx_setCtx ..

theorem Core.ctx_modCtx_ne (k : Core) (n p : CtxId) (f : Ctx → Ctx) (h : p ≠ n) : (k.modCtx n f).ctx p = k.ctx p := Core.ctx_setCtx_ne _ _ _ _ h

@[simp] theorem State.core_setCore (s : State) (c : CoreId) (k : Core) : (s.setCore c k).core c = k := by
  simp [State.core, State.setCore]

theorem State.core_setCore_ne (s : State) (c d : CoreId) (k : Core) (h : d ≠ c) : (s.setCore c k).core d = s.core d := by
  have : c.val ≠ d.val := fun e => h (Fin.ext e).symm
  simp [State.core, State.setCore, this]

@[simp] theorem State.core_modCore (s : State) (c : CoreId) (f : Core → Core) : (s.modCore c f).core c = f (s.core c) := State.core_setCore ..

theorem State.core_modCore_ne (s : State) (c d : CoreId) (f : Core → Core) (h : d ≠ c) : (s.modCore c f).core d = s.core d :=
  State.core_setCore_ne _ _ _ _ h

@[simp] theorem State.ctx_modCtx (s : State) (c : CoreId) (n : CtxId) (f : Ctx → Ctx) : (s.modCtx c n f).ctx c n = f (s.ctx c n) := by
  simp [State.ctx, State.modCtx]

theorem State.ctx_modCtx_ne (s : State) (c : CoreId) (n p : CtxId) (f : Ctx → Ctx) (h : p ≠ n) : (s.modCtx c n f).ctx c p = s.ctx c p := by
  simp [State.ctx, State.modCtx, Core.ctx_modCtx_ne _ _ _ _ h]

theorem State.ctx_modCtx_core (s : State) (c d : CoreId) (n p : CtxId) (f : Ctx → Ctx) (h : d ≠ c) : (s.modCtx c n f).ctx d p = s.ctx d p := by
  simp [State.ctx, State.modCtx, State.core_modCore_ne _ _ _ _ h]

theorem Ctx.xr_setX (k : Ctx) (n p : BitVec 5) (v : Word) : (k.setX n v).xr p = if p = n ∧ n ≠ 0 then v else k.xr p := by
  unfold Ctx.setX Ctx.xr
  by_cases hn : n = 0#5
  · simp [hn]
  · by_cases hp : p = 0#5
    · subst hp; simp [hn, show ¬0#5 = n from fun e => hn e.symm]
    · by_cases e : p = n
      · subst e; simp [hn]
      · have : n.toNat ≠ p.toNat := fun h => e (BitVec.eq_of_toNat_eq h).symm
        simp [hn, hp, e, this]

theorem Ctx.vr_setV (k : Ctx) (n p : BitVec 5) (v : VReg) : (k.setV n v).vr p = if p = n then v else k.vr p := by
  unfold Ctx.setV Ctx.vr
  by_cases e : p = n
  · subst e; simp
  · have : n.toNat ≠ p.toNat := fun h => e (BitVec.eq_of_toNat_eq h).symm
    simp [e, this]

theorem Ctx.mr_setM (k : Ctx) (n p : BitVec 3) (v : MaskReg) : (k.setM n v).mr p = if p = n ∧ n ≠ 0 then v else k.mr p := by
  unfold Ctx.setM Ctx.mr
  by_cases hn : n = 0#3
  · simp [hn]
  · by_cases hp : p = 0#3
    · subst hp; simp [hn, show ¬0#3 = n from fun e => hn e.symm]
    · by_cases e : p = n
      · subst e; simp [hn]
      · have : n.toNat ≠ p.toNat := fun h => e (BitVec.eq_of_toNat_eq h).symm
        simp [hn, hp, e, this]

@[simp] theorem Ctx.setX_v (k : Ctx) (n : BitVec 5) (x : Word) : (k.setX n x).v = k.v := by unfold Ctx.setX; split <;> rfl
@[simp] theorem Ctx.setX_m (k : Ctx) (n : BitVec 5) (x : Word) : (k.setX n x).m = k.m := by unfold Ctx.setX; split <;> rfl
@[simp] theorem Ctx.setM_x (k : Ctx) (n : BitVec 3) (x : MaskReg) : (k.setM n x).x = k.x := by unfold Ctx.setM; split <;> rfl
@[simp] theorem Ctx.setM_v (k : Ctx) (n : BitVec 3) (x : MaskReg) : (k.setM n x).v = k.v := by unfold Ctx.setM; split <;> rfl
@[simp] theorem Ctx.setV_x (k : Ctx) (n : BitVec 5) (x : VReg) : (k.setV n x).x = k.x := rfl
@[simp] theorem Ctx.setV_m (k : Ctx) (n : BitVec 5) (x : VReg) : (k.setV n x).m = k.m := rfl

end Sys2Proof.Machine
end

