-- ==== Sys2Proof/Laws/State.lean ====
section
/-!
SUPPORT. What each named update of the state leaves as it was: one lemma for each field and update, and the reads of cores and contexts after them (R50, R69, R74).
-/

namespace Sys2Proof.Machine

/-- A core depends on the cores alone. -/
theorem State.core_of {s t : State} (h : t.cores = s.cores) (c : CoreId) : t.core c = s.core c := by unfold State.core; rw [h]

/-- A context depends on the cores alone. -/
theorem State.ctx_of {s t : State} (h : t.cores = s.cores) (c : CoreId) (n : CtxId) : t.ctx c n = s.ctx c n := by
  unfold State.ctx; rw [State.core_of h]

/-- A context depends on the contexts of its core alone. -/
theorem Core.ctx_of {k l : Core} (h : l.ctxs = k.ctxs) (n : CtxId) : l.ctx n = k.ctx n := by unfold Core.ctx; rw [h]

/-! ### State -/

@[simp] theorem State.setCore_now (s : State) (c : CoreId) (k : Core) : (s.setCore c k).now = s.now := rfl
@[simp] theorem State.setCore_phase (s : State) (c : CoreId) (k : Core) : (s.setCore c k).phase = s.phase := rfl
@[simp] theorem State.setCore_focus (s : State) (c : CoreId) (k : Core) : (s.setCore c k).focus = s.focus := rfl
@[simp] theorem State.setCore_todo (s : State) (c : CoreId) (k : Core) : (s.setCore c k).todo = s.todo := rfl
@[simp] theorem State.setCore_freeCtr (s : State) (c : CoreId) (k : Core) : (s.setCore c k).freeCtr = s.freeCtr := rfl
@[simp] theorem State.setCore_dies (s : State) (c : CoreId) (k : Core) : (s.setCore c k).dies = s.dies := rfl
@[simp] theorem State.setCore_mem (s : State) (c : CoreId) (k : Core) : (s.setCore c k).mem = s.mem := rfl
@[simp] theorem State.setCore_hostMem (s : State) (c : CoreId) (k : Core) : (s.setCore c k).hostMem = s.hostMem := rfl
@[simp] theorem State.setCore_tags (s : State) (c : CoreId) (k : Core) : (s.setCore c k).tags = s.tags := rfl
@[simp] theorem State.setCore_poison (s : State) (c : CoreId) (k : Core) : (s.setCore c k).poison = s.poison := rfl
@[simp] theorem State.setCore_scrambled (s : State) (c : CoreId) (k : Core) : (s.setCore c k).scrambled = s.scrambled := rfl
@[simp] theorem State.setCore_weak (s : State) (c : CoreId) (k : Core) : (s.setCore c k).weak = s.weak := rfl
@[simp] theorem State.setCore_skips (s : State) (c : CoreId) (k : Core) : (s.setCore c k).skips = s.skips := rfl
@[simp] theorem State.setCore_homeQ (s : State) (c : CoreId) (k : Core) : (s.setCore c k).homeQ = s.homeQ := rfl
@[simp] theorem State.setCore_farW (s : State) (c : CoreId) (k : Core) : (s.setCore c k).farW = s.farW := rfl
@[simp] theorem State.setCore_replies (s : State) (c : CoreId) (k : Core) : (s.setCore c k).replies = s.replies := rfl
@[simp] theorem State.setCore_shadows (s : State) (c : CoreId) (k : Core) : (s.setCore c k).shadows = s.shadows := rfl
@[simp] theorem State.setCore_stamps (s : State) (c : CoreId) (k : Core) : (s.setCore c k).stamps = s.stamps := rfl
@[simp] theorem State.setCore_vfs (s : State) (c : CoreId) (k : Core) : (s.setCore c k).vfs = s.vfs := rfl
@[simp] theorem State.setCore_bsinv (s : State) (c : CoreId) (k : Core) : (s.setCore c k).bsinv = s.bsinv := rfl
@[simp] theorem State.setCore_launches (s : State) (c : CoreId) (k : Core) : (s.setCore c k).launches = s.launches := rfl
@[simp] theorem State.setCore_images (s : State) (c : CoreId) (k : Core) : (s.setCore c k).images = s.images := rfl
@[simp] theorem State.setCore_lastPart (s : State) (c : CoreId) (k : Core) : (s.setCore c k).lastPart = s.lastPart := rfl
@[simp] theorem State.setCore_selectDue (s : State) (c : CoreId) (k : Core) : (s.setCore c k).selectDue = s.selectDue := rfl
@[simp] theorem State.setCore_inputs (s : State) (c : CoreId) (k : Core) : (s.setCore c k).inputs = s.inputs := rfl
@[simp] theorem State.setCore_outbox (s : State) (c : CoreId) (k : Core) : (s.setCore c k).outbox = s.outbox := rfl
@[simp] theorem State.setCore_pf (s : State) (c : CoreId) (k : Core) : (s.setCore c k).pf = s.pf := rfl
@[simp] theorem State.setCore_ports (s : State) (c : CoreId) (k : Core) : (s.setCore c k).ports = s.ports := rfl
@[simp] theorem State.setCore_wire (s : State) (c : CoreId) (k : Core) : (s.setCore c k).wire = s.wire := rfl
@[simp] theorem State.setCore_away (s : State) (c : CoreId) (k : Core) : (s.setCore c k).away = s.away := rfl
@[simp] theorem State.setCore_sensors (s : State) (c : CoreId) (k : Core) : (s.setCore c k).sensors = s.sensors := rfl
@[simp] theorem State.setCore_parked (s : State) (c : CoreId) (k : Core) : (s.setCore c k).parked = s.parked := rfl
@[simp] theorem State.setCore_endCount (s : State) (c : CoreId) (k : Core) : (s.setCore c k).endCount = s.endCount := rfl
@[simp] theorem State.setCore_nextKey (s : State) (c : CoreId) (k : Core) : (s.setCore c k).nextKey = s.nextKey := rfl

@[simp] theorem State.modCore_now (s : State) (c : CoreId) (g : Core → Core) : (s.modCore c g).now = s.now := rfl
@[simp] theorem State.modCore_phase (s : State) (c : CoreId) (g : Core → Core) : (s.modCore c g).phase = s.phase := rfl
@[simp] theorem State.modCore_focus (s : State) (c : CoreId) (g : Core → Core) : (s.modCore c g).focus = s.focus := rfl
@[simp] theorem State.modCore_todo (s : State) (c : CoreId) (g : Core → Core) : (s.modCore c g).todo = s.todo := rfl
@[simp] theorem State.modCore_freeCtr (s : State) (c : CoreId) (g : Core → Core) : (s.modCore c g).freeCtr = s.freeCtr := rfl
@[simp] theorem State.modCore_dies (s : State) (c : CoreId) (g : Core → Core) : (s.modCore c g).dies = s.dies := rfl
@[simp] theorem State.modCore_mem (s : State) (c : CoreId) (g : Core → Core) : (s.modCore c g).mem = s.mem := rfl
@[simp] theorem State.modCore_hostMem (s : State) (c : CoreId) (g : Core → Core) : (s.modCore c g).hostMem = s.hostMem := rfl
@[simp] theorem State.modCore_tags (s : State) (c : CoreId) (g : Core → Core) : (s.modCore c g).tags = s.tags := rfl
@[simp] theorem State.modCore_poison (s : State) (c : CoreId) (g : Core → Core) : (s.modCore c g).poison = s.poison := rfl
@[simp] theorem State.modCore_scrambled (s : State) (c : CoreId) (g : Core → Core) : (s.modCore c g).scrambled = s.scrambled := rfl
@[simp] theorem State.modCore_weak (s : State) (c : CoreId) (g : Core → Core) : (s.modCore c g).weak = s.weak := rfl
@[simp] theorem State.modCore_skips (s : State) (c : CoreId) (g : Core → Core) : (s.modCore c g).skips = s.skips := rfl
@[simp] theorem State.modCore_homeQ (s : State) (c : CoreId) (g : Core → Core) : (s.modCore c g).homeQ = s.homeQ := rfl
@[simp] theorem State.modCore_farW (s : State) (c : CoreId) (g : Core → Core) : (s.modCore c g).farW = s.farW := rfl
@[simp] theorem State.modCore_replies (s : State) (c : CoreId) (g : Core → Core) : (s.modCore c g).replies = s.replies := rfl
@[simp] theorem State.modCore_shadows (s : State) (c : CoreId) (g : Core → Core) : (s.modCore c g).shadows = s.shadows := rfl
@[simp] theorem State.modCore_stamps (s : State) (c : CoreId) (g : Core → Core) : (s.modCore c g).stamps = s.stamps := rfl
@[simp] theorem State.modCore_vfs (s : State) (c : CoreId) (g : Core → Core) : (s.modCore c g).vfs = s.vfs := rfl
@[simp] theorem State.modCore_bsinv (s : State) (c : CoreId) (g : Core → Core) : (s.modCore c g).bsinv = s.bsinv := rfl
@[simp] theorem State.modCore_launches (s : State) (c : CoreId) (g : Core → Core) : (s.modCore c g).launches = s.launches := rfl
@[simp] theorem State.modCore_images (s : State) (c : CoreId) (g : Core → Core) : (s.modCore c g).images = s.images := rfl
@[simp] theorem State.modCore_lastPart (s : State) (c : CoreId) (g : Core → Core) : (s.modCore c g).lastPart = s.lastPart := rfl
@[simp] theorem State.modCore_selectDue (s : State) (c : CoreId) (g : Core → Core) : (s.modCore c g).selectDue = s.selectDue := rfl
@[simp] theorem State.modCore_inputs (s : State) (c : CoreId) (g : Core → Core) : (s.modCore c g).inputs = s.inputs := rfl
@[simp] theorem State.modCore_outbox (s : State) (c : CoreId) (g : Core → Core) : (s.modCore c g).outbox = s.outbox := rfl
@[simp] theorem State.modCore_pf (s : State) (c : CoreId) (g : Core → Core) : (s.modCore c g).pf = s.pf := rfl
@[simp] theorem State.modCore_ports (s : State) (c : CoreId) (g : Core → Core) : (s.modCore c g).ports = s.ports := rfl
@[simp] theorem State.modCore_wire (s : State) (c : CoreId) (g : Core → Core) : (s.modCore c g).wire = s.wire := rfl
@[simp] theorem State.modCore_away (s : State) (c : CoreId) (g : Core → Core) : (s.modCore c g).away = s.away := rfl
@[simp] theorem State.modCore_sensors (s : State) (c : CoreId) (g : Core → Core) : (s.modCore c g).sensors = s.sensors := rfl
@[simp] theorem State.modCore_parked (s : State) (c : CoreId) (g : Core → Core) : (s.modCore c g).parked = s.parked := rfl
@[simp] theorem State.modCore_endCount (s : State) (c : CoreId) (g : Core → Core) : (s.modCore c g).endCount = s.endCount := rfl
@[simp] theorem State.modCore_nextKey (s : State) (c : CoreId) (g : Core → Core) : (s.modCore c g).nextKey = s.nextKey := rfl

@[simp] theorem State.setCtx_now (s : State) (c : CoreId) (n : CtxId) (x : Ctx) : (s.setCtx c n x).now = s.now := rfl
@[simp] theorem State.setCtx_phase (s : State) (c : CoreId) (n : CtxId) (x : Ctx) : (s.setCtx c n x).phase = s.phase := rfl
@[simp] theorem State.setCtx_focus (s : State) (c : CoreId) (n : CtxId) (x : Ctx) : (s.setCtx c n x).focus = s.focus := rfl
@[simp] theorem State.setCtx_todo (s : State) (c : CoreId) (n : CtxId) (x : Ctx) : (s.setCtx c n x).todo = s.todo := rfl
@[simp] theorem State.setCtx_freeCtr (s : State) (c : CoreId) (n : CtxId) (x : Ctx) : (s.setCtx c n x).freeCtr = s.freeCtr := rfl
@[simp] theorem State.setCtx_dies (s : State) (c : CoreId) (n : CtxId) (x : Ctx) : (s.setCtx c n x).dies = s.dies := rfl
@[simp] theorem State.setCtx_mem (s : State) (c : CoreId) (n : CtxId) (x : Ctx) : (s.setCtx c n x).mem = s.mem := rfl
@[simp] theorem State.setCtx_hostMem (s : State) (c : CoreId) (n : CtxId) (x : Ctx) : (s.setCtx c n x).hostMem = s.hostMem := rfl
@[simp] theorem State.setCtx_tags (s : State) (c : CoreId) (n : CtxId) (x : Ctx) : (s.setCtx c n x).tags = s.tags := rfl
@[simp] theorem State.setCtx_poison (s : State) (c : CoreId) (n : CtxId) (x : Ctx) : (s.setCtx c n x).poison = s.poison := rfl
@[simp] theorem State.setCtx_scrambled (s : State) (c : CoreId) (n : CtxId) (x : Ctx) : (s.setCtx c n x).scrambled = s.scrambled := rfl
@[simp] theorem State.setCtx_weak (s : State) (c : CoreId) (n : CtxId) (x : Ctx) : (s.setCtx c n x).weak = s.weak := rfl
@[simp] theorem State.setCtx_skips (s : State) (c : CoreId) (n : CtxId) (x : Ctx) : (s.setCtx c n x).skips = s.skips := rfl
@[simp] theorem State.setCtx_homeQ (s : State) (c : CoreId) (n : CtxId) (x : Ctx) : (s.setCtx c n x).homeQ = s.homeQ := rfl
@[simp] theorem State.setCtx_farW (s : State) (c : CoreId) (n : CtxId) (x : Ctx) : (s.setCtx c n x).farW = s.farW := rfl
@[simp] theorem State.setCtx_replies (s : State) (c : CoreId) (n : CtxId) (x : Ctx) : (s.setCtx c n x).replies = s.replies := rfl
@[simp] theorem State.setCtx_shadows (s : State) (c : CoreId) (n : CtxId) (x : Ctx) : (s.setCtx c n x).shadows = s.shadows := rfl
@[simp] theorem State.setCtx_stamps (s : State) (c : CoreId) (n : CtxId) (x : Ctx) : (s.setCtx c n x).stamps = s.stamps := rfl
@[simp] theorem State.setCtx_vfs (s : State) (c : CoreId) (n : CtxId) (x : Ctx) : (s.setCtx c n x).vfs = s.vfs := rfl
@[simp] theorem State.setCtx_bsinv (s : State) (c : CoreId) (n : CtxId) (x : Ctx) : (s.setCtx c n x).bsinv = s.bsinv := rfl
@[simp] theorem State.setCtx_launches (s : State) (c : CoreId) (n : CtxId) (x : Ctx) : (s.setCtx c n x).launches = s.launches := rfl
@[simp] theorem State.setCtx_images (s : State) (c : CoreId) (n : CtxId) (x : Ctx) : (s.setCtx c n x).images = s.images := rfl
@[simp] theorem State.setCtx_lastPart (s : State) (c : CoreId) (n : CtxId) (x : Ctx) : (s.setCtx c n x).lastPart = s.lastPart := rfl
@[simp] theorem State.setCtx_selectDue (s : State) (c : CoreId) (n : CtxId) (x : Ctx) : (s.setCtx c n x).selectDue = s.selectDue := rfl
@[simp] theorem State.setCtx_inputs (s : State) (c : CoreId) (n : CtxId) (x : Ctx) : (s.setCtx c n x).inputs = s.inputs := rfl
@[simp] theorem State.setCtx_outbox (s : State) (c : CoreId) (n : CtxId) (x : Ctx) : (s.setCtx c n x).outbox = s.outbox := rfl
@[simp] theorem State.setCtx_pf (s : State) (c : CoreId) (n : CtxId) (x : Ctx) : (s.setCtx c n x).pf = s.pf := rfl
@[simp] theorem State.setCtx_ports (s : State) (c : CoreId) (n : CtxId) (x : Ctx) : (s.setCtx c n x).ports = s.ports := rfl
@[simp] theorem State.setCtx_wire (s : State) (c : CoreId) (n : CtxId) (x : Ctx) : (s.setCtx c n x).wire = s.wire := rfl
@[simp] theorem State.setCtx_away (s : State) (c : CoreId) (n : CtxId) (x : Ctx) : (s.setCtx c n x).away = s.away := rfl
@[simp] theorem State.setCtx_sensors (s : State) (c : CoreId) (n : CtxId) (x : Ctx) : (s.setCtx c n x).sensors = s.sensors := rfl
@[simp] theorem State.setCtx_parked (s : State) (c : CoreId) (n : CtxId) (x : Ctx) : (s.setCtx c n x).parked = s.parked := rfl
@[simp] theorem State.setCtx_endCount (s : State) (c : CoreId) (n : CtxId) (x : Ctx) : (s.setCtx c n x).endCount = s.endCount := rfl
@[simp] theorem State.setCtx_nextKey (s : State) (c : CoreId) (n : CtxId) (x : Ctx) : (s.setCtx c n x).nextKey = s.nextKey := rfl

@[simp] theorem State.modCtx_now (s : State) (c : CoreId) (n : CtxId) (g : Ctx → Ctx) : (s.modCtx c n g).now = s.now := rfl
@[simp] theorem State.modCtx_phase (s : State) (c : CoreId) (n : CtxId) (g : Ctx → Ctx) : (s.modCtx c n g).phase = s.phase := rfl
@[simp] theorem State.modCtx_focus (s : State) (c : CoreId) (n : CtxId) (g : Ctx → Ctx) : (s.modCtx c n g).focus = s.focus := rfl
@[simp] theorem State.modCtx_todo (s : State) (c : CoreId) (n : CtxId) (g : Ctx → Ctx) : (s.modCtx c n g).todo = s.todo := rfl
@[simp] theorem State.modCtx_freeCtr (s : State) (c : CoreId) (n : CtxId) (g : Ctx → Ctx) : (s.modCtx c n g).freeCtr = s.freeCtr := rfl
@[simp] theorem State.modCtx_dies (s : State) (c : CoreId) (n : CtxId) (g : Ctx → Ctx) : (s.modCtx c n g).dies = s.dies := rfl
@[simp] theorem State.modCtx_mem (s : State) (c : CoreId) (n : CtxId) (g : Ctx → Ctx) : (s.modCtx c n g).mem = s.mem := rfl
@[simp] theorem State.modCtx_hostMem (s : State) (c : CoreId) (n : CtxId) (g : Ctx → Ctx) : (s.modCtx c n g).hostMem = s.hostMem := rfl
@[simp] theorem State.modCtx_tags (s : State) (c : CoreId) (n : CtxId) (g : Ctx → Ctx) : (s.modCtx c n g).tags = s.tags := rfl
@[simp] theorem State.modCtx_poison (s : State) (c : CoreId) (n : CtxId) (g : Ctx → Ctx) : (s.modCtx c n g).poison = s.poison := rfl
@[simp] theorem State.modCtx_scrambled (s : State) (c : CoreId) (n : CtxId) (g : Ctx → Ctx) : (s.modCtx c n g).scrambled = s.scrambled := rfl
@[simp] theorem State.modCtx_weak (s : State) (c : CoreId) (n : CtxId) (g : Ctx → Ctx) : (s.modCtx c n g).weak = s.weak := rfl
@[simp] theorem State.modCtx_skips (s : State) (c : CoreId) (n : CtxId) (g : Ctx → Ctx) : (s.modCtx c n g).skips = s.skips := rfl
@[simp] theorem State.modCtx_homeQ (s : State) (c : CoreId) (n : CtxId) (g : Ctx → Ctx) : (s.modCtx c n g).homeQ = s.homeQ := rfl
@[simp] theorem State.modCtx_farW (s : State) (c : CoreId) (n : CtxId) (g : Ctx → Ctx) : (s.modCtx c n g).farW = s.farW := rfl
@[simp] theorem State.modCtx_replies (s : State) (c : CoreId) (n : CtxId) (g : Ctx → Ctx) : (s.modCtx c n g).replies = s.replies := rfl
@[simp] theorem State.modCtx_shadows (s : State) (c : CoreId) (n : CtxId) (g : Ctx → Ctx) : (s.modCtx c n g).shadows = s.shadows := rfl
@[simp] theorem State.modCtx_stamps (s : State) (c : CoreId) (n : CtxId) (g : Ctx → Ctx) : (s.modCtx c n g).stamps = s.stamps := rfl
@[simp] theorem State.modCtx_vfs (s : State) (c : CoreId) (n : CtxId) (g : Ctx → Ctx) : (s.modCtx c n g).vfs = s.vfs := rfl
@[simp] theorem State.modCtx_bsinv (s : State) (c : CoreId) (n : CtxId) (g : Ctx → Ctx) : (s.modCtx c n g).bsinv = s.bsinv := rfl
@[simp] theorem State.modCtx_launches (s : State) (c : CoreId) (n : CtxId) (g : Ctx → Ctx) : (s.modCtx c n g).launches = s.launches := rfl
@[simp] theorem State.modCtx_images (s : State) (c : CoreId) (n : CtxId) (g : Ctx → Ctx) : (s.modCtx c n g).images = s.images := rfl
@[simp] theorem State.modCtx_lastPart (s : State) (c : CoreId) (n : CtxId) (g : Ctx → Ctx) : (s.modCtx c n g).lastPart = s.lastPart := rfl
@[simp] theorem State.modCtx_selectDue (s : State) (c : CoreId) (n : CtxId) (g : Ctx → Ctx) : (s.modCtx c n g).selectDue = s.selectDue := rfl
@[simp] theorem State.modCtx_inputs (s : State) (c : CoreId) (n : CtxId) (g : Ctx → Ctx) : (s.modCtx c n g).inputs = s.inputs := rfl
@[simp] theorem State.modCtx_outbox (s : State) (c : CoreId) (n : CtxId) (g : Ctx → Ctx) : (s.modCtx c n g).outbox = s.outbox := rfl
@[simp] theorem State.modCtx_pf (s : State) (c : CoreId) (n : CtxId) (g : Ctx → Ctx) : (s.modCtx c n g).pf = s.pf := rfl
@[simp] theorem State.modCtx_ports (s : State) (c : CoreId) (n : CtxId) (g : Ctx → Ctx) : (s.modCtx c n g).ports = s.ports := rfl
@[simp] theorem State.modCtx_wire (s : State) (c : CoreId) (n : CtxId) (g : Ctx → Ctx) : (s.modCtx c n g).wire = s.wire := rfl
@[simp] theorem State.modCtx_away (s : State) (c : CoreId) (n : CtxId) (g : Ctx → Ctx) : (s.modCtx c n g).away = s.away := rfl
@[simp] theorem State.modCtx_sensors (s : State) (c : CoreId) (n : CtxId) (g : Ctx → Ctx) : (s.modCtx c n g).sensors = s.sensors := rfl
@[simp] theorem State.modCtx_parked (s : State) (c : CoreId) (n : CtxId) (g : Ctx → Ctx) : (s.modCtx c n g).parked = s.parked := rfl
@[simp] theorem State.modCtx_endCount (s : State) (c : CoreId) (n : CtxId) (g : Ctx → Ctx) : (s.modCtx c n g).endCount = s.endCount := rfl
@[simp] theorem State.modCtx_nextKey (s : State) (c : CoreId) (n : CtxId) (g : Ctx → Ctx) : (s.modCtx c n g).nextKey = s.nextKey := rfl

@[simp] theorem State.addResult_now (s : State) (c : CoreId) (r : Result) : (s.addResult c r).now = s.now := rfl
@[simp] theorem State.addResult_phase (s : State) (c : CoreId) (r : Result) : (s.addResult c r).phase = s.phase := rfl
@[simp] theorem State.addResult_focus (s : State) (c : CoreId) (r : Result) : (s.addResult c r).focus = s.focus := rfl
@[simp] theorem State.addResult_todo (s : State) (c : CoreId) (r : Result) : (s.addResult c r).todo = s.todo := rfl
@[simp] theorem State.addResult_freeCtr (s : State) (c : CoreId) (r : Result) : (s.addResult c r).freeCtr = s.freeCtr := rfl
@[simp] theorem State.addResult_dies (s : State) (c : CoreId) (r : Result) : (s.addResult c r).dies = s.dies := rfl
@[simp] theorem State.addResult_mem (s : State) (c : CoreId) (r : Result) : (s.addResult c r).mem = s.mem := rfl
@[simp] theorem State.addResult_hostMem (s : State) (c : CoreId) (r : Result) : (s.addResult c r).hostMem = s.hostMem := rfl
@[simp] theorem State.addResult_tags (s : State) (c : CoreId) (r : Result) : (s.addResult c r).tags = s.tags := rfl
@[simp] theorem State.addResult_poison (s : State) (c : CoreId) (r : Result) : (s.addResult c r).poison = s.poison := rfl
@[simp] theorem State.addResult_scrambled (s : State) (c : CoreId) (r : Result) : (s.addResult c r).scrambled = s.scrambled := rfl
@[simp] theorem State.addResult_weak (s : State) (c : CoreId) (r : Result) : (s.addResult c r).weak = s.weak := rfl
@[simp] theorem State.addResult_skips (s : State) (c : CoreId) (r : Result) : (s.addResult c r).skips = s.skips := rfl
@[simp] theorem State.addResult_homeQ (s : State) (c : CoreId) (r : Result) : (s.addResult c r).homeQ = s.homeQ := rfl
@[simp] theorem State.addResult_farW (s : State) (c : CoreId) (r : Result) : (s.addResult c r).farW = s.farW := rfl
@[simp] theorem State.addResult_replies (s : State) (c : CoreId) (r : Result) : (s.addResult c r).replies = s.replies := rfl
@[simp] theorem State.addResult_shadows (s : State) (c : CoreId) (r : Result) : (s.addResult c r).shadows = s.shadows := rfl
@[simp] theorem State.addResult_stamps (s : State) (c : CoreId) (r : Result) : (s.addResult c r).stamps = s.stamps := rfl
@[simp] theorem State.addResult_vfs (s : State) (c : CoreId) (r : Result) : (s.addResult c r).vfs = s.vfs := rfl
@[simp] theorem State.addResult_bsinv (s : State) (c : CoreId) (r : Result) : (s.addResult c r).bsinv = s.bsinv := rfl
@[simp] theorem State.addResult_launches (s : State) (c : CoreId) (r : Result) : (s.addResult c r).launches = s.launches := rfl
@[simp] theorem State.addResult_images (s : State) (c : CoreId) (r : Result) : (s.addResult c r).images = s.images := rfl
@[simp] theorem State.addResult_lastPart (s : State) (c : CoreId) (r : Result) : (s.addResult c r).lastPart = s.lastPart := rfl
@[simp] theorem State.addResult_selectDue (s : State) (c : CoreId) (r : Result) : (s.addResult c r).selectDue = s.selectDue := rfl
@[simp] theorem State.addResult_inputs (s : State) (c : CoreId) (r : Result) : (s.addResult c r).inputs = s.inputs := rfl
@[simp] theorem State.addResult_outbox (s : State) (c : CoreId) (r : Result) : (s.addResult c r).outbox = s.outbox := rfl
@[simp] theorem State.addResult_pf (s : State) (c : CoreId) (r : Result) : (s.addResult c r).pf = s.pf := rfl
@[simp] theorem State.addResult_ports (s : State) (c : CoreId) (r : Result) : (s.addResult c r).ports = s.ports := rfl
@[simp] theorem State.addResult_wire (s : State) (c : CoreId) (r : Result) : (s.addResult c r).wire = s.wire := rfl
@[simp] theorem State.addResult_away (s : State) (c : CoreId) (r : Result) : (s.addResult c r).away = s.away := rfl
@[simp] theorem State.addResult_sensors (s : State) (c : CoreId) (r : Result) : (s.addResult c r).sensors = s.sensors := rfl
@[simp] theorem State.addResult_parked (s : State) (c : CoreId) (r : Result) : (s.addResult c r).parked = s.parked := rfl
@[simp] theorem State.addResult_endCount (s : State) (c : CoreId) (r : Result) : (s.addResult c r).endCount = s.endCount := rfl
@[simp] theorem State.addResult_nextKey (s : State) (c : CoreId) (r : Result) : (s.addResult c r).nextKey = s.nextKey := rfl

@[simp] theorem State.addAccess_now (s : State) (c : CoreId) (a : Access) : (s.addAccess c a).now = s.now := rfl
@[simp] theorem State.addAccess_phase (s : State) (c : CoreId) (a : Access) : (s.addAccess c a).phase = s.phase := rfl
@[simp] theorem State.addAccess_focus (s : State) (c : CoreId) (a : Access) : (s.addAccess c a).focus = s.focus := rfl
@[simp] theorem State.addAccess_todo (s : State) (c : CoreId) (a : Access) : (s.addAccess c a).todo = s.todo := rfl
@[simp] theorem State.addAccess_freeCtr (s : State) (c : CoreId) (a : Access) : (s.addAccess c a).freeCtr = s.freeCtr := rfl
@[simp] theorem State.addAccess_dies (s : State) (c : CoreId) (a : Access) : (s.addAccess c a).dies = s.dies := rfl
@[simp] theorem State.addAccess_mem (s : State) (c : CoreId) (a : Access) : (s.addAccess c a).mem = s.mem := rfl
@[simp] theorem State.addAccess_hostMem (s : State) (c : CoreId) (a : Access) : (s.addAccess c a).hostMem = s.hostMem := rfl
@[simp] theorem State.addAccess_tags (s : State) (c : CoreId) (a : Access) : (s.addAccess c a).tags = s.tags := rfl
@[simp] theorem State.addAccess_poison (s : State) (c : CoreId) (a : Access) : (s.addAccess c a).poison = s.poison := rfl
@[simp] theorem State.addAccess_scrambled (s : State) (c : CoreId) (a : Access) : (s.addAccess c a).scrambled = s.scrambled := rfl
@[simp] theorem State.addAccess_weak (s : State) (c : CoreId) (a : Access) : (s.addAccess c a).weak = s.weak := rfl
@[simp] theorem State.addAccess_skips (s : State) (c : CoreId) (a : Access) : (s.addAccess c a).skips = s.skips := rfl
@[simp] theorem State.addAccess_homeQ (s : State) (c : CoreId) (a : Access) : (s.addAccess c a).homeQ = s.homeQ := rfl
@[simp] theorem State.addAccess_farW (s : State) (c : CoreId) (a : Access) : (s.addAccess c a).farW = s.farW := rfl
@[simp] theorem State.addAccess_replies (s : State) (c : CoreId) (a : Access) : (s.addAccess c a).replies = s.replies := rfl
@[simp] theorem State.addAccess_shadows (s : State) (c : CoreId) (a : Access) : (s.addAccess c a).shadows = s.shadows := rfl
@[simp] theorem State.addAccess_stamps (s : State) (c : CoreId) (a : Access) : (s.addAccess c a).stamps = s.stamps := rfl
@[simp] theorem State.addAccess_vfs (s : State) (c : CoreId) (a : Access) : (s.addAccess c a).vfs = s.vfs := rfl
@[simp] theorem State.addAccess_bsinv (s : State) (c : CoreId) (a : Access) : (s.addAccess c a).bsinv = s.bsinv := rfl
@[simp] theorem State.addAccess_launches (s : State) (c : CoreId) (a : Access) : (s.addAccess c a).launches = s.launches := rfl
@[simp] theorem State.addAccess_images (s : State) (c : CoreId) (a : Access) : (s.addAccess c a).images = s.images := rfl
@[simp] theorem State.addAccess_lastPart (s : State) (c : CoreId) (a : Access) : (s.addAccess c a).lastPart = s.lastPart := rfl
@[simp] theorem State.addAccess_selectDue (s : State) (c : CoreId) (a : Access) : (s.addAccess c a).selectDue = s.selectDue := rfl
@[simp] theorem State.addAccess_inputs (s : State) (c : CoreId) (a : Access) : (s.addAccess c a).inputs = s.inputs := rfl
@[simp] theorem State.addAccess_outbox (s : State) (c : CoreId) (a : Access) : (s.addAccess c a).outbox = s.outbox := rfl
@[simp] theorem State.addAccess_pf (s : State) (c : CoreId) (a : Access) : (s.addAccess c a).pf = s.pf := rfl
@[simp] theorem State.addAccess_ports (s : State) (c : CoreId) (a : Access) : (s.addAccess c a).ports = s.ports := rfl
@[simp] theorem State.addAccess_wire (s : State) (c : CoreId) (a : Access) : (s.addAccess c a).wire = s.wire := rfl
@[simp] theorem State.addAccess_away (s : State) (c : CoreId) (a : Access) : (s.addAccess c a).away = s.away := rfl
@[simp] theorem State.addAccess_sensors (s : State) (c : CoreId) (a : Access) : (s.addAccess c a).sensors = s.sensors := rfl
@[simp] theorem State.addAccess_parked (s : State) (c : CoreId) (a : Access) : (s.addAccess c a).parked = s.parked := rfl
@[simp] theorem State.addAccess_endCount (s : State) (c : CoreId) (a : Access) : (s.addAccess c a).endCount = s.endCount := rfl
@[simp] theorem State.addAccess_nextKey (s : State) (c : CoreId) (a : Access) : (s.addAccess c a).nextKey = s.nextKey := rfl

@[simp] theorem State.addHaul_now (s : State) (c : CoreId) (u : HaulOp) : (s.addHaul c u).now = s.now := rfl
@[simp] theorem State.addHaul_phase (s : State) (c : CoreId) (u : HaulOp) : (s.addHaul c u).phase = s.phase := rfl
@[simp] theorem State.addHaul_focus (s : State) (c : CoreId) (u : HaulOp) : (s.addHaul c u).focus = s.focus := rfl
@[simp] theorem State.addHaul_todo (s : State) (c : CoreId) (u : HaulOp) : (s.addHaul c u).todo = s.todo := rfl
@[simp] theorem State.addHaul_freeCtr (s : State) (c : CoreId) (u : HaulOp) : (s.addHaul c u).freeCtr = s.freeCtr := rfl
@[simp] theorem State.addHaul_dies (s : State) (c : CoreId) (u : HaulOp) : (s.addHaul c u).dies = s.dies := rfl
@[simp] theorem State.addHaul_mem (s : State) (c : CoreId) (u : HaulOp) : (s.addHaul c u).mem = s.mem := rfl
@[simp] theorem State.addHaul_hostMem (s : State) (c : CoreId) (u : HaulOp) : (s.addHaul c u).hostMem = s.hostMem := rfl
@[simp] theorem State.addHaul_tags (s : State) (c : CoreId) (u : HaulOp) : (s.addHaul c u).tags = s.tags := rfl
@[simp] theorem State.addHaul_poison (s : State) (c : CoreId) (u : HaulOp) : (s.addHaul c u).poison = s.poison := rfl
@[simp] theorem State.addHaul_scrambled (s : State) (c : CoreId) (u : HaulOp) : (s.addHaul c u).scrambled = s.scrambled := rfl
@[simp] theorem State.addHaul_weak (s : State) (c : CoreId) (u : HaulOp) : (s.addHaul c u).weak = s.weak := rfl
@[simp] theorem State.addHaul_skips (s : State) (c : CoreId) (u : HaulOp) : (s.addHaul c u).skips = s.skips := rfl
@[simp] theorem State.addHaul_homeQ (s : State) (c : CoreId) (u : HaulOp) : (s.addHaul c u).homeQ = s.homeQ := rfl
@[simp] theorem State.addHaul_farW (s : State) (c : CoreId) (u : HaulOp) : (s.addHaul c u).farW = s.farW := rfl
@[simp] theorem State.addHaul_replies (s : State) (c : CoreId) (u : HaulOp) : (s.addHaul c u).replies = s.replies := rfl
@[simp] theorem State.addHaul_shadows (s : State) (c : CoreId) (u : HaulOp) : (s.addHaul c u).shadows = s.shadows := rfl
@[simp] theorem State.addHaul_stamps (s : State) (c : CoreId) (u : HaulOp) : (s.addHaul c u).stamps = s.stamps := rfl
@[simp] theorem State.addHaul_vfs (s : State) (c : CoreId) (u : HaulOp) : (s.addHaul c u).vfs = s.vfs := rfl
@[simp] theorem State.addHaul_bsinv (s : State) (c : CoreId) (u : HaulOp) : (s.addHaul c u).bsinv = s.bsinv := rfl
@[simp] theorem State.addHaul_launches (s : State) (c : CoreId) (u : HaulOp) : (s.addHaul c u).launches = s.launches := rfl
@[simp] theorem State.addHaul_images (s : State) (c : CoreId) (u : HaulOp) : (s.addHaul c u).images = s.images := rfl
@[simp] theorem State.addHaul_lastPart (s : State) (c : CoreId) (u : HaulOp) : (s.addHaul c u).lastPart = s.lastPart := rfl
@[simp] theorem State.addHaul_selectDue (s : State) (c : CoreId) (u : HaulOp) : (s.addHaul c u).selectDue = s.selectDue := rfl
@[simp] theorem State.addHaul_inputs (s : State) (c : CoreId) (u : HaulOp) : (s.addHaul c u).inputs = s.inputs := rfl
@[simp] theorem State.addHaul_outbox (s : State) (c : CoreId) (u : HaulOp) : (s.addHaul c u).outbox = s.outbox := rfl
@[simp] theorem State.addHaul_pf (s : State) (c : CoreId) (u : HaulOp) : (s.addHaul c u).pf = s.pf := rfl
@[simp] theorem State.addHaul_ports (s : State) (c : CoreId) (u : HaulOp) : (s.addHaul c u).ports = s.ports := rfl
@[simp] theorem State.addHaul_wire (s : State) (c : CoreId) (u : HaulOp) : (s.addHaul c u).wire = s.wire := rfl
@[simp] theorem State.addHaul_away (s : State) (c : CoreId) (u : HaulOp) : (s.addHaul c u).away = s.away := rfl
@[simp] theorem State.addHaul_sensors (s : State) (c : CoreId) (u : HaulOp) : (s.addHaul c u).sensors = s.sensors := rfl
@[simp] theorem State.addHaul_parked (s : State) (c : CoreId) (u : HaulOp) : (s.addHaul c u).parked = s.parked := rfl
@[simp] theorem State.addHaul_endCount (s : State) (c : CoreId) (u : HaulOp) : (s.addHaul c u).endCount = s.endCount := rfl
@[simp] theorem State.addHaul_nextKey (s : State) (c : CoreId) (u : HaulOp) : (s.addHaul c u).nextKey = s.nextKey := rfl

@[simp] theorem State.raise_now (s : State) (f : Focus) (part cause : Nat) (addr : Word) : (s.raise f part cause addr).now = s.now := rfl
@[simp] theorem State.raise_phase (s : State) (f : Focus) (part cause : Nat) (addr : Word) : (s.raise f part cause addr).phase = s.phase := rfl
@[simp] theorem State.raise_focus (s : State) (f : Focus) (part cause : Nat) (addr : Word) : (s.raise f part cause addr).focus = s.focus := rfl
@[simp] theorem State.raise_todo (s : State) (f : Focus) (part cause : Nat) (addr : Word) : (s.raise f part cause addr).todo = s.todo := rfl
@[simp] theorem State.raise_freeCtr (s : State) (f : Focus) (part cause : Nat) (addr : Word) : (s.raise f part cause addr).freeCtr = s.freeCtr := rfl
@[simp] theorem State.raise_dies (s : State) (f : Focus) (part cause : Nat) (addr : Word) : (s.raise f part cause addr).dies = s.dies := rfl
@[simp] theorem State.raise_mem (s : State) (f : Focus) (part cause : Nat) (addr : Word) : (s.raise f part cause addr).mem = s.mem := rfl
@[simp] theorem State.raise_hostMem (s : State) (f : Focus) (part cause : Nat) (addr : Word) : (s.raise f part cause addr).hostMem = s.hostMem := rfl
@[simp] theorem State.raise_tags (s : State) (f : Focus) (part cause : Nat) (addr : Word) : (s.raise f part cause addr).tags = s.tags := rfl
@[simp] theorem State.raise_poison (s : State) (f : Focus) (part cause : Nat) (addr : Word) : (s.raise f part cause addr).poison = s.poison := rfl
@[simp] theorem State.raise_scrambled (s : State) (f : Focus) (part cause : Nat) (addr : Word) : (s.raise f part cause addr).scrambled = s.scrambled := rfl
@[simp] theorem State.raise_weak (s : State) (f : Focus) (part cause : Nat) (addr : Word) : (s.raise f part cause addr).weak = s.weak := rfl
@[simp] theorem State.raise_skips (s : State) (f : Focus) (part cause : Nat) (addr : Word) : (s.raise f part cause addr).skips = s.skips := rfl
@[simp] theorem State.raise_homeQ (s : State) (f : Focus) (part cause : Nat) (addr : Word) : (s.raise f part cause addr).homeQ = s.homeQ := rfl
@[simp] theorem State.raise_farW (s : State) (f : Focus) (part cause : Nat) (addr : Word) : (s.raise f part cause addr).farW = s.farW := rfl
@[simp] theorem State.raise_replies (s : State) (f : Focus) (part cause : Nat) (addr : Word) : (s.raise f part cause addr).replies = s.replies := rfl
@[simp] theorem State.raise_shadows (s : State) (f : Focus) (part cause : Nat) (addr : Word) : (s.raise f part cause addr).shadows = s.shadows := rfl
@[simp] theorem State.raise_stamps (s : State) (f : Focus) (part cause : Nat) (addr : Word) : (s.raise f part cause addr).stamps = s.stamps := rfl
@[simp] theorem State.raise_vfs (s : State) (f : Focus) (part cause : Nat) (addr : Word) : (s.raise f part cause addr).vfs = s.vfs := rfl
@[simp] theorem State.raise_bsinv (s : State) (f : Focus) (part cause : Nat) (addr : Word) : (s.raise f part cause addr).bsinv = s.bsinv := rfl
@[simp] theorem State.raise_launches (s : State) (f : Focus) (part cause : Nat) (addr : Word) : (s.raise f part cause addr).launches = s.launches := rfl
@[simp] theorem State.raise_images (s : State) (f : Focus) (part cause : Nat) (addr : Word) : (s.raise f part cause addr).images = s.images := rfl
@[simp] theorem State.raise_lastPart (s : State) (f : Focus) (part cause : Nat) (addr : Word) : (s.raise f part cause addr).lastPart = s.lastPart := rfl
@[simp] theorem State.raise_selectDue (s : State) (f : Focus) (part cause : Nat) (addr : Word) : (s.raise f part cause addr).selectDue = s.selectDue := rfl
@[simp] theorem State.raise_inputs (s : State) (f : Focus) (part cause : Nat) (addr : Word) : (s.raise f part cause addr).inputs = s.inputs := rfl
@[simp] theorem State.raise_outbox (s : State) (f : Focus) (part cause : Nat) (addr : Word) : (s.raise f part cause addr).outbox = s.outbox := rfl
@[simp] theorem State.raise_pf (s : State) (f : Focus) (part cause : Nat) (addr : Word) : (s.raise f part cause addr).pf = s.pf := rfl
@[simp] theorem State.raise_ports (s : State) (f : Focus) (part cause : Nat) (addr : Word) : (s.raise f part cause addr).ports = s.ports := rfl
@[simp] theorem State.raise_wire (s : State) (f : Focus) (part cause : Nat) (addr : Word) : (s.raise f part cause addr).wire = s.wire := rfl
@[simp] theorem State.raise_away (s : State) (f : Focus) (part cause : Nat) (addr : Word) : (s.raise f part cause addr).away = s.away := rfl
@[simp] theorem State.raise_sensors (s : State) (f : Focus) (part cause : Nat) (addr : Word) : (s.raise f part cause addr).sensors = s.sensors := rfl
@[simp] theorem State.raise_parked (s : State) (f : Focus) (part cause : Nat) (addr : Word) : (s.raise f part cause addr).parked = s.parked := rfl
@[simp] theorem State.raise_endCount (s : State) (f : Focus) (part cause : Nat) (addr : Word) : (s.raise f part cause addr).endCount = s.endCount := rfl
@[simp] theorem State.raise_nextKey (s : State) (f : Focus) (part cause : Nat) (addr : Word) : (s.raise f part cause addr).nextKey = s.nextKey := rfl

@[simp] theorem State.withhold_now (s : State) (f : Focus) (part : Nat) (w : WKind) : (s.withhold f part w).now = s.now := by unfold State.withhold; split <;> rfl
@[simp] theorem State.withhold_phase (s : State) (f : Focus) (part : Nat) (w : WKind) : (s.withhold f part w).phase = s.phase := by unfold State.withhold; split <;> rfl
@[simp] theorem State.withhold_focus (s : State) (f : Focus) (part : Nat) (w : WKind) : (s.withhold f part w).focus = s.focus := by unfold State.withhold; split <;> rfl
@[simp] theorem State.withhold_todo (s : State) (f : Focus) (part : Nat) (w : WKind) : (s.withhold f part w).todo = s.todo := by unfold State.withhold; split <;> rfl
@[simp] theorem State.withhold_freeCtr (s : State) (f : Focus) (part : Nat) (w : WKind) : (s.withhold f part w).freeCtr = s.freeCtr := by unfold State.withhold; split <;> rfl
@[simp] theorem State.withhold_dies (s : State) (f : Focus) (part : Nat) (w : WKind) : (s.withhold f part w).dies = s.dies := by unfold State.withhold; split <;> rfl
@[simp] theorem State.withhold_mem (s : State) (f : Focus) (part : Nat) (w : WKind) : (s.withhold f part w).mem = s.mem := by unfold State.withhold; split <;> rfl
@[simp] theorem State.withhold_hostMem (s : State) (f : Focus) (part : Nat) (w : WKind) : (s.withhold f part w).hostMem = s.hostMem := by unfold State.withhold; split <;> rfl
@[simp] theorem State.withhold_tags (s : State) (f : Focus) (part : Nat) (w : WKind) : (s.withhold f part w).tags = s.tags := by unfold State.withhold; split <;> rfl
@[simp] theorem State.withhold_poison (s : State) (f : Focus) (part : Nat) (w : WKind) : (s.withhold f part w).poison = s.poison := by unfold State.withhold; split <;> rfl
@[simp] theorem State.withhold_scrambled (s : State) (f : Focus) (part : Nat) (w : WKind) : (s.withhold f part w).scrambled = s.scrambled := by unfold State.withhold; split <;> rfl
@[simp] theorem State.withhold_weak (s : State) (f : Focus) (part : Nat) (w : WKind) : (s.withhold f part w).weak = s.weak := by unfold State.withhold; split <;> rfl
@[simp] theorem State.withhold_skips (s : State) (f : Focus) (part : Nat) (w : WKind) : (s.withhold f part w).skips = s.skips := by unfold State.withhold; split <;> rfl
@[simp] theorem State.withhold_homeQ (s : State) (f : Focus) (part : Nat) (w : WKind) : (s.withhold f part w).homeQ = s.homeQ := by unfold State.withhold; split <;> rfl
@[simp] theorem State.withhold_farW (s : State) (f : Focus) (part : Nat) (w : WKind) : (s.withhold f part w).farW = s.farW := by unfold State.withhold; split <;> rfl
@[simp] theorem State.withhold_replies (s : State) (f : Focus) (part : Nat) (w : WKind) : (s.withhold f part w).replies = s.replies := by unfold State.withhold; split <;> rfl
@[simp] theorem State.withhold_shadows (s : State) (f : Focus) (part : Nat) (w : WKind) : (s.withhold f part w).shadows = s.shadows := by unfold State.withhold; split <;> rfl
@[simp] theorem State.withhold_stamps (s : State) (f : Focus) (part : Nat) (w : WKind) : (s.withhold f part w).stamps = s.stamps := by unfold State.withhold; split <;> rfl
@[simp] theorem State.withhold_vfs (s : State) (f : Focus) (part : Nat) (w : WKind) : (s.withhold f part w).vfs = s.vfs := by unfold State.withhold; split <;> rfl
@[simp] theorem State.withhold_bsinv (s : State) (f : Focus) (part : Nat) (w : WKind) : (s.withhold f part w).bsinv = s.bsinv := by unfold State.withhold; split <;> rfl
@[simp] theorem State.withhold_launches (s : State) (f : Focus) (part : Nat) (w : WKind) : (s.withhold f part w).launches = s.launches := by unfold State.withhold; split <;> rfl
@[simp] theorem State.withhold_images (s : State) (f : Focus) (part : Nat) (w : WKind) : (s.withhold f part w).images = s.images := by unfold State.withhold; split <;> rfl
@[simp] theorem State.withhold_lastPart (s : State) (f : Focus) (part : Nat) (w : WKind) : (s.withhold f part w).lastPart = s.lastPart := by unfold State.withhold; split <;> rfl
@[simp] theorem State.withhold_selectDue (s : State) (f : Focus) (part : Nat) (w : WKind) : (s.withhold f part w).selectDue = s.selectDue := by unfold State.withhold; split <;> rfl
@[simp] theorem State.withhold_inputs (s : State) (f : Focus) (part : Nat) (w : WKind) : (s.withhold f part w).inputs = s.inputs := by unfold State.withhold; split <;> rfl
@[simp] theorem State.withhold_outbox (s : State) (f : Focus) (part : Nat) (w : WKind) : (s.withhold f part w).outbox = s.outbox := by unfold State.withhold; split <;> rfl
@[simp] theorem State.withhold_pf (s : State) (f : Focus) (part : Nat) (w : WKind) : (s.withhold f part w).pf = s.pf := by unfold State.withhold; split <;> rfl
@[simp] theorem State.withhold_ports (s : State) (f : Focus) (part : Nat) (w : WKind) : (s.withhold f part w).ports = s.ports := by unfold State.withhold; split <;> rfl
@[simp] theorem State.withhold_wire (s : State) (f : Focus) (part : Nat) (w : WKind) : (s.withhold f part w).wire = s.wire := by unfold State.withhold; split <;> rfl
@[simp] theorem State.withhold_away (s : State) (f : Focus) (part : Nat) (w : WKind) : (s.withhold f part w).away = s.away := by unfold State.withhold; split <;> rfl
@[simp] theorem State.withhold_sensors (s : State) (f : Focus) (part : Nat) (w : WKind) : (s.withhold f part w).sensors = s.sensors := by unfold State.withhold; split <;> rfl
@[simp] theorem State.withhold_parked (s : State) (f : Focus) (part : Nat) (w : WKind) : (s.withhold f part w).parked = s.parked := by unfold State.withhold; split <;> rfl
@[simp] theorem State.withhold_endCount (s : State) (f : Focus) (part : Nat) (w : WKind) : (s.withhold f part w).endCount = s.endCount := by unfold State.withhold; split <;> rfl
@[simp] theorem State.withhold_nextKey (s : State) (f : Focus) (part : Nat) (w : WKind) : (s.withhold f part w).nextKey = s.nextKey := by unfold State.withhold; split <;> rfl

@[simp] theorem State.block_now (s : State) (f : Focus) (w : Wait) : (s.block f w).now = s.now := rfl
@[simp] theorem State.block_phase (s : State) (f : Focus) (w : Wait) : (s.block f w).phase = s.phase := rfl
@[simp] theorem State.block_todo (s : State) (f : Focus) (w : Wait) : (s.block f w).todo = s.todo := rfl
@[simp] theorem State.block_freeCtr (s : State) (f : Focus) (w : Wait) : (s.block f w).freeCtr = s.freeCtr := rfl
@[simp] theorem State.block_dies (s : State) (f : Focus) (w : Wait) : (s.block f w).dies = s.dies := rfl
@[simp] theorem State.block_mem (s : State) (f : Focus) (w : Wait) : (s.block f w).mem = s.mem := rfl
@[simp] theorem State.block_hostMem (s : State) (f : Focus) (w : Wait) : (s.block f w).hostMem = s.hostMem := rfl
@[simp] theorem State.block_tags (s : State) (f : Focus) (w : Wait) : (s.block f w).tags = s.tags := rfl
@[simp] theorem State.block_poison (s : State) (f : Focus) (w : Wait) : (s.block f w).poison = s.poison := rfl
@[simp] theorem State.block_scrambled (s : State) (f : Focus) (w : Wait) : (s.block f w).scrambled = s.scrambled := rfl
@[simp] theorem State.block_weak (s : State) (f : Focus) (w : Wait) : (s.block f w).weak = s.weak := rfl
@[simp] theorem State.block_skips (s : State) (f : Focus) (w : Wait) : (s.block f w).skips = s.skips := rfl
@[simp] theorem State.block_homeQ (s : State) (f : Focus) (w : Wait) : (s.block f w).homeQ = s.homeQ := rfl
@[simp] theorem State.block_farW (s : State) (f : Focus) (w : Wait) : (s.block f w).farW = s.farW := rfl
@[simp] theorem State.block_replies (s : State) (f : Focus) (w : Wait) : (s.block f w).replies = s.replies := rfl
@[simp] theorem State.block_shadows (s : State) (f : Focus) (w : Wait) : (s.block f w).shadows = s.shadows := rfl
@[simp] theorem State.block_stamps (s : State) (f : Focus) (w : Wait) : (s.block f w).stamps = s.stamps := rfl
@[simp] theorem State.block_vfs (s : State) (f : Focus) (w : Wait) : (s.block f w).vfs = s.vfs := rfl
@[simp] theorem State.block_bsinv (s : State) (f : Focus) (w : Wait) : (s.block f w).bsinv = s.bsinv := rfl
@[simp] theorem State.block_launches (s : State) (f : Focus) (w : Wait) : (s.block f w).launches = s.launches := rfl
@[simp] theorem State.block_images (s : State) (f : Focus) (w : Wait) : (s.block f w).images = s.images := rfl
@[simp] theorem State.block_lastPart (s : State) (f : Focus) (w : Wait) : (s.block f w).lastPart = s.lastPart := rfl
@[simp] theorem State.block_selectDue (s : State) (f : Focus) (w : Wait) : (s.block f w).selectDue = s.selectDue := rfl
@[simp] theorem State.block_inputs (s : State) (f : Focus) (w : Wait) : (s.block f w).inputs = s.inputs := rfl
@[simp] theorem State.block_outbox (s : State) (f : Focus) (w : Wait) : (s.block f w).outbox = s.outbox := rfl
@[simp] theorem State.block_pf (s : State) (f : Focus) (w : Wait) : (s.block f w).pf = s.pf := rfl
@[simp] theorem State.block_ports (s : State) (f : Focus) (w : Wait) : (s.block f w).ports = s.ports := rfl
@[simp] theorem State.block_wire (s : State) (f : Focus) (w : Wait) : (s.block f w).wire = s.wire := rfl
@[simp] theorem State.block_away (s : State) (f : Focus) (w : Wait) : (s.block f w).away = s.away := rfl
@[simp] theorem State.block_sensors (s : State) (f : Focus) (w : Wait) : (s.block f w).sensors = s.sensors := rfl
@[simp] theorem State.block_parked (s : State) (f : Focus) (w : Wait) : (s.block f w).parked = s.parked := rfl
@[simp] theorem State.block_endCount (s : State) (f : Focus) (w : Wait) : (s.block f w).endCount = s.endCount := rfl
@[simp] theorem State.block_nextKey (s : State) (f : Focus) (w : Wait) : (s.block f w).nextKey = s.nextKey := rfl

@[simp] theorem State.modFocus_now (s : State) (g : Focus → Focus) : (s.modFocus g).now = s.now := rfl
@[simp] theorem State.modFocus_phase (s : State) (g : Focus → Focus) : (s.modFocus g).phase = s.phase := rfl
@[simp] theorem State.modFocus_todo (s : State) (g : Focus → Focus) : (s.modFocus g).todo = s.todo := rfl
@[simp] theorem State.modFocus_freeCtr (s : State) (g : Focus → Focus) : (s.modFocus g).freeCtr = s.freeCtr := rfl
@[simp] theorem State.modFocus_cores (s : State) (g : Focus → Focus) : (s.modFocus g).cores = s.cores := rfl
@[simp] theorem State.modFocus_dies (s : State) (g : Focus → Focus) : (s.modFocus g).dies = s.dies := rfl
@[simp] theorem State.modFocus_mem (s : State) (g : Focus → Focus) : (s.modFocus g).mem = s.mem := rfl
@[simp] theorem State.modFocus_hostMem (s : State) (g : Focus → Focus) : (s.modFocus g).hostMem = s.hostMem := rfl
@[simp] theorem State.modFocus_tags (s : State) (g : Focus → Focus) : (s.modFocus g).tags = s.tags := rfl
@[simp] theorem State.modFocus_poison (s : State) (g : Focus → Focus) : (s.modFocus g).poison = s.poison := rfl
@[simp] theorem State.modFocus_scrambled (s : State) (g : Focus → Focus) : (s.modFocus g).scrambled = s.scrambled := rfl
@[simp] theorem State.modFocus_weak (s : State) (g : Focus → Focus) : (s.modFocus g).weak = s.weak := rfl
@[simp] theorem State.modFocus_skips (s : State) (g : Focus → Focus) : (s.modFocus g).skips = s.skips := rfl
@[simp] theorem State.modFocus_homeQ (s : State) (g : Focus → Focus) : (s.modFocus g).homeQ = s.homeQ := rfl
@[simp] theorem State.modFocus_farW (s : State) (g : Focus → Focus) : (s.modFocus g).farW = s.farW := rfl
@[simp] theorem State.modFocus_replies (s : State) (g : Focus → Focus) : (s.modFocus g).replies = s.replies := rfl
@[simp] theorem State.modFocus_shadows (s : State) (g : Focus → Focus) : (s.modFocus g).shadows = s.shadows := rfl
@[simp] theorem State.modFocus_stamps (s : State) (g : Focus → Focus) : (s.modFocus g).stamps = s.stamps := rfl
@[simp] theorem State.modFocus_vfs (s : State) (g : Focus → Focus) : (s.modFocus g).vfs = s.vfs := rfl
@[simp] theorem State.modFocus_bsinv (s : State) (g : Focus → Focus) : (s.modFocus g).bsinv = s.bsinv := rfl
@[simp] theorem State.modFocus_launches (s : State) (g : Focus → Focus) : (s.modFocus g).launches = s.launches := rfl
@[simp] theorem State.modFocus_images (s : State) (g : Focus → Focus) : (s.modFocus g).images = s.images := rfl
@[simp] theorem State.modFocus_lastPart (s : State) (g : Focus → Focus) : (s.modFocus g).lastPart = s.lastPart := rfl
@[simp] theorem State.modFocus_selectDue (s : State) (g : Focus → Focus) : (s.modFocus g).selectDue = s.selectDue := rfl
@[simp] theorem State.modFocus_inputs (s : State) (g : Focus → Focus) : (s.modFocus g).inputs = s.inputs := rfl
@[simp] theorem State.modFocus_outbox (s : State) (g : Focus → Focus) : (s.modFocus g).outbox = s.outbox := rfl
@[simp] theorem State.modFocus_pf (s : State) (g : Focus → Focus) : (s.modFocus g).pf = s.pf := rfl
@[simp] theorem State.modFocus_ports (s : State) (g : Focus → Focus) : (s.modFocus g).ports = s.ports := rfl
@[simp] theorem State.modFocus_wire (s : State) (g : Focus → Focus) : (s.modFocus g).wire = s.wire := rfl
@[simp] theorem State.modFocus_away (s : State) (g : Focus → Focus) : (s.modFocus g).away = s.away := rfl
@[simp] theorem State.modFocus_sensors (s : State) (g : Focus → Focus) : (s.modFocus g).sensors = s.sensors := rfl
@[simp] theorem State.modFocus_parked (s : State) (g : Focus → Focus) : (s.modFocus g).parked = s.parked := rfl
@[simp] theorem State.modFocus_endCount (s : State) (g : Focus → Focus) : (s.modFocus g).endCount = s.endCount := rfl
@[simp] theorem State.modFocus_nextKey (s : State) (g : Focus → Focus) : (s.modFocus g).nextKey = s.nextKey := rfl
@[simp] theorem State.modFocus_core (s : State) (g : Focus → Focus) (c' : CoreId) : (s.modFocus g).core c' = s.core c' := State.core_of (State.modFocus_cores ..) c'
@[simp] theorem State.modFocus_ctx (s : State) (g : Focus → Focus) (c' : CoreId) (n' : CtxId) : (s.modFocus g).ctx c' n' = s.ctx c' n' := State.ctx_of (State.modFocus_cores ..) c' n'

@[simp] theorem State.modDie_now (s : State) (d : Fin 9) (g : Die → Die) : (s.modDie d g).now = s.now := rfl
@[simp] theorem State.modDie_phase (s : State) (d : Fin 9) (g : Die → Die) : (s.modDie d g).phase = s.phase := rfl
@[simp] theorem State.modDie_focus (s : State) (d : Fin 9) (g : Die → Die) : (s.modDie d g).focus = s.focus := rfl
@[simp] theorem State.modDie_todo (s : State) (d : Fin 9) (g : Die → Die) : (s.modDie d g).todo = s.todo := rfl
@[simp] theorem State.modDie_freeCtr (s : State) (d : Fin 9) (g : Die → Die) : (s.modDie d g).freeCtr = s.freeCtr := rfl
@[simp] theorem State.modDie_cores (s : State) (d : Fin 9) (g : Die → Die) : (s.modDie d g).cores = s.cores := rfl
@[simp] theorem State.modDie_mem (s : State) (d : Fin 9) (g : Die → Die) : (s.modDie d g).mem = s.mem := rfl
@[simp] theorem State.modDie_hostMem (s : State) (d : Fin 9) (g : Die → Die) : (s.modDie d g).hostMem = s.hostMem := rfl
@[simp] theorem State.modDie_tags (s : State) (d : Fin 9) (g : Die → Die) : (s.modDie d g).tags = s.tags := rfl
@[simp] theorem State.modDie_poison (s : State) (d : Fin 9) (g : Die → Die) : (s.modDie d g).poison = s.poison := rfl
@[simp] theorem State.modDie_scrambled (s : State) (d : Fin 9) (g : Die → Die) : (s.modDie d g).scrambled = s.scrambled := rfl
@[simp] theorem State.modDie_weak (s : State) (d : Fin 9) (g : Die → Die) : (s.modDie d g).weak = s.weak := rfl
@[simp] theorem State.modDie_skips (s : State) (d : Fin 9) (g : Die → Die) : (s.modDie d g).skips = s.skips := rfl
@[simp] theorem State.modDie_homeQ (s : State) (d : Fin 9) (g : Die → Die) : (s.modDie d g).homeQ = s.homeQ := rfl
@[simp] theorem State.modDie_farW (s : State) (d : Fin 9) (g : Die → Die) : (s.modDie d g).farW = s.farW := rfl
@[simp] theorem State.modDie_replies (s : State) (d : Fin 9) (g : Die → Die) : (s.modDie d g).replies = s.replies := rfl
@[simp] theorem State.modDie_shadows (s : State) (d : Fin 9) (g : Die → Die) : (s.modDie d g).shadows = s.shadows := rfl
@[simp] theorem State.modDie_stamps (s : State) (d : Fin 9) (g : Die → Die) : (s.modDie d g).stamps = s.stamps := rfl
@[simp] theorem State.modDie_vfs (s : State) (d : Fin 9) (g : Die → Die) : (s.modDie d g).vfs = s.vfs := rfl
@[simp] theorem State.modDie_bsinv (s : State) (d : Fin 9) (g : Die → Die) : (s.modDie d g).bsinv = s.bsinv := rfl
@[simp] theorem State.modDie_launches (s : State) (d : Fin 9) (g : Die → Die) : (s.modDie d g).launches = s.launches := rfl
@[simp] theorem State.modDie_images (s : State) (d : Fin 9) (g : Die → Die) : (s.modDie d g).images = s.images := rfl
@[simp] theorem State.modDie_lastPart (s : State) (d : Fin 9) (g : Die → Die) : (s.modDie d g).lastPart = s.lastPart := rfl
@[simp] theorem State.modDie_selectDue (s : State) (d : Fin 9) (g : Die → Die) : (s.modDie d g).selectDue = s.selectDue := rfl
@[simp] theorem State.modDie_inputs (s : State) (d : Fin 9) (g : Die → Die) : (s.modDie d g).inputs = s.inputs := rfl
@[simp] theorem State.modDie_outbox (s : State) (d : Fin 9) (g : Die → Die) : (s.modDie d g).outbox = s.outbox := rfl
@[simp] theorem State.modDie_pf (s : State) (d : Fin 9) (g : Die → Die) : (s.modDie d g).pf = s.pf := rfl
@[simp] theorem State.modDie_ports (s : State) (d : Fin 9) (g : Die → Die) : (s.modDie d g).ports = s.ports := rfl
@[simp] theorem State.modDie_wire (s : State) (d : Fin 9) (g : Die → Die) : (s.modDie d g).wire = s.wire := rfl
@[simp] theorem State.modDie_away (s : State) (d : Fin 9) (g : Die → Die) : (s.modDie d g).away = s.away := rfl
@[simp] theorem State.modDie_sensors (s : State) (d : Fin 9) (g : Die → Die) : (s.modDie d g).sensors = s.sensors := rfl
@[simp] theorem State.modDie_parked (s : State) (d : Fin 9) (g : Die → Die) : (s.modDie d g).parked = s.parked := rfl
@[simp] theorem State.modDie_endCount (s : State) (d : Fin 9) (g : Die → Die) : (s.modDie d g).endCount = s.endCount := rfl
@[simp] theorem State.modDie_nextKey (s : State) (d : Fin 9) (g : Die → Die) : (s.modDie d g).nextKey = s.nextKey := rfl
@[simp] theorem State.modDie_core (s : State) (d : Fin 9) (g : Die → Die) (c' : CoreId) : (s.modDie d g).core c' = s.core c' := State.core_of (State.modDie_cores ..) c'
@[simp] theorem State.modDie_ctx (s : State) (d : Fin 9) (g : Die → Die) (c' : CoreId) (n' : CtxId) : (s.modDie d g).ctx c' n' = s.ctx c' n' := State.ctx_of (State.modDie_cores ..) c' n'

@[simp] theorem State.modVf_now (s : State) (n : Fin 9) (g : Vf → Vf) : (s.modVf n g).now = s.now := rfl
@[simp] theorem State.modVf_phase (s : State) (n : Fin 9) (g : Vf → Vf) : (s.modVf n g).phase = s.phase := rfl
@[simp] theorem State.modVf_focus (s : State) (n : Fin 9) (g : Vf → Vf) : (s.modVf n g).focus = s.focus := rfl
@[simp] theorem State.modVf_todo (s : State) (n : Fin 9) (g : Vf → Vf) : (s.modVf n g).todo = s.todo := rfl
@[simp] theorem State.modVf_freeCtr (s : State) (n : Fin 9) (g : Vf → Vf) : (s.modVf n g).freeCtr = s.freeCtr := rfl
@[simp] theorem State.modVf_cores (s : State) (n : Fin 9) (g : Vf → Vf) : (s.modVf n g).cores = s.cores := rfl
@[simp] theorem State.modVf_dies (s : State) (n : Fin 9) (g : Vf → Vf) : (s.modVf n g).dies = s.dies := rfl
@[simp] theorem State.modVf_mem (s : State) (n : Fin 9) (g : Vf → Vf) : (s.modVf n g).mem = s.mem := rfl
@[simp] theorem State.modVf_hostMem (s : State) (n : Fin 9) (g : Vf → Vf) : (s.modVf n g).hostMem = s.hostMem := rfl
@[simp] theorem State.modVf_tags (s : State) (n : Fin 9) (g : Vf → Vf) : (s.modVf n g).tags = s.tags := rfl
@[simp] theorem State.modVf_poison (s : State) (n : Fin 9) (g : Vf → Vf) : (s.modVf n g).poison = s.poison := rfl
@[simp] theorem State.modVf_scrambled (s : State) (n : Fin 9) (g : Vf → Vf) : (s.modVf n g).scrambled = s.scrambled := rfl
@[simp] theorem State.modVf_weak (s : State) (n : Fin 9) (g : Vf → Vf) : (s.modVf n g).weak = s.weak := rfl
@[simp] theorem State.modVf_skips (s : State) (n : Fin 9) (g : Vf → Vf) : (s.modVf n g).skips = s.skips := rfl
@[simp] theorem State.modVf_homeQ (s : State) (n : Fin 9) (g : Vf → Vf) : (s.modVf n g).homeQ = s.homeQ := rfl
@[simp] theorem State.modVf_farW (s : State) (n : Fin 9) (g : Vf → Vf) : (s.modVf n g).farW = s.farW := rfl
@[simp] theorem State.modVf_replies (s : State) (n : Fin 9) (g : Vf → Vf) : (s.modVf n g).replies = s.replies := rfl
@[simp] theorem State.modVf_shadows (s : State) (n : Fin 9) (g : Vf → Vf) : (s.modVf n g).shadows = s.shadows := rfl
@[simp] theorem State.modVf_stamps (s : State) (n : Fin 9) (g : Vf → Vf) : (s.modVf n g).stamps = s.stamps := rfl
@[simp] theorem State.modVf_bsinv (s : State) (n : Fin 9) (g : Vf → Vf) : (s.modVf n g).bsinv = s.bsinv := rfl
@[simp] theorem State.modVf_launches (s : State) (n : Fin 9) (g : Vf → Vf) : (s.modVf n g).launches = s.launches := rfl
@[simp] theorem State.modVf_images (s : State) (n : Fin 9) (g : Vf → Vf) : (s.modVf n g).images = s.images := rfl
@[simp] theorem State.modVf_lastPart (s : State) (n : Fin 9) (g : Vf → Vf) : (s.modVf n g).lastPart = s.lastPart := rfl
@[simp] theorem State.modVf_selectDue (s : State) (n : Fin 9) (g : Vf → Vf) : (s.modVf n g).selectDue = s.selectDue := rfl
@[simp] theorem State.modVf_inputs (s : State) (n : Fin 9) (g : Vf → Vf) : (s.modVf n g).inputs = s.inputs := rfl
@[simp] theorem State.modVf_outbox (s : State) (n : Fin 9) (g : Vf → Vf) : (s.modVf n g).outbox = s.outbox := rfl
@[simp] theorem State.modVf_pf (s : State) (n : Fin 9) (g : Vf → Vf) : (s.modVf n g).pf = s.pf := rfl
@[simp] theorem State.modVf_ports (s : State) (n : Fin 9) (g : Vf → Vf) : (s.modVf n g).ports = s.ports := rfl
@[simp] theorem State.modVf_wire (s : State) (n : Fin 9) (g : Vf → Vf) : (s.modVf n g).wire = s.wire := rfl
@[simp] theorem State.modVf_away (s : State) (n : Fin 9) (g : Vf → Vf) : (s.modVf n g).away = s.away := rfl
@[simp] theorem State.modVf_sensors (s : State) (n : Fin 9) (g : Vf → Vf) : (s.modVf n g).sensors = s.sensors := rfl
@[simp] theorem State.modVf_parked (s : State) (n : Fin 9) (g : Vf → Vf) : (s.modVf n g).parked = s.parked := rfl
@[simp] theorem State.modVf_endCount (s : State) (n : Fin 9) (g : Vf → Vf) : (s.modVf n g).endCount = s.endCount := rfl
@[simp] theorem State.modVf_nextKey (s : State) (n : Fin 9) (g : Vf → Vf) : (s.modVf n g).nextKey = s.nextKey := rfl
@[simp] theorem State.modVf_core (s : State) (n : Fin 9) (g : Vf → Vf) (c' : CoreId) : (s.modVf n g).core c' = s.core c' := State.core_of (State.modVf_cores ..) c'
@[simp] theorem State.modVf_ctx (s : State) (n : Fin 9) (g : Vf → Vf) (c' : CoreId) (n' : CtxId) : (s.modVf n g).ctx c' n' = s.ctx c' n' := State.ctx_of (State.modVf_cores ..) c' n'

@[simp] theorem State.setQueue_now (s : State) (n : Fin 9) (q : Fin 16) (l : List Nat) : (s.setQueue n q l).now = s.now := by unfold State.setQueue; dsimp only; split <;> (try split) <;> rfl
@[simp] theorem State.setQueue_phase (s : State) (n : Fin 9) (q : Fin 16) (l : List Nat) : (s.setQueue n q l).phase = s.phase := by unfold State.setQueue; dsimp only; split <;> (try split) <;> rfl
@[simp] theorem State.setQueue_focus (s : State) (n : Fin 9) (q : Fin 16) (l : List Nat) : (s.setQueue n q l).focus = s.focus := by unfold State.setQueue; dsimp only; split <;> (try split) <;> rfl
@[simp] theorem State.setQueue_todo (s : State) (n : Fin 9) (q : Fin 16) (l : List Nat) : (s.setQueue n q l).todo = s.todo := by unfold State.setQueue; dsimp only; split <;> (try split) <;> rfl
@[simp] theorem State.setQueue_freeCtr (s : State) (n : Fin 9) (q : Fin 16) (l : List Nat) : (s.setQueue n q l).freeCtr = s.freeCtr := by unfold State.setQueue; dsimp only; split <;> (try split) <;> rfl
@[simp] theorem State.setQueue_cores (s : State) (n : Fin 9) (q : Fin 16) (l : List Nat) : (s.setQueue n q l).cores = s.cores := by unfold State.setQueue; dsimp only; split <;> (try split) <;> rfl
@[simp] theorem State.setQueue_dies (s : State) (n : Fin 9) (q : Fin 16) (l : List Nat) : (s.setQueue n q l).dies = s.dies := by unfold State.setQueue; dsimp only; split <;> (try split) <;> rfl
@[simp] theorem State.setQueue_mem (s : State) (n : Fin 9) (q : Fin 16) (l : List Nat) : (s.setQueue n q l).mem = s.mem := by unfold State.setQueue; dsimp only; split <;> (try split) <;> rfl
@[simp] theorem State.setQueue_hostMem (s : State) (n : Fin 9) (q : Fin 16) (l : List Nat) : (s.setQueue n q l).hostMem = s.hostMem := by unfold State.setQueue; dsimp only; split <;> (try split) <;> rfl
@[simp] theorem State.setQueue_tags (s : State) (n : Fin 9) (q : Fin 16) (l : List Nat) : (s.setQueue n q l).tags = s.tags := by unfold State.setQueue; dsimp only; split <;> (try split) <;> rfl
@[simp] theorem State.setQueue_poison (s : State) (n : Fin 9) (q : Fin 16) (l : List Nat) : (s.setQueue n q l).poison = s.poison := by unfold State.setQueue; dsimp only; split <;> (try split) <;> rfl
@[simp] theorem State.setQueue_scrambled (s : State) (n : Fin 9) (q : Fin 16) (l : List Nat) : (s.setQueue n q l).scrambled = s.scrambled := by unfold State.setQueue; dsimp only; split <;> (try split) <;> rfl
@[simp] theorem State.setQueue_weak (s : State) (n : Fin 9) (q : Fin 16) (l : List Nat) : (s.setQueue n q l).weak = s.weak := by unfold State.setQueue; dsimp only; split <;> (try split) <;> rfl
@[simp] theorem State.setQueue_skips (s : State) (n : Fin 9) (q : Fin 16) (l : List Nat) : (s.setQueue n q l).skips = s.skips := by unfold State.setQueue; dsimp only; split <;> (try split) <;> rfl
@[simp] theorem State.setQueue_homeQ (s : State) (n : Fin 9) (q : Fin 16) (l : List Nat) : (s.setQueue n q l).homeQ = s.homeQ := by unfold State.setQueue; dsimp only; split <;> (try split) <;> rfl
@[simp] theorem State.setQueue_farW (s : State) (n : Fin 9) (q : Fin 16) (l : List Nat) : (s.setQueue n q l).farW = s.farW := by unfold State.setQueue; dsimp only; split <;> (try split) <;> rfl
@[simp] theorem State.setQueue_replies (s : State) (n : Fin 9) (q : Fin 16) (l : List Nat) : (s.setQueue n q l).replies = s.replies := by unfold State.setQueue; dsimp only; split <;> (try split) <;> rfl
@[simp] theorem State.setQueue_shadows (s : State) (n : Fin 9) (q : Fin 16) (l : List Nat) : (s.setQueue n q l).shadows = s.shadows := by unfold State.setQueue; dsimp only; split <;> (try split) <;> rfl
@[simp] theorem State.setQueue_stamps (s : State) (n : Fin 9) (q : Fin 16) (l : List Nat) : (s.setQueue n q l).stamps = s.stamps := by unfold State.setQueue; dsimp only; split <;> (try split) <;> rfl
@[simp] theorem State.setQueue_bsinv (s : State) (n : Fin 9) (q : Fin 16) (l : List Nat) : (s.setQueue n q l).bsinv = s.bsinv := by unfold State.setQueue; dsimp only; split <;> (try split) <;> rfl
@[simp] theorem State.setQueue_images (s : State) (n : Fin 9) (q : Fin 16) (l : List Nat) : (s.setQueue n q l).images = s.images := by unfold State.setQueue; dsimp only; split <;> (try split) <;> rfl
@[simp] theorem State.setQueue_lastPart (s : State) (n : Fin 9) (q : Fin 16) (l : List Nat) : (s.setQueue n q l).lastPart = s.lastPart := by unfold State.setQueue; dsimp only; split <;> (try split) <;> rfl
@[simp] theorem State.setQueue_selectDue (s : State) (n : Fin 9) (q : Fin 16) (l : List Nat) : (s.setQueue n q l).selectDue = s.selectDue := by unfold State.setQueue; dsimp only; split <;> (try split) <;> rfl
@[simp] theorem State.setQueue_inputs (s : State) (n : Fin 9) (q : Fin 16) (l : List Nat) : (s.setQueue n q l).inputs = s.inputs := by unfold State.setQueue; dsimp only; split <;> (try split) <;> rfl
@[simp] theorem State.setQueue_outbox (s : State) (n : Fin 9) (q : Fin 16) (l : List Nat) : (s.setQueue n q l).outbox = s.outbox := by unfold State.setQueue; dsimp only; split <;> (try split) <;> rfl
@[simp] theorem State.setQueue_pf (s : State) (n : Fin 9) (q : Fin 16) (l : List Nat) : (s.setQueue n q l).pf = s.pf := by unfold State.setQueue; dsimp only; split <;> (try split) <;> rfl
@[simp] theorem State.setQueue_ports (s : State) (n : Fin 9) (q : Fin 16) (l : List Nat) : (s.setQueue n q l).ports = s.ports := by unfold State.setQueue; dsimp only; split <;> (try split) <;> rfl
@[simp] theorem State.setQueue_wire (s : State) (n : Fin 9) (q : Fin 16) (l : List Nat) : (s.setQueue n q l).wire = s.wire := by unfold State.setQueue; dsimp only; split <;> (try split) <;> rfl
@[simp] theorem State.setQueue_away (s : State) (n : Fin 9) (q : Fin 16) (l : List Nat) : (s.setQueue n q l).away = s.away := by unfold State.setQueue; dsimp only; split <;> (try split) <;> rfl
@[simp] theorem State.setQueue_sensors (s : State) (n : Fin 9) (q : Fin 16) (l : List Nat) : (s.setQueue n q l).sensors = s.sensors := by unfold State.setQueue; dsimp only; split <;> (try split) <;> rfl
@[simp] theorem State.setQueue_parked (s : State) (n : Fin 9) (q : Fin 16) (l : List Nat) : (s.setQueue n q l).parked = s.parked := by unfold State.setQueue; dsimp only; split <;> (try split) <;> rfl
@[simp] theorem State.setQueue_endCount (s : State) (n : Fin 9) (q : Fin 16) (l : List Nat) : (s.setQueue n q l).endCount = s.endCount := by unfold State.setQueue; dsimp only; split <;> (try split) <;> rfl
@[simp] theorem State.setQueue_nextKey (s : State) (n : Fin 9) (q : Fin 16) (l : List Nat) : (s.setQueue n q l).nextKey = s.nextKey := by unfold State.setQueue; dsimp only; split <;> (try split) <;> rfl
@[simp] theorem State.setQueue_core (s : State) (n : Fin 9) (q : Fin 16) (l : List Nat) (c' : CoreId) : (s.setQueue n q l).core c' = s.core c' := State.core_of (State.setQueue_cores ..) c'
@[simp] theorem State.setQueue_ctx (s : State) (n : Fin 9) (q : Fin 16) (l : List Nat) (c' : CoreId) (n' : CtxId) : (s.setQueue n q l).ctx c' n' = s.ctx c' n' := State.ctx_of (State.setQueue_cores ..) c' n'

@[simp] theorem State.modLaunch_now (s : State) (lk : Nat) (g : Launch → Launch) : (s.modLaunch lk g).now = s.now := rfl
@[simp] theorem State.modLaunch_phase (s : State) (lk : Nat) (g : Launch → Launch) : (s.modLaunch lk g).phase = s.phase := rfl
@[simp] theorem State.modLaunch_focus (s : State) (lk : Nat) (g : Launch → Launch) : (s.modLaunch lk g).focus = s.focus := rfl
@[simp] theorem State.modLaunch_todo (s : State) (lk : Nat) (g : Launch → Launch) : (s.modLaunch lk g).todo = s.todo := rfl
@[simp] theorem State.modLaunch_freeCtr (s : State) (lk : Nat) (g : Launch → Launch) : (s.modLaunch lk g).freeCtr = s.freeCtr := rfl
@[simp] theorem State.modLaunch_cores (s : State) (lk : Nat) (g : Launch → Launch) : (s.modLaunch lk g).cores = s.cores := rfl
@[simp] theorem State.modLaunch_dies (s : State) (lk : Nat) (g : Launch → Launch) : (s.modLaunch lk g).dies = s.dies := rfl
@[simp] theorem State.modLaunch_mem (s : State) (lk : Nat) (g : Launch → Launch) : (s.modLaunch lk g).mem = s.mem := rfl
@[simp] theorem State.modLaunch_hostMem (s : State) (lk : Nat) (g : Launch → Launch) : (s.modLaunch lk g).hostMem = s.hostMem := rfl
@[simp] theorem State.modLaunch_tags (s : State) (lk : Nat) (g : Launch → Launch) : (s.modLaunch lk g).tags = s.tags := rfl
@[simp] theorem State.modLaunch_poison (s : State) (lk : Nat) (g : Launch → Launch) : (s.modLaunch lk g).poison = s.poison := rfl
@[simp] theorem State.modLaunch_scrambled (s : State) (lk : Nat) (g : Launch → Launch) : (s.modLaunch lk g).scrambled = s.scrambled := rfl
@[simp] theorem State.modLaunch_weak (s : State) (lk : Nat) (g : Launch → Launch) : (s.modLaunch lk g).weak = s.weak := rfl
@[simp] theorem State.modLaunch_skips (s : State) (lk : Nat) (g : Launch → Launch) : (s.modLaunch lk g).skips = s.skips := rfl
@[simp] theorem State.modLaunch_homeQ (s : State) (lk : Nat) (g : Launch → Launch) : (s.modLaunch lk g).homeQ = s.homeQ := rfl
@[simp] theorem State.modLaunch_farW (s : State) (lk : Nat) (g : Launch → Launch) : (s.modLaunch lk g).farW = s.farW := rfl
@[simp] theorem State.modLaunch_replies (s : State) (lk : Nat) (g : Launch → Launch) : (s.modLaunch lk g).replies = s.replies := rfl
@[simp] theorem State.modLaunch_shadows (s : State) (lk : Nat) (g : Launch → Launch) : (s.modLaunch lk g).shadows = s.shadows := rfl
@[simp] theorem State.modLaunch_stamps (s : State) (lk : Nat) (g : Launch → Launch) : (s.modLaunch lk g).stamps = s.stamps := rfl
@[simp] theorem State.modLaunch_vfs (s : State) (lk : Nat) (g : Launch → Launch) : (s.modLaunch lk g).vfs = s.vfs := rfl
@[simp] theorem State.modLaunch_bsinv (s : State) (lk : Nat) (g : Launch → Launch) : (s.modLaunch lk g).bsinv = s.bsinv := rfl
@[simp] theorem State.modLaunch_images (s : State) (lk : Nat) (g : Launch → Launch) : (s.modLaunch lk g).images = s.images := rfl
@[simp] theorem State.modLaunch_lastPart (s : State) (lk : Nat) (g : Launch → Launch) : (s.modLaunch lk g).lastPart = s.lastPart := rfl
@[simp] theorem State.modLaunch_selectDue (s : State) (lk : Nat) (g : Launch → Launch) : (s.modLaunch lk g).selectDue = s.selectDue := rfl
@[simp] theorem State.modLaunch_inputs (s : State) (lk : Nat) (g : Launch → Launch) : (s.modLaunch lk g).inputs = s.inputs := rfl
@[simp] theorem State.modLaunch_outbox (s : State) (lk : Nat) (g : Launch → Launch) : (s.modLaunch lk g).outbox = s.outbox := rfl
@[simp] theorem State.modLaunch_pf (s : State) (lk : Nat) (g : Launch → Launch) : (s.modLaunch lk g).pf = s.pf := rfl
@[simp] theorem State.modLaunch_ports (s : State) (lk : Nat) (g : Launch → Launch) : (s.modLaunch lk g).ports = s.ports := rfl
@[simp] theorem State.modLaunch_wire (s : State) (lk : Nat) (g : Launch → Launch) : (s.modLaunch lk g).wire = s.wire := rfl
@[simp] theorem State.modLaunch_away (s : State) (lk : Nat) (g : Launch → Launch) : (s.modLaunch lk g).away = s.away := rfl
@[simp] theorem State.modLaunch_sensors (s : State) (lk : Nat) (g : Launch → Launch) : (s.modLaunch lk g).sensors = s.sensors := rfl
@[simp] theorem State.modLaunch_parked (s : State) (lk : Nat) (g : Launch → Launch) : (s.modLaunch lk g).parked = s.parked := rfl
@[simp] theorem State.modLaunch_endCount (s : State) (lk : Nat) (g : Launch → Launch) : (s.modLaunch lk g).endCount = s.endCount := rfl
@[simp] theorem State.modLaunch_nextKey (s : State) (lk : Nat) (g : Launch → Launch) : (s.modLaunch lk g).nextKey = s.nextKey := rfl
@[simp] theorem State.modLaunch_core (s : State) (lk : Nat) (g : Launch → Launch) (c' : CoreId) : (s.modLaunch lk g).core c' = s.core c' := State.core_of (State.modLaunch_cores ..) c'
@[simp] theorem State.modLaunch_ctx (s : State) (lk : Nat) (g : Launch → Launch) (c' : CoreId) (n' : CtxId) : (s.modLaunch lk g).ctx c' n' = s.ctx c' n' := State.ctx_of (State.modLaunch_cores ..) c' n'

@[simp] theorem State.modPod_now (s : State) (lk : Nat) (g : PodSt → PodSt) : (s.modPod lk g).now = s.now := rfl
@[simp] theorem State.modPod_phase (s : State) (lk : Nat) (g : PodSt → PodSt) : (s.modPod lk g).phase = s.phase := rfl
@[simp] theorem State.modPod_focus (s : State) (lk : Nat) (g : PodSt → PodSt) : (s.modPod lk g).focus = s.focus := rfl
@[simp] theorem State.modPod_todo (s : State) (lk : Nat) (g : PodSt → PodSt) : (s.modPod lk g).todo = s.todo := rfl
@[simp] theorem State.modPod_freeCtr (s : State) (lk : Nat) (g : PodSt → PodSt) : (s.modPod lk g).freeCtr = s.freeCtr := rfl
@[simp] theorem State.modPod_cores (s : State) (lk : Nat) (g : PodSt → PodSt) : (s.modPod lk g).cores = s.cores := rfl
@[simp] theorem State.modPod_dies (s : State) (lk : Nat) (g : PodSt → PodSt) : (s.modPod lk g).dies = s.dies := rfl
@[simp] theorem State.modPod_mem (s : State) (lk : Nat) (g : PodSt → PodSt) : (s.modPod lk g).mem = s.mem := rfl
@[simp] theorem State.modPod_hostMem (s : State) (lk : Nat) (g : PodSt → PodSt) : (s.modPod lk g).hostMem = s.hostMem := rfl
@[simp] theorem State.modPod_tags (s : State) (lk : Nat) (g : PodSt → PodSt) : (s.modPod lk g).tags = s.tags := rfl
@[simp] theorem State.modPod_poison (s : State) (lk : Nat) (g : PodSt → PodSt) : (s.modPod lk g).poison = s.poison := rfl
@[simp] theorem State.modPod_scrambled (s : State) (lk : Nat) (g : PodSt → PodSt) : (s.modPod lk g).scrambled = s.scrambled := rfl
@[simp] theorem State.modPod_weak (s : State) (lk : Nat) (g : PodSt → PodSt) : (s.modPod lk g).weak = s.weak := rfl
@[simp] theorem State.modPod_skips (s : State) (lk : Nat) (g : PodSt → PodSt) : (s.modPod lk g).skips = s.skips := rfl
@[simp] theorem State.modPod_homeQ (s : State) (lk : Nat) (g : PodSt → PodSt) : (s.modPod lk g).homeQ = s.homeQ := rfl
@[simp] theorem State.modPod_farW (s : State) (lk : Nat) (g : PodSt → PodSt) : (s.modPod lk g).farW = s.farW := rfl
@[simp] theorem State.modPod_replies (s : State) (lk : Nat) (g : PodSt → PodSt) : (s.modPod lk g).replies = s.replies := rfl
@[simp] theorem State.modPod_shadows (s : State) (lk : Nat) (g : PodSt → PodSt) : (s.modPod lk g).shadows = s.shadows := rfl
@[simp] theorem State.modPod_stamps (s : State) (lk : Nat) (g : PodSt → PodSt) : (s.modPod lk g).stamps = s.stamps := rfl
@[simp] theorem State.modPod_vfs (s : State) (lk : Nat) (g : PodSt → PodSt) : (s.modPod lk g).vfs = s.vfs := rfl
@[simp] theorem State.modPod_bsinv (s : State) (lk : Nat) (g : PodSt → PodSt) : (s.modPod lk g).bsinv = s.bsinv := rfl
@[simp] theorem State.modPod_images (s : State) (lk : Nat) (g : PodSt → PodSt) : (s.modPod lk g).images = s.images := rfl
@[simp] theorem State.modPod_lastPart (s : State) (lk : Nat) (g : PodSt → PodSt) : (s.modPod lk g).lastPart = s.lastPart := rfl
@[simp] theorem State.modPod_selectDue (s : State) (lk : Nat) (g : PodSt → PodSt) : (s.modPod lk g).selectDue = s.selectDue := rfl
@[simp] theorem State.modPod_inputs (s : State) (lk : Nat) (g : PodSt → PodSt) : (s.modPod lk g).inputs = s.inputs := rfl
@[simp] theorem State.modPod_outbox (s : State) (lk : Nat) (g : PodSt → PodSt) : (s.modPod lk g).outbox = s.outbox := rfl
@[simp] theorem State.modPod_pf (s : State) (lk : Nat) (g : PodSt → PodSt) : (s.modPod lk g).pf = s.pf := rfl
@[simp] theorem State.modPod_ports (s : State) (lk : Nat) (g : PodSt → PodSt) : (s.modPod lk g).ports = s.ports := rfl
@[simp] theorem State.modPod_wire (s : State) (lk : Nat) (g : PodSt → PodSt) : (s.modPod lk g).wire = s.wire := rfl
@[simp] theorem State.modPod_away (s : State) (lk : Nat) (g : PodSt → PodSt) : (s.modPod lk g).away = s.away := rfl
@[simp] theorem State.modPod_sensors (s : State) (lk : Nat) (g : PodSt → PodSt) : (s.modPod lk g).sensors = s.sensors := rfl
@[simp] theorem State.modPod_parked (s : State) (lk : Nat) (g : PodSt → PodSt) : (s.modPod lk g).parked = s.parked := rfl
@[simp] theorem State.modPod_endCount (s : State) (lk : Nat) (g : PodSt → PodSt) : (s.modPod lk g).endCount = s.endCount := rfl
@[simp] theorem State.modPod_nextKey (s : State) (lk : Nat) (g : PodSt → PodSt) : (s.modPod lk g).nextKey = s.nextKey := rfl
@[simp] theorem State.modPod_core (s : State) (lk : Nat) (g : PodSt → PodSt) (c' : CoreId) : (s.modPod lk g).core c' = s.core c' := State.core_of (State.modPod_cores ..) c'
@[simp] theorem State.modPod_ctx (s : State) (lk : Nat) (g : PodSt → PodSt) (c' : CoreId) (n' : CtxId) : (s.modPod lk g).ctx c' n' = s.ctx c' n' := State.ctx_of (State.modPod_cores ..) c' n'

@[simp] theorem State.modImage_now (s : State) (h : Nat) (g : LoadedImage → LoadedImage) : (s.modImage h g).now = s.now := rfl
@[simp] theorem State.modImage_phase (s : State) (h : Nat) (g : LoadedImage → LoadedImage) : (s.modImage h g).phase = s.phase := rfl
@[simp] theorem State.modImage_focus (s : State) (h : Nat) (g : LoadedImage → LoadedImage) : (s.modImage h g).focus = s.focus := rfl
@[simp] theorem State.modImage_todo (s : State) (h : Nat) (g : LoadedImage → LoadedImage) : (s.modImage h g).todo = s.todo := rfl
@[simp] theorem State.modImage_freeCtr (s : State) (h : Nat) (g : LoadedImage → LoadedImage) : (s.modImage h g).freeCtr = s.freeCtr := rfl
@[simp] theorem State.modImage_cores (s : State) (h : Nat) (g : LoadedImage → LoadedImage) : (s.modImage h g).cores = s.cores := rfl
@[simp] theorem State.modImage_dies (s : State) (h : Nat) (g : LoadedImage → LoadedImage) : (s.modImage h g).dies = s.dies := rfl
@[simp] theorem State.modImage_mem (s : State) (h : Nat) (g : LoadedImage → LoadedImage) : (s.modImage h g).mem = s.mem := rfl
@[simp] theorem State.modImage_hostMem (s : State) (h : Nat) (g : LoadedImage → LoadedImage) : (s.modImage h g).hostMem = s.hostMem := rfl
@[simp] theorem State.modImage_tags (s : State) (h : Nat) (g : LoadedImage → LoadedImage) : (s.modImage h g).tags = s.tags := rfl
@[simp] theorem State.modImage_poison (s : State) (h : Nat) (g : LoadedImage → LoadedImage) : (s.modImage h g).poison = s.poison := rfl
@[simp] theorem State.modImage_scrambled (s : State) (h : Nat) (g : LoadedImage → LoadedImage) : (s.modImage h g).scrambled = s.scrambled := rfl
@[simp] theorem State.modImage_weak (s : State) (h : Nat) (g : LoadedImage → LoadedImage) : (s.modImage h g).weak = s.weak := rfl
@[simp] theorem State.modImage_skips (s : State) (h : Nat) (g : LoadedImage → LoadedImage) : (s.modImage h g).skips = s.skips := rfl
@[simp] theorem State.modImage_homeQ (s : State) (h : Nat) (g : LoadedImage → LoadedImage) : (s.modImage h g).homeQ = s.homeQ := rfl
@[simp] theorem State.modImage_farW (s : State) (h : Nat) (g : LoadedImage → LoadedImage) : (s.modImage h g).farW = s.farW := rfl
@[simp] theorem State.modImage_replies (s : State) (h : Nat) (g : LoadedImage → LoadedImage) : (s.modImage h g).replies = s.replies := rfl
@[simp] theorem State.modImage_shadows (s : State) (h : Nat) (g : LoadedImage → LoadedImage) : (s.modImage h g).shadows = s.shadows := rfl
@[simp] theorem State.modImage_stamps (s : State) (h : Nat) (g : LoadedImage → LoadedImage) : (s.modImage h g).stamps = s.stamps := rfl
@[simp] theorem State.modImage_vfs (s : State) (h : Nat) (g : LoadedImage → LoadedImage) : (s.modImage h g).vfs = s.vfs := rfl
@[simp] theorem State.modImage_bsinv (s : State) (h : Nat) (g : LoadedImage → LoadedImage) : (s.modImage h g).bsinv = s.bsinv := rfl
@[simp] theorem State.modImage_launches (s : State) (h : Nat) (g : LoadedImage → LoadedImage) : (s.modImage h g).launches = s.launches := rfl
@[simp] theorem State.modImage_lastPart (s : State) (h : Nat) (g : LoadedImage → LoadedImage) : (s.modImage h g).lastPart = s.lastPart := rfl
@[simp] theorem State.modImage_selectDue (s : State) (h : Nat) (g : LoadedImage → LoadedImage) : (s.modImage h g).selectDue = s.selectDue := rfl
@[simp] theorem State.modImage_inputs (s : State) (h : Nat) (g : LoadedImage → LoadedImage) : (s.modImage h g).inputs = s.inputs := rfl
@[simp] theorem State.modImage_outbox (s : State) (h : Nat) (g : LoadedImage → LoadedImage) : (s.modImage h g).outbox = s.outbox := rfl
@[simp] theorem State.modImage_pf (s : State) (h : Nat) (g : LoadedImage → LoadedImage) : (s.modImage h g).pf = s.pf := rfl
@[simp] theorem State.modImage_ports (s : State) (h : Nat) (g : LoadedImage → LoadedImage) : (s.modImage h g).ports = s.ports := rfl
@[simp] theorem State.modImage_wire (s : State) (h : Nat) (g : LoadedImage → LoadedImage) : (s.modImage h g).wire = s.wire := rfl
@[simp] theorem State.modImage_away (s : State) (h : Nat) (g : LoadedImage → LoadedImage) : (s.modImage h g).away = s.away := rfl
@[simp] theorem State.modImage_sensors (s : State) (h : Nat) (g : LoadedImage → LoadedImage) : (s.modImage h g).sensors = s.sensors := rfl
@[simp] theorem State.modImage_parked (s : State) (h : Nat) (g : LoadedImage → LoadedImage) : (s.modImage h g).parked = s.parked := rfl
@[simp] theorem State.modImage_endCount (s : State) (h : Nat) (g : LoadedImage → LoadedImage) : (s.modImage h g).endCount = s.endCount := rfl
@[simp] theorem State.modImage_nextKey (s : State) (h : Nat) (g : LoadedImage → LoadedImage) : (s.modImage h g).nextKey = s.nextKey := rfl
@[simp] theorem State.modImage_core (s : State) (h : Nat) (g : LoadedImage → LoadedImage) (c' : CoreId) : (s.modImage h g).core c' = s.core c' := State.core_of (State.modImage_cores ..) c'
@[simp] theorem State.modImage_ctx (s : State) (h : Nat) (g : LoadedImage → LoadedImage) (c' : CoreId) (n' : CtxId) : (s.modImage h g).ctx c' n' = s.ctx c' n' := State.ctx_of (State.modImage_cores ..) c' n'

@[simp] theorem State.modSkip_now (s : State) (n : Nat) (g : Skip → Skip) : (s.modSkip n g).now = s.now := by unfold State.modSkip; split <;> rfl
@[simp] theorem State.modSkip_phase (s : State) (n : Nat) (g : Skip → Skip) : (s.modSkip n g).phase = s.phase := by unfold State.modSkip; split <;> rfl
@[simp] theorem State.modSkip_focus (s : State) (n : Nat) (g : Skip → Skip) : (s.modSkip n g).focus = s.focus := by unfold State.modSkip; split <;> rfl
@[simp] theorem State.modSkip_todo (s : State) (n : Nat) (g : Skip → Skip) : (s.modSkip n g).todo = s.todo := by unfold State.modSkip; split <;> rfl
@[simp] theorem State.modSkip_freeCtr (s : State) (n : Nat) (g : Skip → Skip) : (s.modSkip n g).freeCtr = s.freeCtr := by unfold State.modSkip; split <;> rfl
@[simp] theorem State.modSkip_cores (s : State) (n : Nat) (g : Skip → Skip) : (s.modSkip n g).cores = s.cores := by unfold State.modSkip; split <;> rfl
@[simp] theorem State.modSkip_dies (s : State) (n : Nat) (g : Skip → Skip) : (s.modSkip n g).dies = s.dies := by unfold State.modSkip; split <;> rfl
@[simp] theorem State.modSkip_mem (s : State) (n : Nat) (g : Skip → Skip) : (s.modSkip n g).mem = s.mem := by unfold State.modSkip; split <;> rfl
@[simp] theorem State.modSkip_hostMem (s : State) (n : Nat) (g : Skip → Skip) : (s.modSkip n g).hostMem = s.hostMem := by unfold State.modSkip; split <;> rfl
@[simp] theorem State.modSkip_tags (s : State) (n : Nat) (g : Skip → Skip) : (s.modSkip n g).tags = s.tags := by unfold State.modSkip; split <;> rfl
@[simp] theorem State.modSkip_poison (s : State) (n : Nat) (g : Skip → Skip) : (s.modSkip n g).poison = s.poison := by unfold State.modSkip; split <;> rfl
@[simp] theorem State.modSkip_scrambled (s : State) (n : Nat) (g : Skip → Skip) : (s.modSkip n g).scrambled = s.scrambled := by unfold State.modSkip; split <;> rfl
@[simp] theorem State.modSkip_weak (s : State) (n : Nat) (g : Skip → Skip) : (s.modSkip n g).weak = s.weak := by unfold State.modSkip; split <;> rfl
@[simp] theorem State.modSkip_homeQ (s : State) (n : Nat) (g : Skip → Skip) : (s.modSkip n g).homeQ = s.homeQ := by unfold State.modSkip; split <;> rfl
@[simp] theorem State.modSkip_farW (s : State) (n : Nat) (g : Skip → Skip) : (s.modSkip n g).farW = s.farW := by unfold State.modSkip; split <;> rfl
@[simp] theorem State.modSkip_replies (s : State) (n : Nat) (g : Skip → Skip) : (s.modSkip n g).replies = s.replies := by unfold State.modSkip; split <;> rfl
@[simp] theorem State.modSkip_shadows (s : State) (n : Nat) (g : Skip → Skip) : (s.modSkip n g).shadows = s.shadows := by unfold State.modSkip; split <;> rfl
@[simp] theorem State.modSkip_stamps (s : State) (n : Nat) (g : Skip → Skip) : (s.modSkip n g).stamps = s.stamps := by unfold State.modSkip; split <;> rfl
@[simp] theorem State.modSkip_vfs (s : State) (n : Nat) (g : Skip → Skip) : (s.modSkip n g).vfs = s.vfs := by unfold State.modSkip; split <;> rfl
@[simp] theorem State.modSkip_bsinv (s : State) (n : Nat) (g : Skip → Skip) : (s.modSkip n g).bsinv = s.bsinv := by unfold State.modSkip; split <;> rfl
@[simp] theorem State.modSkip_launches (s : State) (n : Nat) (g : Skip → Skip) : (s.modSkip n g).launches = s.launches := by unfold State.modSkip; split <;> rfl
@[simp] theorem State.modSkip_images (s : State) (n : Nat) (g : Skip → Skip) : (s.modSkip n g).images = s.images := by unfold State.modSkip; split <;> rfl
@[simp] theorem State.modSkip_lastPart (s : State) (n : Nat) (g : Skip → Skip) : (s.modSkip n g).lastPart = s.lastPart := by unfold State.modSkip; split <;> rfl
@[simp] theorem State.modSkip_selectDue (s : State) (n : Nat) (g : Skip → Skip) : (s.modSkip n g).selectDue = s.selectDue := by unfold State.modSkip; split <;> rfl
@[simp] theorem State.modSkip_inputs (s : State) (n : Nat) (g : Skip → Skip) : (s.modSkip n g).inputs = s.inputs := by unfold State.modSkip; split <;> rfl
@[simp] theorem State.modSkip_outbox (s : State) (n : Nat) (g : Skip → Skip) : (s.modSkip n g).outbox = s.outbox := by unfold State.modSkip; split <;> rfl
@[simp] theorem State.modSkip_pf (s : State) (n : Nat) (g : Skip → Skip) : (s.modSkip n g).pf = s.pf := by unfold State.modSkip; split <;> rfl
@[simp] theorem State.modSkip_ports (s : State) (n : Nat) (g : Skip → Skip) : (s.modSkip n g).ports = s.ports := by unfold State.modSkip; split <;> rfl
@[simp] theorem State.modSkip_wire (s : State) (n : Nat) (g : Skip → Skip) : (s.modSkip n g).wire = s.wire := by unfold State.modSkip; split <;> rfl
@[simp] theorem State.modSkip_away (s : State) (n : Nat) (g : Skip → Skip) : (s.modSkip n g).away = s.away := by unfold State.modSkip; split <;> rfl
@[simp] theorem State.modSkip_sensors (s : State) (n : Nat) (g : Skip → Skip) : (s.modSkip n g).sensors = s.sensors := by unfold State.modSkip; split <;> rfl
@[simp] theorem State.modSkip_parked (s : State) (n : Nat) (g : Skip → Skip) : (s.modSkip n g).parked = s.parked := by unfold State.modSkip; split <;> rfl
@[simp] theorem State.modSkip_endCount (s : State) (n : Nat) (g : Skip → Skip) : (s.modSkip n g).endCount = s.endCount := by unfold State.modSkip; split <;> rfl
@[simp] theorem State.modSkip_nextKey (s : State) (n : Nat) (g : Skip → Skip) : (s.modSkip n g).nextKey = s.nextKey := by unfold State.modSkip; split <;> rfl
@[simp] theorem State.modSkip_core (s : State) (n : Nat) (g : Skip → Skip) (c' : CoreId) : (s.modSkip n g).core c' = s.core c' := State.core_of (State.modSkip_cores ..) c'
@[simp] theorem State.modSkip_ctx (s : State) (n : Nat) (g : Skip → Skip) (c' : CoreId) (n' : CtxId) : (s.modSkip n g).ctx c' n' = s.ctx c' n' := State.ctx_of (State.modSkip_cores ..) c' n'

@[simp] theorem State.setTag_now (s : State) (c : CoreId) (tile : Nat) (v : BitVec 16) : (s.setTag c tile v).now = s.now := rfl
@[simp] theorem State.setTag_phase (s : State) (c : CoreId) (tile : Nat) (v : BitVec 16) : (s.setTag c tile v).phase = s.phase := rfl
@[simp] theorem State.setTag_focus (s : State) (c : CoreId) (tile : Nat) (v : BitVec 16) : (s.setTag c tile v).focus = s.focus := rfl
@[simp] theorem State.setTag_todo (s : State) (c : CoreId) (tile : Nat) (v : BitVec 16) : (s.setTag c tile v).todo = s.todo := rfl
@[simp] theorem State.setTag_freeCtr (s : State) (c : CoreId) (tile : Nat) (v : BitVec 16) : (s.setTag c tile v).freeCtr = s.freeCtr := rfl
@[simp] theorem State.setTag_cores (s : State) (c : CoreId) (tile : Nat) (v : BitVec 16) : (s.setTag c tile v).cores = s.cores := rfl
@[simp] theorem State.setTag_dies (s : State) (c : CoreId) (tile : Nat) (v : BitVec 16) : (s.setTag c tile v).dies = s.dies := rfl
@[simp] theorem State.setTag_mem (s : State) (c : CoreId) (tile : Nat) (v : BitVec 16) : (s.setTag c tile v).mem = s.mem := rfl
@[simp] theorem State.setTag_hostMem (s : State) (c : CoreId) (tile : Nat) (v : BitVec 16) : (s.setTag c tile v).hostMem = s.hostMem := rfl
@[simp] theorem State.setTag_poison (s : State) (c : CoreId) (tile : Nat) (v : BitVec 16) : (s.setTag c tile v).poison = s.poison := rfl
@[simp] theorem State.setTag_scrambled (s : State) (c : CoreId) (tile : Nat) (v : BitVec 16) : (s.setTag c tile v).scrambled = s.scrambled := rfl
@[simp] theorem State.setTag_weak (s : State) (c : CoreId) (tile : Nat) (v : BitVec 16) : (s.setTag c tile v).weak = s.weak := rfl
@[simp] theorem State.setTag_skips (s : State) (c : CoreId) (tile : Nat) (v : BitVec 16) : (s.setTag c tile v).skips = s.skips := rfl
@[simp] theorem State.setTag_homeQ (s : State) (c : CoreId) (tile : Nat) (v : BitVec 16) : (s.setTag c tile v).homeQ = s.homeQ := rfl
@[simp] theorem State.setTag_farW (s : State) (c : CoreId) (tile : Nat) (v : BitVec 16) : (s.setTag c tile v).farW = s.farW := rfl
@[simp] theorem State.setTag_replies (s : State) (c : CoreId) (tile : Nat) (v : BitVec 16) : (s.setTag c tile v).replies = s.replies := rfl
@[simp] theorem State.setTag_shadows (s : State) (c : CoreId) (tile : Nat) (v : BitVec 16) : (s.setTag c tile v).shadows = s.shadows := rfl
@[simp] theorem State.setTag_stamps (s : State) (c : CoreId) (tile : Nat) (v : BitVec 16) : (s.setTag c tile v).stamps = s.stamps := rfl
@[simp] theorem State.setTag_vfs (s : State) (c : CoreId) (tile : Nat) (v : BitVec 16) : (s.setTag c tile v).vfs = s.vfs := rfl
@[simp] theorem State.setTag_bsinv (s : State) (c : CoreId) (tile : Nat) (v : BitVec 16) : (s.setTag c tile v).bsinv = s.bsinv := rfl
@[simp] theorem State.setTag_launches (s : State) (c : CoreId) (tile : Nat) (v : BitVec 16) : (s.setTag c tile v).launches = s.launches := rfl
@[simp] theorem State.setTag_images (s : State) (c : CoreId) (tile : Nat) (v : BitVec 16) : (s.setTag c tile v).images = s.images := rfl
@[simp] theorem State.setTag_lastPart (s : State) (c : CoreId) (tile : Nat) (v : BitVec 16) : (s.setTag c tile v).lastPart = s.lastPart := rfl
@[simp] theorem State.setTag_selectDue (s : State) (c : CoreId) (tile : Nat) (v : BitVec 16) : (s.setTag c tile v).selectDue = s.selectDue := rfl
@[simp] theorem State.setTag_inputs (s : State) (c : CoreId) (tile : Nat) (v : BitVec 16) : (s.setTag c tile v).inputs = s.inputs := rfl
@[simp] theorem State.setTag_outbox (s : State) (c : CoreId) (tile : Nat) (v : BitVec 16) : (s.setTag c tile v).outbox = s.outbox := rfl
@[simp] theorem State.setTag_pf (s : State) (c : CoreId) (tile : Nat) (v : BitVec 16) : (s.setTag c tile v).pf = s.pf := rfl
@[simp] theorem State.setTag_ports (s : State) (c : CoreId) (tile : Nat) (v : BitVec 16) : (s.setTag c tile v).ports = s.ports := rfl
@[simp] theorem State.setTag_wire (s : State) (c : CoreId) (tile : Nat) (v : BitVec 16) : (s.setTag c tile v).wire = s.wire := rfl
@[simp] theorem State.setTag_away (s : State) (c : CoreId) (tile : Nat) (v : BitVec 16) : (s.setTag c tile v).away = s.away := rfl
@[simp] theorem State.setTag_sensors (s : State) (c : CoreId) (tile : Nat) (v : BitVec 16) : (s.setTag c tile v).sensors = s.sensors := rfl
@[simp] theorem State.setTag_parked (s : State) (c : CoreId) (tile : Nat) (v : BitVec 16) : (s.setTag c tile v).parked = s.parked := rfl
@[simp] theorem State.setTag_endCount (s : State) (c : CoreId) (tile : Nat) (v : BitVec 16) : (s.setTag c tile v).endCount = s.endCount := rfl
@[simp] theorem State.setTag_nextKey (s : State) (c : CoreId) (tile : Nat) (v : BitVec 16) : (s.setTag c tile v).nextKey = s.nextKey := rfl
@[simp] theorem State.setTag_core (s : State) (c : CoreId) (tile : Nat) (v : BitVec 16) (c' : CoreId) : (s.setTag c tile v).core c' = s.core c' := State.core_of (State.setTag_cores ..) c'
@[simp] theorem State.setTag_ctx (s : State) (c : CoreId) (tile : Nat) (v : BitVec 16) (c' : CoreId) (n' : CtxId) : (s.setTag c tile v).ctx c' n' = s.ctx c' n' := State.ctx_of (State.setTag_cores ..) c' n'

@[simp] theorem State.tickFree_now (s : State) : s.tickFree.now = s.now := rfl
@[simp] theorem State.tickFree_phase (s : State) : s.tickFree.phase = s.phase := rfl
@[simp] theorem State.tickFree_focus (s : State) : s.tickFree.focus = s.focus := rfl
@[simp] theorem State.tickFree_todo (s : State) : s.tickFree.todo = s.todo := rfl
@[simp] theorem State.tickFree_cores (s : State) : s.tickFree.cores = s.cores := rfl
@[simp] theorem State.tickFree_dies (s : State) : s.tickFree.dies = s.dies := rfl
@[simp] theorem State.tickFree_mem (s : State) : s.tickFree.mem = s.mem := rfl
@[simp] theorem State.tickFree_hostMem (s : State) : s.tickFree.hostMem = s.hostMem := rfl
@[simp] theorem State.tickFree_tags (s : State) : s.tickFree.tags = s.tags := rfl
@[simp] theorem State.tickFree_poison (s : State) : s.tickFree.poison = s.poison := rfl
@[simp] theorem State.tickFree_scrambled (s : State) : s.tickFree.scrambled = s.scrambled := rfl
@[simp] theorem State.tickFree_weak (s : State) : s.tickFree.weak = s.weak := rfl
@[simp] theorem State.tickFree_skips (s : State) : s.tickFree.skips = s.skips := rfl
@[simp] theorem State.tickFree_homeQ (s : State) : s.tickFree.homeQ = s.homeQ := rfl
@[simp] theorem State.tickFree_farW (s : State) : s.tickFree.farW = s.farW := rfl
@[simp] theorem State.tickFree_replies (s : State) : s.tickFree.replies = s.replies := rfl
@[simp] theorem State.tickFree_shadows (s : State) : s.tickFree.shadows = s.shadows := rfl
@[simp] theorem State.tickFree_stamps (s : State) : s.tickFree.stamps = s.stamps := rfl
@[simp] theorem State.tickFree_vfs (s : State) : s.tickFree.vfs = s.vfs := rfl
@[simp] theorem State.tickFree_bsinv (s : State) : s.tickFree.bsinv = s.bsinv := rfl
@[simp] theorem State.tickFree_launches (s : State) : s.tickFree.launches = s.launches := rfl
@[simp] theorem State.tickFree_images (s : State) : s.tickFree.images = s.images := rfl
@[simp] theorem State.tickFree_lastPart (s : State) : s.tickFree.lastPart = s.lastPart := rfl
@[simp] theorem State.tickFree_selectDue (s : State) : s.tickFree.selectDue = s.selectDue := rfl
@[simp] theorem State.tickFree_inputs (s : State) : s.tickFree.inputs = s.inputs := rfl
@[simp] theorem State.tickFree_outbox (s : State) : s.tickFree.outbox = s.outbox := rfl
@[simp] theorem State.tickFree_pf (s : State) : s.tickFree.pf = s.pf := rfl
@[simp] theorem State.tickFree_ports (s : State) : s.tickFree.ports = s.ports := rfl
@[simp] theorem State.tickFree_wire (s : State) : s.tickFree.wire = s.wire := rfl
@[simp] theorem State.tickFree_away (s : State) : s.tickFree.away = s.away := rfl
@[simp] theorem State.tickFree_sensors (s : State) : s.tickFree.sensors = s.sensors := rfl
@[simp] theorem State.tickFree_parked (s : State) : s.tickFree.parked = s.parked := rfl
@[simp] theorem State.tickFree_endCount (s : State) : s.tickFree.endCount = s.endCount := rfl
@[simp] theorem State.tickFree_nextKey (s : State) : s.tickFree.nextKey = s.nextKey := rfl
@[simp] theorem State.tickFree_core (s : State) (c' : CoreId) : s.tickFree.core c' = s.core c' := State.core_of (State.tickFree_cores ..) c'
@[simp] theorem State.tickFree_ctx (s : State) (c' : CoreId) (n' : CtxId) : s.tickFree.ctx c' n' = s.ctx c' n' := State.ctx_of (State.tickFree_cores ..) c' n'

@[simp] theorem State.emit_now (s : State) (o : Output) : (s.emit o).now = s.now := rfl
@[simp] theorem State.emit_phase (s : State) (o : Output) : (s.emit o).phase = s.phase := rfl
@[simp] theorem State.emit_focus (s : State) (o : Output) : (s.emit o).focus = s.focus := rfl
@[simp] theorem State.emit_todo (s : State) (o : Output) : (s.emit o).todo = s.todo := rfl
@[simp] theorem State.emit_freeCtr (s : State) (o : Output) : (s.emit o).freeCtr = s.freeCtr := rfl
@[simp] theorem State.emit_cores (s : State) (o : Output) : (s.emit o).cores = s.cores := rfl
@[simp] theorem State.emit_dies (s : State) (o : Output) : (s.emit o).dies = s.dies := rfl
@[simp] theorem State.emit_mem (s : State) (o : Output) : (s.emit o).mem = s.mem := rfl
@[simp] theorem State.emit_hostMem (s : State) (o : Output) : (s.emit o).hostMem = s.hostMem := rfl
@[simp] theorem State.emit_tags (s : State) (o : Output) : (s.emit o).tags = s.tags := rfl
@[simp] theorem State.emit_poison (s : State) (o : Output) : (s.emit o).poison = s.poison := rfl
@[simp] theorem State.emit_scrambled (s : State) (o : Output) : (s.emit o).scrambled = s.scrambled := rfl
@[simp] theorem State.emit_weak (s : State) (o : Output) : (s.emit o).weak = s.weak := rfl
@[simp] theorem State.emit_skips (s : State) (o : Output) : (s.emit o).skips = s.skips := rfl
@[simp] theorem State.emit_homeQ (s : State) (o : Output) : (s.emit o).homeQ = s.homeQ := rfl
@[simp] theorem State.emit_farW (s : State) (o : Output) : (s.emit o).farW = s.farW := rfl
@[simp] theorem State.emit_replies (s : State) (o : Output) : (s.emit o).replies = s.replies := rfl
@[simp] theorem State.emit_shadows (s : State) (o : Output) : (s.emit o).shadows = s.shadows := rfl
@[simp] theorem State.emit_stamps (s : State) (o : Output) : (s.emit o).stamps = s.stamps := rfl
@[simp] theorem State.emit_vfs (s : State) (o : Output) : (s.emit o).vfs = s.vfs := rfl
@[simp] theorem State.emit_bsinv (s : State) (o : Output) : (s.emit o).bsinv = s.bsinv := rfl
@[simp] theorem State.emit_launches (s : State) (o : Output) : (s.emit o).launches = s.launches := rfl
@[simp] theorem State.emit_images (s : State) (o : Output) : (s.emit o).images = s.images := rfl
@[simp] theorem State.emit_lastPart (s : State) (o : Output) : (s.emit o).lastPart = s.lastPart := rfl
@[simp] theorem State.emit_selectDue (s : State) (o : Output) : (s.emit o).selectDue = s.selectDue := rfl
@[simp] theorem State.emit_inputs (s : State) (o : Output) : (s.emit o).inputs = s.inputs := rfl
@[simp] theorem State.emit_pf (s : State) (o : Output) : (s.emit o).pf = s.pf := rfl
@[simp] theorem State.emit_ports (s : State) (o : Output) : (s.emit o).ports = s.ports := rfl
@[simp] theorem State.emit_wire (s : State) (o : Output) : (s.emit o).wire = s.wire := rfl
@[simp] theorem State.emit_away (s : State) (o : Output) : (s.emit o).away = s.away := rfl
@[simp] theorem State.emit_sensors (s : State) (o : Output) : (s.emit o).sensors = s.sensors := rfl
@[simp] theorem State.emit_parked (s : State) (o : Output) : (s.emit o).parked = s.parked := rfl
@[simp] theorem State.emit_endCount (s : State) (o : Output) : (s.emit o).endCount = s.endCount := rfl
@[simp] theorem State.emit_nextKey (s : State) (o : Output) : (s.emit o).nextKey = s.nextKey := rfl
@[simp] theorem State.emit_core (s : State) (o : Output) (c' : CoreId) : (s.emit o).core c' = s.core c' := State.core_of (State.emit_cores ..) c'
@[simp] theorem State.emit_ctx (s : State) (o : Output) (c' : CoreId) (n' : CtxId) : (s.emit o).ctx c' n' = s.ctx c' n' := State.ctx_of (State.emit_cores ..) c' n'

/-! ### Cores -/

@[simp] theorem Core.setCtx_cyc (k : Core) (n : CtxId) (x : Ctx) : (k.setCtx n x).cyc = k.cyc := rfl
@[simp] theorem Core.setCtx_port (k : Core) (n : CtxId) (x : Ctx) : (k.setCtx n x).port = k.port := rfl
@[simp] theorem Core.setCtx_vacated (k : Core) (n : CtxId) (x : Ctx) : (k.setCtx n x).vacated = k.vacated := rfl
@[simp] theorem Core.setCtx_issueFrom (k : Core) (n : CtxId) (x : Ctx) : (k.setCtx n x).issueFrom = k.issueFrom := rfl
@[simp] theorem Core.setCtx_latches (k : Core) (n : CtxId) (x : Ctx) : (k.setCtx n x).latches = k.latches := rfl
@[simp] theorem Core.setCtx_lastIssue (k : Core) (n : CtxId) (x : Ctx) : (k.setCtx n x).lastIssue = k.lastIssue := rfl
@[simp] theorem Core.setCtx_lastWt (k : Core) (n : CtxId) (x : Ctx) : (k.setCtx n x).lastWt = k.lastWt := rfl
@[simp] theorem Core.setCtx_lcs (k : Core) (n : CtxId) (x : Ctx) : (k.setCtx n x).lcs = k.lcs := rfl
@[simp] theorem Core.setCtx_results (k : Core) (n : CtxId) (x : Ctx) : (k.setCtx n x).results = k.results := rfl
@[simp] theorem Core.setCtx_acc (k : Core) (n : CtxId) (x : Ctx) : (k.setCtx n x).acc = k.acc := rfl
@[simp] theorem Core.setCtx_cmds (k : Core) (n : CtxId) (x : Ctx) : (k.setCtx n x).cmds = k.cmds := rfl
@[simp] theorem Core.setCtx_cmdWait (k : Core) (n : CtxId) (x : Ctx) : (k.setCtx n x).cmdWait = k.cmdWait := rfl
@[simp] theorem Core.setCtx_mcasts (k : Core) (n : CtxId) (x : Ctx) : (k.setCtx n x).mcasts = k.mcasts := rfl
@[simp] theorem Core.setCtx_land (k : Core) (n : CtxId) (x : Ctx) : (k.setCtx n x).land = k.land := rfl
@[simp] theorem Core.setCtx_walks (k : Core) (n : CtxId) (x : Ctx) : (k.setCtx n x).walks = k.walks := rfl
@[simp] theorem Core.setCtx_mforms (k : Core) (n : CtxId) (x : Ctx) : (k.setCtx n x).mforms = k.mforms := rfl
@[simp] theorem Core.setCtx_mnext (k : Core) (n : CtxId) (x : Ctx) : (k.setCtx n x).mnext = k.mnext := rfl
@[simp] theorem Core.setCtx_face (k : Core) (n : CtxId) (x : Ctx) : (k.setCtx n x).face = k.face := rfl
@[simp] theorem Core.setCtx_faceFree (k : Core) (n : CtxId) (x : Ctx) : (k.setCtx n x).faceFree = k.faceFree := rfl
@[simp] theorem Core.setCtx_drainFree (k : Core) (n : CtxId) (x : Ctx) : (k.setCtx n x).drainFree = k.drainFree := rfl
@[simp] theorem Core.setCtx_bgFree (k : Core) (n : CtxId) (x : Ctx) : (k.setCtx n x).bgFree = k.bgFree := rfl
@[simp] theorem Core.setCtx_att (k : Core) (n : CtxId) (x : Ctx) : (k.setCtx n x).att = k.att := rfl
@[simp] theorem Core.setCtx_attErr (k : Core) (n : CtxId) (x : Ctx) : (k.setCtx n x).attErr = k.attErr := rfl
@[simp] theorem Core.setCtx_frzcnt (k : Core) (n : CtxId) (x : Ctx) : (k.setCtx n x).frzcnt = k.frzcnt := rfl
@[simp] theorem Core.setCtx_paidcnt (k : Core) (n : CtxId) (x : Ctx) : (k.setCtx n x).paidcnt = k.paidcnt := rfl
@[simp] theorem Core.setCtx_spoil (k : Core) (n : CtxId) (x : Ctx) : (k.setCtx n x).spoil = k.spoil := rfl
@[simp] theorem Core.setCtx_timeout (k : Core) (n : CtxId) (x : Ctx) : (k.setCtx n x).timeout = k.timeout := rfl
@[simp] theorem Core.setCtx_haul (k : Core) (n : CtxId) (x : Ctx) : (k.setCtx n x).haul = k.haul := rfl
@[simp] theorem Core.setCtx_store (k : Core) (n : CtxId) (x : Ctx) : (k.setCtx n x).store = k.store := rfl
@[simp] theorem Core.setCtx_storeErr (k : Core) (n : CtxId) (x : Ctx) : (k.setCtx n x).storeErr = k.storeErr := rfl
@[simp] theorem Core.setCtx_refetch (k : Core) (n : CtxId) (x : Ctx) : (k.setCtx n x).refetch = k.refetch := rfl
@[simp] theorem Core.setCtx_lateSince (k : Core) (n : CtxId) (x : Ctx) : (k.setCtx n x).lateSince = k.lateSince := rfl
@[simp] theorem Core.setCtx_fence (k : Core) (n : CtxId) (x : Ctx) : (k.setCtx n x).fence = k.fence := rfl
@[simp] theorem Core.setCtx_banks (k : Core) (n : CtxId) (x : Ctx) : (k.setCtx n x).banks = k.banks := rfl
@[simp] theorem Core.setCtx_leaving (k : Core) (n : CtxId) (x : Ctx) : (k.setCtx n x).leaving = k.leaving := rfl
@[simp] theorem Core.setCtx_traps (k : Core) (n : CtxId) (x : Ctx) : (k.setCtx n x).traps = k.traps := rfl
@[simp] theorem Core.setCtx_reports (k : Core) (n : CtxId) (x : Ctx) : (k.setCtx n x).reports = k.reports := rfl
@[simp] theorem Core.setCtx_squashed (k : Core) (n : CtxId) (x : Ctx) : (k.setCtx n x).squashed = k.squashed := rfl
@[simp] theorem Core.setCtx_frozen (k : Core) (n : CtxId) (x : Ctx) : (k.setCtx n x).frozen = k.frozen := rfl
@[simp] theorem Core.setCtx_dbg (k : Core) (n : CtxId) (x : Ctx) : (k.setCtx n x).dbg = k.dbg := rfl
@[simp] theorem Core.setCtx_held (k : Core) (n : CtxId) (x : Ctx) : (k.setCtx n x).held = k.held := rfl
@[simp] theorem Core.setCtx_mid (k : Core) (n : CtxId) (x : Ctx) : (k.setCtx n x).mid = k.mid := rfl
@[simp] theorem Core.setCtx_woke (k : Core) (n : CtxId) (x : Ctx) : (k.setCtx n x).woke = k.woke := rfl
@[simp] theorem Core.setCtx_rewrote (k : Core) (n : CtxId) (x : Ctx) : (k.setCtx n x).rewrote = k.rewrote := rfl
@[simp] theorem Core.setCtx_shadow (k : Core) (n : CtxId) (x : Ctx) : (k.setCtx n x).shadow = k.shadow := rfl
@[simp] theorem Core.setCtx_reissue (k : Core) (n : CtxId) (x : Ctx) : (k.setCtx n x).reissue = k.reissue := rfl
@[simp] theorem Core.setCtx_regErr (k : Core) (n : CtxId) (x : Ctx) : (k.setCtx n x).regErr = k.regErr := rfl
@[simp] theorem Core.setCtx_ckErr (k : Core) (n : CtxId) (x : Ctx) : (k.setCtx n x).ckErr = k.ckErr := rfl
@[simp] theorem Core.setCtx_weakLoc (k : Core) (n : CtxId) (x : Ctx) : (k.setCtx n x).weakLoc = k.weakLoc := rfl
@[simp] theorem Core.setCtx_shadowErr (k : Core) (n : CtxId) (x : Ctx) : (k.setCtx n x).shadowErr = k.shadowErr := rfl

@[simp] theorem Core.modCtx_cyc (k : Core) (n : CtxId) (g : Ctx → Ctx) : (k.modCtx n g).cyc = k.cyc := rfl
@[simp] theorem Core.modCtx_port (k : Core) (n : CtxId) (g : Ctx → Ctx) : (k.modCtx n g).port = k.port := rfl
@[simp] theorem Core.modCtx_vacated (k : Core) (n : CtxId) (g : Ctx → Ctx) : (k.modCtx n g).vacated = k.vacated := rfl
@[simp] theorem Core.modCtx_issueFrom (k : Core) (n : CtxId) (g : Ctx → Ctx) : (k.modCtx n g).issueFrom = k.issueFrom := rfl
@[simp] theorem Core.modCtx_latches (k : Core) (n : CtxId) (g : Ctx → Ctx) : (k.modCtx n g).latches = k.latches := rfl
@[simp] theorem Core.modCtx_lastIssue (k : Core) (n : CtxId) (g : Ctx → Ctx) : (k.modCtx n g).lastIssue = k.lastIssue := rfl
@[simp] theorem Core.modCtx_lastWt (k : Core) (n : CtxId) (g : Ctx → Ctx) : (k.modCtx n g).lastWt = k.lastWt := rfl
@[simp] theorem Core.modCtx_lcs (k : Core) (n : CtxId) (g : Ctx → Ctx) : (k.modCtx n g).lcs = k.lcs := rfl
@[simp] theorem Core.modCtx_results (k : Core) (n : CtxId) (g : Ctx → Ctx) : (k.modCtx n g).results = k.results := rfl
@[simp] theorem Core.modCtx_acc (k : Core) (n : CtxId) (g : Ctx → Ctx) : (k.modCtx n g).acc = k.acc := rfl
@[simp] theorem Core.modCtx_cmds (k : Core) (n : CtxId) (g : Ctx → Ctx) : (k.modCtx n g).cmds = k.cmds := rfl
@[simp] theorem Core.modCtx_cmdWait (k : Core) (n : CtxId) (g : Ctx → Ctx) : (k.modCtx n g).cmdWait = k.cmdWait := rfl
@[simp] theorem Core.modCtx_mcasts (k : Core) (n : CtxId) (g : Ctx → Ctx) : (k.modCtx n g).mcasts = k.mcasts := rfl
@[simp] theorem Core.modCtx_land (k : Core) (n : CtxId) (g : Ctx → Ctx) : (k.modCtx n g).land = k.land := rfl
@[simp] theorem Core.modCtx_walks (k : Core) (n : CtxId) (g : Ctx → Ctx) : (k.modCtx n g).walks = k.walks := rfl
@[simp] theorem Core.modCtx_mforms (k : Core) (n : CtxId) (g : Ctx → Ctx) : (k.modCtx n g).mforms = k.mforms := rfl
@[simp] theorem Core.modCtx_mnext (k : Core) (n : CtxId) (g : Ctx → Ctx) : (k.modCtx n g).mnext = k.mnext := rfl
@[simp] theorem Core.modCtx_face (k : Core) (n : CtxId) (g : Ctx → Ctx) : (k.modCtx n g).face = k.face := rfl
@[simp] theorem Core.modCtx_faceFree (k : Core) (n : CtxId) (g : Ctx → Ctx) : (k.modCtx n g).faceFree = k.faceFree := rfl
@[simp] theorem Core.modCtx_drainFree (k : Core) (n : CtxId) (g : Ctx → Ctx) : (k.modCtx n g).drainFree = k.drainFree := rfl
@[simp] theorem Core.modCtx_bgFree (k : Core) (n : CtxId) (g : Ctx → Ctx) : (k.modCtx n g).bgFree = k.bgFree := rfl
@[simp] theorem Core.modCtx_att (k : Core) (n : CtxId) (g : Ctx → Ctx) : (k.modCtx n g).att = k.att := rfl
@[simp] theorem Core.modCtx_attErr (k : Core) (n : CtxId) (g : Ctx → Ctx) : (k.modCtx n g).attErr = k.attErr := rfl
@[simp] theorem Core.modCtx_frzcnt (k : Core) (n : CtxId) (g : Ctx → Ctx) : (k.modCtx n g).frzcnt = k.frzcnt := rfl
@[simp] theorem Core.modCtx_paidcnt (k : Core) (n : CtxId) (g : Ctx → Ctx) : (k.modCtx n g).paidcnt = k.paidcnt := rfl
@[simp] theorem Core.modCtx_spoil (k : Core) (n : CtxId) (g : Ctx → Ctx) : (k.modCtx n g).spoil = k.spoil := rfl
@[simp] theorem Core.modCtx_timeout (k : Core) (n : CtxId) (g : Ctx → Ctx) : (k.modCtx n g).timeout = k.timeout := rfl
@[simp] theorem Core.modCtx_haul (k : Core) (n : CtxId) (g : Ctx → Ctx) : (k.modCtx n g).haul = k.haul := rfl
@[simp] theorem Core.modCtx_store (k : Core) (n : CtxId) (g : Ctx → Ctx) : (k.modCtx n g).store = k.store := rfl
@[simp] theorem Core.modCtx_storeErr (k : Core) (n : CtxId) (g : Ctx → Ctx) : (k.modCtx n g).storeErr = k.storeErr := rfl
@[simp] theorem Core.modCtx_refetch (k : Core) (n : CtxId) (g : Ctx → Ctx) : (k.modCtx n g).refetch = k.refetch := rfl
@[simp] theorem Core.modCtx_lateSince (k : Core) (n : CtxId) (g : Ctx → Ctx) : (k.modCtx n g).lateSince = k.lateSince := rfl
@[simp] theorem Core.modCtx_fence (k : Core) (n : CtxId) (g : Ctx → Ctx) : (k.modCtx n g).fence = k.fence := rfl
@[simp] theorem Core.modCtx_banks (k : Core) (n : CtxId) (g : Ctx → Ctx) : (k.modCtx n g).banks = k.banks := rfl
@[simp] theorem Core.modCtx_leaving (k : Core) (n : CtxId) (g : Ctx → Ctx) : (k.modCtx n g).leaving = k.leaving := rfl
@[simp] theorem Core.modCtx_traps (k : Core) (n : CtxId) (g : Ctx → Ctx) : (k.modCtx n g).traps = k.traps := rfl
@[simp] theorem Core.modCtx_reports (k : Core) (n : CtxId) (g : Ctx → Ctx) : (k.modCtx n g).reports = k.reports := rfl
@[simp] theorem Core.modCtx_squashed (k : Core) (n : CtxId) (g : Ctx → Ctx) : (k.modCtx n g).squashed = k.squashed := rfl
@[simp] theorem Core.modCtx_frozen (k : Core) (n : CtxId) (g : Ctx → Ctx) : (k.modCtx n g).frozen = k.frozen := rfl
@[simp] theorem Core.modCtx_dbg (k : Core) (n : CtxId) (g : Ctx → Ctx) : (k.modCtx n g).dbg = k.dbg := rfl
@[simp] theorem Core.modCtx_held (k : Core) (n : CtxId) (g : Ctx → Ctx) : (k.modCtx n g).held = k.held := rfl
@[simp] theorem Core.modCtx_mid (k : Core) (n : CtxId) (g : Ctx → Ctx) : (k.modCtx n g).mid = k.mid := rfl
@[simp] theorem Core.modCtx_woke (k : Core) (n : CtxId) (g : Ctx → Ctx) : (k.modCtx n g).woke = k.woke := rfl
@[simp] theorem Core.modCtx_rewrote (k : Core) (n : CtxId) (g : Ctx → Ctx) : (k.modCtx n g).rewrote = k.rewrote := rfl
@[simp] theorem Core.modCtx_shadow (k : Core) (n : CtxId) (g : Ctx → Ctx) : (k.modCtx n g).shadow = k.shadow := rfl
@[simp] theorem Core.modCtx_reissue (k : Core) (n : CtxId) (g : Ctx → Ctx) : (k.modCtx n g).reissue = k.reissue := rfl
@[simp] theorem Core.modCtx_regErr (k : Core) (n : CtxId) (g : Ctx → Ctx) : (k.modCtx n g).regErr = k.regErr := rfl
@[simp] theorem Core.modCtx_ckErr (k : Core) (n : CtxId) (g : Ctx → Ctx) : (k.modCtx n g).ckErr = k.ckErr := rfl
@[simp] theorem Core.modCtx_weakLoc (k : Core) (n : CtxId) (g : Ctx → Ctx) : (k.modCtx n g).weakLoc = k.weakLoc := rfl
@[simp] theorem Core.modCtx_shadowErr (k : Core) (n : CtxId) (g : Ctx → Ctx) : (k.modCtx n g).shadowErr = k.shadowErr := rfl

@[simp] theorem Core.modLc_cyc (k : Core) (lk : Nat) (g : LaunchCore → LaunchCore) : (k.modLc lk g).cyc = k.cyc := rfl
@[simp] theorem Core.modLc_port (k : Core) (lk : Nat) (g : LaunchCore → LaunchCore) : (k.modLc lk g).port = k.port := rfl
@[simp] theorem Core.modLc_vacated (k : Core) (lk : Nat) (g : LaunchCore → LaunchCore) : (k.modLc lk g).vacated = k.vacated := rfl
@[simp] theorem Core.modLc_issueFrom (k : Core) (lk : Nat) (g : LaunchCore → LaunchCore) : (k.modLc lk g).issueFrom = k.issueFrom := rfl
@[simp] theorem Core.modLc_ctxs (k : Core) (lk : Nat) (g : LaunchCore → LaunchCore) : (k.modLc lk g).ctxs = k.ctxs := rfl
@[simp] theorem Core.modLc_latches (k : Core) (lk : Nat) (g : LaunchCore → LaunchCore) : (k.modLc lk g).latches = k.latches := rfl
@[simp] theorem Core.modLc_lastIssue (k : Core) (lk : Nat) (g : LaunchCore → LaunchCore) : (k.modLc lk g).lastIssue = k.lastIssue := rfl
@[simp] theorem Core.modLc_lastWt (k : Core) (lk : Nat) (g : LaunchCore → LaunchCore) : (k.modLc lk g).lastWt = k.lastWt := rfl
@[simp] theorem Core.modLc_results (k : Core) (lk : Nat) (g : LaunchCore → LaunchCore) : (k.modLc lk g).results = k.results := rfl
@[simp] theorem Core.modLc_acc (k : Core) (lk : Nat) (g : LaunchCore → LaunchCore) : (k.modLc lk g).acc = k.acc := rfl
@[simp] theorem Core.modLc_cmds (k : Core) (lk : Nat) (g : LaunchCore → LaunchCore) : (k.modLc lk g).cmds = k.cmds := rfl
@[simp] theorem Core.modLc_cmdWait (k : Core) (lk : Nat) (g : LaunchCore → LaunchCore) : (k.modLc lk g).cmdWait = k.cmdWait := rfl
@[simp] theorem Core.modLc_mcasts (k : Core) (lk : Nat) (g : LaunchCore → LaunchCore) : (k.modLc lk g).mcasts = k.mcasts := rfl
@[simp] theorem Core.modLc_land (k : Core) (lk : Nat) (g : LaunchCore → LaunchCore) : (k.modLc lk g).land = k.land := rfl
@[simp] theorem Core.modLc_walks (k : Core) (lk : Nat) (g : LaunchCore → LaunchCore) : (k.modLc lk g).walks = k.walks := rfl
@[simp] theorem Core.modLc_mforms (k : Core) (lk : Nat) (g : LaunchCore → LaunchCore) : (k.modLc lk g).mforms = k.mforms := rfl
@[simp] theorem Core.modLc_mnext (k : Core) (lk : Nat) (g : LaunchCore → LaunchCore) : (k.modLc lk g).mnext = k.mnext := rfl
@[simp] theorem Core.modLc_face (k : Core) (lk : Nat) (g : LaunchCore → LaunchCore) : (k.modLc lk g).face = k.face := rfl
@[simp] theorem Core.modLc_faceFree (k : Core) (lk : Nat) (g : LaunchCore → LaunchCore) : (k.modLc lk g).faceFree = k.faceFree := rfl
@[simp] theorem Core.modLc_drainFree (k : Core) (lk : Nat) (g : LaunchCore → LaunchCore) : (k.modLc lk g).drainFree = k.drainFree := rfl
@[simp] theorem Core.modLc_bgFree (k : Core) (lk : Nat) (g : LaunchCore → LaunchCore) : (k.modLc lk g).bgFree = k.bgFree := rfl
@[simp] theorem Core.modLc_att (k : Core) (lk : Nat) (g : LaunchCore → LaunchCore) : (k.modLc lk g).att = k.att := rfl
@[simp] theorem Core.modLc_attErr (k : Core) (lk : Nat) (g : LaunchCore → LaunchCore) : (k.modLc lk g).attErr = k.attErr := rfl
@[simp] theorem Core.modLc_frzcnt (k : Core) (lk : Nat) (g : LaunchCore → LaunchCore) : (k.modLc lk g).frzcnt = k.frzcnt := rfl
@[simp] theorem Core.modLc_paidcnt (k : Core) (lk : Nat) (g : LaunchCore → LaunchCore) : (k.modLc lk g).paidcnt = k.paidcnt := rfl
@[simp] theorem Core.modLc_spoil (k : Core) (lk : Nat) (g : LaunchCore → LaunchCore) : (k.modLc lk g).spoil = k.spoil := rfl
@[simp] theorem Core.modLc_timeout (k : Core) (lk : Nat) (g : LaunchCore → LaunchCore) : (k.modLc lk g).timeout = k.timeout := rfl
@[simp] theorem Core.modLc_haul (k : Core) (lk : Nat) (g : LaunchCore → LaunchCore) : (k.modLc lk g).haul = k.haul := rfl
@[simp] theorem Core.modLc_store (k : Core) (lk : Nat) (g : LaunchCore → LaunchCore) : (k.modLc lk g).store = k.store := rfl
@[simp] theorem Core.modLc_storeErr (k : Core) (lk : Nat) (g : LaunchCore → LaunchCore) : (k.modLc lk g).storeErr = k.storeErr := rfl
@[simp] theorem Core.modLc_refetch (k : Core) (lk : Nat) (g : LaunchCore → LaunchCore) : (k.modLc lk g).refetch = k.refetch := rfl
@[simp] theorem Core.modLc_lateSince (k : Core) (lk : Nat) (g : LaunchCore → LaunchCore) : (k.modLc lk g).lateSince = k.lateSince := rfl
@[simp] theorem Core.modLc_fence (k : Core) (lk : Nat) (g : LaunchCore → LaunchCore) : (k.modLc lk g).fence = k.fence := rfl
@[simp] theorem Core.modLc_banks (k : Core) (lk : Nat) (g : LaunchCore → LaunchCore) : (k.modLc lk g).banks = k.banks := rfl
@[simp] theorem Core.modLc_leaving (k : Core) (lk : Nat) (g : LaunchCore → LaunchCore) : (k.modLc lk g).leaving = k.leaving := rfl
@[simp] theorem Core.modLc_traps (k : Core) (lk : Nat) (g : LaunchCore → LaunchCore) : (k.modLc lk g).traps = k.traps := rfl
@[simp] theorem Core.modLc_reports (k : Core) (lk : Nat) (g : LaunchCore → LaunchCore) : (k.modLc lk g).reports = k.reports := rfl
@[simp] theorem Core.modLc_squashed (k : Core) (lk : Nat) (g : LaunchCore → LaunchCore) : (k.modLc lk g).squashed = k.squashed := rfl
@[simp] theorem Core.modLc_frozen (k : Core) (lk : Nat) (g : LaunchCore → LaunchCore) : (k.modLc lk g).frozen = k.frozen := rfl
@[simp] theorem Core.modLc_dbg (k : Core) (lk : Nat) (g : LaunchCore → LaunchCore) : (k.modLc lk g).dbg = k.dbg := rfl
@[simp] theorem Core.modLc_held (k : Core) (lk : Nat) (g : LaunchCore → LaunchCore) : (k.modLc lk g).held = k.held := rfl
@[simp] theorem Core.modLc_mid (k : Core) (lk : Nat) (g : LaunchCore → LaunchCore) : (k.modLc lk g).mid = k.mid := rfl
@[simp] theorem Core.modLc_woke (k : Core) (lk : Nat) (g : LaunchCore → LaunchCore) : (k.modLc lk g).woke = k.woke := rfl
@[simp] theorem Core.modLc_rewrote (k : Core) (lk : Nat) (g : LaunchCore → LaunchCore) : (k.modLc lk g).rewrote = k.rewrote := rfl
@[simp] theorem Core.modLc_shadow (k : Core) (lk : Nat) (g : LaunchCore → LaunchCore) : (k.modLc lk g).shadow = k.shadow := rfl
@[simp] theorem Core.modLc_reissue (k : Core) (lk : Nat) (g : LaunchCore → LaunchCore) : (k.modLc lk g).reissue = k.reissue := rfl
@[simp] theorem Core.modLc_regErr (k : Core) (lk : Nat) (g : LaunchCore → LaunchCore) : (k.modLc lk g).regErr = k.regErr := rfl
@[simp] theorem Core.modLc_ckErr (k : Core) (lk : Nat) (g : LaunchCore → LaunchCore) : (k.modLc lk g).ckErr = k.ckErr := rfl
@[simp] theorem Core.modLc_weakLoc (k : Core) (lk : Nat) (g : LaunchCore → LaunchCore) : (k.modLc lk g).weakLoc = k.weakLoc := rfl
@[simp] theorem Core.modLc_shadowErr (k : Core) (lk : Nat) (g : LaunchCore → LaunchCore) : (k.modLc lk g).shadowErr = k.shadowErr := rfl
@[simp] theorem Core.modLc_ctx (k : Core) (lk : Nat) (g : LaunchCore → LaunchCore) (n' : CtxId) : (k.modLc lk g).ctx n' = k.ctx n' := rfl

@[simp] theorem Core.addTrap_cyc (k : Core) (t : Trap) : (k.addTrap t).cyc = k.cyc := rfl
@[simp] theorem Core.addTrap_port (k : Core) (t : Trap) : (k.addTrap t).port = k.port := rfl
@[simp] theorem Core.addTrap_vacated (k : Core) (t : Trap) : (k.addTrap t).vacated = k.vacated := rfl
@[simp] theorem Core.addTrap_issueFrom (k : Core) (t : Trap) : (k.addTrap t).issueFrom = k.issueFrom := rfl
@[simp] theorem Core.addTrap_ctxs (k : Core) (t : Trap) : (k.addTrap t).ctxs = k.ctxs := rfl
@[simp] theorem Core.addTrap_latches (k : Core) (t : Trap) : (k.addTrap t).latches = k.latches := rfl
@[simp] theorem Core.addTrap_lastIssue (k : Core) (t : Trap) : (k.addTrap t).lastIssue = k.lastIssue := rfl
@[simp] theorem Core.addTrap_lastWt (k : Core) (t : Trap) : (k.addTrap t).lastWt = k.lastWt := rfl
@[simp] theorem Core.addTrap_lcs (k : Core) (t : Trap) : (k.addTrap t).lcs = k.lcs := rfl
@[simp] theorem Core.addTrap_results (k : Core) (t : Trap) : (k.addTrap t).results = k.results := rfl
@[simp] theorem Core.addTrap_acc (k : Core) (t : Trap) : (k.addTrap t).acc = k.acc := rfl
@[simp] theorem Core.addTrap_cmds (k : Core) (t : Trap) : (k.addTrap t).cmds = k.cmds := rfl
@[simp] theorem Core.addTrap_cmdWait (k : Core) (t : Trap) : (k.addTrap t).cmdWait = k.cmdWait := rfl
@[simp] theorem Core.addTrap_mcasts (k : Core) (t : Trap) : (k.addTrap t).mcasts = k.mcasts := rfl
@[simp] theorem Core.addTrap_land (k : Core) (t : Trap) : (k.addTrap t).land = k.land := rfl
@[simp] theorem Core.addTrap_walks (k : Core) (t : Trap) : (k.addTrap t).walks = k.walks := rfl
@[simp] theorem Core.addTrap_mforms (k : Core) (t : Trap) : (k.addTrap t).mforms = k.mforms := rfl
@[simp] theorem Core.addTrap_mnext (k : Core) (t : Trap) : (k.addTrap t).mnext = k.mnext := rfl
@[simp] theorem Core.addTrap_face (k : Core) (t : Trap) : (k.addTrap t).face = k.face := rfl
@[simp] theorem Core.addTrap_faceFree (k : Core) (t : Trap) : (k.addTrap t).faceFree = k.faceFree := rfl
@[simp] theorem Core.addTrap_drainFree (k : Core) (t : Trap) : (k.addTrap t).drainFree = k.drainFree := rfl
@[simp] theorem Core.addTrap_bgFree (k : Core) (t : Trap) : (k.addTrap t).bgFree = k.bgFree := rfl
@[simp] theorem Core.addTrap_att (k : Core) (t : Trap) : (k.addTrap t).att = k.att := rfl
@[simp] theorem Core.addTrap_attErr (k : Core) (t : Trap) : (k.addTrap t).attErr = k.attErr := rfl
@[simp] theorem Core.addTrap_frzcnt (k : Core) (t : Trap) : (k.addTrap t).frzcnt = k.frzcnt := rfl
@[simp] theorem Core.addTrap_paidcnt (k : Core) (t : Trap) : (k.addTrap t).paidcnt = k.paidcnt := rfl
@[simp] theorem Core.addTrap_spoil (k : Core) (t : Trap) : (k.addTrap t).spoil = k.spoil := rfl
@[simp] theorem Core.addTrap_timeout (k : Core) (t : Trap) : (k.addTrap t).timeout = k.timeout := rfl
@[simp] theorem Core.addTrap_haul (k : Core) (t : Trap) : (k.addTrap t).haul = k.haul := rfl
@[simp] theorem Core.addTrap_store (k : Core) (t : Trap) : (k.addTrap t).store = k.store := rfl
@[simp] theorem Core.addTrap_storeErr (k : Core) (t : Trap) : (k.addTrap t).storeErr = k.storeErr := rfl
@[simp] theorem Core.addTrap_refetch (k : Core) (t : Trap) : (k.addTrap t).refetch = k.refetch := rfl
@[simp] theorem Core.addTrap_lateSince (k : Core) (t : Trap) : (k.addTrap t).lateSince = k.lateSince := rfl
@[simp] theorem Core.addTrap_fence (k : Core) (t : Trap) : (k.addTrap t).fence = k.fence := rfl
@[simp] theorem Core.addTrap_banks (k : Core) (t : Trap) : (k.addTrap t).banks = k.banks := rfl
@[simp] theorem Core.addTrap_leaving (k : Core) (t : Trap) : (k.addTrap t).leaving = k.leaving := rfl
@[simp] theorem Core.addTrap_reports (k : Core) (t : Trap) : (k.addTrap t).reports = k.reports := rfl
@[simp] theorem Core.addTrap_squashed (k : Core) (t : Trap) : (k.addTrap t).squashed = k.squashed := rfl
@[simp] theorem Core.addTrap_frozen (k : Core) (t : Trap) : (k.addTrap t).frozen = k.frozen := rfl
@[simp] theorem Core.addTrap_dbg (k : Core) (t : Trap) : (k.addTrap t).dbg = k.dbg := rfl
@[simp] theorem Core.addTrap_held (k : Core) (t : Trap) : (k.addTrap t).held = k.held := rfl
@[simp] theorem Core.addTrap_mid (k : Core) (t : Trap) : (k.addTrap t).mid = k.mid := rfl
@[simp] theorem Core.addTrap_woke (k : Core) (t : Trap) : (k.addTrap t).woke = k.woke := rfl
@[simp] theorem Core.addTrap_rewrote (k : Core) (t : Trap) : (k.addTrap t).rewrote = k.rewrote := rfl
@[simp] theorem Core.addTrap_shadow (k : Core) (t : Trap) : (k.addTrap t).shadow = k.shadow := rfl
@[simp] theorem Core.addTrap_reissue (k : Core) (t : Trap) : (k.addTrap t).reissue = k.reissue := rfl
@[simp] theorem Core.addTrap_regErr (k : Core) (t : Trap) : (k.addTrap t).regErr = k.regErr := rfl
@[simp] theorem Core.addTrap_ckErr (k : Core) (t : Trap) : (k.addTrap t).ckErr = k.ckErr := rfl
@[simp] theorem Core.addTrap_weakLoc (k : Core) (t : Trap) : (k.addTrap t).weakLoc = k.weakLoc := rfl
@[simp] theorem Core.addTrap_shadowErr (k : Core) (t : Trap) : (k.addTrap t).shadowErr = k.shadowErr := rfl
@[simp] theorem Core.addTrap_ctx (k : Core) (t : Trap) (n' : CtxId) : (k.addTrap t).ctx n' = k.ctx n' := rfl

@[simp] theorem Core.addResult_cyc (k : Core) (r : Result) : (k.addResult r).cyc = k.cyc := rfl
@[simp] theorem Core.addResult_port (k : Core) (r : Result) : (k.addResult r).port = k.port := rfl
@[simp] theorem Core.addResult_vacated (k : Core) (r : Result) : (k.addResult r).vacated = k.vacated := rfl
@[simp] theorem Core.addResult_issueFrom (k : Core) (r : Result) : (k.addResult r).issueFrom = k.issueFrom := rfl
@[simp] theorem Core.addResult_ctxs (k : Core) (r : Result) : (k.addResult r).ctxs = k.ctxs := rfl
@[simp] theorem Core.addResult_latches (k : Core) (r : Result) : (k.addResult r).latches = k.latches := rfl
@[simp] theorem Core.addResult_lastIssue (k : Core) (r : Result) : (k.addResult r).lastIssue = k.lastIssue := rfl
@[simp] theorem Core.addResult_lastWt (k : Core) (r : Result) : (k.addResult r).lastWt = k.lastWt := rfl
@[simp] theorem Core.addResult_lcs (k : Core) (r : Result) : (k.addResult r).lcs = k.lcs := rfl
@[simp] theorem Core.addResult_acc (k : Core) (r : Result) : (k.addResult r).acc = k.acc := rfl
@[simp] theorem Core.addResult_cmds (k : Core) (r : Result) : (k.addResult r).cmds = k.cmds := rfl
@[simp] theorem Core.addResult_cmdWait (k : Core) (r : Result) : (k.addResult r).cmdWait = k.cmdWait := rfl
@[simp] theorem Core.addResult_mcasts (k : Core) (r : Result) : (k.addResult r).mcasts = k.mcasts := rfl
@[simp] theorem Core.addResult_land (k : Core) (r : Result) : (k.addResult r).land = k.land := rfl
@[simp] theorem Core.addResult_walks (k : Core) (r : Result) : (k.addResult r).walks = k.walks := rfl
@[simp] theorem Core.addResult_mforms (k : Core) (r : Result) : (k.addResult r).mforms = k.mforms := rfl
@[simp] theorem Core.addResult_mnext (k : Core) (r : Result) : (k.addResult r).mnext = k.mnext := rfl
@[simp] theorem Core.addResult_face (k : Core) (r : Result) : (k.addResult r).face = k.face := rfl
@[simp] theorem Core.addResult_faceFree (k : Core) (r : Result) : (k.addResult r).faceFree = k.faceFree := rfl
@[simp] theorem Core.addResult_drainFree (k : Core) (r : Result) : (k.addResult r).drainFree = k.drainFree := rfl
@[simp] theorem Core.addResult_bgFree (k : Core) (r : Result) : (k.addResult r).bgFree = k.bgFree := rfl
@[simp] theorem Core.addResult_att (k : Core) (r : Result) : (k.addResult r).att = k.att := rfl
@[simp] theorem Core.addResult_attErr (k : Core) (r : Result) : (k.addResult r).attErr = k.attErr := rfl
@[simp] theorem Core.addResult_frzcnt (k : Core) (r : Result) : (k.addResult r).frzcnt = k.frzcnt := rfl
@[simp] theorem Core.addResult_paidcnt (k : Core) (r : Result) : (k.addResult r).paidcnt = k.paidcnt := rfl
@[simp] theorem Core.addResult_spoil (k : Core) (r : Result) : (k.addResult r).spoil = k.spoil := rfl
@[simp] theorem Core.addResult_timeout (k : Core) (r : Result) : (k.addResult r).timeout = k.timeout := rfl
@[simp] theorem Core.addResult_haul (k : Core) (r : Result) : (k.addResult r).haul = k.haul := rfl
@[simp] theorem Core.addResult_store (k : Core) (r : Result) : (k.addResult r).store = k.store := rfl
@[simp] theorem Core.addResult_storeErr (k : Core) (r : Result) : (k.addResult r).storeErr = k.storeErr := rfl
@[simp] theorem Core.addResult_refetch (k : Core) (r : Result) : (k.addResult r).refetch = k.refetch := rfl
@[simp] theorem Core.addResult_lateSince (k : Core) (r : Result) : (k.addResult r).lateSince = k.lateSince := rfl
@[simp] theorem Core.addResult_fence (k : Core) (r : Result) : (k.addResult r).fence = k.fence := rfl
@[simp] theorem Core.addResult_banks (k : Core) (r : Result) : (k.addResult r).banks = k.banks := rfl
@[simp] theorem Core.addResult_leaving (k : Core) (r : Result) : (k.addResult r).leaving = k.leaving := rfl
@[simp] theorem Core.addResult_traps (k : Core) (r : Result) : (k.addResult r).traps = k.traps := rfl
@[simp] theorem Core.addResult_reports (k : Core) (r : Result) : (k.addResult r).reports = k.reports := rfl
@[simp] theorem Core.addResult_squashed (k : Core) (r : Result) : (k.addResult r).squashed = k.squashed := rfl
@[simp] theorem Core.addResult_frozen (k : Core) (r : Result) : (k.addResult r).frozen = k.frozen := rfl
@[simp] theorem Core.addResult_dbg (k : Core) (r : Result) : (k.addResult r).dbg = k.dbg := rfl
@[simp] theorem Core.addResult_held (k : Core) (r : Result) : (k.addResult r).held = k.held := rfl
@[simp] theorem Core.addResult_mid (k : Core) (r : Result) : (k.addResult r).mid = k.mid := rfl
@[simp] theorem Core.addResult_woke (k : Core) (r : Result) : (k.addResult r).woke = k.woke := rfl
@[simp] theorem Core.addResult_rewrote (k : Core) (r : Result) : (k.addResult r).rewrote = k.rewrote := rfl
@[simp] theorem Core.addResult_shadow (k : Core) (r : Result) : (k.addResult r).shadow = k.shadow := rfl
@[simp] theorem Core.addResult_reissue (k : Core) (r : Result) : (k.addResult r).reissue = k.reissue := rfl
@[simp] theorem Core.addResult_regErr (k : Core) (r : Result) : (k.addResult r).regErr = k.regErr := rfl
@[simp] theorem Core.addResult_ckErr (k : Core) (r : Result) : (k.addResult r).ckErr = k.ckErr := rfl
@[simp] theorem Core.addResult_weakLoc (k : Core) (r : Result) : (k.addResult r).weakLoc = k.weakLoc := rfl
@[simp] theorem Core.addResult_shadowErr (k : Core) (r : Result) : (k.addResult r).shadowErr = k.shadowErr := rfl
@[simp] theorem Core.addResult_ctx (k : Core) (r : Result) (n' : CtxId) : (k.addResult r).ctx n' = k.ctx n' := rfl

end Sys2Proof.Machine
end

