-- ==== Sys2Proof/Laws/Frames.lean ====
section
/-!
SUPPORT. Which operations leave the memories, the tile tags and the poison marks as they are (R54, R167, R172, R329): one lemma per operation and field.
-/

set_option maxRecDepth 4000

namespace Sys2Proof.Machine

/-! ### The package memory -/

theorem foldl_mem {α : Type} (l : List α) (f : State → α → State) (s : State) (h : ∀ s a, (f s a).mem = s.mem) : (l.foldl f s).mem = s.mem := by
  induction l generalizing s with
  | nil => rfl
  | cons a l ih => rw [List.foldl_cons, ih, h]
theorem foldl_fst_mem {α β : Type} (l : List α) (f : State × β → α → State × β) (s : State × β) (h : ∀ s a, (f s a).1.mem = s.1.mem) :
    (l.foldl f s).1.mem = s.1.mem := by
  induction l generalizing s with
  | nil => rfl
  | cons a l ih => rw [List.foldl_cons, ih, h]
@[simp] theorem State.noteLoc_mem : ∀ s a1 a2, (State.noteLoc s a1 a2).mem = s.mem := by
  intros; unfold State.noteLoc; dsimp only; repeat' split
  all_goals simp
@[simp] theorem State.result_mem : ∀ s a1 a2 a3 a4 a5 a6 a7 a8, (State.result s a1 a2 a3 a4 a5 a6 a7 a8).mem = s.mem := by intros; rfl
@[simp] theorem State.resultX_mem : ∀ s a1 a2 a3 a4 a5 a6 a7, (State.resultX s a1 a2 a3 a4 a5 a6 a7).mem = s.mem := by intros; rfl
@[simp] theorem State.noteRegs_mem : ∀ s a1 a2, (State.noteRegs s a1 a2).mem = s.mem := by intros; unfold State.noteRegs; simp
@[simp] theorem State.haltMid_mem : ∀ s a1 a2 a3 a4 a5, (State.haltMid s a1 a2 a3 a4 a5).mem = s.mem := by intros; rfl
theorem State.watched_mem (s : State) (f : Focus) (part : Nat) (write : Bool) (touch : Nat → Bool) (perf : State → State) (h : ∀ s, (perf s).mem = s.mem) :
    (s.watched f part write touch perf).mem = s.mem := by
  unfold State.watched; dsimp only
  repeat' split
  all_goals simp [h]
@[simp] theorem State.watchLate_mem : ∀ s a1 a2 a3 a4 a5 a6 a7, (State.watchLate s a1 a2 a3 a4 a5 a6 a7).mem = s.mem := by intros; unfold State.watchLate; split <;> simp
@[simp] theorem State.resultS_mem : ∀ s a1 a2 a3 a4, (State.resultS s a1 a2 a3 a4).mem = s.mem := by intros; unfold State.resultS; split <;> simp
@[simp] theorem State.jumpTo_mem : ∀ s a1 a2, (State.jumpTo s a1 a2).mem = s.mem := by intros; unfold State.jumpTo; split <;> simp
@[simp] theorem State.branch_mem : ∀ s a1 a2 a3, (State.branch s a1 a2 a3).mem = s.mem := by intros; unfold State.branch; split <;> simp
@[simp] theorem State.load_mem (s : State) (f : Focus) (part align : Nat) (party : Party) (l : LdRec) : (s.load f part align party l).mem = s.mem := by
  unfold State.load
  split
  · simp
  · rw [State.watched_mem _ _ _ _ _ _ (fun _ => by simp)]
@[simp] theorem State.storeAt_mem (s : State) (f : Focus) (part ea align : Nat) (touched : List Nat) (touch : Nat → Bool) (w : WKind) :
    (s.storeAt f part ea align touched touch w).mem = s.mem := by
  unfold State.storeAt
  split
  · simp
  · split
    · simp
    · rw [State.watched_mem _ _ _ _ _ _ (fun _ => by simp)]
@[simp] theorem State.storeW_mem : ∀ s a1 a2 a3 a4 a5 a6, (State.storeW s a1 a2 a3 a4 a5 a6).mem = s.mem := by intros; unfold State.storeW; simp
@[simp] theorem State.noteReads_mem : ∀ s a1 a2, (State.noteReads s a1 a2).mem = s.mem := by
  intros; unfold State.noteReads; dsimp only; repeat' split
  all_goals simp
@[simp] theorem State.noteChunks_mem : ∀ s a1 a2, (State.noteChunks s a1 a2).mem = s.mem := by intros; unfold State.noteChunks; simp
@[simp] theorem State.report_mem : ∀ s a1 a2 a3 a4, (State.report s a1 a2 a3 a4).mem = s.mem := by
  intros; unfold State.report; dsimp only; repeat' split
  all_goals simp
@[simp] theorem State.failAcc_mem : ∀ s a1 a2 a3 a4, (State.failAcc s a1 a2 a3 a4).mem = s.mem := by intros; unfold State.failAcc; split <;> simp
@[simp] theorem State.watchWrites_mem : ∀ s a1 a2 a3, (State.watchWrites s a1 a2 a3).mem = s.mem := by
  intros; unfold State.watchWrites; try dsimp only
  repeat' (first | with_reducible rfl | split | (refine foldl_mem _ _ _ ?_; intro _ _) | (refine foldl_fst_mem _ _ _ ?_; intro _ _) | (rw [foldl_mem]; rotate_left; (intro _ _)) | (rw [foldl_fst_mem]; rotate_left; (intro _ _)) | simp only [State.core_modCore, *] | simp)
@[simp] theorem State.scrambleStacks_mem : ∀ s a1 a2, (State.scrambleStacks s a1 a2).mem = s.mem := by intros; rfl
@[simp] theorem State.otherKeys_mem : ∀ s a1 a2, (State.otherKeys s a1 a2).mem = s.mem := by intros; rfl
@[simp] theorem State.sendTimed_mem : ∀ s a1 a2 a3 a4 a5, (State.sendTimed s a1 a2 a3 a4 a5).mem = s.mem := by
  intros; unfold State.sendTimed; dsimp only; repeat' split
  all_goals simp
@[simp] theorem State.matEnter_mem : ∀ s a1 a2 a3 a4 a5, (State.matEnter s a1 a2 a3 a4 a5).mem = s.mem := by intros; rfl
@[simp] theorem State.planEnter_mem : ∀ s a1 a2, (State.planEnter s a1 a2).mem = s.mem := by intros; rfl
@[simp] theorem State.matTrap_mem : ∀ s a1 a2 a3 a4 a5 a6, (State.matTrap s a1 a2 a3 a4 a5 a6).mem = s.mem := by intros; rfl
@[simp] theorem State.backTrap_mem : ∀ s a1 a2, (State.backTrap s a1 a2).mem = s.mem := by
  intros; unfold State.backTrap; dsimp only; repeat' split
  all_goals simp
theorem State.matRun_mem (s : State) (f : Focus) (p : MatPlan) (also : State → State) (h : ∀ s, (also s).mem = s.mem) : (s.matRun f p also).mem = s.mem := by
  unfold State.matRun
  split
  · simp
  · simp [h]
@[simp] theorem State.modFace_mem : ∀ s a1 a2, (State.modFace s a1 a2).mem = s.mem := by intros; rfl
@[simp] theorem State.setArr_mem : ∀ s a1 a2 a3 a4, (State.setArr s a1 a2 a3 a4).mem = s.mem := by intros; unfold State.setArr; split <;> simp
@[simp] theorem State.setFfmt_mem : ∀ s a1 a2 a3 a4 a5, (State.setFfmt s a1 a2 a3 a4 a5).mem = s.mem := by intros; unfold State.setFfmt; split <;> simp
@[simp] theorem State.mdrDrawn_mem : ∀ s a1 a2, (State.mdrDrawn s a1 a2).mem = s.mem := by intros; unfold State.mdrDrawn; split <;> simp
@[simp] theorem State.rowReady_mem : ∀ s a1 a2 a3 a4 a5 a6 a7 a8 a9, (State.rowReady s a1 a2 a3 a4 a5 a6 a7 a8 a9).mem = s.mem := by intros; unfold State.rowReady; simp
@[simp] theorem State.keepGot_mem : ∀ s a1 a2 a3 a4 a5 a6, (State.keepGot s a1 a2 a3 a4 a5 a6).mem = s.mem := by intros; rfl
@[simp] theorem State.transposeAll_mem : ∀ s a1 a2, (State.transposeAll s a1 a2).mem = s.mem := by intros; unfold State.transposeAll; simp [foldl_mem]
@[simp] theorem State.loadBlock_mem : ∀ s a1 a2 a3 a4, (State.loadBlock s a1 a2 a3 a4).mem = s.mem := by intros; rfl
@[simp] theorem State.rowRead_mem : ∀ s a1 a2 a3 a4 a5, (State.rowRead s a1 a2 a3 a4 a5).mem = s.mem := by
  intros; unfold State.rowRead; dsimp only; repeat' split
  all_goals simp
@[simp] theorem State.drainRow_mem : ∀ s a1 a2 a3, (State.drainRow s a1 a2 a3).mem = s.mem := by
  intros; unfold State.drainRow; dsimp only; repeat' split
  all_goals simp
@[simp] theorem State.requestRows_mem : ∀ s a1 a2, (State.requestRows s a1 a2).mem = s.mem := by
  intros; unfold State.requestRows; try dsimp only
  repeat' (first | with_reducible rfl | split | (refine foldl_mem _ _ _ ?_; intro _ _) | (refine foldl_fst_mem _ _ _ ?_; intro _ _) | (rw [foldl_mem]; rotate_left; (intro _ _)) | (rw [foldl_fst_mem]; rotate_left; (intro _ _)) | simp only [State.core_modCore, *] | simp)
@[simp] theorem State.matBegin_mem : ∀ s a1, (State.matBegin s a1).mem = s.mem := by
  intros; unfold State.matBegin; try dsimp only
  repeat' (first | with_reducible rfl | split | (refine foldl_mem _ _ _ ?_; intro _ _) | (refine foldl_fst_mem _ _ _ ?_; intro _ _) | (rw [foldl_mem]; rotate_left; (intro _ _)) | (rw [foldl_fst_mem]; rotate_left; (intro _ _)) | simp only [State.core_modCore, *] | simp)
@[simp] theorem State.matRequests_mem : ∀ s a1, (State.matRequests s a1).mem = s.mem := by
  intros; unfold State.matRequests; try dsimp only
  repeat' (first | with_reducible rfl | split | (refine foldl_mem _ _ _ ?_; intro _ _) | (refine foldl_fst_mem _ _ _ ?_; intro _ _) | (rw [foldl_mem]; rotate_left; (intro _ _)) | (rw [foldl_fst_mem]; rotate_left; (intro _ _)) | simp only [State.core_modCore, *] | simp)
@[simp] theorem State.landRow_mem : ∀ s a1 a2 a3, (State.landRow s a1 a2 a3).mem = s.mem := by
  intros; unfold State.landRow; try dsimp only
  repeat' (first | with_reducible rfl | split | (refine foldl_mem _ _ _ ?_; intro _ _) | (refine foldl_fst_mem _ _ _ ?_; intro _ _) | (rw [foldl_mem]; rotate_left; (intro _ _)) | (rw [foldl_fst_mem]; rotate_left; (intro _ _)) | simp only [State.core_modCore, *] | simp)
@[simp] theorem State.enqueue_mem : ∀ s a1 a2 a3, (State.enqueue s a1 a2 a3).mem = s.mem := by
  intros; unfold State.enqueue; dsimp only; repeat' split
  all_goals simp
@[simp] theorem State.cmdTrap_mem : ∀ s a1 a2 a3 a4, (State.cmdTrap s a1 a2 a3 a4).mem = s.mem := by intros; rfl
@[simp] theorem State.tableRead_mem : ∀ s a1 a2 a3, (State.tableRead s a1 a2 a3).mem = s.mem := by
  intros; unfold State.tableRead; dsimp only; repeat' split
  all_goals simp
@[simp] theorem State.sendRrd_mem : ∀ s a1 a2 a3, (State.sendRrd s a1 a2 a3).mem = s.mem := by intros; unfold State.sendRrd; simp [foldl_mem]
@[simp] theorem State.memberKnown_mem : ∀ s a1 a2 a3 a4 a5, (State.memberKnown s a1 a2 a3 a4 a5).mem = s.mem := by intros; rfl
@[simp] theorem State.pieceRead_mem : ∀ s a1 a2 a3 a4, (State.pieceRead s a1 a2 a3 a4).mem = s.mem := by
  intros; unfold State.pieceRead; try dsimp only
  repeat' (first | with_reducible rfl | split | (refine foldl_mem _ _ _ ?_; intro _ _) | (refine foldl_fst_mem _ _ _ ?_; intro _ _) | (rw [foldl_mem]; rotate_left; (intro _ _)) | (rw [foldl_fst_mem]; rotate_left; (intro _ _)) | simp only [State.core_modCore, *] | simp)
@[simp] theorem State.endWalks_mem : ∀ s a1, (State.endWalks s a1).mem = s.mem := by
  intros; unfold State.endWalks; try dsimp only
  repeat' (first | with_reducible rfl | split | (refine foldl_mem _ _ _ ?_; intro _ _) | (refine foldl_fst_mem _ _ _ ?_; intro _ _) | (rw [foldl_mem]; rotate_left; (intro _ _)) | (rw [foldl_fst_mem]; rotate_left; (intro _ _)) | simp only [State.core_modCore, *] | simp)
@[simp] theorem State.landWalk_mem : ∀ s a1 a2, (State.landWalk s a1 a2).mem = s.mem := by intros; unfold State.landWalk; split <;> simp
@[simp] theorem State.queuePacket_mem : ∀ s a1 a2 a3, (State.queuePacket s a1 a2 a3).mem = s.mem := by
  intros; unfold State.queuePacket; dsimp only; repeat' split
  all_goals simp
@[simp] theorem State.sendOpen_mem : ∀ s a1 a2 a3 a4, (State.sendOpen s a1 a2 a3 a4).mem = s.mem := by
  intros; unfold State.sendOpen; dsimp only; repeat' split
  all_goals simp
@[simp] theorem State.stamp_mem : ∀ s a1 a2, (State.stamp s a1 a2).2.mem = s.mem := by intros; rfl
@[simp] theorem State.noteSent_mem : ∀ s a1 a2 a3, (State.noteSent s a1 a2 a3).mem = s.mem := by
  intros; unfold State.noteSent; repeat' split
  all_goals simp
@[simp] theorem State.sendHome_mem : ∀ s a1 a2 a3 a4 a5, (State.sendHome s a1 a2 a3 a4 a5).mem = s.mem := by
  intros; unfold State.sendHome; dsimp only; repeat' split
  all_goals simp
@[simp] theorem State.sendFar_mem : ∀ s a1 a2 a3 a4, (State.sendFar s a1 a2 a3 a4).mem = s.mem := by
  intros; unfold State.sendFar; dsimp only; repeat' split
  all_goals simp
@[simp] theorem State.sendReq_mem : ∀ s a1 a2 a3 a4 a5, (State.sendReq s a1 a2 a3 a4 a5).mem = s.mem := by
  intros; unfold State.sendReq; try dsimp only
  repeat' (first | with_reducible rfl | split | (refine foldl_mem _ _ _ ?_; intro _ _) | (refine foldl_fst_mem _ _ _ ?_; intro _ _) | (rw [foldl_mem]; rotate_left; (intro _ _)) | (rw [foldl_fst_mem]; rotate_left; (intro _ _)) | simp only [State.core_modCore, *] | simp)
@[simp] theorem State.leaveHeld_mem : ∀ s a1, (State.leaveHeld s a1).mem = s.mem := by
  intros; unfold State.leaveHeld; dsimp only; repeat' split
  all_goals simp
@[simp] theorem State.takeEntry_mem : ∀ s a1 a2 a3, (State.takeEntry s a1 a2 a3).mem = s.mem := by intros; rfl
@[simp] theorem State.gstData_mem : ∀ s a1 a2 a3, (State.gstData s a1 a2 a3).mem = s.mem := by
  intros; unfold State.gstData; dsimp only; repeat' split
  all_goals simp
@[simp] theorem State.gatomLeave_mem : ∀ s a1, (State.gatomLeave s a1).mem = s.mem := by
  intros; unfold State.gatomLeave; try dsimp only
  repeat' (first | with_reducible rfl | split | (refine foldl_mem _ _ _ ?_; intro _ _) | (refine foldl_fst_mem _ _ _ ?_; intro _ _) | (rw [foldl_mem]; rotate_left; (intro _ _)) | (rw [foldl_fst_mem]; rotate_left; (intro _ _)) | simp only [State.core_modCore, *] | simp)
@[simp] theorem State.noteDone_mem : ∀ s a1 a2, (State.noteDone s a1 a2).mem = s.mem := by intros; rfl
@[simp] theorem State.cancelReqs_mem : ∀ s a1 a2, (State.cancelReqs s a1 a2).mem = s.mem := by
  intros; unfold State.cancelReqs; try dsimp only
  repeat' (first | with_reducible rfl | split | (refine foldl_mem _ _ _ ?_; intro _ _) | (refine foldl_fst_mem _ _ _ ?_; intro _ _) | (rw [foldl_mem]; rotate_left; (intro _ _)) | (rw [foldl_fst_mem]; rotate_left; (intro _ _)) | simp only [State.core_modCore, *] | simp)
@[simp] theorem State.setShadows_mem : ∀ s a1, (State.setShadows s a1).mem = s.mem := by intros; rfl
@[simp] theorem State.setStamps_mem : ∀ s a1 a2 a3, (State.setStamps s a1 a2 a3).mem = s.mem := by intros; rfl
@[simp] theorem State.homeAnswer_mem : ∀ s a1 a2 a3 a4 a5, (State.homeAnswer s a1 a2 a3 a4 a5).mem = s.mem := by intros; unfold State.homeAnswer; split <;> simp
@[simp] theorem State.dropReq_mem : ∀ s a1, (State.dropReq s a1).mem = s.mem := by intros; rfl
@[simp] theorem State.reqDone_mem : ∀ s a1, (State.reqDone s a1).mem = s.mem := by intros; unfold State.reqDone; split <;> simp
@[simp] theorem State.takeReply_mem : ∀ s a1, (State.takeReply s a1).mem = s.mem := by
  intros; unfold State.takeReply; dsimp only; repeat' split
  all_goals simp
@[simp] theorem State.releaseEvent_mem : ∀ s a1 a2 a3 a4, (State.releaseEvent s a1 a2 a3 a4).mem = s.mem := by
  intros; unfold State.releaseEvent; try dsimp only
  repeat' (first | with_reducible rfl | split | (refine foldl_mem _ _ _ ?_; intro _ _) | (refine foldl_fst_mem _ _ _ ?_; intro _ _) | (rw [foldl_mem]; rotate_left; (intro _ _)) | (rw [foldl_fst_mem]; rotate_left; (intro _ _)) | simp only [State.core_modCore, *] | simp)
@[simp] theorem State.acquireEvent_mem : ∀ s a1 a2 a3 a4, (State.acquireEvent s a1 a2 a3 a4).mem = s.mem := by intros; rfl
@[simp] theorem State.fenceTell_mem (s : State) (c : CoreId) (q : FenceSt) : (s.fenceTell c q).mem = s.mem := by
  unfold State.fenceTell
  cases q.rel
  · exact State.modCore_mem _ _ _
  · exact (State.modCore_mem _ _ _).trans (State.releaseEvent_mem _ _ _ _ _)
@[simp] theorem State.fenceDone_mem : ∀ s a1 a2, (State.fenceDone s a1 a2).mem = s.mem := by intros; unfold State.fenceDone; split <;> simp
@[simp] theorem State.fenceStep_mem : ∀ s a1, (State.fenceStep s a1).mem = s.mem := by
  intros; unfold State.fenceStep; dsimp only; repeat' split
  all_goals simp
@[simp] theorem State.fbRead_mem : ∀ s a1 a2 a3 a4, (State.fbRead s a1 a2 a3 a4).mem = s.mem := by intros; unfold State.fbRead; simp
@[simp] theorem State.fbUpdate_mem : ∀ s a1 a2 a3 a4 a5, (State.fbUpdate s a1 a2 a3 a4 a5).mem = s.mem := by intros; unfold State.fbUpdate; simp
@[simp] theorem State.badSkip_mem : ∀ s a1 a2, (State.badSkip s a1 a2).mem = s.mem := by intros; rfl
@[simp] theorem State.haulWait_mem : ∀ s a1 a2, (State.haulWait s a1 a2).mem = s.mem := by intros; unfold State.haulWait; split <;> simp
@[simp] theorem State.haulUpdate_mem : ∀ s a1 a2 a3 a4 a5 a6 a7, (State.haulUpdate s a1 a2 a3 a4 a5 a6 a7).mem = s.mem := by intros; unfold State.haulUpdate; split <;> simp
@[simp] theorem State.resultY_mem : ∀ s a1 a2 a3 a4, (State.resultY s a1 a2 a3 a4).mem = s.mem := by intros; rfl
@[simp] theorem State.dropHaul_mem : ∀ s a1 a2, (State.dropHaul s a1 a2).mem = s.mem := by intros; rfl
@[simp] theorem State.putHaul_mem : ∀ s a1 a2 a3, (State.putHaul s a1 a2 a3).mem = s.mem := by intros; rfl
@[simp] theorem State.wakeAt_mem : ∀ s a1 a2 a3, (State.wakeAt s a1 a2 a3).mem = s.mem := by intros; rfl
@[simp] theorem State.wakeOn_mem : ∀ s a1 a2 a3, (State.wakeOn s a1 a2 a3).mem = s.mem := by intros; rfl
@[simp] theorem State.failHaul_mem : ∀ s a1 a2, (State.failHaul s a1 a2).mem = s.mem := by intros; rfl
@[simp] theorem State.capture_mem : ∀ s a1 a2 a3, (State.capture s a1 a2 a3).mem = s.mem := by intros; rfl
@[simp] theorem State.deliver_mem : ∀ s a1 a2 a3 a4 a5 a6, (State.deliver s a1 a2 a3 a4 a5 a6).mem = s.mem := by
  intros; unfold State.deliver; dsimp only; repeat' split
  all_goals simp
@[simp] theorem State.haulRead_mem : ∀ s a1 a2 a3, (State.haulRead s a1 a2 a3).mem = s.mem := by intros; unfold State.haulRead; split <;> simp
@[simp] theorem State.haulApply_mem : ∀ s a1 a2 a3, (State.haulApply s a1 a2 a3).mem = s.mem := by
  intros; unfold State.haulApply; dsimp only; repeat' split
  all_goals simp
@[simp] theorem State.haulCheck_mem : ∀ s a1 a2 a3, (State.haulCheck s a1 a2 a3).mem = s.mem := by
  intros; unfold State.haulCheck; repeat' split
  all_goals simp
@[simp] theorem State.haulBoard_mem : ∀ s a1 a2 a3, (State.haulBoard s a1 a2 a3).mem = s.mem := by
  intros; unfold State.haulBoard; dsimp only; repeat' split
  all_goals simp
@[simp] theorem State.tryArrive_mem : ∀ s a1 a2, (State.tryArrive s a1 a2).mem = s.mem := by
  intros; unfold State.tryArrive; dsimp only; repeat' split
  all_goals simp
@[simp] theorem State.barDone_mem (s : State) (c : CoreId) (k : CtxId) (level tick : Nat) : (s.barDone c k level tick).mem = s.mem := by
  unfold State.barDone
  dsimp only
  generalize hx : s.modCtx c k _ = x
  have h : (x.releaseEvent c k (barScope level) tick).mem = s.mem := by rw [State.releaseEvent_mem, ← hx, State.modCtx_mem]
  generalize x.releaseEvent c k (barScope level) tick = u at h
  split
  · rw [State.wakeAt_mem, State.acquireEvent_mem, h]
  · rw [State.modCtx_mem, h]
@[simp] theorem State.barWake_mem (s : State) (c : CoreId) (lk tick : Nat) : (s.barWake c lk tick).mem = s.mem := by
  unfold State.barWake
  refine foldl_mem _ _ s fun s i => ?_
  dsimp only
  generalize s.ctx c i = x
  split
  · split
    · exact State.barDone_mem _ _ _ _ _
    · rfl
  · rfl
@[simp] theorem State.barMet_mem : ∀ s a1 a2 a3, (State.barMet s a1 a2 a3).mem = s.mem := by
  intros; unfold State.barMet; dsimp only; repeat' split
  all_goals simp
@[simp] theorem State.seeBits_mem : ∀ s a1 a2 a3 a4, (State.seeBits s a1 a2 a3 a4).mem = s.mem := by intros; rfl
@[simp] theorem State.barInvert_mem : ∀ s a1 a2 a3 a4, (State.barInvert s a1 a2 a3 a4).mem = s.mem := by
  intros; unfold State.barInvert; dsimp only; repeat' split
  all_goals simp
@[simp] theorem State.barCheck_mem : ∀ s a1 a2 a3, (State.barCheck s a1 a2 a3).mem = s.mem := by
  intros; unfold State.barCheck; dsimp only; repeat' split
  all_goals simp
@[simp] theorem State.passUser_mem (s : State) (c : CoreId) (n : Nat) : (s.passUser c n).mem = s.mem := by
  have h1 : ∀ (l : List HaulOp) (s : State), (l.foldl (fun s u => s.haulRead c n u) s).mem = s.mem := fun l s => foldl_mem l _ s fun s u => by simp
  have h2 : ∀ (l : List HaulOp) (s : State), (l.foldl (fun s u => s.haulApply c n u) s).mem = s.mem := fun l s => foldl_mem l _ s fun s u => by simp
  have h3 : ∀ (l : List HaulOp) (s : State), (l.foldl (fun s u => s.haulCheck c n u) s).mem = s.mem := fun l s => foldl_mem l _ s fun s u => by simp
  unfold State.passUser
  generalize hl : (fun (s : State) (u : HaulOp) => if s.now ≤ u.after + 360 then s.haulBoard c n u else s) = g
  have h4 : ∀ (l : List HaulOp) (s : State), (l.foldl g s).mem = s.mem := fun l s => foldl_mem l _ s fun s u => by rw [← hl]; dsimp only; split <;> simp
  simp only [h1, h2, h3, h4]
@[simp] theorem State.passSystem_mem : ∀ s a1 a2, (State.passSystem s a1 a2).mem = s.mem := by intros; unfold State.passSystem; simp [foldl_mem]
@[simp] theorem State.fbDone_mem : ∀ s a1 a2, (State.fbDone s a1 a2).mem = s.mem := by
  intros; unfold State.fbDone; repeat' split
  all_goals simp
@[simp] theorem State.loopPush_mem : ∀ s a1 a2, (State.loopPush s a1 a2).mem = s.mem := by
  intros; unfold State.loopPush; dsimp only; repeat' split
  all_goals simp
@[simp] theorem State.loopBreak_mem : ∀ s a1, (State.loopBreak s a1).mem = s.mem := by intros; unfold State.loopBreak; split <;> simp
@[simp] theorem State.tryLock_mem : ∀ s a1 a2 a3, (State.tryLock s a1 a2 a3).2.mem = s.mem := by
  intros; unfold State.tryLock; dsimp only; repeat' split
  all_goals simp
@[simp] theorem State.retryLocks_mem : ∀ s a1, (State.retryLocks s a1).mem = s.mem := by
  intros; unfold State.retryLocks; try dsimp only
  repeat' (first | with_reducible rfl | split | (refine foldl_mem _ _ _ ?_; intro _ _) | (refine foldl_fst_mem _ _ _ ?_; intro _ _) | (rw [foldl_mem]; rotate_left; (intro _ _)) | (rw [foldl_fst_mem]; rotate_left; (intro _ _)) | simp only [State.core_modCore, *] | simp)
@[simp] theorem State.decideAbort_mem : ∀ s a1 a2 a3 a4, (State.decideAbort s a1 a2 a3 a4).mem = s.mem := by intros; rfl
@[simp] theorem State.leaveEntry_mem : ∀ s a1 a2 a3 a4 a5 a6, (State.leaveEntry s a1 a2 a3 a4 a5 a6).mem = s.mem := by
  intros; unfold State.leaveEntry; dsimp only; repeat' split
  all_goals simp
@[simp] theorem State.release_mem : ∀ s a1 a2 a3 a4, (State.release s a1 a2 a3 a4).mem = s.mem := by
  intros; unfold State.release; try dsimp only
  repeat' (first | with_reducible rfl | split | (refine foldl_mem _ _ _ ?_; intro _ _) | (refine foldl_fst_mem _ _ _ ?_; intro _ _) | (rw [foldl_mem]; rotate_left; (intro _ _)) | (rw [foldl_fst_mem]; rotate_left; (intro _ _)) | simp only [State.core_modCore, *] | simp)
@[simp] theorem State.sendLeaving_mem : ∀ s a1, (State.sendLeaving s a1).mem = s.mem := by intros; unfold State.sendLeaving; simp [foldl_mem]
@[simp] theorem State.landMembers_mem : ∀ s a1, (State.landMembers s a1).mem = s.mem := by intros; unfold State.landMembers; simp [foldl_mem]
@[simp] theorem State.loadDone_mem : ∀ s a1 a2 a3, (State.loadDone s a1 a2 a3).mem = s.mem := by
  intros; unfold State.loadDone; dsimp only; repeat' split
  all_goals simp
@[simp] theorem State.matRow_mem : ∀ s a1 a2 a3 a4, (State.matRow s a1 a2 a3 a4).mem = s.mem := by
  intros; unfold State.matRow; repeat' split
  all_goals simp
@[simp] theorem State.replyHome_mem : ∀ s a1 a2 a3 a4, (State.replyHome s a1 a2 a3 a4).mem = s.mem := by intros; unfold State.replyHome; split <;> simp
@[simp] theorem State.replyTo_mem : ∀ s a1 a2 a3, (State.replyTo s a1 a2 a3).mem = s.mem := by
  intros; unfold State.replyTo; repeat' split
  all_goals simp
@[simp] theorem State.amoStage_mem : ∀ s a1 a2 a3 a4, (State.amoStage s a1 a2 a3 a4).mem = s.mem := by
  intros; unfold State.amoStage; dsimp only; repeat' split
  all_goals simp
@[simp] theorem State.readAcc_mem : ∀ s a1 a2, (State.readAcc s a1 a2).mem = s.mem := by
  intros; unfold State.readAcc; dsimp only; repeat' split
  all_goals simp
@[simp] theorem State.memberDone_mem : ∀ s a1 a2 a3, (State.memberDone s a1 a2 a3).mem = s.mem := by
  intros; unfold State.memberDone; repeat' split
  all_goals simp
@[simp] theorem State.startRefetch_mem : ∀ s a1 a2, (State.startRefetch s a1 a2).mem = s.mem := by
  intros; unfold State.startRefetch; dsimp only; repeat' split
  all_goals simp
@[simp] theorem State.openCycle_mem : ∀ s a1, (State.openCycle s a1).mem = s.mem := by intros; unfold State.openCycle; simp
@[simp] theorem State.haltBoundary_mem (s : State) (c : CoreId) (s1 : State) (r : Nat) : (s.haltBoundary c s1 r).mem = s.mem := rfl

@[simp] theorem State.beginPeriod_mem (s : State) (c : CoreId) : (s.beginPeriod c).mem = s.mem := by
  unfold State.beginPeriod
  generalize hu : ((s.endWalks c).landMembers c).modCore c _ = u
  have h : u.mem = s.mem := by rw [← hu]; simp
  dsimp only
  repeat' split
  all_goals simp [h]
@[simp] theorem State.settleClaims_mem : ∀ s a1 a2, (State.settleClaims s a1 a2).mem = s.mem := by intros; rfl
@[simp] theorem State.takeCheckpoint_mem : ∀ s a1, (State.takeCheckpoint s a1).mem = s.mem := by intros; rfl
@[simp] theorem State.yieldTrap_mem : ∀ s a1, (State.yieldTrap s a1).mem = s.mem := by intros; rfl
@[simp] theorem State.yieldRelease_mem : ∀ s a1, (State.yieldRelease s a1).mem = s.mem := by
  intros; unfold State.yieldRelease; dsimp only; repeat' split
  all_goals simp
@[simp] theorem State.startBundle_mem : ∀ s a1 a2 a3, (State.startBundle s a1 a2 a3).mem = s.mem := by intros; unfold State.startBundle; simp
@[simp] theorem State.openIssue_mem : ∀ s a1, (State.openIssue s a1).mem = s.mem := by
  intros; unfold State.openIssue; dsimp only; repeat' split
  all_goals simp
@[simp] theorem State.endBundle_mem : ∀ s a1, (State.endBundle s a1).mem = s.mem := by
  intros; unfold State.endBundle; dsimp only; repeat' split
  all_goals simp
@[simp] theorem State.profile_mem : ∀ s a1, (State.profile s a1).mem = s.mem := by
  intros; unfold State.profile; dsimp only; repeat' split
  all_goals simp
@[simp] theorem State.closeCycle_mem : ∀ s a1, (State.closeCycle s a1).mem = s.mem := by intros; unfold State.closeCycle; simp
@[simp] theorem State.flood_mem : ∀ s a1, (State.flood s a1).mem = s.mem := by
  intros; unfold State.flood; try dsimp only
  repeat' (first | with_reducible rfl | split | (refine foldl_mem _ _ _ ?_; intro _ _) | (refine foldl_fst_mem _ _ _ ?_; intro _ _) | (rw [foldl_mem]; rotate_left; (intro _ _)) | (rw [foldl_fst_mem]; rotate_left; (intro _ _)) | simp only [State.core_modCore, *] | simp)
@[simp] theorem State.floodLoss_mem : ∀ s a1, (State.floodLoss s a1).mem = s.mem := by intros; unfold State.floodLoss; split <;> simp
@[simp] theorem State.purgeTraps_mem : ∀ s a1, (State.purgeTraps s a1).mem = s.mem := by intros; rfl
@[simp] theorem State.unclaim_mem : ∀ s a1 a2 a3 a4, (State.unclaim s a1 a2 a3 a4).mem = s.mem := by intros; rfl
@[simp] theorem State.dropClaims_mem : ∀ s a1 a2, (State.dropClaims s a1 a2).mem = s.mem := by
  intros; unfold State.dropClaims; try dsimp only
  repeat' (first | with_reducible rfl | split | (refine foldl_mem _ _ _ ?_; intro _ _) | (refine foldl_fst_mem _ _ _ ?_; intro _ _) | (rw [foldl_mem]; rotate_left; (intro _ _)) | (rw [foldl_fst_mem]; rotate_left; (intro _ _)) | simp only [State.core_modCore, *] | simp)
@[simp] theorem State.dropWire_mem : ∀ s a1, (State.dropWire s a1).mem = s.mem := by intros; rfl
@[simp] theorem State.discard_mem : ∀ s a1 a2 a3, (State.discard s a1 a2 a3).mem = s.mem := by intros; unfold State.discard; simp
@[simp] theorem State.rollBack_mem : ∀ s a1 a2 a3, (State.rollBack s a1 a2 a3).mem = s.mem := by intros; unfold State.rollBack; simp
@[simp] theorem State.stopOn_mem (s : State) (c : CoreId) (lk : Nat) : (s.stopOn c lk).mem = s.mem := by
  unfold State.stopOn
  generalize hg : (fun (s : State) (i : CtxId) => if (s.ctx c i).lk = some lk then _ else s) = g
  have h4 : ∀ (l : List CtxId) (s : State), (l.foldl g s).mem = s.mem := fun l s => foldl_mem l _ s fun s u => by rw [← hg]; dsimp only; split <;> simp
  simp only [State.modCore_mem, h4]
@[simp] theorem State.stopLaunch_mem (s : State) (lk : Nat) : (s.stopLaunch lk).mem = s.mem := by
  unfold State.stopLaunch
  generalize List.finRange 324 = l
  simp only [State.modLaunch_mem]
  exact foldl_mem l _ s fun s c => by split <;> simp
@[simp] theorem State.tellAbort_mem : ∀ s a1, (State.tellAbort s a1).mem = s.mem := by
  intros; unfold State.tellAbort; repeat' split
  all_goals simp
@[simp] theorem State.badCmd_mem : ∀ s a1, (State.badCmd s a1).mem = s.mem := by intros; rfl
@[simp] theorem State.prune_mem : ∀ s a1, (State.prune s a1).mem = s.mem := by intros; rfl
@[simp] theorem State.dequeue_mem : ∀ s a1, (State.dequeue s a1).mem = s.mem := by intros; unfold State.dequeue; split <;> simp
@[simp] theorem State.dropVector_mem : ∀ s a1 a2, (State.dropVector s a1 a2).mem = s.mem := by intros; rfl
@[simp] theorem State.recordEnd_mem : ∀ s a1 a2 a3, (State.recordEnd s a1 a2 a3).mem = s.mem := by
  intros; unfold State.recordEnd; dsimp only; repeat' split
  all_goals simp
@[simp] theorem State.clearShift_mem : ∀ s a1, (State.clearShift s a1).mem = s.mem := by
  intros; unfold State.clearShift; repeat' split
  all_goals simp
@[simp] theorem State.askYield_mem : ∀ s a1, (State.askYield s a1).mem = s.mem := by
  intros; unfold State.askYield; repeat' split
  all_goals simp
@[simp] theorem State.resume_mem : ∀ s a1, (State.resume s a1).mem = s.mem := by
  intros; unfold State.resume; try dsimp only
  repeat' (first | with_reducible rfl | split | (refine foldl_mem _ _ _ ?_; intro _ _) | (refine foldl_fst_mem _ _ _ ?_; intro _ _) | (rw [foldl_mem]; rotate_left; (intro _ _)) | (rw [foldl_fst_mem]; rotate_left; (intro _ _)) | simp only [State.core_modCore, *] | simp)
@[simp] theorem State.swapResume_mem (s : State) (part : Nat) : (s.swapResume part).mem = s.mem := by
  unfold State.swapResume
  split
  · cases s.resumable part [] <;> simp
  · rfl
@[simp] theorem State.startRec_mem : ∀ s a1 a2, (State.startRec s a1 a2).mem = s.mem := by intros; unfold State.startRec; split <;> simp
@[simp] theorem State.retireCore_mem : ∀ s a1 a2 a3, (State.retireCore s a1 a2 a3).mem = s.mem := by intros; unfold State.retireCore; simp
@[simp] theorem State.freeSkips_mem : ∀ s a1, (State.freeSkips s a1).mem = s.mem := by
  intros; unfold State.freeSkips; try dsimp only
  repeat' (first | with_reducible rfl | split | (refine foldl_mem _ _ _ ?_; intro _ _) | (refine foldl_fst_mem _ _ _ ?_; intro _ _) | (rw [foldl_mem]; rotate_left; (intro _ _)) | (rw [foldl_fst_mem]; rotate_left; (intro _ _)) | simp only [State.core_modCore, *] | simp)
@[simp] theorem State.saveCore_mem (s : State) (lk : Nat) (keep : Bool) (c : CoreId) : (s.saveCore lk keep c).mem = s.mem := by
  unfold State.saveCore
  dsimp only
  rw [State.tickFree_mem, State.modCore_mem, State.noteLoc_mem]
  split <;> simp
@[simp] theorem State.putBits_mem : ∀ s a1 a2, (State.putBits s a1 a2).mem = s.mem := by intros; unfold State.putBits; split <;> simp
@[simp] theorem State.unparkDone_mem : ∀ s a1, (State.unparkDone s a1).mem = s.mem := by
  intros; unfold State.unparkDone; dsimp only; repeat' split
  all_goals simp
@[simp] theorem State.denied_mem : ∀ s, (State.denied s).mem = s.mem := by intros; rfl
@[simp] theorem State.swapRefused_mem : ∀ s a1 a2, (State.swapRefused s a1 a2).mem = s.mem := by intros; rfl
@[simp] theorem State.rejudgeYields_mem : ∀ s a1, (State.rejudgeYields s a1).mem = s.mem := by
  intros; unfold State.rejudgeYields; try dsimp only
  repeat' (first | with_reducible rfl | split | (refine foldl_mem _ _ _ ?_; intro _ _) | (refine foldl_fst_mem _ _ _ ?_; intro _ _) | (rw [foldl_mem]; rotate_left; (intro _ _)) | (rw [foldl_fst_mem]; rotate_left; (intro _ _)) | simp only [State.core_modCore, *] | simp)
@[simp] theorem State.fixYields_mem : ∀ s, (State.fixYields s).mem = s.mem := by
  intros; unfold State.fixYields; try dsimp only
  repeat' (first | with_reducible rfl | split | (refine foldl_mem _ _ _ ?_; intro _ _) | (refine foldl_fst_mem _ _ _ ?_; intro _ _) | (rw [foldl_mem]; rotate_left; (intro _ _)) | (rw [foldl_fst_mem]; rotate_left; (intro _ _)) | simp only [State.core_modCore, *] | simp)
@[simp] theorem State.takeImage_mem : ∀ s a1 a2 a3, (State.takeImage s a1 a2 a3).mem = s.mem := by intros; unfold State.takeImage; split <;> simp
@[simp] theorem State.setBusy_mem : ∀ s, (State.setBusy s).mem = s.mem := by intros; rfl
@[simp] theorem State.rekeyDie_mem : ∀ s a1 a2, (State.rekeyDie s a1 a2).mem = s.mem := by
  intros; unfold State.rekeyDie; dsimp only; repeat' split
  all_goals simp
@[simp] theorem State.dropCached_mem : ∀ s a1 a2 a3, (State.dropCached s a1 a2 a3).mem = s.mem := by intros; unfold State.dropCached; split <;> simp
@[simp] theorem State.wcinvStep_mem : ∀ s a1, (State.wcinvStep s a1).mem = s.mem := by intros; unfold State.wcinvStep; simp [foldl_mem]
@[simp] theorem State.markStale_mem : ∀ s a1 a2 a3, (State.markStale s a1 a2 a3).mem = s.mem := by
  intros; unfold State.markStale; try dsimp only
  repeat' (first | with_reducible rfl | split | (refine foldl_mem _ _ _ ?_; intro _ _) | (refine foldl_fst_mem _ _ _ ?_; intro _ _) | (rw [foldl_mem]; rotate_left; (intro _ _)) | (rw [foldl_fst_mem]; rotate_left; (intro _ _)) | simp only [State.core_modCore, *] | simp)
@[simp] theorem State.bsinvStep_mem : ∀ s, (State.bsinvStep s).mem = s.mem := by
  intros; unfold State.bsinvStep; try dsimp only
  repeat' (first | with_reducible rfl | split | (refine foldl_mem _ _ _ ?_; intro _ _) | (refine foldl_fst_mem _ _ _ ?_; intro _ _) | (rw [foldl_mem]; rotate_left; (intro _ _)) | (rw [foldl_fst_mem]; rotate_left; (intro _ _)) | simp only [State.core_modCore, *] | simp)
@[simp] theorem State.acknowledge_mem : ∀ s, (State.acknowledge s).mem = s.mem := by intros; unfold State.acknowledge; simp [foldl_mem]
@[simp] theorem State.clearShadows_mem : ∀ s a1, (State.clearShadows s a1).mem = s.mem := by intros; rfl
@[simp] theorem State.writePf_mem : ∀ s a1 a2, (State.writePf s a1 a2).mem = s.mem := by
  intros; unfold State.writePf; dsimp only; repeat' split
  all_goals simp
@[simp] theorem State.dbgRead_mem : ∀ s a1 a2 a3 a4 a5, (State.dbgRead s a1 a2 a3 a4 a5).1.mem = s.mem := by
  intros; unfold State.dbgRead; dsimp only; repeat' split
  all_goals simp
@[simp] theorem State.dbgEnd_mem : ∀ s a1 a2, (State.dbgEnd s a1 a2).mem = s.mem := by intros; rfl
@[simp] theorem State.dbgResult_mem : ∀ s a1 a2 a3 a4, (State.dbgResult s a1 a2 a3 a4).mem = s.mem := by intros; unfold State.dbgResult; split <;> simp
@[simp] theorem State.dbgReply_mem : ∀ s a1 a2 a3, (State.dbgReply s a1 a2 a3).mem = s.mem := by
  intros; unfold State.dbgReply; dsimp only; repeat' split
  all_goals simp
@[simp] theorem State.closeDebug_mem : ∀ s a1 a2, (State.closeDebug s a1 a2).mem = s.mem := by
  intros; unfold State.closeDebug; try dsimp only
  repeat' (first | with_reducible rfl | split | (refine foldl_mem _ _ _ ?_; intro _ _) | (refine foldl_fst_mem _ _ _ ?_; intro _ _) | (rw [foldl_mem]; rotate_left; (intro _ _)) | (rw [foldl_fst_mem]; rotate_left; (intro _ _)) | simp only [State.core_modCore, *] | simp)
@[simp] theorem State.closePolicy_mem : ∀ s a1, (State.closePolicy s a1).mem = s.mem := by intros; unfold State.closePolicy; simp
@[simp] theorem State.countDrop_mem : ∀ s a1, (State.countDrop s a1).mem = s.mem := by intros; unfold State.countDrop; split <;> simp
@[simp] theorem State.endRun_mem : ∀ s a1, (State.endRun s a1).mem = s.mem := by
  intros; unfold State.endRun; try dsimp only
  repeat' (first | with_reducible rfl | split | (refine foldl_mem _ _ _ ?_; intro _ _) | (refine foldl_fst_mem _ _ _ ?_; intro _ _) | (rw [foldl_mem]; rotate_left; (intro _ _)) | (rw [foldl_fst_mem]; rotate_left; (intro _ _)) | simp only [State.core_modCore, *] | simp)
@[simp] theorem State.modFlow_mem : ∀ s a1 a2 a3, (State.modFlow s a1 a2 a3).mem = s.mem := by intros; rfl
@[simp] theorem State.sendFlit_mem : ∀ s a1 a2 a3 a4 a5, (State.sendFlit s a1 a2 a3 a4 a5).mem = s.mem := by
  intros; unfold State.sendFlit; dsimp only; repeat' split
  all_goals simp
@[simp] theorem State.flowReads_mem : ∀ s a1 a2 a3, (State.flowReads s a1 a2 a3).1.mem = s.mem := by
  intros; unfold State.flowReads; try dsimp only
  repeat' (first | with_reducible rfl | split | (refine foldl_mem _ _ _ ?_; intro _ _) | (refine foldl_fst_mem _ _ _ ?_; intro _ _) | (rw [foldl_mem]; rotate_left; (intro _ _)) | (rw [foldl_fst_mem]; rotate_left; (intro _ _)) | simp only [State.core_modCore, *] | simp)
@[simp] theorem State.runReads_mem : ∀ s a1 a2, (State.runReads s a1 a2).1.mem = s.mem := by intros; unfold State.runReads; simp [foldl_fst_mem]
@[simp] theorem State.setFault_mem : ∀ s a1, (State.setFault s a1).mem = s.mem := by intros; unfold State.setFault; split <;> simp
@[simp] theorem State.linkFault_mem : ∀ s a1 a2, (State.linkFault s a1 a2).mem = s.mem := by
  intros; unfold State.linkFault; dsimp only; repeat' split
  all_goals simp
@[simp] theorem State.countInc_mem : ∀ s a1, (State.countInc s a1).mem = s.mem := by intros; rfl
@[simp] theorem State.takeFlit_mem : ∀ s a1 a2 a3 a4 a5 a6 a7 a8, (State.takeFlit s a1 a2 a3 a4 a5 a6 a7 a8).mem = s.mem := by
  intros; unfold State.takeFlit; repeat' split
  all_goals simp
@[simp] theorem State.hearArrival_mem : ∀ s a1 a2 a3 a4 a5, (State.hearArrival s a1 a2 a3 a4 a5).mem = s.mem := by
  intros; unfold State.hearArrival; dsimp only; repeat' split
  all_goals simp
@[simp] theorem State.sendBarrier_mem : ∀ s a1 a2 a3, (State.sendBarrier s a1 a2 a3).mem = s.mem := by
  intros; unfold State.sendBarrier; try dsimp only
  repeat' (first | with_reducible rfl | split | (refine foldl_mem _ _ _ ?_; intro _ _) | (refine foldl_fst_mem _ _ _ ?_; intro _ _) | (rw [foldl_mem]; rotate_left; (intro _ _)) | (rw [foldl_fst_mem]; rotate_left; (intro _ _)) | simp only [State.core_modCore, *] | simp)
@[simp] theorem State.takeBarrier_mem : ∀ s a1 a2 a3, (State.takeBarrier s a1 a2 a3).mem = s.mem := by
  intros; unfold State.takeBarrier; dsimp only; repeat' split
  all_goals simp
@[simp] theorem State.countBad_mem : ∀ s a1, (State.countBad s a1).mem = s.mem := by intros; unfold State.countBad; split <;> simp
@[simp] theorem State.takeRequest_mem : ∀ s a1, (State.takeRequest s a1).mem = s.mem := by intros; unfold State.takeRequest; split <;> simp
@[simp] theorem State.farRequest_mem : ∀ s a1 a2 a3 a4 a5 a6 a7 a8 a9 a10, (State.farRequest s a1 a2 a3 a4 a5 a6 a7 a8 a9 a10).mem = s.mem := by intros; unfold State.farRequest; simp
@[simp] theorem State.farReply_mem : ∀ s a1 a2 a3 a4, (State.farReply s a1 a2 a3 a4).mem = s.mem := by intros; rfl
@[simp] theorem State.farApplied_mem : ∀ s a1 a2 a3, (State.farApplied s a1 a2 a3).mem = s.mem := by intros; rfl
@[simp] theorem State.heardBy_mem : ∀ s a1 a2 a3, (State.heardBy s a1 a2 a3).mem = s.mem := by
  intros; unfold State.heardBy; dsimp only; repeat' split
  all_goals simp
@[simp] theorem State.sendQueued_mem : ∀ s, (State.sendQueued s).mem = s.mem := by
  intros; unfold State.sendQueued; try dsimp only
  repeat' (first | with_reducible rfl | split | (refine foldl_mem _ _ _ ?_; intro _ _) | (refine foldl_fst_mem _ _ _ ?_; intro _ _) | (rw [foldl_mem]; rotate_left; (intro _ _)) | (rw [foldl_fst_mem]; rotate_left; (intro _ _)) | simp only [State.core_modCore, *] | simp)
@[simp] theorem State.askTime_mem : ∀ s, (State.askTime s).mem = s.mem := by
  intros; unfold State.askTime; repeat' split
  all_goals simp
@[simp] theorem State.podTick_mem : ∀ s a1, (State.podTick s a1).mem = s.mem := by
  intros; unfold State.podTick; dsimp only; repeat' split
  all_goals simp
@[simp] theorem State.linkStep_mem (s : State) : s.linkStep.mem = s.mem := by
  unfold State.linkStep
  dsimp only
  rw [State.sendQueued_mem, State.askTime_mem]
  exact foldl_mem _ _ s fun s l => by split <;> simp
@[simp] theorem State.respond_mem : ∀ s a1 a2 a3, (State.respond s a1 a2 a3).mem = s.mem := by intros; rfl
@[simp] theorem State.spdmError_mem : ∀ s a1 a2, (State.spdmError s a1 a2).mem = s.mem := by intros; rfl
@[simp] theorem State.spdmPlain_mem : ∀ s a1 a2 a3 a4, (State.spdmPlain s a1 a2 a3 a4).mem = s.mem := by intros; rfl
@[simp] theorem State.setSession_mem : ∀ s a1 a2, (State.setSession s a1 a2).mem = s.mem := by intros; rfl
@[simp] theorem State.leaveRun_mem : ∀ s a1, (State.leaveRun s a1).mem = s.mem := by intros; unfold State.leaveRun; split <;> simp
@[simp] theorem State.tdispTo_mem (s : State) (n : Fin 9) (t : Tdisp) : (s.tdispTo n t).mem = s.mem := by
  unfold State.tdispTo
  dsimp only
  rw [State.modVf_mem]
  split
  · simp
  · rfl
@[simp] theorem State.senseHeat_mem : ∀ s a1 a2 a3, (State.senseHeat s a1 a2 a3).mem = s.mem := by
  intros; unfold State.senseHeat; dsimp only; repeat' split
  all_goals simp
@[simp] theorem State.countUncor_mem : ∀ s a1 a2, (State.countUncor s a1 a2).mem = s.mem := by intros; rfl
@[simp] theorem State.poisonWords_mem : ∀ s a1, (State.poisonWords s a1).mem = s.mem := by intros; rfl
@[simp] theorem State.strikePad_mem : ∀ s a1 a2 a3, (State.strikePad s a1 a2 a3).mem = s.mem := by
  intros; unfold State.strikePad; dsimp only; repeat' split
  all_goals simp
@[simp] theorem State.strikeLoc_mem : ∀ s a1 a2 a3 a4, (State.strikeLoc s a1 a2 a3 a4).mem = s.mem := by intros; unfold State.strikeLoc; split <;> simp
@[simp] theorem State.drawn_mem : ∀ s a1 a2, (State.drawn s a1 a2).mem = s.mem := by intros; rfl
@[simp] theorem State.resultV_mem : ∀ s a1 a2 a3 a4 a5, (State.resultV s a1 a2 a3 a4 a5).mem = s.mem := by intros; rfl
@[simp] theorem State.clearStamps_mem : ∀ s a1 a2, (State.clearStamps s a1 a2).mem = s.mem := by intros; rfl
@[simp] theorem State.takeAnswer_mem : ∀ s a1 a2 a3 a4, (State.takeAnswer s a1 a2 a3 a4).mem = s.mem := by
  intros; unfold State.takeAnswer; dsimp only; repeat' split
  all_goals simp
@[simp] theorem State.setLink_mem : ∀ s a1 a2, (State.setLink s a1 a2).mem = s.mem := by intros; unfold State.setLink; split <;> simp
@[simp] theorem State.enterPackage_mem : ∀ s, (State.enterPackage s).mem = s.mem := by intros; unfold State.enterPackage; simp
@[simp] theorem State.endTick_mem : ∀ s, (State.endTick s).mem = s.mem := by intros; rfl
@[simp] theorem State.withFetchWord_mem : ∀ s a1 a2, (State.withFetchWord s a1 a2).mem = s.mem := by intros; rfl

/-! ### The host memory -/

theorem foldl_hostMem {α : Type} (l : List α) (f : State → α → State) (s : State) (h : ∀ s a, (f s a).hostMem = s.hostMem) : (l.foldl f s).hostMem = s.hostMem := by
  induction l generalizing s with
  | nil => rfl
  | cons a l ih => rw [List.foldl_cons, ih, h]
theorem foldl_fst_hostMem {α β : Type} (l : List α) (f : State × β → α → State × β) (s : State × β) (h : ∀ s a, (f s a).1.hostMem = s.1.hostMem) :
    (l.foldl f s).1.hostMem = s.1.hostMem := by
  induction l generalizing s with
  | nil => rfl
  | cons a l ih => rw [List.foldl_cons, ih, h]
@[simp] theorem State.noteLoc_hostMem : ∀ s a1 a2, (State.noteLoc s a1 a2).hostMem = s.hostMem := by
  intros; unfold State.noteLoc; dsimp only; repeat' split
  all_goals simp
@[simp] theorem State.result_hostMem : ∀ s a1 a2 a3 a4 a5 a6 a7 a8, (State.result s a1 a2 a3 a4 a5 a6 a7 a8).hostMem = s.hostMem := by intros; rfl
@[simp] theorem State.resultX_hostMem : ∀ s a1 a2 a3 a4 a5 a6 a7, (State.resultX s a1 a2 a3 a4 a5 a6 a7).hostMem = s.hostMem := by intros; rfl
@[simp] theorem State.writeChunk_hostMem : ∀ s a1 a2, (State.writeChunk s a1 a2).hostMem = s.hostMem := by intros; rfl
@[simp] theorem State.writeLocal_hostMem : ∀ s a1 a2, (State.writeLocal s a1 a2).hostMem = s.hostMem := by intros; rfl
@[simp] theorem State.noteRegs_hostMem : ∀ s a1 a2, (State.noteRegs s a1 a2).hostMem = s.hostMem := by intros; unfold State.noteRegs; simp
@[simp] theorem State.haltMid_hostMem : ∀ s a1 a2 a3 a4 a5, (State.haltMid s a1 a2 a3 a4 a5).hostMem = s.hostMem := by intros; rfl
theorem State.watched_hostMem (s : State) (f : Focus) (part : Nat) (write : Bool) (touch : Nat → Bool) (perf : State → State) (h : ∀ s, (perf s).hostMem = s.hostMem) :
    (s.watched f part write touch perf).hostMem = s.hostMem := by
  unfold State.watched; dsimp only
  repeat' split
  all_goals simp [h]
@[simp] theorem State.watchLate_hostMem : ∀ s a1 a2 a3 a4 a5 a6 a7, (State.watchLate s a1 a2 a3 a4 a5 a6 a7).hostMem = s.hostMem := by intros; unfold State.watchLate; split <;> simp
@[simp] theorem State.resultS_hostMem : ∀ s a1 a2 a3 a4, (State.resultS s a1 a2 a3 a4).hostMem = s.hostMem := by intros; unfold State.resultS; split <;> simp
@[simp] theorem State.jumpTo_hostMem : ∀ s a1 a2, (State.jumpTo s a1 a2).hostMem = s.hostMem := by intros; unfold State.jumpTo; split <;> simp
@[simp] theorem State.branch_hostMem : ∀ s a1 a2 a3, (State.branch s a1 a2 a3).hostMem = s.hostMem := by intros; unfold State.branch; split <;> simp
@[simp] theorem State.load_hostMem (s : State) (f : Focus) (part align : Nat) (party : Party) (l : LdRec) : (s.load f part align party l).hostMem = s.hostMem := by
  unfold State.load
  split
  · simp
  · rw [State.watched_hostMem _ _ _ _ _ _ (fun _ => by simp)]
@[simp] theorem State.storeAt_hostMem (s : State) (f : Focus) (part ea align : Nat) (touched : List Nat) (touch : Nat → Bool) (w : WKind) :
    (s.storeAt f part ea align touched touch w).hostMem = s.hostMem := by
  unfold State.storeAt
  split
  · simp
  · split
    · simp
    · rw [State.watched_hostMem _ _ _ _ _ _ (fun _ => by simp)]
@[simp] theorem State.storeW_hostMem : ∀ s a1 a2 a3 a4 a5 a6, (State.storeW s a1 a2 a3 a4 a5 a6).hostMem = s.hostMem := by intros; unfold State.storeW; simp
@[simp] theorem State.noteReads_hostMem : ∀ s a1 a2, (State.noteReads s a1 a2).hostMem = s.hostMem := by
  intros; unfold State.noteReads; dsimp only; repeat' split
  all_goals simp
@[simp] theorem State.noteChunks_hostMem : ∀ s a1 a2, (State.noteChunks s a1 a2).hostMem = s.hostMem := by intros; unfold State.noteChunks; simp
@[simp] theorem State.report_hostMem : ∀ s a1 a2 a3 a4, (State.report s a1 a2 a3 a4).hostMem = s.hostMem := by
  intros; unfold State.report; dsimp only; repeat' split
  all_goals simp
@[simp] theorem State.failAcc_hostMem : ∀ s a1 a2 a3 a4, (State.failAcc s a1 a2 a3 a4).hostMem = s.hostMem := by intros; unfold State.failAcc; split <;> simp
@[simp] theorem State.zeroTile_hostMem : ∀ s a1 a2 a3, (State.zeroTile s a1 a2 a3).hostMem = s.hostMem := by
  intros; unfold State.zeroTile; try dsimp only
  repeat' (first | with_reducible rfl | split | (refine foldl_hostMem _ _ _ ?_; intro _ _) | (refine foldl_fst_hostMem _ _ _ ?_; intro _ _) | (rw [foldl_hostMem]; rotate_left; (intro _ _)) | (rw [foldl_fst_hostMem]; rotate_left; (intro _ _)) | simp only [State.core_modCore, *] | simp)
@[simp] theorem State.watchWrites_hostMem : ∀ s a1 a2 a3, (State.watchWrites s a1 a2 a3).hostMem = s.hostMem := by
  intros; unfold State.watchWrites; try dsimp only
  repeat' (first | with_reducible rfl | split | (refine foldl_hostMem _ _ _ ?_; intro _ _) | (refine foldl_fst_hostMem _ _ _ ?_; intro _ _) | (rw [foldl_hostMem]; rotate_left; (intro _ _)) | (rw [foldl_fst_hostMem]; rotate_left; (intro _ _)) | simp only [State.core_modCore, *] | simp)
@[simp] theorem State.writeAcc_hostMem : ∀ s a1 a2, (State.writeAcc s a1 a2).hostMem = s.hostMem := by
  intros; unfold State.writeAcc; try dsimp only
  repeat' (first | with_reducible rfl | split | (refine foldl_hostMem _ _ _ ?_; intro _ _) | (refine foldl_fst_hostMem _ _ _ ?_; intro _ _) | (rw [foldl_hostMem]; rotate_left; (intro _ _)) | (rw [foldl_fst_hostMem]; rotate_left; (intro _ _)) | simp only [State.core_modCore, *] | simp)
@[simp] theorem State.scrambleStacks_hostMem : ∀ s a1 a2, (State.scrambleStacks s a1 a2).hostMem = s.hostMem := by intros; rfl
@[simp] theorem State.otherKeys_hostMem : ∀ s a1 a2, (State.otherKeys s a1 a2).hostMem = s.hostMem := by intros; rfl
@[simp] theorem State.putHbm_hostMem : ∀ s a1 a2 a3 a4, (State.putHbm s a1 a2 a3 a4).hostMem = s.hostMem := by intros; rfl
@[simp] theorem State.sendTimed_hostMem : ∀ s a1 a2 a3 a4 a5, (State.sendTimed s a1 a2 a3 a4 a5).hostMem = s.hostMem := by
  intros; unfold State.sendTimed; dsimp only; repeat' split
  all_goals simp
@[simp] theorem State.matEnter_hostMem : ∀ s a1 a2 a3 a4 a5, (State.matEnter s a1 a2 a3 a4 a5).hostMem = s.hostMem := by intros; rfl
@[simp] theorem State.planEnter_hostMem : ∀ s a1 a2, (State.planEnter s a1 a2).hostMem = s.hostMem := by intros; rfl
@[simp] theorem State.matTrap_hostMem : ∀ s a1 a2 a3 a4 a5 a6, (State.matTrap s a1 a2 a3 a4 a5 a6).hostMem = s.hostMem := by intros; rfl
@[simp] theorem State.backTrap_hostMem : ∀ s a1 a2, (State.backTrap s a1 a2).hostMem = s.hostMem := by
  intros; unfold State.backTrap; dsimp only; repeat' split
  all_goals simp
theorem State.matRun_hostMem (s : State) (f : Focus) (p : MatPlan) (also : State → State) (h : ∀ s, (also s).hostMem = s.hostMem) : (s.matRun f p also).hostMem = s.hostMem := by
  unfold State.matRun
  split
  · simp
  · simp [h]
@[simp] theorem State.modFace_hostMem : ∀ s a1 a2, (State.modFace s a1 a2).hostMem = s.hostMem := by intros; rfl
@[simp] theorem State.setArr_hostMem : ∀ s a1 a2 a3 a4, (State.setArr s a1 a2 a3 a4).hostMem = s.hostMem := by intros; unfold State.setArr; split <;> simp
@[simp] theorem State.setFfmt_hostMem : ∀ s a1 a2 a3 a4 a5, (State.setFfmt s a1 a2 a3 a4 a5).hostMem = s.hostMem := by intros; unfold State.setFfmt; split <;> simp
@[simp] theorem State.mdrDrawn_hostMem : ∀ s a1 a2, (State.mdrDrawn s a1 a2).hostMem = s.hostMem := by intros; unfold State.mdrDrawn; split <;> simp
@[simp] theorem State.rowReady_hostMem : ∀ s a1 a2 a3 a4 a5 a6 a7 a8 a9, (State.rowReady s a1 a2 a3 a4 a5 a6 a7 a8 a9).hostMem = s.hostMem := by intros; unfold State.rowReady; simp
@[simp] theorem State.keepGot_hostMem : ∀ s a1 a2 a3 a4 a5 a6, (State.keepGot s a1 a2 a3 a4 a5 a6).hostMem = s.hostMem := by intros; rfl
@[simp] theorem State.transposeAll_hostMem : ∀ s a1 a2, (State.transposeAll s a1 a2).hostMem = s.hostMem := by intros; unfold State.transposeAll; simp [foldl_hostMem]
@[simp] theorem State.loadBlock_hostMem : ∀ s a1 a2 a3 a4, (State.loadBlock s a1 a2 a3 a4).hostMem = s.hostMem := by intros; rfl
@[simp] theorem State.rowRead_hostMem : ∀ s a1 a2 a3 a4 a5, (State.rowRead s a1 a2 a3 a4 a5).hostMem = s.hostMem := by
  intros; unfold State.rowRead; dsimp only; repeat' split
  all_goals simp
@[simp] theorem State.drainRow_hostMem : ∀ s a1 a2 a3, (State.drainRow s a1 a2 a3).hostMem = s.hostMem := by
  intros; unfold State.drainRow; dsimp only; repeat' split
  all_goals simp
@[simp] theorem State.requestRows_hostMem : ∀ s a1 a2, (State.requestRows s a1 a2).hostMem = s.hostMem := by
  intros; unfold State.requestRows; try dsimp only
  repeat' (first | with_reducible rfl | split | (refine foldl_hostMem _ _ _ ?_; intro _ _) | (refine foldl_fst_hostMem _ _ _ ?_; intro _ _) | (rw [foldl_hostMem]; rotate_left; (intro _ _)) | (rw [foldl_fst_hostMem]; rotate_left; (intro _ _)) | simp only [State.core_modCore, *] | simp)
@[simp] theorem State.matBegin_hostMem : ∀ s a1, (State.matBegin s a1).hostMem = s.hostMem := by
  intros; unfold State.matBegin; try dsimp only
  repeat' (first | with_reducible rfl | split | (refine foldl_hostMem _ _ _ ?_; intro _ _) | (refine foldl_fst_hostMem _ _ _ ?_; intro _ _) | (rw [foldl_hostMem]; rotate_left; (intro _ _)) | (rw [foldl_fst_hostMem]; rotate_left; (intro _ _)) | simp only [State.core_modCore, *] | simp)
@[simp] theorem State.matRequests_hostMem : ∀ s a1, (State.matRequests s a1).hostMem = s.hostMem := by
  intros; unfold State.matRequests; try dsimp only
  repeat' (first | with_reducible rfl | split | (refine foldl_hostMem _ _ _ ?_; intro _ _) | (refine foldl_fst_hostMem _ _ _ ?_; intro _ _) | (rw [foldl_hostMem]; rotate_left; (intro _ _)) | (rw [foldl_fst_hostMem]; rotate_left; (intro _ _)) | simp only [State.core_modCore, *] | simp)
@[simp] theorem State.landRow_hostMem : ∀ s a1 a2 a3, (State.landRow s a1 a2 a3).hostMem = s.hostMem := by
  intros; unfold State.landRow; try dsimp only
  repeat' (first | with_reducible rfl | split | (refine foldl_hostMem _ _ _ ?_; intro _ _) | (refine foldl_fst_hostMem _ _ _ ?_; intro _ _) | (rw [foldl_hostMem]; rotate_left; (intro _ _)) | (rw [foldl_fst_hostMem]; rotate_left; (intro _ _)) | simp only [State.core_modCore, *] | simp)
@[simp] theorem State.enqueue_hostMem : ∀ s a1 a2 a3, (State.enqueue s a1 a2 a3).hostMem = s.hostMem := by
  intros; unfold State.enqueue; dsimp only; repeat' split
  all_goals simp
@[simp] theorem State.cmdTrap_hostMem : ∀ s a1 a2 a3 a4, (State.cmdTrap s a1 a2 a3 a4).hostMem = s.hostMem := by intros; rfl
@[simp] theorem State.tableRead_hostMem : ∀ s a1 a2 a3, (State.tableRead s a1 a2 a3).hostMem = s.hostMem := by
  intros; unfold State.tableRead; dsimp only; repeat' split
  all_goals simp
@[simp] theorem State.sendRrd_hostMem : ∀ s a1 a2 a3, (State.sendRrd s a1 a2 a3).hostMem = s.hostMem := by intros; unfold State.sendRrd; simp [foldl_hostMem]
@[simp] theorem State.memberKnown_hostMem : ∀ s a1 a2 a3 a4 a5, (State.memberKnown s a1 a2 a3 a4 a5).hostMem = s.hostMem := by intros; rfl
@[simp] theorem State.pieceRead_hostMem : ∀ s a1 a2 a3 a4, (State.pieceRead s a1 a2 a3 a4).hostMem = s.hostMem := by
  intros; unfold State.pieceRead; try dsimp only
  repeat' (first | with_reducible rfl | split | (refine foldl_hostMem _ _ _ ?_; intro _ _) | (refine foldl_fst_hostMem _ _ _ ?_; intro _ _) | (rw [foldl_hostMem]; rotate_left; (intro _ _)) | (rw [foldl_fst_hostMem]; rotate_left; (intro _ _)) | simp only [State.core_modCore, *] | simp)
@[simp] theorem State.endWalks_hostMem : ∀ s a1, (State.endWalks s a1).hostMem = s.hostMem := by
  intros; unfold State.endWalks; try dsimp only
  repeat' (first | with_reducible rfl | split | (refine foldl_hostMem _ _ _ ?_; intro _ _) | (refine foldl_fst_hostMem _ _ _ ?_; intro _ _) | (rw [foldl_hostMem]; rotate_left; (intro _ _)) | (rw [foldl_fst_hostMem]; rotate_left; (intro _ _)) | simp only [State.core_modCore, *] | simp)
@[simp] theorem State.landWalk_hostMem : ∀ s a1 a2, (State.landWalk s a1 a2).hostMem = s.hostMem := by intros; unfold State.landWalk; split <;> simp
@[simp] theorem State.queuePacket_hostMem : ∀ s a1 a2 a3, (State.queuePacket s a1 a2 a3).hostMem = s.hostMem := by
  intros; unfold State.queuePacket; dsimp only; repeat' split
  all_goals simp
@[simp] theorem State.sendOpen_hostMem : ∀ s a1 a2 a3 a4, (State.sendOpen s a1 a2 a3 a4).hostMem = s.hostMem := by
  intros; unfold State.sendOpen; dsimp only; repeat' split
  all_goals simp
@[simp] theorem State.stamp_hostMem : ∀ s a1 a2, (State.stamp s a1 a2).2.hostMem = s.hostMem := by intros; rfl
@[simp] theorem State.noteSent_hostMem : ∀ s a1 a2 a3, (State.noteSent s a1 a2 a3).hostMem = s.hostMem := by
  intros; unfold State.noteSent; repeat' split
  all_goals simp
@[simp] theorem State.sendHome_hostMem : ∀ s a1 a2 a3 a4 a5, (State.sendHome s a1 a2 a3 a4 a5).hostMem = s.hostMem := by
  intros; unfold State.sendHome; dsimp only; repeat' split
  all_goals simp
@[simp] theorem State.sendFar_hostMem : ∀ s a1 a2 a3 a4, (State.sendFar s a1 a2 a3 a4).hostMem = s.hostMem := by
  intros; unfold State.sendFar; dsimp only; repeat' split
  all_goals simp
@[simp] theorem State.sendReq_hostMem : ∀ s a1 a2 a3 a4 a5, (State.sendReq s a1 a2 a3 a4 a5).hostMem = s.hostMem := by
  intros; unfold State.sendReq; try dsimp only
  repeat' (first | with_reducible rfl | split | (refine foldl_hostMem _ _ _ ?_; intro _ _) | (refine foldl_fst_hostMem _ _ _ ?_; intro _ _) | (rw [foldl_hostMem]; rotate_left; (intro _ _)) | (rw [foldl_fst_hostMem]; rotate_left; (intro _ _)) | simp only [State.core_modCore, *] | simp)
@[simp] theorem State.leaveHeld_hostMem : ∀ s a1, (State.leaveHeld s a1).hostMem = s.hostMem := by
  intros; unfold State.leaveHeld; dsimp only; repeat' split
  all_goals simp
@[simp] theorem State.takeEntry_hostMem : ∀ s a1 a2 a3, (State.takeEntry s a1 a2 a3).hostMem = s.hostMem := by intros; rfl
@[simp] theorem State.gstData_hostMem : ∀ s a1 a2 a3, (State.gstData s a1 a2 a3).hostMem = s.hostMem := by
  intros; unfold State.gstData; dsimp only; repeat' split
  all_goals simp
@[simp] theorem State.gatomLeave_hostMem : ∀ s a1, (State.gatomLeave s a1).hostMem = s.hostMem := by
  intros; unfold State.gatomLeave; try dsimp only
  repeat' (first | with_reducible rfl | split | (refine foldl_hostMem _ _ _ ?_; intro _ _) | (refine foldl_fst_hostMem _ _ _ ?_; intro _ _) | (rw [foldl_hostMem]; rotate_left; (intro _ _)) | (rw [foldl_fst_hostMem]; rotate_left; (intro _ _)) | simp only [State.core_modCore, *] | simp)
@[simp] theorem State.noteDone_hostMem : ∀ s a1 a2, (State.noteDone s a1 a2).hostMem = s.hostMem := by intros; rfl
@[simp] theorem State.cancelReqs_hostMem : ∀ s a1 a2, (State.cancelReqs s a1 a2).hostMem = s.hostMem := by
  intros; unfold State.cancelReqs; try dsimp only
  repeat' (first | with_reducible rfl | split | (refine foldl_hostMem _ _ _ ?_; intro _ _) | (refine foldl_fst_hostMem _ _ _ ?_; intro _ _) | (rw [foldl_hostMem]; rotate_left; (intro _ _)) | (rw [foldl_fst_hostMem]; rotate_left; (intro _ _)) | simp only [State.core_modCore, *] | simp)
@[simp] theorem State.setShadows_hostMem : ∀ s a1, (State.setShadows s a1).hostMem = s.hostMem := by intros; rfl
@[simp] theorem State.logRace_hostMem : ∀ s a1 a2 a3 a4, (State.logRace s a1 a2 a3 a4).hostMem = s.hostMem := by intros; rfl
@[simp] theorem State.setStamps_hostMem : ∀ s a1 a2 a3, (State.setStamps s a1 a2 a3).hostMem = s.hostMem := by intros; rfl
@[simp] theorem State.homeAnswer_hostMem : ∀ s a1 a2 a3 a4 a5, (State.homeAnswer s a1 a2 a3 a4 a5).hostMem = s.hostMem := by intros; unfold State.homeAnswer; split <;> simp
@[simp] theorem State.dropReq_hostMem : ∀ s a1, (State.dropReq s a1).hostMem = s.hostMem := by intros; rfl
@[simp] theorem State.reqDone_hostMem : ∀ s a1, (State.reqDone s a1).hostMem = s.hostMem := by intros; unfold State.reqDone; split <;> simp
@[simp] theorem State.logRaces_hostMem : ∀ s a1 a2, (State.logRaces s a1 a2).hostMem = s.hostMem := by intros; unfold State.logRaces; simp [foldl_hostMem]
@[simp] theorem State.noteRace_hostMem : ∀ s a1 a2, (State.noteRace s a1 a2).hostMem = s.hostMem := by intros; unfold State.noteRace; simp
@[simp] theorem State.takeReply_hostMem : ∀ s a1, (State.takeReply s a1).hostMem = s.hostMem := by
  intros; unfold State.takeReply; dsimp only; repeat' split
  all_goals simp
@[simp] theorem State.releaseEvent_hostMem : ∀ s a1 a2 a3 a4, (State.releaseEvent s a1 a2 a3 a4).hostMem = s.hostMem := by
  intros; unfold State.releaseEvent; try dsimp only
  repeat' (first | with_reducible rfl | split | (refine foldl_hostMem _ _ _ ?_; intro _ _) | (refine foldl_fst_hostMem _ _ _ ?_; intro _ _) | (rw [foldl_hostMem]; rotate_left; (intro _ _)) | (rw [foldl_fst_hostMem]; rotate_left; (intro _ _)) | simp only [State.core_modCore, *] | simp)
@[simp] theorem State.acquireEvent_hostMem : ∀ s a1 a2 a3 a4, (State.acquireEvent s a1 a2 a3 a4).hostMem = s.hostMem := by intros; rfl
@[simp] theorem State.fenceTell_hostMem (s : State) (c : CoreId) (q : FenceSt) : (s.fenceTell c q).hostMem = s.hostMem := by
  unfold State.fenceTell
  cases q.rel
  · exact State.modCore_hostMem _ _ _
  · exact (State.modCore_hostMem _ _ _).trans (State.releaseEvent_hostMem _ _ _ _ _)
@[simp] theorem State.fenceDone_hostMem : ∀ s a1 a2, (State.fenceDone s a1 a2).hostMem = s.hostMem := by intros; unfold State.fenceDone; split <;> simp
@[simp] theorem State.fenceStep_hostMem : ∀ s a1, (State.fenceStep s a1).hostMem = s.hostMem := by
  intros; unfold State.fenceStep; dsimp only; repeat' split
  all_goals simp
@[simp] theorem State.fbRead_hostMem : ∀ s a1 a2 a3 a4, (State.fbRead s a1 a2 a3 a4).hostMem = s.hostMem := by intros; unfold State.fbRead; simp
@[simp] theorem State.fbUpdate_hostMem : ∀ s a1 a2 a3 a4 a5, (State.fbUpdate s a1 a2 a3 a4 a5).hostMem = s.hostMem := by intros; unfold State.fbUpdate; simp
@[simp] theorem State.badSkip_hostMem : ∀ s a1 a2, (State.badSkip s a1 a2).hostMem = s.hostMem := by intros; rfl
@[simp] theorem State.haulWait_hostMem : ∀ s a1 a2, (State.haulWait s a1 a2).hostMem = s.hostMem := by intros; unfold State.haulWait; split <;> simp
@[simp] theorem State.haulUpdate_hostMem : ∀ s a1 a2 a3 a4 a5 a6 a7, (State.haulUpdate s a1 a2 a3 a4 a5 a6 a7).hostMem = s.hostMem := by intros; unfold State.haulUpdate; split <;> simp
@[simp] theorem State.resultY_hostMem : ∀ s a1 a2 a3 a4, (State.resultY s a1 a2 a3 a4).hostMem = s.hostMem := by intros; rfl
@[simp] theorem State.dropHaul_hostMem : ∀ s a1 a2, (State.dropHaul s a1 a2).hostMem = s.hostMem := by intros; rfl
@[simp] theorem State.putHaul_hostMem : ∀ s a1 a2 a3, (State.putHaul s a1 a2 a3).hostMem = s.hostMem := by intros; rfl
@[simp] theorem State.wakeAt_hostMem : ∀ s a1 a2 a3, (State.wakeAt s a1 a2 a3).hostMem = s.hostMem := by intros; rfl
@[simp] theorem State.wakeOn_hostMem : ∀ s a1 a2 a3, (State.wakeOn s a1 a2 a3).hostMem = s.hostMem := by intros; rfl
@[simp] theorem State.failHaul_hostMem : ∀ s a1 a2, (State.failHaul s a1 a2).hostMem = s.hostMem := by intros; rfl
@[simp] theorem State.capture_hostMem : ∀ s a1 a2 a3, (State.capture s a1 a2 a3).hostMem = s.hostMem := by intros; rfl
@[simp] theorem State.deliver_hostMem : ∀ s a1 a2 a3 a4 a5 a6, (State.deliver s a1 a2 a3 a4 a5 a6).hostMem = s.hostMem := by
  intros; unfold State.deliver; dsimp only; repeat' split
  all_goals simp
@[simp] theorem State.haulRead_hostMem : ∀ s a1 a2 a3, (State.haulRead s a1 a2 a3).hostMem = s.hostMem := by intros; unfold State.haulRead; split <;> simp
@[simp] theorem State.haulApply_hostMem : ∀ s a1 a2 a3, (State.haulApply s a1 a2 a3).hostMem = s.hostMem := by
  intros; unfold State.haulApply; dsimp only; repeat' split
  all_goals simp
@[simp] theorem State.haulCheck_hostMem : ∀ s a1 a2 a3, (State.haulCheck s a1 a2 a3).hostMem = s.hostMem := by
  intros; unfold State.haulCheck; repeat' split
  all_goals simp
@[simp] theorem State.haulBoard_hostMem : ∀ s a1 a2 a3, (State.haulBoard s a1 a2 a3).hostMem = s.hostMem := by
  intros; unfold State.haulBoard; dsimp only; repeat' split
  all_goals simp
@[simp] theorem State.tryArrive_hostMem : ∀ s a1 a2, (State.tryArrive s a1 a2).hostMem = s.hostMem := by
  intros; unfold State.tryArrive; dsimp only; repeat' split
  all_goals simp
@[simp] theorem State.barDone_hostMem (s : State) (c : CoreId) (k : CtxId) (level tick : Nat) : (s.barDone c k level tick).hostMem = s.hostMem := by
  unfold State.barDone
  dsimp only
  generalize hx : s.modCtx c k _ = x
  have h : (x.releaseEvent c k (barScope level) tick).hostMem = s.hostMem := by rw [State.releaseEvent_hostMem, ← hx, State.modCtx_hostMem]
  generalize x.releaseEvent c k (barScope level) tick = u at h
  split
  · rw [State.wakeAt_hostMem, State.acquireEvent_hostMem, h]
  · rw [State.modCtx_hostMem, h]
@[simp] theorem State.barWake_hostMem (s : State) (c : CoreId) (lk tick : Nat) : (s.barWake c lk tick).hostMem = s.hostMem := by
  unfold State.barWake
  refine foldl_hostMem _ _ s fun s i => ?_
  dsimp only
  generalize s.ctx c i = x
  split
  · split
    · exact State.barDone_hostMem _ _ _ _ _
    · rfl
  · rfl
@[simp] theorem State.barMet_hostMem : ∀ s a1 a2 a3, (State.barMet s a1 a2 a3).hostMem = s.hostMem := by
  intros; unfold State.barMet; dsimp only; repeat' split
  all_goals simp
@[simp] theorem State.seeBits_hostMem : ∀ s a1 a2 a3 a4, (State.seeBits s a1 a2 a3 a4).hostMem = s.hostMem := by intros; rfl
@[simp] theorem State.barInvert_hostMem : ∀ s a1 a2 a3 a4, (State.barInvert s a1 a2 a3 a4).hostMem = s.hostMem := by
  intros; unfold State.barInvert; dsimp only; repeat' split
  all_goals simp
@[simp] theorem State.barCheck_hostMem : ∀ s a1 a2 a3, (State.barCheck s a1 a2 a3).hostMem = s.hostMem := by
  intros; unfold State.barCheck; dsimp only; repeat' split
  all_goals simp
@[simp] theorem State.passUser_hostMem (s : State) (c : CoreId) (n : Nat) : (s.passUser c n).hostMem = s.hostMem := by
  have h1 : ∀ (l : List HaulOp) (s : State), (l.foldl (fun s u => s.haulRead c n u) s).hostMem = s.hostMem := fun l s => foldl_hostMem l _ s fun s u => by simp
  have h2 : ∀ (l : List HaulOp) (s : State), (l.foldl (fun s u => s.haulApply c n u) s).hostMem = s.hostMem := fun l s => foldl_hostMem l _ s fun s u => by simp
  have h3 : ∀ (l : List HaulOp) (s : State), (l.foldl (fun s u => s.haulCheck c n u) s).hostMem = s.hostMem := fun l s => foldl_hostMem l _ s fun s u => by simp
  unfold State.passUser
  generalize hl : (fun (s : State) (u : HaulOp) => if s.now ≤ u.after + 360 then s.haulBoard c n u else s) = g
  have h4 : ∀ (l : List HaulOp) (s : State), (l.foldl g s).hostMem = s.hostMem := fun l s => foldl_hostMem l _ s fun s u => by rw [← hl]; dsimp only; split <;> simp
  simp only [h1, h2, h3, h4]
@[simp] theorem State.passSystem_hostMem : ∀ s a1 a2, (State.passSystem s a1 a2).hostMem = s.hostMem := by intros; unfold State.passSystem; simp [foldl_hostMem]
@[simp] theorem State.fbDone_hostMem : ∀ s a1 a2, (State.fbDone s a1 a2).hostMem = s.hostMem := by
  intros; unfold State.fbDone; repeat' split
  all_goals simp
@[simp] theorem State.loopPush_hostMem : ∀ s a1 a2, (State.loopPush s a1 a2).hostMem = s.hostMem := by
  intros; unfold State.loopPush; dsimp only; repeat' split
  all_goals simp
@[simp] theorem State.loopBreak_hostMem : ∀ s a1, (State.loopBreak s a1).hostMem = s.hostMem := by intros; unfold State.loopBreak; split <;> simp
@[simp] theorem State.tryLock_hostMem : ∀ s a1 a2 a3, (State.tryLock s a1 a2 a3).2.hostMem = s.hostMem := by
  intros; unfold State.tryLock; dsimp only; repeat' split
  all_goals simp
@[simp] theorem State.retryLocks_hostMem : ∀ s a1, (State.retryLocks s a1).hostMem = s.hostMem := by
  intros; unfold State.retryLocks; try dsimp only
  repeat' (first | with_reducible rfl | split | (refine foldl_hostMem _ _ _ ?_; intro _ _) | (refine foldl_fst_hostMem _ _ _ ?_; intro _ _) | (rw [foldl_hostMem]; rotate_left; (intro _ _)) | (rw [foldl_fst_hostMem]; rotate_left; (intro _ _)) | simp only [State.core_modCore, *] | simp)
@[simp] theorem State.postRecord_hostMem : ∀ s a1 a2 a3 a4, (State.postRecord s a1 a2 a3 a4).hostMem = s.hostMem := by
  intros; unfold State.postRecord; dsimp only; repeat' split
  all_goals simp
@[simp] theorem State.decideAbort_hostMem : ∀ s a1 a2 a3 a4, (State.decideAbort s a1 a2 a3 a4).hostMem = s.hostMem := by intros; rfl
@[simp] theorem State.linkAbort_hostMem : ∀ s a1 a2 a3 a4, (State.linkAbort s a1 a2 a3 a4).hostMem = s.hostMem := by intros; unfold State.linkAbort; split <;> simp
@[simp] theorem State.failAny_hostMem : ∀ s a1 a2 a3 a4, (State.failAny s a1 a2 a3 a4).hostMem = s.hostMem := by intros; unfold State.failAny; split <;> simp
@[simp] theorem State.leaveEntry_hostMem : ∀ s a1 a2 a3 a4 a5 a6, (State.leaveEntry s a1 a2 a3 a4 a5 a6).hostMem = s.hostMem := by
  intros; unfold State.leaveEntry; dsimp only; repeat' split
  all_goals simp
@[simp] theorem State.release_hostMem : ∀ s a1 a2 a3 a4, (State.release s a1 a2 a3 a4).hostMem = s.hostMem := by
  intros; unfold State.release; try dsimp only
  repeat' (first | with_reducible rfl | split | (refine foldl_hostMem _ _ _ ?_; intro _ _) | (refine foldl_fst_hostMem _ _ _ ?_; intro _ _) | (rw [foldl_hostMem]; rotate_left; (intro _ _)) | (rw [foldl_fst_hostMem]; rotate_left; (intro _ _)) | simp only [State.core_modCore, *] | simp)
@[simp] theorem State.sendLeaving_hostMem : ∀ s a1, (State.sendLeaving s a1).hostMem = s.hostMem := by intros; unfold State.sendLeaving; simp [foldl_hostMem]
@[simp] theorem State.landMembers_hostMem : ∀ s a1, (State.landMembers s a1).hostMem = s.hostMem := by intros; unfold State.landMembers; simp [foldl_hostMem]
@[simp] theorem State.loadDone_hostMem : ∀ s a1 a2 a3, (State.loadDone s a1 a2 a3).hostMem = s.hostMem := by
  intros; unfold State.loadDone; dsimp only; repeat' split
  all_goals simp
@[simp] theorem State.matRow_hostMem : ∀ s a1 a2 a3 a4, (State.matRow s a1 a2 a3 a4).hostMem = s.hostMem := by
  intros; unfold State.matRow; repeat' split
  all_goals simp
@[simp] theorem State.replyHome_hostMem : ∀ s a1 a2 a3 a4, (State.replyHome s a1 a2 a3 a4).hostMem = s.hostMem := by intros; unfold State.replyHome; split <;> simp
@[simp] theorem State.replyTo_hostMem : ∀ s a1 a2 a3, (State.replyTo s a1 a2 a3).hostMem = s.hostMem := by
  intros; unfold State.replyTo; repeat' split
  all_goals simp
@[simp] theorem State.amoStage_hostMem : ∀ s a1 a2 a3 a4, (State.amoStage s a1 a2 a3 a4).hostMem = s.hostMem := by
  intros; unfold State.amoStage; dsimp only; repeat' split
  all_goals simp
@[simp] theorem State.readAcc_hostMem : ∀ s a1 a2, (State.readAcc s a1 a2).hostMem = s.hostMem := by
  intros; unfold State.readAcc; dsimp only; repeat' split
  all_goals simp
@[simp] theorem State.amoWrite_hostMem : ∀ s a1 a2 a3, (State.amoWrite s a1 a2 a3).hostMem = s.hostMem := by
  intros; unfold State.amoWrite; try dsimp only
  repeat' (first | with_reducible rfl | split | (refine foldl_hostMem _ _ _ ?_; intro _ _) | (refine foldl_fst_hostMem _ _ _ ?_; intro _ _) | (rw [foldl_hostMem]; rotate_left; (intro _ _)) | (rw [foldl_fst_hostMem]; rotate_left; (intro _ _)) | simp only [State.core_modCore, *] | simp)
@[simp] theorem State.hauWrite_hostMem : ∀ s a1 a2 a3 a4 a5, (State.hauWrite s a1 a2 a3 a4 a5).hostMem = s.hostMem := by
  intros; unfold State.hauWrite; dsimp only; repeat' split
  all_goals simp
@[simp] theorem State.memberDone_hostMem : ∀ s a1 a2 a3, (State.memberDone s a1 a2 a3).hostMem = s.hostMem := by
  intros; unfold State.memberDone; repeat' split
  all_goals simp
@[simp] theorem State.applyAcc_hostMem : ∀ s a1 a2, (State.applyAcc s a1 a2).hostMem = s.hostMem := by
  intros; unfold State.applyAcc; repeat' split
  all_goals simp
@[simp] theorem State.readOne_hostMem : ∀ s a1 a2, (State.readOne s a1 a2).hostMem = s.hostMem := by
  intros; unfold State.readOne; repeat' split
  all_goals simp
@[simp] theorem State.failLost_hostMem : ∀ s a1 a2, (State.failLost s a1 a2).hostMem = s.hostMem := by
  intros; unfold State.failLost; repeat' split
  all_goals simp
@[simp] theorem State.writeOne_hostMem : ∀ s a1 a2, (State.writeOne s a1 a2).hostMem = s.hostMem := by intros; unfold State.writeOne; split <;> simp
@[simp] theorem State.performAll_hostMem : ∀ s a1, (State.performAll s a1).hostMem = s.hostMem := by
  intros; unfold State.performAll; try dsimp only
  repeat' (first | with_reducible rfl | split | (refine foldl_hostMem _ _ _ ?_; intro _ _) | (refine foldl_fst_hostMem _ _ _ ?_; intro _ _) | (rw [foldl_hostMem]; rotate_left; (intro _ _)) | (rw [foldl_fst_hostMem]; rotate_left; (intro _ _)) | simp only [State.core_modCore, *] | simp)
@[simp] theorem State.chunkWord_hostMem : ∀ s a1 a2 a3 a4 a5, (State.chunkWord s a1 a2 a3 a4 a5).hostMem = s.hostMem := by
  intros; unfold State.chunkWord; try dsimp only
  repeat' (first | with_reducible rfl | split | (refine foldl_hostMem _ _ _ ?_; intro _ _) | (refine foldl_fst_hostMem _ _ _ ?_; intro _ _) | (rw [foldl_hostMem]; rotate_left; (intro _ _)) | (rw [foldl_fst_hostMem]; rotate_left; (intro _ _)) | simp only [State.core_modCore, *] | simp)
@[simp] theorem State.fetchWrite_hostMem : ∀ s a1 a2 a3 a4, (State.fetchWrite s a1 a2 a3 a4).hostMem = s.hostMem := by intros; unfold State.fetchWrite; simp [foldl_hostMem]
@[simp] theorem State.fetchInitial_hostMem (s : State) (c : CoreId) (lk n : Nat) : (s.fetchInitial c lk n).hostMem = s.hostMem := by
  induction n generalizing s with
  | zero => rfl
  | succ n ih =>
    unfold State.fetchInitial
    dsimp only
    repeat' split
    all_goals simp [ih]
@[simp] theorem State.startRefetch_hostMem : ∀ s a1 a2, (State.startRefetch s a1 a2).hostMem = s.hostMem := by
  intros; unfold State.startRefetch; dsimp only; repeat' split
  all_goals simp
@[simp] theorem State.lateFails_hostMem : ∀ s a1 a2, (State.lateFails s a1 a2).hostMem = s.hostMem := by intros; unfold State.lateFails; simp
@[simp] theorem State.openCycle_hostMem : ∀ s a1, (State.openCycle s a1).hostMem = s.hostMem := by intros; unfold State.openCycle; simp
@[simp] theorem State.haltBoundary_hostMem (s : State) (c : CoreId) (s1 : State) (r : Nat) : (s.haltBoundary c s1 r).hostMem = s.hostMem := rfl

@[simp] theorem State.beginPeriod_hostMem (s : State) (c : CoreId) : (s.beginPeriod c).hostMem = s.hostMem := by
  unfold State.beginPeriod
  generalize hu : ((s.endWalks c).landMembers c).modCore c _ = u
  have h : u.hostMem = s.hostMem := by rw [← hu]; simp
  dsimp only
  repeat' split
  all_goals simp [h]
@[simp] theorem State.settleClaims_hostMem : ∀ s a1 a2, (State.settleClaims s a1 a2).hostMem = s.hostMem := by intros; rfl
@[simp] theorem State.takeCheckpoint_hostMem : ∀ s a1, (State.takeCheckpoint s a1).hostMem = s.hostMem := by intros; rfl
@[simp] theorem State.yieldTrap_hostMem : ∀ s a1, (State.yieldTrap s a1).hostMem = s.hostMem := by intros; rfl
@[simp] theorem State.yieldRelease_hostMem : ∀ s a1, (State.yieldRelease s a1).hostMem = s.hostMem := by
  intros; unfold State.yieldRelease; dsimp only; repeat' split
  all_goals simp
@[simp] theorem State.startBundle_hostMem : ∀ s a1 a2 a3, (State.startBundle s a1 a2 a3).hostMem = s.hostMem := by intros; unfold State.startBundle; simp
@[simp] theorem State.openIssue_hostMem : ∀ s a1, (State.openIssue s a1).hostMem = s.hostMem := by
  intros; unfold State.openIssue; dsimp only; repeat' split
  all_goals simp
@[simp] theorem State.endBundle_hostMem : ∀ s a1, (State.endBundle s a1).hostMem = s.hostMem := by
  intros; unfold State.endBundle; dsimp only; repeat' split
  all_goals simp
@[simp] theorem State.profile_hostMem : ∀ s a1, (State.profile s a1).hostMem = s.hostMem := by
  intros; unfold State.profile; dsimp only; repeat' split
  all_goals simp
@[simp] theorem State.closeCycle_hostMem : ∀ s a1, (State.closeCycle s a1).hostMem = s.hostMem := by intros; unfold State.closeCycle; simp
@[simp] theorem State.flood_hostMem : ∀ s a1, (State.flood s a1).hostMem = s.hostMem := by
  intros; unfold State.flood; try dsimp only
  repeat' (first | with_reducible rfl | split | (refine foldl_hostMem _ _ _ ?_; intro _ _) | (refine foldl_fst_hostMem _ _ _ ?_; intro _ _) | (rw [foldl_hostMem]; rotate_left; (intro _ _)) | (rw [foldl_fst_hostMem]; rotate_left; (intro _ _)) | simp only [State.core_modCore, *] | simp)
@[simp] theorem State.floodLoss_hostMem : ∀ s a1, (State.floodLoss s a1).hostMem = s.hostMem := by intros; unfold State.floodLoss; split <;> simp
@[simp] theorem State.purgeTraps_hostMem : ∀ s a1, (State.purgeTraps s a1).hostMem = s.hostMem := by intros; rfl
@[simp] theorem State.unclaim_hostMem : ∀ s a1 a2 a3 a4, (State.unclaim s a1 a2 a3 a4).hostMem = s.hostMem := by intros; rfl
@[simp] theorem State.dropClaims_hostMem : ∀ s a1 a2, (State.dropClaims s a1 a2).hostMem = s.hostMem := by
  intros; unfold State.dropClaims; try dsimp only
  repeat' (first | with_reducible rfl | split | (refine foldl_hostMem _ _ _ ?_; intro _ _) | (refine foldl_fst_hostMem _ _ _ ?_; intro _ _) | (rw [foldl_hostMem]; rotate_left; (intro _ _)) | (rw [foldl_fst_hostMem]; rotate_left; (intro _ _)) | simp only [State.core_modCore, *] | simp)
@[simp] theorem State.dropWire_hostMem : ∀ s a1, (State.dropWire s a1).hostMem = s.hostMem := by intros; rfl
@[simp] theorem State.discard_hostMem : ∀ s a1 a2 a3, (State.discard s a1 a2 a3).hostMem = s.hostMem := by intros; unfold State.discard; simp
@[simp] theorem State.rollBack_hostMem : ∀ s a1 a2 a3, (State.rollBack s a1 a2 a3).hostMem = s.hostMem := by intros; unfold State.rollBack; simp
@[simp] theorem State.stopOn_hostMem (s : State) (c : CoreId) (lk : Nat) : (s.stopOn c lk).hostMem = s.hostMem := by
  unfold State.stopOn
  generalize hg : (fun (s : State) (i : CtxId) => if (s.ctx c i).lk = some lk then _ else s) = g
  have h4 : ∀ (l : List CtxId) (s : State), (l.foldl g s).hostMem = s.hostMem := fun l s => foldl_hostMem l _ s fun s u => by rw [← hg]; dsimp only; split <;> simp
  simp only [State.modCore_hostMem, h4]
@[simp] theorem State.stopLaunch_hostMem (s : State) (lk : Nat) : (s.stopLaunch lk).hostMem = s.hostMem := by
  unfold State.stopLaunch
  generalize List.finRange 324 = l
  simp only [State.modLaunch_hostMem]
  exact foldl_hostMem l _ s fun s c => by split <;> simp
@[simp] theorem State.noteStale_hostMem : ∀ s a1, (State.noteStale s a1).hostMem = s.hostMem := by intros; unfold State.noteStale; split <;> simp
@[simp] theorem State.tellAbort_hostMem : ∀ s a1, (State.tellAbort s a1).hostMem = s.hostMem := by
  intros; unfold State.tellAbort; repeat' split
  all_goals simp
@[simp] theorem State.badCmd_hostMem : ∀ s a1, (State.badCmd s a1).hostMem = s.hostMem := by intros; rfl
@[simp] theorem State.prune_hostMem : ∀ s a1, (State.prune s a1).hostMem = s.hostMem := by intros; rfl
@[simp] theorem State.dequeue_hostMem : ∀ s a1, (State.dequeue s a1).hostMem = s.hostMem := by intros; unfold State.dequeue; split <;> simp
@[simp] theorem State.dropVector_hostMem : ∀ s a1 a2, (State.dropVector s a1 a2).hostMem = s.hostMem := by intros; rfl
@[simp] theorem State.recordEnd_hostMem : ∀ s a1 a2 a3, (State.recordEnd s a1 a2 a3).hostMem = s.hostMem := by
  intros; unfold State.recordEnd; dsimp only; repeat' split
  all_goals simp
@[simp] theorem State.zeroBank_hostMem : ∀ s a1 a2, (State.zeroBank s a1 a2).hostMem = s.hostMem := by intros; rfl
@[simp] theorem State.bindCore_hostMem : ∀ s a1 a2 a3, (State.bindCore s a1 a2 a3).hostMem = s.hostMem := by
  intros; unfold State.bindCore; try dsimp only
  repeat' (first | with_reducible rfl | split | (refine foldl_hostMem _ _ _ ?_; intro _ _) | (refine foldl_fst_hostMem _ _ _ ?_; intro _ _) | (rw [foldl_hostMem]; rotate_left; (intro _ _)) | (rw [foldl_fst_hostMem]; rotate_left; (intro _ _)) | simp only [State.core_modCore, *] | simp)
@[simp] theorem State.clearShift_hostMem : ∀ s a1, (State.clearShift s a1).hostMem = s.hostMem := by
  intros; unfold State.clearShift; repeat' split
  all_goals simp
@[simp] theorem State.bindCores_hostMem : ∀ s a1 a2, (State.bindCores s a1 a2).hostMem = s.hostMem := by intros; unfold State.bindCores; simp [foldl_hostMem]
@[simp] theorem State.askYield_hostMem : ∀ s a1, (State.askYield s a1).hostMem = s.hostMem := by
  intros; unfold State.askYield; repeat' split
  all_goals simp
@[simp] theorem State.resume_hostMem : ∀ s a1, (State.resume s a1).hostMem = s.hostMem := by
  intros; unfold State.resume; try dsimp only
  repeat' (first | with_reducible rfl | split | (refine foldl_hostMem _ _ _ ?_; intro _ _) | (refine foldl_fst_hostMem _ _ _ ?_; intro _ _) | (rw [foldl_hostMem]; rotate_left; (intro _ _)) | (rw [foldl_fst_hostMem]; rotate_left; (intro _ _)) | simp only [State.core_modCore, *] | simp)
@[simp] theorem State.swapResume_hostMem (s : State) (part : Nat) : (s.swapResume part).hostMem = s.hostMem := by
  unfold State.swapResume
  split
  · cases s.resumable part [] <;> simp
  · rfl
@[simp] theorem State.startRec_hostMem : ∀ s a1 a2, (State.startRec s a1 a2).hostMem = s.hostMem := by intros; unfold State.startRec; split <;> simp
@[simp] theorem State.retireCore_hostMem : ∀ s a1 a2 a3, (State.retireCore s a1 a2 a3).hostMem = s.hostMem := by intros; unfold State.retireCore; simp
@[simp] theorem State.freeSkips_hostMem : ∀ s a1, (State.freeSkips s a1).hostMem = s.hostMem := by
  intros; unfold State.freeSkips; try dsimp only
  repeat' (first | with_reducible rfl | split | (refine foldl_hostMem _ _ _ ?_; intro _ _) | (refine foldl_fst_hostMem _ _ _ ?_; intro _ _) | (rw [foldl_hostMem]; rotate_left; (intro _ _)) | (rw [foldl_fst_hostMem]; rotate_left; (intro _ _)) | simp only [State.core_modCore, *] | simp)
@[simp] theorem State.saveCore_hostMem (s : State) (lk : Nat) (keep : Bool) (c : CoreId) : (s.saveCore lk keep c).hostMem = s.hostMem := by
  unfold State.saveCore
  dsimp only
  rw [State.tickFree_hostMem, State.modCore_hostMem, State.noteLoc_hostMem]
  split <;> simp
@[simp] theorem State.putBits_hostMem : ∀ s a1 a2, (State.putBits s a1 a2).hostMem = s.hostMem := by intros; unfold State.putBits; split <;> simp
@[simp] theorem State.swapRecord_hostMem : ∀ s a1, (State.swapRecord s a1).hostMem = s.hostMem := by intros; unfold State.swapRecord; simp
@[simp] theorem State.unpark_hostMem : ∀ s a1 a2, (State.unpark s a1 a2).hostMem = s.hostMem := by
  intros; unfold State.unpark; try dsimp only
  repeat' (first | with_reducible rfl | split | (refine foldl_hostMem _ _ _ ?_; intro _ _) | (refine foldl_fst_hostMem _ _ _ ?_; intro _ _) | (rw [foldl_hostMem]; rotate_left; (intro _ _)) | (rw [foldl_fst_hostMem]; rotate_left; (intro _ _)) | simp only [State.core_modCore, *] | simp)
@[simp] theorem State.unparkDone_hostMem : ∀ s a1, (State.unparkDone s a1).hostMem = s.hostMem := by
  intros; unfold State.unparkDone; dsimp only; repeat' split
  all_goals simp
@[simp] theorem State.denied_hostMem : ∀ s, (State.denied s).hostMem = s.hostMem := by intros; rfl
@[simp] theorem State.swapRefused_hostMem : ∀ s a1 a2, (State.swapRefused s a1 a2).hostMem = s.hostMem := by intros; rfl
@[simp] theorem State.rejudgeYields_hostMem : ∀ s a1, (State.rejudgeYields s a1).hostMem = s.hostMem := by
  intros; unfold State.rejudgeYields; try dsimp only
  repeat' (first | with_reducible rfl | split | (refine foldl_hostMem _ _ _ ?_; intro _ _) | (refine foldl_fst_hostMem _ _ _ ?_; intro _ _) | (rw [foldl_hostMem]; rotate_left; (intro _ _)) | (rw [foldl_fst_hostMem]; rotate_left; (intro _ _)) | simp only [State.core_modCore, *] | simp)
@[simp] theorem State.fixYields_hostMem : ∀ s, (State.fixYields s).hostMem = s.hostMem := by
  intros; unfold State.fixYields; try dsimp only
  repeat' (first | with_reducible rfl | split | (refine foldl_hostMem _ _ _ ?_; intro _ _) | (refine foldl_fst_hostMem _ _ _ ?_; intro _ _) | (rw [foldl_hostMem]; rotate_left; (intro _ _)) | (rw [foldl_fst_hostMem]; rotate_left; (intro _ _)) | simp only [State.core_modCore, *] | simp)
@[simp] theorem State.takeImage_hostMem : ∀ s a1 a2 a3, (State.takeImage s a1 a2 a3).hostMem = s.hostMem := by intros; unfold State.takeImage; split <;> simp
@[simp] theorem State.setBusy_hostMem : ∀ s, (State.setBusy s).hostMem = s.hostMem := by intros; rfl
@[simp] theorem State.rekeyDie_hostMem : ∀ s a1 a2, (State.rekeyDie s a1 a2).hostMem = s.hostMem := by
  intros; unfold State.rekeyDie; dsimp only; repeat' split
  all_goals simp
@[simp] theorem State.dropCached_hostMem : ∀ s a1 a2 a3, (State.dropCached s a1 a2 a3).hostMem = s.hostMem := by intros; unfold State.dropCached; split <;> simp
@[simp] theorem State.wcinvStep_hostMem : ∀ s a1, (State.wcinvStep s a1).hostMem = s.hostMem := by intros; unfold State.wcinvStep; simp [foldl_hostMem]
@[simp] theorem State.markStale_hostMem : ∀ s a1 a2 a3, (State.markStale s a1 a2 a3).hostMem = s.hostMem := by
  intros; unfold State.markStale; try dsimp only
  repeat' (first | with_reducible rfl | split | (refine foldl_hostMem _ _ _ ?_; intro _ _) | (refine foldl_fst_hostMem _ _ _ ?_; intro _ _) | (rw [foldl_hostMem]; rotate_left; (intro _ _)) | (rw [foldl_fst_hostMem]; rotate_left; (intro _ _)) | simp only [State.core_modCore, *] | simp)
@[simp] theorem State.bsinvStep_hostMem : ∀ s, (State.bsinvStep s).hostMem = s.hostMem := by
  intros; unfold State.bsinvStep; try dsimp only
  repeat' (first | with_reducible rfl | split | (refine foldl_hostMem _ _ _ ?_; intro _ _) | (refine foldl_fst_hostMem _ _ _ ?_; intro _ _) | (rw [foldl_hostMem]; rotate_left; (intro _ _)) | (rw [foldl_fst_hostMem]; rotate_left; (intro _ _)) | simp only [State.core_modCore, *] | simp)
@[simp] theorem State.acknowledge_hostMem : ∀ s, (State.acknowledge s).hostMem = s.hostMem := by intros; unfold State.acknowledge; simp [foldl_hostMem]
@[simp] theorem State.clearShadows_hostMem : ∀ s a1, (State.clearShadows s a1).hostMem = s.hostMem := by intros; rfl
@[simp] theorem State.writePf_hostMem : ∀ s a1 a2, (State.writePf s a1 a2).hostMem = s.hostMem := by
  intros; unfold State.writePf; dsimp only; repeat' split
  all_goals simp
@[simp] theorem State.dbgRead_hostMem : ∀ s a1 a2 a3 a4 a5, (State.dbgRead s a1 a2 a3 a4 a5).1.hostMem = s.hostMem := by
  intros; unfold State.dbgRead; dsimp only; repeat' split
  all_goals simp
@[simp] theorem State.dbgWrite_hostMem : ∀ s a1 a2 a3 a4 a5 a6, (State.dbgWrite s a1 a2 a3 a4 a5 a6).1.hostMem = s.hostMem := by
  intros; unfold State.dbgWrite; try dsimp only
  repeat' (first | with_reducible rfl | split | (refine foldl_hostMem _ _ _ ?_; intro _ _) | (refine foldl_fst_hostMem _ _ _ ?_; intro _ _) | (rw [foldl_hostMem]; rotate_left; (intro _ _)) | (rw [foldl_fst_hostMem]; rotate_left; (intro _ _)) | simp only [State.core_modCore, *] | simp)
@[simp] theorem State.dbgLocal_hostMem : ∀ s a1 a2 a3 a4, (State.dbgLocal s a1 a2 a3 a4).1.hostMem = s.hostMem := by
  intros; unfold State.dbgLocal; try dsimp only
  repeat' (first | with_reducible rfl | split | (refine foldl_hostMem _ _ _ ?_; intro _ _) | (refine foldl_fst_hostMem _ _ _ ?_; intro _ _) | (rw [foldl_hostMem]; rotate_left; (intro _ _)) | (rw [foldl_fst_hostMem]; rotate_left; (intro _ _)) | simp only [State.core_modCore, *] | simp)
@[simp] theorem State.dbgEnd_hostMem : ∀ s a1 a2, (State.dbgEnd s a1 a2).hostMem = s.hostMem := by intros; rfl
@[simp] theorem State.dbgResult_hostMem : ∀ s a1 a2 a3 a4, (State.dbgResult s a1 a2 a3 a4).hostMem = s.hostMem := by intros; unfold State.dbgResult; split <;> simp
@[simp] theorem State.dbgForward_hostMem : ∀ s a1 a2 a3 a4, (State.dbgForward s a1 a2 a3 a4).hostMem = s.hostMem := by
  intros; unfold State.dbgForward; try dsimp only
  repeat' (first | with_reducible rfl | split | (refine foldl_hostMem _ _ _ ?_; intro _ _) | (refine foldl_fst_hostMem _ _ _ ?_; intro _ _) | (rw [foldl_hostMem]; rotate_left; (intro _ _)) | (rw [foldl_fst_hostMem]; rotate_left; (intro _ _)) | simp only [State.core_modCore, *] | simp)
@[simp] theorem State.dbgCommand_hostMem : ∀ s a1 a2 a3 a4, (State.dbgCommand s a1 a2 a3 a4).hostMem = s.hostMem := by
  intros; unfold State.dbgCommand; dsimp only; repeat' split
  all_goals simp
@[simp] theorem State.dbgServe_hostMem : ∀ s a1 a2 a3 a4, (State.dbgServe s a1 a2 a3 a4).hostMem = s.hostMem := by intros; unfold State.dbgServe; simp
@[simp] theorem State.dbgReply_hostMem : ∀ s a1 a2 a3, (State.dbgReply s a1 a2 a3).hostMem = s.hostMem := by
  intros; unfold State.dbgReply; dsimp only; repeat' split
  all_goals simp
@[simp] theorem State.closeDebug_hostMem : ∀ s a1 a2, (State.closeDebug s a1 a2).hostMem = s.hostMem := by
  intros; unfold State.closeDebug; try dsimp only
  repeat' (first | with_reducible rfl | split | (refine foldl_hostMem _ _ _ ?_; intro _ _) | (refine foldl_fst_hostMem _ _ _ ?_; intro _ _) | (rw [foldl_hostMem]; rotate_left; (intro _ _)) | (rw [foldl_fst_hostMem]; rotate_left; (intro _ _)) | simp only [State.core_modCore, *] | simp)
@[simp] theorem State.closePolicy_hostMem : ∀ s a1, (State.closePolicy s a1).hostMem = s.hostMem := by intros; unfold State.closePolicy; simp
@[simp] theorem State.countDrop_hostMem : ∀ s a1, (State.countDrop s a1).hostMem = s.hostMem := by intros; unfold State.countDrop; split <;> simp
@[simp] theorem State.endRun_hostMem : ∀ s a1, (State.endRun s a1).hostMem = s.hostMem := by
  intros; unfold State.endRun; try dsimp only
  repeat' (first | with_reducible rfl | split | (refine foldl_hostMem _ _ _ ?_; intro _ _) | (refine foldl_fst_hostMem _ _ _ ?_; intro _ _) | (rw [foldl_hostMem]; rotate_left; (intro _ _)) | (rw [foldl_fst_hostMem]; rotate_left; (intro _ _)) | simp only [State.core_modCore, *] | simp)
@[simp] theorem State.modFlow_hostMem : ∀ s a1 a2 a3, (State.modFlow s a1 a2 a3).hostMem = s.hostMem := by intros; rfl
@[simp] theorem State.sendFlit_hostMem : ∀ s a1 a2 a3 a4 a5, (State.sendFlit s a1 a2 a3 a4 a5).hostMem = s.hostMem := by
  intros; unfold State.sendFlit; dsimp only; repeat' split
  all_goals simp
@[simp] theorem State.flowReads_hostMem : ∀ s a1 a2 a3, (State.flowReads s a1 a2 a3).1.hostMem = s.hostMem := by
  intros; unfold State.flowReads; try dsimp only
  repeat' (first | with_reducible rfl | split | (refine foldl_hostMem _ _ _ ?_; intro _ _) | (refine foldl_fst_hostMem _ _ _ ?_; intro _ _) | (rw [foldl_hostMem]; rotate_left; (intro _ _)) | (rw [foldl_fst_hostMem]; rotate_left; (intro _ _)) | simp only [State.core_modCore, *] | simp)
@[simp] theorem State.runReads_hostMem : ∀ s a1 a2, (State.runReads s a1 a2).1.hostMem = s.hostMem := by intros; unfold State.runReads; simp [foldl_fst_hostMem]
@[simp] theorem State.setFault_hostMem : ∀ s a1, (State.setFault s a1).hostMem = s.hostMem := by intros; unfold State.setFault; split <;> simp
@[simp] theorem State.linkFault_hostMem : ∀ s a1 a2, (State.linkFault s a1 a2).hostMem = s.hostMem := by
  intros; unfold State.linkFault; dsimp only; repeat' split
  all_goals simp
@[simp] theorem State.countInc_hostMem : ∀ s a1, (State.countInc s a1).hostMem = s.hostMem := by intros; rfl
@[simp] theorem State.takeFlit_hostMem : ∀ s a1 a2 a3 a4 a5 a6 a7 a8, (State.takeFlit s a1 a2 a3 a4 a5 a6 a7 a8).hostMem = s.hostMem := by
  intros; unfold State.takeFlit; repeat' split
  all_goals simp
@[simp] theorem State.hearArrival_hostMem : ∀ s a1 a2 a3 a4 a5, (State.hearArrival s a1 a2 a3 a4 a5).hostMem = s.hostMem := by
  intros; unfold State.hearArrival; dsimp only; repeat' split
  all_goals simp
@[simp] theorem State.sendBarrier_hostMem : ∀ s a1 a2 a3, (State.sendBarrier s a1 a2 a3).hostMem = s.hostMem := by
  intros; unfold State.sendBarrier; try dsimp only
  repeat' (first | with_reducible rfl | split | (refine foldl_hostMem _ _ _ ?_; intro _ _) | (refine foldl_fst_hostMem _ _ _ ?_; intro _ _) | (rw [foldl_hostMem]; rotate_left; (intro _ _)) | (rw [foldl_fst_hostMem]; rotate_left; (intro _ _)) | simp only [State.core_modCore, *] | simp)
@[simp] theorem State.takeBarrier_hostMem : ∀ s a1 a2 a3, (State.takeBarrier s a1 a2 a3).hostMem = s.hostMem := by
  intros; unfold State.takeBarrier; dsimp only; repeat' split
  all_goals simp
@[simp] theorem State.countBad_hostMem : ∀ s a1, (State.countBad s a1).hostMem = s.hostMem := by intros; unfold State.countBad; split <;> simp
@[simp] theorem State.takeRequest_hostMem : ∀ s a1, (State.takeRequest s a1).hostMem = s.hostMem := by intros; unfold State.takeRequest; split <;> simp
@[simp] theorem State.farRequest_hostMem : ∀ s a1 a2 a3 a4 a5 a6 a7 a8 a9 a10, (State.farRequest s a1 a2 a3 a4 a5 a6 a7 a8 a9 a10).hostMem = s.hostMem := by intros; unfold State.farRequest; simp
@[simp] theorem State.farReply_hostMem : ∀ s a1 a2 a3 a4, (State.farReply s a1 a2 a3 a4).hostMem = s.hostMem := by intros; rfl
@[simp] theorem State.farApplied_hostMem : ∀ s a1 a2 a3, (State.farApplied s a1 a2 a3).hostMem = s.hostMem := by intros; rfl
@[simp] theorem State.heardBy_hostMem : ∀ s a1 a2 a3, (State.heardBy s a1 a2 a3).hostMem = s.hostMem := by
  intros; unfold State.heardBy; dsimp only; repeat' split
  all_goals simp
@[simp] theorem State.sendQueued_hostMem : ∀ s, (State.sendQueued s).hostMem = s.hostMem := by
  intros; unfold State.sendQueued; try dsimp only
  repeat' (first | with_reducible rfl | split | (refine foldl_hostMem _ _ _ ?_; intro _ _) | (refine foldl_fst_hostMem _ _ _ ?_; intro _ _) | (rw [foldl_hostMem]; rotate_left; (intro _ _)) | (rw [foldl_fst_hostMem]; rotate_left; (intro _ _)) | simp only [State.core_modCore, *] | simp)
@[simp] theorem State.askTime_hostMem : ∀ s, (State.askTime s).hostMem = s.hostMem := by
  intros; unfold State.askTime; repeat' split
  all_goals simp
@[simp] theorem State.podTraps_hostMem : ∀ s a1 a2 a3 a4, (State.podTraps s a1 a2 a3 a4).hostMem = s.hostMem := by intros; unfold State.podTraps; simp [foldl_hostMem]
@[simp] theorem State.podTick_hostMem : ∀ s a1, (State.podTick s a1).hostMem = s.hostMem := by
  intros; unfold State.podTick; dsimp only; repeat' split
  all_goals simp
@[simp] theorem State.linkStep_hostMem (s : State) : s.linkStep.hostMem = s.hostMem := by
  unfold State.linkStep
  dsimp only
  rw [State.sendQueued_hostMem, State.askTime_hostMem]
  exact foldl_hostMem _ _ s fun s l => by split <;> simp
@[simp] theorem State.respond_hostMem : ∀ s a1 a2 a3, (State.respond s a1 a2 a3).hostMem = s.hostMem := by intros; rfl
@[simp] theorem State.spdmError_hostMem : ∀ s a1 a2, (State.spdmError s a1 a2).hostMem = s.hostMem := by intros; rfl
@[simp] theorem State.spdmPlain_hostMem : ∀ s a1 a2 a3 a4, (State.spdmPlain s a1 a2 a3 a4).hostMem = s.hostMem := by intros; rfl
@[simp] theorem State.setSession_hostMem : ∀ s a1 a2, (State.setSession s a1 a2).hostMem = s.hostMem := by intros; rfl
@[simp] theorem State.leaveRun_hostMem : ∀ s a1, (State.leaveRun s a1).hostMem = s.hostMem := by intros; unfold State.leaveRun; split <;> simp
@[simp] theorem State.tdispTo_hostMem (s : State) (n : Fin 9) (t : Tdisp) : (s.tdispTo n t).hostMem = s.hostMem := by
  unfold State.tdispTo
  dsimp only
  rw [State.modVf_hostMem]
  split
  · simp
  · rfl
@[simp] theorem State.senseHeat_hostMem : ∀ s a1 a2 a3, (State.senseHeat s a1 a2 a3).hostMem = s.hostMem := by
  intros; unfold State.senseHeat; dsimp only; repeat' split
  all_goals simp
@[simp] theorem State.countUncor_hostMem : ∀ s a1 a2, (State.countUncor s a1 a2).hostMem = s.hostMem := by intros; rfl
@[simp] theorem State.poisonWords_hostMem : ∀ s a1, (State.poisonWords s a1).hostMem = s.hostMem := by intros; rfl
@[simp] theorem State.strikePad_hostMem : ∀ s a1 a2 a3, (State.strikePad s a1 a2 a3).hostMem = s.hostMem := by
  intros; unfold State.strikePad; dsimp only; repeat' split
  all_goals simp
@[simp] theorem State.strikeLoc_hostMem : ∀ s a1 a2 a3 a4, (State.strikeLoc s a1 a2 a3 a4).hostMem = s.hostMem := by intros; unfold State.strikeLoc; split <;> simp
@[simp] theorem State.drawn_hostMem : ∀ s a1 a2, (State.drawn s a1 a2).hostMem = s.hostMem := by intros; rfl
@[simp] theorem State.resultV_hostMem : ∀ s a1 a2 a3 a4 a5, (State.resultV s a1 a2 a3 a4 a5).hostMem = s.hostMem := by intros; rfl
@[simp] theorem State.clearStamps_hostMem : ∀ s a1 a2, (State.clearStamps s a1 a2).hostMem = s.hostMem := by intros; rfl
@[simp] theorem State.takeAnswer_hostMem : ∀ s a1 a2 a3 a4, (State.takeAnswer s a1 a2 a3 a4).hostMem = s.hostMem := by
  intros; unfold State.takeAnswer; dsimp only; repeat' split
  all_goals simp
@[simp] theorem State.setLink_hostMem : ∀ s a1 a2, (State.setLink s a1 a2).hostMem = s.hostMem := by intros; unfold State.setLink; split <;> simp
@[simp] theorem State.enterPackage_hostMem : ∀ s, (State.enterPackage s).hostMem = s.hostMem := by intros; unfold State.enterPackage; simp
@[simp] theorem State.endTick_hostMem : ∀ s, (State.endTick s).hostMem = s.hostMem := by intros; rfl
@[simp] theorem State.withFetchWord_hostMem : ∀ s a1 a2, (State.withFetchWord s a1 a2).hostMem = s.hostMem := by intros; rfl

/-! ### The tile tags -/

theorem foldl_tags {α : Type} (l : List α) (f : State → α → State) (s : State) (h : ∀ s a, (f s a).tags = s.tags) : (l.foldl f s).tags = s.tags := by
  induction l generalizing s with
  | nil => rfl
  | cons a l ih => rw [List.foldl_cons, ih, h]
theorem foldl_fst_tags {α β : Type} (l : List α) (f : State × β → α → State × β) (s : State × β) (h : ∀ s a, (f s a).1.tags = s.1.tags) :
    (l.foldl f s).1.tags = s.1.tags := by
  induction l generalizing s with
  | nil => rfl
  | cons a l ih => rw [List.foldl_cons, ih, h]
@[simp] theorem State.noteLoc_tags : ∀ s a1 a2, (State.noteLoc s a1 a2).tags = s.tags := by
  intros; unfold State.noteLoc; dsimp only; repeat' split
  all_goals simp
@[simp] theorem State.result_tags : ∀ s a1 a2 a3 a4 a5 a6 a7 a8, (State.result s a1 a2 a3 a4 a5 a6 a7 a8).tags = s.tags := by intros; rfl
@[simp] theorem State.resultX_tags : ∀ s a1 a2 a3 a4 a5 a6 a7, (State.resultX s a1 a2 a3 a4 a5 a6 a7).tags = s.tags := by intros; rfl
@[simp] theorem State.writeChunk_tags : ∀ s a1 a2, (State.writeChunk s a1 a2).tags = s.tags := by intros; rfl
@[simp] theorem State.writeLocal_tags : ∀ s a1 a2, (State.writeLocal s a1 a2).tags = s.tags := by intros; rfl
@[simp] theorem State.noteRegs_tags : ∀ s a1 a2, (State.noteRegs s a1 a2).tags = s.tags := by intros; unfold State.noteRegs; simp
@[simp] theorem State.haltMid_tags : ∀ s a1 a2 a3 a4 a5, (State.haltMid s a1 a2 a3 a4 a5).tags = s.tags := by intros; rfl
theorem State.watched_tags (s : State) (f : Focus) (part : Nat) (write : Bool) (touch : Nat → Bool) (perf : State → State) (h : ∀ s, (perf s).tags = s.tags) :
    (s.watched f part write touch perf).tags = s.tags := by
  unfold State.watched; dsimp only
  repeat' split
  all_goals simp [h]
@[simp] theorem State.watchLate_tags : ∀ s a1 a2 a3 a4 a5 a6 a7, (State.watchLate s a1 a2 a3 a4 a5 a6 a7).tags = s.tags := by intros; unfold State.watchLate; split <;> simp
@[simp] theorem State.resultS_tags : ∀ s a1 a2 a3 a4, (State.resultS s a1 a2 a3 a4).tags = s.tags := by intros; unfold State.resultS; split <;> simp
@[simp] theorem State.jumpTo_tags : ∀ s a1 a2, (State.jumpTo s a1 a2).tags = s.tags := by intros; unfold State.jumpTo; split <;> simp
@[simp] theorem State.branch_tags : ∀ s a1 a2 a3, (State.branch s a1 a2 a3).tags = s.tags := by intros; unfold State.branch; split <;> simp
@[simp] theorem State.load_tags (s : State) (f : Focus) (part align : Nat) (party : Party) (l : LdRec) : (s.load f part align party l).tags = s.tags := by
  unfold State.load
  split
  · simp
  · rw [State.watched_tags _ _ _ _ _ _ (fun _ => by simp)]
@[simp] theorem State.storeAt_tags (s : State) (f : Focus) (part ea align : Nat) (touched : List Nat) (touch : Nat → Bool) (w : WKind) :
    (s.storeAt f part ea align touched touch w).tags = s.tags := by
  unfold State.storeAt
  split
  · simp
  · split
    · simp
    · rw [State.watched_tags _ _ _ _ _ _ (fun _ => by simp)]
@[simp] theorem State.storeW_tags : ∀ s a1 a2 a3 a4 a5 a6, (State.storeW s a1 a2 a3 a4 a5 a6).tags = s.tags := by intros; unfold State.storeW; simp
@[simp] theorem State.noteReads_tags : ∀ s a1 a2, (State.noteReads s a1 a2).tags = s.tags := by
  intros; unfold State.noteReads; dsimp only; repeat' split
  all_goals simp
@[simp] theorem State.noteChunks_tags : ∀ s a1 a2, (State.noteChunks s a1 a2).tags = s.tags := by intros; unfold State.noteChunks; simp
@[simp] theorem State.report_tags : ∀ s a1 a2 a3 a4, (State.report s a1 a2 a3 a4).tags = s.tags := by
  intros; unfold State.report; dsimp only; repeat' split
  all_goals simp
@[simp] theorem State.failAcc_tags : ∀ s a1 a2 a3 a4, (State.failAcc s a1 a2 a3 a4).tags = s.tags := by intros; unfold State.failAcc; split <;> simp
@[simp] theorem State.zeroTile_tags : ∀ s a1 a2 a3, (State.zeroTile s a1 a2 a3).tags = s.tags := by
  intros; unfold State.zeroTile; try dsimp only
  repeat' (first | with_reducible rfl | split | (refine foldl_tags _ _ _ ?_; intro _ _) | (refine foldl_fst_tags _ _ _ ?_; intro _ _) | (rw [foldl_tags]; rotate_left; (intro _ _)) | (rw [foldl_fst_tags]; rotate_left; (intro _ _)) | simp only [State.core_modCore, *] | simp)
@[simp] theorem State.watchWrites_tags : ∀ s a1 a2 a3, (State.watchWrites s a1 a2 a3).tags = s.tags := by
  intros; unfold State.watchWrites; try dsimp only
  repeat' (first | with_reducible rfl | split | (refine foldl_tags _ _ _ ?_; intro _ _) | (refine foldl_fst_tags _ _ _ ?_; intro _ _) | (rw [foldl_tags]; rotate_left; (intro _ _)) | (rw [foldl_fst_tags]; rotate_left; (intro _ _)) | simp only [State.core_modCore, *] | simp)
@[simp] theorem State.scrambleStacks_tags : ∀ s a1 a2, (State.scrambleStacks s a1 a2).tags = s.tags := by intros; rfl
@[simp] theorem State.otherKeys_tags : ∀ s a1 a2, (State.otherKeys s a1 a2).tags = s.tags := by intros; rfl
@[simp] theorem State.putHbm_tags : ∀ s a1 a2 a3 a4, (State.putHbm s a1 a2 a3 a4).tags = s.tags := by intros; rfl
@[simp] theorem State.sendTimed_tags : ∀ s a1 a2 a3 a4 a5, (State.sendTimed s a1 a2 a3 a4 a5).tags = s.tags := by
  intros; unfold State.sendTimed; dsimp only; repeat' split
  all_goals simp
@[simp] theorem State.matEnter_tags : ∀ s a1 a2 a3 a4 a5, (State.matEnter s a1 a2 a3 a4 a5).tags = s.tags := by intros; rfl
@[simp] theorem State.planEnter_tags : ∀ s a1 a2, (State.planEnter s a1 a2).tags = s.tags := by intros; rfl
@[simp] theorem State.matTrap_tags : ∀ s a1 a2 a3 a4 a5 a6, (State.matTrap s a1 a2 a3 a4 a5 a6).tags = s.tags := by intros; rfl
@[simp] theorem State.backTrap_tags : ∀ s a1 a2, (State.backTrap s a1 a2).tags = s.tags := by
  intros; unfold State.backTrap; dsimp only; repeat' split
  all_goals simp
theorem State.matRun_tags (s : State) (f : Focus) (p : MatPlan) (also : State → State) (h : ∀ s, (also s).tags = s.tags) : (s.matRun f p also).tags = s.tags := by
  unfold State.matRun
  split
  · simp
  · simp [h]
@[simp] theorem State.modFace_tags : ∀ s a1 a2, (State.modFace s a1 a2).tags = s.tags := by intros; rfl
@[simp] theorem State.setArr_tags : ∀ s a1 a2 a3 a4, (State.setArr s a1 a2 a3 a4).tags = s.tags := by intros; unfold State.setArr; split <;> simp
@[simp] theorem State.setFfmt_tags : ∀ s a1 a2 a3 a4 a5, (State.setFfmt s a1 a2 a3 a4 a5).tags = s.tags := by intros; unfold State.setFfmt; split <;> simp
@[simp] theorem State.mdrDrawn_tags : ∀ s a1 a2, (State.mdrDrawn s a1 a2).tags = s.tags := by intros; unfold State.mdrDrawn; split <;> simp
@[simp] theorem State.rowReady_tags : ∀ s a1 a2 a3 a4 a5 a6 a7 a8 a9, (State.rowReady s a1 a2 a3 a4 a5 a6 a7 a8 a9).tags = s.tags := by intros; unfold State.rowReady; simp
@[simp] theorem State.keepGot_tags : ∀ s a1 a2 a3 a4 a5 a6, (State.keepGot s a1 a2 a3 a4 a5 a6).tags = s.tags := by intros; rfl
@[simp] theorem State.transposeAll_tags : ∀ s a1 a2, (State.transposeAll s a1 a2).tags = s.tags := by intros; unfold State.transposeAll; simp [foldl_tags]
@[simp] theorem State.loadBlock_tags : ∀ s a1 a2 a3 a4, (State.loadBlock s a1 a2 a3 a4).tags = s.tags := by intros; rfl
@[simp] theorem State.rowRead_tags : ∀ s a1 a2 a3 a4 a5, (State.rowRead s a1 a2 a3 a4 a5).tags = s.tags := by
  intros; unfold State.rowRead; dsimp only; repeat' split
  all_goals simp
@[simp] theorem State.drainRow_tags : ∀ s a1 a2 a3, (State.drainRow s a1 a2 a3).tags = s.tags := by
  intros; unfold State.drainRow; dsimp only; repeat' split
  all_goals simp
@[simp] theorem State.requestRows_tags : ∀ s a1 a2, (State.requestRows s a1 a2).tags = s.tags := by
  intros; unfold State.requestRows; try dsimp only
  repeat' (first | with_reducible rfl | split | (refine foldl_tags _ _ _ ?_; intro _ _) | (refine foldl_fst_tags _ _ _ ?_; intro _ _) | (rw [foldl_tags]; rotate_left; (intro _ _)) | (rw [foldl_fst_tags]; rotate_left; (intro _ _)) | simp only [State.core_modCore, *] | simp)
@[simp] theorem State.matBegin_tags : ∀ s a1, (State.matBegin s a1).tags = s.tags := by
  intros; unfold State.matBegin; try dsimp only
  repeat' (first | with_reducible rfl | split | (refine foldl_tags _ _ _ ?_; intro _ _) | (refine foldl_fst_tags _ _ _ ?_; intro _ _) | (rw [foldl_tags]; rotate_left; (intro _ _)) | (rw [foldl_fst_tags]; rotate_left; (intro _ _)) | simp only [State.core_modCore, *] | simp)
@[simp] theorem State.matRequests_tags : ∀ s a1, (State.matRequests s a1).tags = s.tags := by
  intros; unfold State.matRequests; try dsimp only
  repeat' (first | with_reducible rfl | split | (refine foldl_tags _ _ _ ?_; intro _ _) | (refine foldl_fst_tags _ _ _ ?_; intro _ _) | (rw [foldl_tags]; rotate_left; (intro _ _)) | (rw [foldl_fst_tags]; rotate_left; (intro _ _)) | simp only [State.core_modCore, *] | simp)
@[simp] theorem State.landRow_tags : ∀ s a1 a2 a3, (State.landRow s a1 a2 a3).tags = s.tags := by
  intros; unfold State.landRow; try dsimp only
  repeat' (first | with_reducible rfl | split | (refine foldl_tags _ _ _ ?_; intro _ _) | (refine foldl_fst_tags _ _ _ ?_; intro _ _) | (rw [foldl_tags]; rotate_left; (intro _ _)) | (rw [foldl_fst_tags]; rotate_left; (intro _ _)) | simp only [State.core_modCore, *] | simp)
@[simp] theorem State.enqueue_tags : ∀ s a1 a2 a3, (State.enqueue s a1 a2 a3).tags = s.tags := by
  intros; unfold State.enqueue; dsimp only; repeat' split
  all_goals simp
@[simp] theorem State.cmdTrap_tags : ∀ s a1 a2 a3 a4, (State.cmdTrap s a1 a2 a3 a4).tags = s.tags := by intros; rfl
@[simp] theorem State.tableRead_tags : ∀ s a1 a2 a3, (State.tableRead s a1 a2 a3).tags = s.tags := by
  intros; unfold State.tableRead; dsimp only; repeat' split
  all_goals simp
@[simp] theorem State.sendRrd_tags : ∀ s a1 a2 a3, (State.sendRrd s a1 a2 a3).tags = s.tags := by intros; unfold State.sendRrd; simp [foldl_tags]
@[simp] theorem State.memberKnown_tags : ∀ s a1 a2 a3 a4 a5, (State.memberKnown s a1 a2 a3 a4 a5).tags = s.tags := by intros; rfl
@[simp] theorem State.pieceRead_tags : ∀ s a1 a2 a3 a4, (State.pieceRead s a1 a2 a3 a4).tags = s.tags := by
  intros; unfold State.pieceRead; try dsimp only
  repeat' (first | with_reducible rfl | split | (refine foldl_tags _ _ _ ?_; intro _ _) | (refine foldl_fst_tags _ _ _ ?_; intro _ _) | (rw [foldl_tags]; rotate_left; (intro _ _)) | (rw [foldl_fst_tags]; rotate_left; (intro _ _)) | simp only [State.core_modCore, *] | simp)
@[simp] theorem State.endWalks_tags : ∀ s a1, (State.endWalks s a1).tags = s.tags := by
  intros; unfold State.endWalks; try dsimp only
  repeat' (first | with_reducible rfl | split | (refine foldl_tags _ _ _ ?_; intro _ _) | (refine foldl_fst_tags _ _ _ ?_; intro _ _) | (rw [foldl_tags]; rotate_left; (intro _ _)) | (rw [foldl_fst_tags]; rotate_left; (intro _ _)) | simp only [State.core_modCore, *] | simp)
@[simp] theorem State.landWalk_tags : ∀ s a1 a2, (State.landWalk s a1 a2).tags = s.tags := by intros; unfold State.landWalk; split <;> simp
@[simp] theorem State.queuePacket_tags : ∀ s a1 a2 a3, (State.queuePacket s a1 a2 a3).tags = s.tags := by
  intros; unfold State.queuePacket; dsimp only; repeat' split
  all_goals simp
@[simp] theorem State.sendOpen_tags : ∀ s a1 a2 a3 a4, (State.sendOpen s a1 a2 a3 a4).tags = s.tags := by
  intros; unfold State.sendOpen; dsimp only; repeat' split
  all_goals simp
@[simp] theorem State.stamp_tags : ∀ s a1 a2, (State.stamp s a1 a2).2.tags = s.tags := by intros; rfl
@[simp] theorem State.noteSent_tags : ∀ s a1 a2 a3, (State.noteSent s a1 a2 a3).tags = s.tags := by
  intros; unfold State.noteSent; repeat' split
  all_goals simp
@[simp] theorem State.sendHome_tags : ∀ s a1 a2 a3 a4 a5, (State.sendHome s a1 a2 a3 a4 a5).tags = s.tags := by
  intros; unfold State.sendHome; dsimp only; repeat' split
  all_goals simp
@[simp] theorem State.sendFar_tags : ∀ s a1 a2 a3 a4, (State.sendFar s a1 a2 a3 a4).tags = s.tags := by
  intros; unfold State.sendFar; dsimp only; repeat' split
  all_goals simp
@[simp] theorem State.sendReq_tags : ∀ s a1 a2 a3 a4 a5, (State.sendReq s a1 a2 a3 a4 a5).tags = s.tags := by
  intros; unfold State.sendReq; try dsimp only
  repeat' (first | with_reducible rfl | split | (refine foldl_tags _ _ _ ?_; intro _ _) | (refine foldl_fst_tags _ _ _ ?_; intro _ _) | (rw [foldl_tags]; rotate_left; (intro _ _)) | (rw [foldl_fst_tags]; rotate_left; (intro _ _)) | simp only [State.core_modCore, *] | simp)
@[simp] theorem State.leaveHeld_tags : ∀ s a1, (State.leaveHeld s a1).tags = s.tags := by
  intros; unfold State.leaveHeld; dsimp only; repeat' split
  all_goals simp
@[simp] theorem State.takeEntry_tags : ∀ s a1 a2 a3, (State.takeEntry s a1 a2 a3).tags = s.tags := by intros; rfl
@[simp] theorem State.gstData_tags : ∀ s a1 a2 a3, (State.gstData s a1 a2 a3).tags = s.tags := by
  intros; unfold State.gstData; dsimp only; repeat' split
  all_goals simp
@[simp] theorem State.gatomLeave_tags : ∀ s a1, (State.gatomLeave s a1).tags = s.tags := by
  intros; unfold State.gatomLeave; try dsimp only
  repeat' (first | with_reducible rfl | split | (refine foldl_tags _ _ _ ?_; intro _ _) | (refine foldl_fst_tags _ _ _ ?_; intro _ _) | (rw [foldl_tags]; rotate_left; (intro _ _)) | (rw [foldl_fst_tags]; rotate_left; (intro _ _)) | simp only [State.core_modCore, *] | simp)
@[simp] theorem State.noteDone_tags : ∀ s a1 a2, (State.noteDone s a1 a2).tags = s.tags := by intros; rfl
@[simp] theorem State.cancelReqs_tags : ∀ s a1 a2, (State.cancelReqs s a1 a2).tags = s.tags := by
  intros; unfold State.cancelReqs; try dsimp only
  repeat' (first | with_reducible rfl | split | (refine foldl_tags _ _ _ ?_; intro _ _) | (refine foldl_fst_tags _ _ _ ?_; intro _ _) | (rw [foldl_tags]; rotate_left; (intro _ _)) | (rw [foldl_fst_tags]; rotate_left; (intro _ _)) | simp only [State.core_modCore, *] | simp)
@[simp] theorem State.setShadows_tags : ∀ s a1, (State.setShadows s a1).tags = s.tags := by intros; rfl
@[simp] theorem State.logRace_tags : ∀ s a1 a2 a3 a4, (State.logRace s a1 a2 a3 a4).tags = s.tags := by intros; rfl
@[simp] theorem State.setStamps_tags : ∀ s a1 a2 a3, (State.setStamps s a1 a2 a3).tags = s.tags := by intros; rfl
@[simp] theorem State.homeWrite_tags : ∀ s a1 a2 a3 a4 a5, (State.homeWrite s a1 a2 a3 a4 a5).tags = s.tags := by intros; unfold State.homeWrite; split <;> simp
@[simp] theorem State.homeAnswer_tags : ∀ s a1 a2 a3 a4 a5, (State.homeAnswer s a1 a2 a3 a4 a5).tags = s.tags := by intros; unfold State.homeAnswer; split <;> simp
@[simp] theorem State.dropReq_tags : ∀ s a1, (State.dropReq s a1).tags = s.tags := by intros; rfl
@[simp] theorem State.reqDone_tags : ∀ s a1, (State.reqDone s a1).tags = s.tags := by intros; unfold State.reqDone; split <;> simp
@[simp] theorem State.logRaces_tags : ∀ s a1 a2, (State.logRaces s a1 a2).tags = s.tags := by intros; unfold State.logRaces; simp [foldl_tags]
@[simp] theorem State.noteRace_tags : ∀ s a1 a2, (State.noteRace s a1 a2).tags = s.tags := by intros; unfold State.noteRace; simp
@[simp] theorem State.homeChunk_tags : ∀ s a1 a2, (State.homeChunk s a1 a2).tags = s.tags := by intros; unfold State.homeChunk; simp
@[simp] theorem State.homeAtom_tags : ∀ s a1, (State.homeAtom s a1).tags = s.tags := by intros; unfold State.homeAtom; simp
@[simp] theorem State.takeReply_tags : ∀ s a1, (State.takeReply s a1).tags = s.tags := by
  intros; unfold State.takeReply; dsimp only; repeat' split
  all_goals simp
@[simp] theorem State.releaseEvent_tags : ∀ s a1 a2 a3 a4, (State.releaseEvent s a1 a2 a3 a4).tags = s.tags := by
  intros; unfold State.releaseEvent; try dsimp only
  repeat' (first | with_reducible rfl | split | (refine foldl_tags _ _ _ ?_; intro _ _) | (refine foldl_fst_tags _ _ _ ?_; intro _ _) | (rw [foldl_tags]; rotate_left; (intro _ _)) | (rw [foldl_fst_tags]; rotate_left; (intro _ _)) | simp only [State.core_modCore, *] | simp)
@[simp] theorem State.acquireEvent_tags : ∀ s a1 a2 a3 a4, (State.acquireEvent s a1 a2 a3 a4).tags = s.tags := by intros; rfl
@[simp] theorem State.fenceTell_tags (s : State) (c : CoreId) (q : FenceSt) : (s.fenceTell c q).tags = s.tags := by
  unfold State.fenceTell
  cases q.rel
  · exact State.modCore_tags _ _ _
  · exact (State.modCore_tags _ _ _).trans (State.releaseEvent_tags _ _ _ _ _)
@[simp] theorem State.fenceDone_tags : ∀ s a1 a2, (State.fenceDone s a1 a2).tags = s.tags := by intros; unfold State.fenceDone; split <;> simp
@[simp] theorem State.fenceStep_tags : ∀ s a1, (State.fenceStep s a1).tags = s.tags := by
  intros; unfold State.fenceStep; dsimp only; repeat' split
  all_goals simp
@[simp] theorem State.fbRead_tags : ∀ s a1 a2 a3 a4, (State.fbRead s a1 a2 a3 a4).tags = s.tags := by intros; unfold State.fbRead; simp
@[simp] theorem State.fbUpdate_tags : ∀ s a1 a2 a3 a4 a5, (State.fbUpdate s a1 a2 a3 a4 a5).tags = s.tags := by intros; unfold State.fbUpdate; simp
@[simp] theorem State.badSkip_tags : ∀ s a1 a2, (State.badSkip s a1 a2).tags = s.tags := by intros; rfl
@[simp] theorem State.haulWait_tags : ∀ s a1 a2, (State.haulWait s a1 a2).tags = s.tags := by intros; unfold State.haulWait; split <;> simp
@[simp] theorem State.haulUpdate_tags : ∀ s a1 a2 a3 a4 a5 a6 a7, (State.haulUpdate s a1 a2 a3 a4 a5 a6 a7).tags = s.tags := by intros; unfold State.haulUpdate; split <;> simp
@[simp] theorem State.resultY_tags : ∀ s a1 a2 a3 a4, (State.resultY s a1 a2 a3 a4).tags = s.tags := by intros; rfl
@[simp] theorem State.dropHaul_tags : ∀ s a1 a2, (State.dropHaul s a1 a2).tags = s.tags := by intros; rfl
@[simp] theorem State.putHaul_tags : ∀ s a1 a2 a3, (State.putHaul s a1 a2 a3).tags = s.tags := by intros; rfl
@[simp] theorem State.wakeAt_tags : ∀ s a1 a2 a3, (State.wakeAt s a1 a2 a3).tags = s.tags := by intros; rfl
@[simp] theorem State.wakeOn_tags : ∀ s a1 a2 a3, (State.wakeOn s a1 a2 a3).tags = s.tags := by intros; rfl
@[simp] theorem State.failHaul_tags : ∀ s a1 a2, (State.failHaul s a1 a2).tags = s.tags := by intros; rfl
@[simp] theorem State.capture_tags : ∀ s a1 a2 a3, (State.capture s a1 a2 a3).tags = s.tags := by intros; rfl
@[simp] theorem State.deliver_tags : ∀ s a1 a2 a3 a4 a5 a6, (State.deliver s a1 a2 a3 a4 a5 a6).tags = s.tags := by
  intros; unfold State.deliver; dsimp only; repeat' split
  all_goals simp
@[simp] theorem State.haulRead_tags : ∀ s a1 a2 a3, (State.haulRead s a1 a2 a3).tags = s.tags := by intros; unfold State.haulRead; split <;> simp
@[simp] theorem State.haulApply_tags : ∀ s a1 a2 a3, (State.haulApply s a1 a2 a3).tags = s.tags := by
  intros; unfold State.haulApply; dsimp only; repeat' split
  all_goals simp
@[simp] theorem State.haulCheck_tags : ∀ s a1 a2 a3, (State.haulCheck s a1 a2 a3).tags = s.tags := by
  intros; unfold State.haulCheck; repeat' split
  all_goals simp
@[simp] theorem State.haulBoard_tags : ∀ s a1 a2 a3, (State.haulBoard s a1 a2 a3).tags = s.tags := by
  intros; unfold State.haulBoard; dsimp only; repeat' split
  all_goals simp
@[simp] theorem State.tryArrive_tags : ∀ s a1 a2, (State.tryArrive s a1 a2).tags = s.tags := by
  intros; unfold State.tryArrive; dsimp only; repeat' split
  all_goals simp
@[simp] theorem State.barDone_tags (s : State) (c : CoreId) (k : CtxId) (level tick : Nat) : (s.barDone c k level tick).tags = s.tags := by
  unfold State.barDone
  dsimp only
  generalize hx : s.modCtx c k _ = x
  have h : (x.releaseEvent c k (barScope level) tick).tags = s.tags := by rw [State.releaseEvent_tags, ← hx, State.modCtx_tags]
  generalize x.releaseEvent c k (barScope level) tick = u at h
  split
  · rw [State.wakeAt_tags, State.acquireEvent_tags, h]
  · rw [State.modCtx_tags, h]
@[simp] theorem State.barWake_tags (s : State) (c : CoreId) (lk tick : Nat) : (s.barWake c lk tick).tags = s.tags := by
  unfold State.barWake
  refine foldl_tags _ _ s fun s i => ?_
  dsimp only
  generalize s.ctx c i = x
  split
  · split
    · exact State.barDone_tags _ _ _ _ _
    · rfl
  · rfl
@[simp] theorem State.barMet_tags : ∀ s a1 a2 a3, (State.barMet s a1 a2 a3).tags = s.tags := by
  intros; unfold State.barMet; dsimp only; repeat' split
  all_goals simp
@[simp] theorem State.seeBits_tags : ∀ s a1 a2 a3 a4, (State.seeBits s a1 a2 a3 a4).tags = s.tags := by intros; rfl
@[simp] theorem State.barInvert_tags : ∀ s a1 a2 a3 a4, (State.barInvert s a1 a2 a3 a4).tags = s.tags := by
  intros; unfold State.barInvert; dsimp only; repeat' split
  all_goals simp
@[simp] theorem State.barCheck_tags : ∀ s a1 a2 a3, (State.barCheck s a1 a2 a3).tags = s.tags := by
  intros; unfold State.barCheck; dsimp only; repeat' split
  all_goals simp
@[simp] theorem State.passUser_tags (s : State) (c : CoreId) (n : Nat) : (s.passUser c n).tags = s.tags := by
  have h1 : ∀ (l : List HaulOp) (s : State), (l.foldl (fun s u => s.haulRead c n u) s).tags = s.tags := fun l s => foldl_tags l _ s fun s u => by simp
  have h2 : ∀ (l : List HaulOp) (s : State), (l.foldl (fun s u => s.haulApply c n u) s).tags = s.tags := fun l s => foldl_tags l _ s fun s u => by simp
  have h3 : ∀ (l : List HaulOp) (s : State), (l.foldl (fun s u => s.haulCheck c n u) s).tags = s.tags := fun l s => foldl_tags l _ s fun s u => by simp
  unfold State.passUser
  generalize hl : (fun (s : State) (u : HaulOp) => if s.now ≤ u.after + 360 then s.haulBoard c n u else s) = g
  have h4 : ∀ (l : List HaulOp) (s : State), (l.foldl g s).tags = s.tags := fun l s => foldl_tags l _ s fun s u => by rw [← hl]; dsimp only; split <;> simp
  simp only [h1, h2, h3, h4]
@[simp] theorem State.passSystem_tags : ∀ s a1 a2, (State.passSystem s a1 a2).tags = s.tags := by intros; unfold State.passSystem; simp [foldl_tags]
@[simp] theorem State.fbDone_tags : ∀ s a1 a2, (State.fbDone s a1 a2).tags = s.tags := by
  intros; unfold State.fbDone; repeat' split
  all_goals simp
@[simp] theorem State.loopPush_tags : ∀ s a1 a2, (State.loopPush s a1 a2).tags = s.tags := by
  intros; unfold State.loopPush; dsimp only; repeat' split
  all_goals simp
@[simp] theorem State.loopBreak_tags : ∀ s a1, (State.loopBreak s a1).tags = s.tags := by intros; unfold State.loopBreak; split <;> simp
@[simp] theorem State.tryLock_tags : ∀ s a1 a2 a3, (State.tryLock s a1 a2 a3).2.tags = s.tags := by
  intros; unfold State.tryLock; dsimp only; repeat' split
  all_goals simp
@[simp] theorem State.retryLocks_tags : ∀ s a1, (State.retryLocks s a1).tags = s.tags := by
  intros; unfold State.retryLocks; try dsimp only
  repeat' (first | with_reducible rfl | split | (refine foldl_tags _ _ _ ?_; intro _ _) | (refine foldl_fst_tags _ _ _ ?_; intro _ _) | (rw [foldl_tags]; rotate_left; (intro _ _)) | (rw [foldl_fst_tags]; rotate_left; (intro _ _)) | simp only [State.core_modCore, *] | simp)
@[simp] theorem State.postRecord_tags : ∀ s a1 a2 a3 a4, (State.postRecord s a1 a2 a3 a4).tags = s.tags := by
  intros; unfold State.postRecord; dsimp only; repeat' split
  all_goals simp
@[simp] theorem State.decideAbort_tags : ∀ s a1 a2 a3 a4, (State.decideAbort s a1 a2 a3 a4).tags = s.tags := by intros; rfl
@[simp] theorem State.linkAbort_tags : ∀ s a1 a2 a3 a4, (State.linkAbort s a1 a2 a3 a4).tags = s.tags := by intros; unfold State.linkAbort; split <;> simp
@[simp] theorem State.failAny_tags : ∀ s a1 a2 a3 a4, (State.failAny s a1 a2 a3 a4).tags = s.tags := by intros; unfold State.failAny; split <;> simp
@[simp] theorem State.leaveEntry_tags : ∀ s a1 a2 a3 a4 a5 a6, (State.leaveEntry s a1 a2 a3 a4 a5 a6).tags = s.tags := by
  intros; unfold State.leaveEntry; dsimp only; repeat' split
  all_goals simp
@[simp] theorem State.release_tags : ∀ s a1 a2 a3 a4, (State.release s a1 a2 a3 a4).tags = s.tags := by
  intros; unfold State.release; try dsimp only
  repeat' (first | with_reducible rfl | split | (refine foldl_tags _ _ _ ?_; intro _ _) | (refine foldl_fst_tags _ _ _ ?_; intro _ _) | (rw [foldl_tags]; rotate_left; (intro _ _)) | (rw [foldl_fst_tags]; rotate_left; (intro _ _)) | simp only [State.core_modCore, *] | simp)
@[simp] theorem State.sendLeaving_tags : ∀ s a1, (State.sendLeaving s a1).tags = s.tags := by intros; unfold State.sendLeaving; simp [foldl_tags]
@[simp] theorem State.landMembers_tags : ∀ s a1, (State.landMembers s a1).tags = s.tags := by intros; unfold State.landMembers; simp [foldl_tags]
@[simp] theorem State.loadDone_tags : ∀ s a1 a2 a3, (State.loadDone s a1 a2 a3).tags = s.tags := by
  intros; unfold State.loadDone; dsimp only; repeat' split
  all_goals simp
@[simp] theorem State.matRow_tags : ∀ s a1 a2 a3 a4, (State.matRow s a1 a2 a3 a4).tags = s.tags := by
  intros; unfold State.matRow; repeat' split
  all_goals simp
@[simp] theorem State.replyHome_tags : ∀ s a1 a2 a3 a4, (State.replyHome s a1 a2 a3 a4).tags = s.tags := by intros; unfold State.replyHome; split <;> simp
@[simp] theorem State.replyTo_tags : ∀ s a1 a2 a3, (State.replyTo s a1 a2 a3).tags = s.tags := by
  intros; unfold State.replyTo; repeat' split
  all_goals simp
@[simp] theorem State.amoStage_tags : ∀ s a1 a2 a3 a4, (State.amoStage s a1 a2 a3 a4).tags = s.tags := by
  intros; unfold State.amoStage; dsimp only; repeat' split
  all_goals simp
@[simp] theorem State.readAcc_tags : ∀ s a1 a2, (State.readAcc s a1 a2).tags = s.tags := by
  intros; unfold State.readAcc; dsimp only; repeat' split
  all_goals simp
@[simp] theorem State.amoWrite_tags : ∀ s a1 a2 a3, (State.amoWrite s a1 a2 a3).tags = s.tags := by
  intros; unfold State.amoWrite; try dsimp only
  repeat' (first | with_reducible rfl | split | (refine foldl_tags _ _ _ ?_; intro _ _) | (refine foldl_fst_tags _ _ _ ?_; intro _ _) | (rw [foldl_tags]; rotate_left; (intro _ _)) | (rw [foldl_fst_tags]; rotate_left; (intro _ _)) | simp only [State.core_modCore, *] | simp)
@[simp] theorem State.hauWrite_tags : ∀ s a1 a2 a3 a4 a5, (State.hauWrite s a1 a2 a3 a4 a5).tags = s.tags := by
  intros; unfold State.hauWrite; dsimp only; repeat' split
  all_goals simp
@[simp] theorem State.memberDone_tags : ∀ s a1 a2 a3, (State.memberDone s a1 a2 a3).tags = s.tags := by
  intros; unfold State.memberDone; repeat' split
  all_goals simp
@[simp] theorem State.readOne_tags : ∀ s a1 a2, (State.readOne s a1 a2).tags = s.tags := by
  intros; unfold State.readOne; repeat' split
  all_goals simp
@[simp] theorem State.failLost_tags : ∀ s a1 a2, (State.failLost s a1 a2).tags = s.tags := by
  intros; unfold State.failLost; repeat' split
  all_goals simp
@[simp] theorem State.startRefetch_tags : ∀ s a1 a2, (State.startRefetch s a1 a2).tags = s.tags := by
  intros; unfold State.startRefetch; dsimp only; repeat' split
  all_goals simp
@[simp] theorem State.lateFails_tags : ∀ s a1 a2, (State.lateFails s a1 a2).tags = s.tags := by intros; unfold State.lateFails; simp
@[simp] theorem State.openCycle_tags : ∀ s a1, (State.openCycle s a1).tags = s.tags := by intros; unfold State.openCycle; simp
@[simp] theorem State.haltBoundary_tags (s : State) (c : CoreId) (s1 : State) (r : Nat) : (s.haltBoundary c s1 r).tags = s.tags := rfl

@[simp] theorem State.beginPeriod_tags (s : State) (c : CoreId) : (s.beginPeriod c).tags = s.tags := by
  unfold State.beginPeriod
  generalize hu : ((s.endWalks c).landMembers c).modCore c _ = u
  have h : u.tags = s.tags := by rw [← hu]; simp
  dsimp only
  repeat' split
  all_goals simp [h]
@[simp] theorem State.settleClaims_tags : ∀ s a1 a2, (State.settleClaims s a1 a2).tags = s.tags := by intros; rfl
@[simp] theorem State.takeCheckpoint_tags : ∀ s a1, (State.takeCheckpoint s a1).tags = s.tags := by intros; rfl
@[simp] theorem State.yieldTrap_tags : ∀ s a1, (State.yieldTrap s a1).tags = s.tags := by intros; rfl
@[simp] theorem State.yieldRelease_tags : ∀ s a1, (State.yieldRelease s a1).tags = s.tags := by
  intros; unfold State.yieldRelease; dsimp only; repeat' split
  all_goals simp
@[simp] theorem State.startBundle_tags : ∀ s a1 a2 a3, (State.startBundle s a1 a2 a3).tags = s.tags := by intros; unfold State.startBundle; simp
@[simp] theorem State.openIssue_tags : ∀ s a1, (State.openIssue s a1).tags = s.tags := by
  intros; unfold State.openIssue; dsimp only; repeat' split
  all_goals simp
@[simp] theorem State.endBundle_tags : ∀ s a1, (State.endBundle s a1).tags = s.tags := by
  intros; unfold State.endBundle; dsimp only; repeat' split
  all_goals simp
@[simp] theorem State.profile_tags : ∀ s a1, (State.profile s a1).tags = s.tags := by
  intros; unfold State.profile; dsimp only; repeat' split
  all_goals simp
@[simp] theorem State.closeCycle_tags : ∀ s a1, (State.closeCycle s a1).tags = s.tags := by intros; unfold State.closeCycle; simp
@[simp] theorem State.flood_tags : ∀ s a1, (State.flood s a1).tags = s.tags := by
  intros; unfold State.flood; try dsimp only
  repeat' (first | with_reducible rfl | split | (refine foldl_tags _ _ _ ?_; intro _ _) | (refine foldl_fst_tags _ _ _ ?_; intro _ _) | (rw [foldl_tags]; rotate_left; (intro _ _)) | (rw [foldl_fst_tags]; rotate_left; (intro _ _)) | simp only [State.core_modCore, *] | simp)
@[simp] theorem State.floodLoss_tags : ∀ s a1, (State.floodLoss s a1).tags = s.tags := by intros; unfold State.floodLoss; split <;> simp
@[simp] theorem State.purgeTraps_tags : ∀ s a1, (State.purgeTraps s a1).tags = s.tags := by intros; rfl
@[simp] theorem State.unclaim_tags : ∀ s a1 a2 a3 a4, (State.unclaim s a1 a2 a3 a4).tags = s.tags := by intros; rfl
@[simp] theorem State.dropClaims_tags : ∀ s a1 a2, (State.dropClaims s a1 a2).tags = s.tags := by
  intros; unfold State.dropClaims; try dsimp only
  repeat' (first | with_reducible rfl | split | (refine foldl_tags _ _ _ ?_; intro _ _) | (refine foldl_fst_tags _ _ _ ?_; intro _ _) | (rw [foldl_tags]; rotate_left; (intro _ _)) | (rw [foldl_fst_tags]; rotate_left; (intro _ _)) | simp only [State.core_modCore, *] | simp)
@[simp] theorem State.dropWire_tags : ∀ s a1, (State.dropWire s a1).tags = s.tags := by intros; rfl
@[simp] theorem State.discard_tags : ∀ s a1 a2 a3, (State.discard s a1 a2 a3).tags = s.tags := by intros; unfold State.discard; simp
@[simp] theorem State.rollBack_tags : ∀ s a1 a2 a3, (State.rollBack s a1 a2 a3).tags = s.tags := by intros; unfold State.rollBack; simp
@[simp] theorem State.stopOn_tags (s : State) (c : CoreId) (lk : Nat) : (s.stopOn c lk).tags = s.tags := by
  unfold State.stopOn
  generalize hg : (fun (s : State) (i : CtxId) => if (s.ctx c i).lk = some lk then _ else s) = g
  have h4 : ∀ (l : List CtxId) (s : State), (l.foldl g s).tags = s.tags := fun l s => foldl_tags l _ s fun s u => by rw [← hg]; dsimp only; split <;> simp
  simp only [State.modCore_tags, h4]
@[simp] theorem State.stopLaunch_tags (s : State) (lk : Nat) : (s.stopLaunch lk).tags = s.tags := by
  unfold State.stopLaunch
  generalize List.finRange 324 = l
  simp only [State.modLaunch_tags]
  exact foldl_tags l _ s fun s c => by split <;> simp
@[simp] theorem State.noteStale_tags : ∀ s a1, (State.noteStale s a1).tags = s.tags := by intros; unfold State.noteStale; split <;> simp
@[simp] theorem State.tellAbort_tags : ∀ s a1, (State.tellAbort s a1).tags = s.tags := by
  intros; unfold State.tellAbort; repeat' split
  all_goals simp
@[simp] theorem State.badCmd_tags : ∀ s a1, (State.badCmd s a1).tags = s.tags := by intros; rfl
@[simp] theorem State.tenantPut_tags : ∀ s a1 a2 a3 a4, (State.tenantPut s a1 a2 a3 a4).tags = s.tags := by
  intros; unfold State.tenantPut; try dsimp only
  repeat' (first | with_reducible rfl | split | (refine foldl_tags _ _ _ ?_; intro _ _) | (refine foldl_fst_tags _ _ _ ?_; intro _ _) | (rw [foldl_tags]; rotate_left; (intro _ _)) | (rw [foldl_fst_tags]; rotate_left; (intro _ _)) | simp only [State.core_modCore, *] | simp)
@[simp] theorem State.prune_tags : ∀ s a1, (State.prune s a1).tags = s.tags := by intros; rfl
@[simp] theorem State.dequeue_tags : ∀ s a1, (State.dequeue s a1).tags = s.tags := by intros; unfold State.dequeue; split <;> simp
@[simp] theorem State.dropVector_tags : ∀ s a1 a2, (State.dropVector s a1 a2).tags = s.tags := by intros; rfl
@[simp] theorem State.recordEnd_tags : ∀ s a1 a2 a3, (State.recordEnd s a1 a2 a3).tags = s.tags := by
  intros; unfold State.recordEnd; dsimp only; repeat' split
  all_goals simp
@[simp] theorem State.writeRecord_tags : ∀ s a1, (State.writeRecord s a1).tags = s.tags := by
  intros; unfold State.writeRecord; repeat' split
  all_goals simp
@[simp] theorem State.takeRecord_tags : ∀ s a1 a2 a3 a4 a5, (State.takeRecord s a1 a2 a3 a4 a5).tags = s.tags := by
  intros; unfold State.takeRecord; dsimp only; repeat' split
  all_goals simp
@[simp] theorem State.endLaunch_tags : ∀ s a1 a2 a3 a4, (State.endLaunch s a1 a2 a3 a4).tags = s.tags := by
  intros; unfold State.endLaunch; dsimp only; repeat' split
  all_goals simp
@[simp] theorem State.reject_tags : ∀ s a1 a2 a3, (State.reject s a1 a2 a3).tags = s.tags := by intros; unfold State.reject; simp
@[simp] theorem State.clearShift_tags : ∀ s a1, (State.clearShift s a1).tags = s.tags := by
  intros; unfold State.clearShift; repeat' split
  all_goals simp
@[simp] theorem State.askYield_tags : ∀ s a1, (State.askYield s a1).tags = s.tags := by
  intros; unfold State.askYield; repeat' split
  all_goals simp
@[simp] theorem State.resume_tags : ∀ s a1, (State.resume s a1).tags = s.tags := by
  intros; unfold State.resume; try dsimp only
  repeat' (first | with_reducible rfl | split | (refine foldl_tags _ _ _ ?_; intro _ _) | (refine foldl_fst_tags _ _ _ ?_; intro _ _) | (rw [foldl_tags]; rotate_left; (intro _ _)) | (rw [foldl_fst_tags]; rotate_left; (intro _ _)) | simp only [State.core_modCore, *] | simp)
@[simp] theorem State.swapResume_tags (s : State) (part : Nat) : (s.swapResume part).tags = s.tags := by
  unfold State.swapResume
  split
  · cases s.resumable part [] <;> simp
  · rfl
@[simp] theorem State.startRec_tags : ∀ s a1 a2, (State.startRec s a1 a2).tags = s.tags := by intros; unfold State.startRec; split <;> simp
@[simp] theorem State.retireCore_tags : ∀ s a1 a2 a3, (State.retireCore s a1 a2 a3).tags = s.tags := by intros; unfold State.retireCore; simp
@[simp] theorem State.freeSkips_tags : ∀ s a1, (State.freeSkips s a1).tags = s.tags := by
  intros; unfold State.freeSkips; try dsimp only
  repeat' (first | with_reducible rfl | split | (refine foldl_tags _ _ _ ?_; intro _ _) | (refine foldl_fst_tags _ _ _ ?_; intro _ _) | (rw [foldl_tags]; rotate_left; (intro _ _)) | (rw [foldl_fst_tags]; rotate_left; (intro _ _)) | simp only [State.core_modCore, *] | simp)
@[simp] theorem State.saveCore_tags (s : State) (lk : Nat) (keep : Bool) (c : CoreId) : (s.saveCore lk keep c).tags = s.tags := by
  unfold State.saveCore
  dsimp only
  rw [State.tickFree_tags, State.modCore_tags, State.noteLoc_tags]
  split <;> simp
@[simp] theorem State.putBits_tags : ∀ s a1 a2, (State.putBits s a1 a2).tags = s.tags := by intros; unfold State.putBits; split <;> simp
@[simp] theorem State.swapRecord_tags : ∀ s a1, (State.swapRecord s a1).tags = s.tags := by intros; unfold State.swapRecord; simp
@[simp] theorem State.unparkDone_tags : ∀ s a1, (State.unparkDone s a1).tags = s.tags := by
  intros; unfold State.unparkDone; dsimp only; repeat' split
  all_goals simp
@[simp] theorem State.denied_tags : ∀ s, (State.denied s).tags = s.tags := by intros; rfl
@[simp] theorem State.swapRefused_tags : ∀ s a1 a2, (State.swapRefused s a1 a2).tags = s.tags := by intros; rfl
@[simp] theorem State.rejudgeYields_tags : ∀ s a1, (State.rejudgeYields s a1).tags = s.tags := by
  intros; unfold State.rejudgeYields; try dsimp only
  repeat' (first | with_reducible rfl | split | (refine foldl_tags _ _ _ ?_; intro _ _) | (refine foldl_fst_tags _ _ _ ?_; intro _ _) | (rw [foldl_tags]; rotate_left; (intro _ _)) | (rw [foldl_fst_tags]; rotate_left; (intro _ _)) | simp only [State.core_modCore, *] | simp)
@[simp] theorem State.fixYields_tags : ∀ s, (State.fixYields s).tags = s.tags := by
  intros; unfold State.fixYields; try dsimp only
  repeat' (first | with_reducible rfl | split | (refine foldl_tags _ _ _ ?_; intro _ _) | (refine foldl_fst_tags _ _ _ ?_; intro _ _) | (rw [foldl_tags]; rotate_left; (intro _ _)) | (rw [foldl_fst_tags]; rotate_left; (intro _ _)) | simp only [State.core_modCore, *] | simp)
@[simp] theorem State.takeImage_tags : ∀ s a1 a2 a3, (State.takeImage s a1 a2 a3).tags = s.tags := by intros; unfold State.takeImage; split <;> simp
@[simp] theorem State.refuseImage_tags : ∀ s a1 a2 a3 a4, (State.refuseImage s a1 a2 a3 a4).tags = s.tags := by intros; unfold State.refuseImage; simp [foldl_tags]
@[simp] theorem State.stopStream_tags : ∀ s a1 a2, (State.stopStream s a1 a2).tags = s.tags := by intros; unfold State.stopStream; simp [foldl_tags]
@[simp] theorem State.setBusy_tags : ∀ s, (State.setBusy s).tags = s.tags := by intros; rfl
@[simp] theorem State.rekeyDie_tags : ∀ s a1 a2, (State.rekeyDie s a1 a2).tags = s.tags := by
  intros; unfold State.rekeyDie; dsimp only; repeat' split
  all_goals simp
@[simp] theorem State.dropCached_tags : ∀ s a1 a2 a3, (State.dropCached s a1 a2 a3).tags = s.tags := by intros; unfold State.dropCached; split <;> simp
@[simp] theorem State.wcinvStep_tags : ∀ s a1, (State.wcinvStep s a1).tags = s.tags := by intros; unfold State.wcinvStep; simp [foldl_tags]
@[simp] theorem State.markStale_tags : ∀ s a1 a2 a3, (State.markStale s a1 a2 a3).tags = s.tags := by
  intros; unfold State.markStale; try dsimp only
  repeat' (first | with_reducible rfl | split | (refine foldl_tags _ _ _ ?_; intro _ _) | (refine foldl_fst_tags _ _ _ ?_; intro _ _) | (rw [foldl_tags]; rotate_left; (intro _ _)) | (rw [foldl_fst_tags]; rotate_left; (intro _ _)) | simp only [State.core_modCore, *] | simp)
@[simp] theorem State.bsinvStep_tags : ∀ s, (State.bsinvStep s).tags = s.tags := by
  intros; unfold State.bsinvStep; try dsimp only
  repeat' (first | with_reducible rfl | split | (refine foldl_tags _ _ _ ?_; intro _ _) | (refine foldl_fst_tags _ _ _ ?_; intro _ _) | (rw [foldl_tags]; rotate_left; (intro _ _)) | (rw [foldl_fst_tags]; rotate_left; (intro _ _)) | simp only [State.core_modCore, *] | simp)
@[simp] theorem State.acknowledge_tags : ∀ s, (State.acknowledge s).tags = s.tags := by intros; unfold State.acknowledge; simp [foldl_tags]
@[simp] theorem State.clearShadows_tags : ∀ s a1, (State.clearShadows s a1).tags = s.tags := by intros; rfl
@[simp] theorem State.writePf_tags : ∀ s a1 a2, (State.writePf s a1 a2).tags = s.tags := by
  intros; unfold State.writePf; dsimp only; repeat' split
  all_goals simp
@[simp] theorem State.dbgRead_tags : ∀ s a1 a2 a3 a4 a5, (State.dbgRead s a1 a2 a3 a4 a5).1.tags = s.tags := by
  intros; unfold State.dbgRead; dsimp only; repeat' split
  all_goals simp
@[simp] theorem State.dbgWrite_tags : ∀ s a1 a2 a3 a4 a5 a6, (State.dbgWrite s a1 a2 a3 a4 a5 a6).1.tags = s.tags := by
  intros; unfold State.dbgWrite; try dsimp only
  repeat' (first | with_reducible rfl | split | (refine foldl_tags _ _ _ ?_; intro _ _) | (refine foldl_fst_tags _ _ _ ?_; intro _ _) | (rw [foldl_tags]; rotate_left; (intro _ _)) | (rw [foldl_fst_tags]; rotate_left; (intro _ _)) | simp only [State.core_modCore, *] | simp)
@[simp] theorem State.dbgLocal_tags : ∀ s a1 a2 a3 a4, (State.dbgLocal s a1 a2 a3 a4).1.tags = s.tags := by
  intros; unfold State.dbgLocal; try dsimp only
  repeat' (first | with_reducible rfl | split | (refine foldl_tags _ _ _ ?_; intro _ _) | (refine foldl_fst_tags _ _ _ ?_; intro _ _) | (rw [foldl_tags]; rotate_left; (intro _ _)) | (rw [foldl_fst_tags]; rotate_left; (intro _ _)) | simp only [State.core_modCore, *] | simp)
@[simp] theorem State.dbgEnd_tags : ∀ s a1 a2, (State.dbgEnd s a1 a2).tags = s.tags := by intros; rfl
@[simp] theorem State.dbgResult_tags : ∀ s a1 a2 a3 a4, (State.dbgResult s a1 a2 a3 a4).tags = s.tags := by intros; unfold State.dbgResult; split <;> simp
@[simp] theorem State.dbgForward_tags : ∀ s a1 a2 a3 a4, (State.dbgForward s a1 a2 a3 a4).tags = s.tags := by
  intros; unfold State.dbgForward; try dsimp only
  repeat' (first | with_reducible rfl | split | (refine foldl_tags _ _ _ ?_; intro _ _) | (refine foldl_fst_tags _ _ _ ?_; intro _ _) | (rw [foldl_tags]; rotate_left; (intro _ _)) | (rw [foldl_fst_tags]; rotate_left; (intro _ _)) | simp only [State.core_modCore, *] | simp)
@[simp] theorem State.dbgCommand_tags : ∀ s a1 a2 a3 a4, (State.dbgCommand s a1 a2 a3 a4).tags = s.tags := by
  intros; unfold State.dbgCommand; dsimp only; repeat' split
  all_goals simp
@[simp] theorem State.dbgServe_tags : ∀ s a1 a2 a3 a4, (State.dbgServe s a1 a2 a3 a4).tags = s.tags := by intros; unfold State.dbgServe; simp
@[simp] theorem State.dbgReply_tags : ∀ s a1 a2 a3, (State.dbgReply s a1 a2 a3).tags = s.tags := by
  intros; unfold State.dbgReply; dsimp only; repeat' split
  all_goals simp
@[simp] theorem State.closeDebug_tags : ∀ s a1 a2, (State.closeDebug s a1 a2).tags = s.tags := by
  intros; unfold State.closeDebug; try dsimp only
  repeat' (first | with_reducible rfl | split | (refine foldl_tags _ _ _ ?_; intro _ _) | (refine foldl_fst_tags _ _ _ ?_; intro _ _) | (rw [foldl_tags]; rotate_left; (intro _ _)) | (rw [foldl_fst_tags]; rotate_left; (intro _ _)) | simp only [State.core_modCore, *] | simp)
@[simp] theorem State.closePolicy_tags : ∀ s a1, (State.closePolicy s a1).tags = s.tags := by intros; unfold State.closePolicy; simp
@[simp] theorem State.countDrop_tags : ∀ s a1, (State.countDrop s a1).tags = s.tags := by intros; unfold State.countDrop; split <;> simp
@[simp] theorem State.endRun_tags : ∀ s a1, (State.endRun s a1).tags = s.tags := by
  intros; unfold State.endRun; try dsimp only
  repeat' (first | with_reducible rfl | split | (refine foldl_tags _ _ _ ?_; intro _ _) | (refine foldl_fst_tags _ _ _ ?_; intro _ _) | (rw [foldl_tags]; rotate_left; (intro _ _)) | (rw [foldl_fst_tags]; rotate_left; (intro _ _)) | simp only [State.core_modCore, *] | simp)
@[simp] theorem State.modFlow_tags : ∀ s a1 a2 a3, (State.modFlow s a1 a2 a3).tags = s.tags := by intros; rfl
@[simp] theorem State.sendFlit_tags : ∀ s a1 a2 a3 a4 a5, (State.sendFlit s a1 a2 a3 a4 a5).tags = s.tags := by
  intros; unfold State.sendFlit; dsimp only; repeat' split
  all_goals simp
@[simp] theorem State.flowReads_tags : ∀ s a1 a2 a3, (State.flowReads s a1 a2 a3).1.tags = s.tags := by
  intros; unfold State.flowReads; try dsimp only
  repeat' (first | with_reducible rfl | split | (refine foldl_tags _ _ _ ?_; intro _ _) | (refine foldl_fst_tags _ _ _ ?_; intro _ _) | (rw [foldl_tags]; rotate_left; (intro _ _)) | (rw [foldl_fst_tags]; rotate_left; (intro _ _)) | simp only [State.core_modCore, *] | simp)
@[simp] theorem State.runReads_tags : ∀ s a1 a2, (State.runReads s a1 a2).1.tags = s.tags := by intros; unfold State.runReads; simp [foldl_fst_tags]
@[simp] theorem State.setFault_tags : ∀ s a1, (State.setFault s a1).tags = s.tags := by intros; unfold State.setFault; split <;> simp
@[simp] theorem State.linkFault_tags : ∀ s a1 a2, (State.linkFault s a1 a2).tags = s.tags := by
  intros; unfold State.linkFault; dsimp only; repeat' split
  all_goals simp
@[simp] theorem State.countInc_tags : ∀ s a1, (State.countInc s a1).tags = s.tags := by intros; rfl
@[simp] theorem State.takeFlit_tags : ∀ s a1 a2 a3 a4 a5 a6 a7 a8, (State.takeFlit s a1 a2 a3 a4 a5 a6 a7 a8).tags = s.tags := by
  intros; unfold State.takeFlit; repeat' split
  all_goals simp
@[simp] theorem State.hearArrival_tags : ∀ s a1 a2 a3 a4 a5, (State.hearArrival s a1 a2 a3 a4 a5).tags = s.tags := by
  intros; unfold State.hearArrival; dsimp only; repeat' split
  all_goals simp
@[simp] theorem State.sendBarrier_tags : ∀ s a1 a2 a3, (State.sendBarrier s a1 a2 a3).tags = s.tags := by
  intros; unfold State.sendBarrier; try dsimp only
  repeat' (first | with_reducible rfl | split | (refine foldl_tags _ _ _ ?_; intro _ _) | (refine foldl_fst_tags _ _ _ ?_; intro _ _) | (rw [foldl_tags]; rotate_left; (intro _ _)) | (rw [foldl_fst_tags]; rotate_left; (intro _ _)) | simp only [State.core_modCore, *] | simp)
@[simp] theorem State.takeBarrier_tags : ∀ s a1 a2 a3, (State.takeBarrier s a1 a2 a3).tags = s.tags := by
  intros; unfold State.takeBarrier; dsimp only; repeat' split
  all_goals simp
@[simp] theorem State.countBad_tags : ∀ s a1, (State.countBad s a1).tags = s.tags := by intros; unfold State.countBad; split <;> simp
@[simp] theorem State.takeRequest_tags : ∀ s a1, (State.takeRequest s a1).tags = s.tags := by intros; unfold State.takeRequest; split <;> simp
@[simp] theorem State.farRequest_tags : ∀ s a1 a2 a3 a4 a5 a6 a7 a8 a9 a10, (State.farRequest s a1 a2 a3 a4 a5 a6 a7 a8 a9 a10).tags = s.tags := by intros; unfold State.farRequest; simp
@[simp] theorem State.farReply_tags : ∀ s a1 a2 a3 a4, (State.farReply s a1 a2 a3 a4).tags = s.tags := by intros; rfl
@[simp] theorem State.farApplied_tags : ∀ s a1 a2 a3, (State.farApplied s a1 a2 a3).tags = s.tags := by intros; rfl
@[simp] theorem State.heardBy_tags : ∀ s a1 a2 a3, (State.heardBy s a1 a2 a3).tags = s.tags := by
  intros; unfold State.heardBy; dsimp only; repeat' split
  all_goals simp
@[simp] theorem State.openPacket_tags : ∀ s a1 a2 a3, (State.openPacket s a1 a2 a3).tags = s.tags := by
  intros; unfold State.openPacket; try dsimp only
  repeat' (first | with_reducible rfl | split | (refine foldl_tags _ _ _ ?_; intro _ _) | (refine foldl_fst_tags _ _ _ ?_; intro _ _) | (rw [foldl_tags]; rotate_left; (intro _ _)) | (rw [foldl_fst_tags]; rotate_left; (intro _ _)) | simp only [State.core_modCore, *] | simp)
@[simp] theorem State.openEnd_tags : ∀ s a1 a2 a3, (State.openEnd s a1 a2 a3).tags = s.tags := by
  intros; unfold State.openEnd; dsimp only; repeat' split
  all_goals simp
@[simp] theorem State.sendQueued_tags : ∀ s, (State.sendQueued s).tags = s.tags := by
  intros; unfold State.sendQueued; try dsimp only
  repeat' (first | with_reducible rfl | split | (refine foldl_tags _ _ _ ?_; intro _ _) | (refine foldl_fst_tags _ _ _ ?_; intro _ _) | (rw [foldl_tags]; rotate_left; (intro _ _)) | (rw [foldl_fst_tags]; rotate_left; (intro _ _)) | simp only [State.core_modCore, *] | simp)
@[simp] theorem State.askTime_tags : ∀ s, (State.askTime s).tags = s.tags := by
  intros; unfold State.askTime; repeat' split
  all_goals simp
@[simp] theorem State.podTraps_tags : ∀ s a1 a2 a3 a4, (State.podTraps s a1 a2 a3 a4).tags = s.tags := by intros; unfold State.podTraps; simp [foldl_tags]
@[simp] theorem State.podTick_tags : ∀ s a1, (State.podTick s a1).tags = s.tags := by
  intros; unfold State.podTick; dsimp only; repeat' split
  all_goals simp
@[simp] theorem State.linkStep_tags (s : State) : s.linkStep.tags = s.tags := by
  unfold State.linkStep
  dsimp only
  rw [State.sendQueued_tags, State.askTime_tags]
  exact foldl_tags _ _ s fun s l => by split <;> simp
@[simp] theorem State.respond_tags : ∀ s a1 a2 a3, (State.respond s a1 a2 a3).tags = s.tags := by intros; rfl
@[simp] theorem State.spdmError_tags : ∀ s a1 a2, (State.spdmError s a1 a2).tags = s.tags := by intros; rfl
@[simp] theorem State.spdmPlain_tags : ∀ s a1 a2 a3 a4, (State.spdmPlain s a1 a2 a3 a4).tags = s.tags := by intros; rfl
@[simp] theorem State.setSession_tags : ∀ s a1 a2, (State.setSession s a1 a2).tags = s.tags := by intros; rfl
@[simp] theorem State.leaveRun_tags : ∀ s a1, (State.leaveRun s a1).tags = s.tags := by intros; unfold State.leaveRun; split <;> simp
@[simp] theorem State.tdispTo_tags (s : State) (n : Fin 9) (t : Tdisp) : (s.tdispTo n t).tags = s.tags := by
  unfold State.tdispTo
  dsimp only
  rw [State.modVf_tags]
  split
  · simp
  · rfl
@[simp] theorem State.senseHeat_tags : ∀ s a1 a2 a3, (State.senseHeat s a1 a2 a3).tags = s.tags := by
  intros; unfold State.senseHeat; dsimp only; repeat' split
  all_goals simp
@[simp] theorem State.countUncor_tags : ∀ s a1 a2, (State.countUncor s a1 a2).tags = s.tags := by intros; rfl
@[simp] theorem State.poisonWords_tags : ∀ s a1, (State.poisonWords s a1).tags = s.tags := by intros; rfl
@[simp] theorem State.strikePad_tags : ∀ s a1 a2 a3, (State.strikePad s a1 a2 a3).tags = s.tags := by
  intros; unfold State.strikePad; dsimp only; repeat' split
  all_goals simp
@[simp] theorem State.strikeLoc_tags : ∀ s a1 a2 a3 a4, (State.strikeLoc s a1 a2 a3 a4).tags = s.tags := by intros; unfold State.strikeLoc; split <;> simp
@[simp] theorem State.drawn_tags : ∀ s a1 a2, (State.drawn s a1 a2).tags = s.tags := by intros; rfl
@[simp] theorem State.resultV_tags : ∀ s a1 a2 a3 a4 a5, (State.resultV s a1 a2 a3 a4 a5).tags = s.tags := by intros; rfl
@[simp] theorem State.clearStamps_tags : ∀ s a1 a2, (State.clearStamps s a1 a2).tags = s.tags := by intros; rfl
@[simp] theorem State.hostPut_tags : ∀ s a1 a2 a3, (State.hostPut s a1 a2 a3).tags = s.tags := by
  intros; unfold State.hostPut; try dsimp only
  repeat' (first | with_reducible rfl | split | (refine foldl_tags _ _ _ ?_; intro _ _) | (refine foldl_fst_tags _ _ _ ?_; intro _ _) | (rw [foldl_tags]; rotate_left; (intro _ _)) | (rw [foldl_fst_tags]; rotate_left; (intro _ _)) | simp only [State.core_modCore, *] | simp)
@[simp] theorem State.takeAnswer_tags : ∀ s a1 a2 a3 a4, (State.takeAnswer s a1 a2 a3 a4).tags = s.tags := by
  intros; unfold State.takeAnswer; dsimp only; repeat' split
  all_goals simp
@[simp] theorem State.setLink_tags : ∀ s a1 a2, (State.setLink s a1 a2).tags = s.tags := by intros; unfold State.setLink; split <;> simp
@[simp] theorem State.enterPackage_tags : ∀ s, (State.enterPackage s).tags = s.tags := by intros; unfold State.enterPackage; simp
@[simp] theorem State.endTick_tags : ∀ s, (State.endTick s).tags = s.tags := by intros; rfl
@[simp] theorem State.withFetchWord_tags : ∀ s a1 a2, (State.withFetchWord s a1 a2).tags = s.tags := by intros; rfl

/-! ### The poison marks -/

theorem foldl_poison {α : Type} (l : List α) (f : State → α → State) (s : State) (h : ∀ s a, (f s a).poison = s.poison) : (l.foldl f s).poison = s.poison := by
  induction l generalizing s with
  | nil => rfl
  | cons a l ih => rw [List.foldl_cons, ih, h]
theorem foldl_fst_poison {α β : Type} (l : List α) (f : State × β → α → State × β) (s : State × β) (h : ∀ s a, (f s a).1.poison = s.1.poison) :
    (l.foldl f s).1.poison = s.1.poison := by
  induction l generalizing s with
  | nil => rfl
  | cons a l ih => rw [List.foldl_cons, ih, h]
@[simp] theorem State.noteLoc_poison : ∀ s a1 a2, (State.noteLoc s a1 a2).poison = s.poison := by
  intros; unfold State.noteLoc; dsimp only; repeat' split
  all_goals simp
@[simp] theorem State.result_poison : ∀ s a1 a2 a3 a4 a5 a6 a7 a8, (State.result s a1 a2 a3 a4 a5 a6 a7 a8).poison = s.poison := by intros; rfl
@[simp] theorem State.resultX_poison : ∀ s a1 a2 a3 a4 a5 a6 a7, (State.resultX s a1 a2 a3 a4 a5 a6 a7).poison = s.poison := by intros; rfl
@[simp] theorem State.noteRegs_poison : ∀ s a1 a2, (State.noteRegs s a1 a2).poison = s.poison := by intros; unfold State.noteRegs; simp
@[simp] theorem State.haltMid_poison : ∀ s a1 a2 a3 a4 a5, (State.haltMid s a1 a2 a3 a4 a5).poison = s.poison := by intros; rfl
theorem State.watched_poison (s : State) (f : Focus) (part : Nat) (write : Bool) (touch : Nat → Bool) (perf : State → State) (h : ∀ s, (perf s).poison = s.poison) :
    (s.watched f part write touch perf).poison = s.poison := by
  unfold State.watched; dsimp only
  repeat' split
  all_goals simp [h]
@[simp] theorem State.watchLate_poison : ∀ s a1 a2 a3 a4 a5 a6 a7, (State.watchLate s a1 a2 a3 a4 a5 a6 a7).poison = s.poison := by intros; unfold State.watchLate; split <;> simp
@[simp] theorem State.resultS_poison : ∀ s a1 a2 a3 a4, (State.resultS s a1 a2 a3 a4).poison = s.poison := by intros; unfold State.resultS; split <;> simp
@[simp] theorem State.jumpTo_poison : ∀ s a1 a2, (State.jumpTo s a1 a2).poison = s.poison := by intros; unfold State.jumpTo; split <;> simp
@[simp] theorem State.branch_poison : ∀ s a1 a2 a3, (State.branch s a1 a2 a3).poison = s.poison := by intros; unfold State.branch; split <;> simp
@[simp] theorem State.load_poison (s : State) (f : Focus) (part align : Nat) (party : Party) (l : LdRec) : (s.load f part align party l).poison = s.poison := by
  unfold State.load
  split
  · simp
  · rw [State.watched_poison _ _ _ _ _ _ (fun _ => by simp)]
@[simp] theorem State.storeAt_poison (s : State) (f : Focus) (part ea align : Nat) (touched : List Nat) (touch : Nat → Bool) (w : WKind) :
    (s.storeAt f part ea align touched touch w).poison = s.poison := by
  unfold State.storeAt
  split
  · simp
  · split
    · simp
    · rw [State.watched_poison _ _ _ _ _ _ (fun _ => by simp)]
@[simp] theorem State.storeW_poison : ∀ s a1 a2 a3 a4 a5 a6, (State.storeW s a1 a2 a3 a4 a5 a6).poison = s.poison := by intros; unfold State.storeW; simp
@[simp] theorem State.noteReads_poison : ∀ s a1 a2, (State.noteReads s a1 a2).poison = s.poison := by
  intros; unfold State.noteReads; dsimp only; repeat' split
  all_goals simp
@[simp] theorem State.noteChunks_poison : ∀ s a1 a2, (State.noteChunks s a1 a2).poison = s.poison := by intros; unfold State.noteChunks; simp
@[simp] theorem State.report_poison : ∀ s a1 a2 a3 a4, (State.report s a1 a2 a3 a4).poison = s.poison := by
  intros; unfold State.report; dsimp only; repeat' split
  all_goals simp
@[simp] theorem State.failAcc_poison : ∀ s a1 a2 a3 a4, (State.failAcc s a1 a2 a3 a4).poison = s.poison := by intros; unfold State.failAcc; split <;> simp
@[simp] theorem State.watchWrites_poison : ∀ s a1 a2 a3, (State.watchWrites s a1 a2 a3).poison = s.poison := by
  intros; unfold State.watchWrites; try dsimp only
  repeat' (first | with_reducible rfl | split | (refine foldl_poison _ _ _ ?_; intro _ _) | (refine foldl_fst_poison _ _ _ ?_; intro _ _) | (rw [foldl_poison]; rotate_left; (intro _ _)) | (rw [foldl_fst_poison]; rotate_left; (intro _ _)) | simp only [State.core_modCore, *] | simp)
@[simp] theorem State.scrambleStacks_poison : ∀ s a1 a2, (State.scrambleStacks s a1 a2).poison = s.poison := by intros; rfl
@[simp] theorem State.otherKeys_poison : ∀ s a1 a2, (State.otherKeys s a1 a2).poison = s.poison := by intros; rfl
@[simp] theorem State.sendTimed_poison : ∀ s a1 a2 a3 a4 a5, (State.sendTimed s a1 a2 a3 a4 a5).poison = s.poison := by
  intros; unfold State.sendTimed; dsimp only; repeat' split
  all_goals simp
@[simp] theorem State.matEnter_poison : ∀ s a1 a2 a3 a4 a5, (State.matEnter s a1 a2 a3 a4 a5).poison = s.poison := by intros; rfl
@[simp] theorem State.planEnter_poison : ∀ s a1 a2, (State.planEnter s a1 a2).poison = s.poison := by intros; rfl
@[simp] theorem State.matTrap_poison : ∀ s a1 a2 a3 a4 a5 a6, (State.matTrap s a1 a2 a3 a4 a5 a6).poison = s.poison := by intros; rfl
@[simp] theorem State.backTrap_poison : ∀ s a1 a2, (State.backTrap s a1 a2).poison = s.poison := by
  intros; unfold State.backTrap; dsimp only; repeat' split
  all_goals simp
theorem State.matRun_poison (s : State) (f : Focus) (p : MatPlan) (also : State → State) (h : ∀ s, (also s).poison = s.poison) : (s.matRun f p also).poison = s.poison := by
  unfold State.matRun
  split
  · simp
  · simp [h]
@[simp] theorem State.modFace_poison : ∀ s a1 a2, (State.modFace s a1 a2).poison = s.poison := by intros; rfl
@[simp] theorem State.setArr_poison : ∀ s a1 a2 a3 a4, (State.setArr s a1 a2 a3 a4).poison = s.poison := by intros; unfold State.setArr; split <;> simp
@[simp] theorem State.setFfmt_poison : ∀ s a1 a2 a3 a4 a5, (State.setFfmt s a1 a2 a3 a4 a5).poison = s.poison := by intros; unfold State.setFfmt; split <;> simp
@[simp] theorem State.mdrDrawn_poison : ∀ s a1 a2, (State.mdrDrawn s a1 a2).poison = s.poison := by intros; unfold State.mdrDrawn; split <;> simp
@[simp] theorem State.rowReady_poison : ∀ s a1 a2 a3 a4 a5 a6 a7 a8 a9, (State.rowReady s a1 a2 a3 a4 a5 a6 a7 a8 a9).poison = s.poison := by intros; unfold State.rowReady; simp
@[simp] theorem State.keepGot_poison : ∀ s a1 a2 a3 a4 a5 a6, (State.keepGot s a1 a2 a3 a4 a5 a6).poison = s.poison := by intros; rfl
@[simp] theorem State.transposeAll_poison : ∀ s a1 a2, (State.transposeAll s a1 a2).poison = s.poison := by intros; unfold State.transposeAll; simp [foldl_poison]
@[simp] theorem State.loadBlock_poison : ∀ s a1 a2 a3 a4, (State.loadBlock s a1 a2 a3 a4).poison = s.poison := by intros; rfl
@[simp] theorem State.rowRead_poison : ∀ s a1 a2 a3 a4 a5, (State.rowRead s a1 a2 a3 a4 a5).poison = s.poison := by
  intros; unfold State.rowRead; dsimp only; repeat' split
  all_goals simp
@[simp] theorem State.drainRow_poison : ∀ s a1 a2 a3, (State.drainRow s a1 a2 a3).poison = s.poison := by
  intros; unfold State.drainRow; dsimp only; repeat' split
  all_goals simp
@[simp] theorem State.requestRows_poison : ∀ s a1 a2, (State.requestRows s a1 a2).poison = s.poison := by
  intros; unfold State.requestRows; try dsimp only
  repeat' (first | with_reducible rfl | split | (refine foldl_poison _ _ _ ?_; intro _ _) | (refine foldl_fst_poison _ _ _ ?_; intro _ _) | (rw [foldl_poison]; rotate_left; (intro _ _)) | (rw [foldl_fst_poison]; rotate_left; (intro _ _)) | simp only [State.core_modCore, *] | simp)
@[simp] theorem State.matBegin_poison : ∀ s a1, (State.matBegin s a1).poison = s.poison := by
  intros; unfold State.matBegin; try dsimp only
  repeat' (first | with_reducible rfl | split | (refine foldl_poison _ _ _ ?_; intro _ _) | (refine foldl_fst_poison _ _ _ ?_; intro _ _) | (rw [foldl_poison]; rotate_left; (intro _ _)) | (rw [foldl_fst_poison]; rotate_left; (intro _ _)) | simp only [State.core_modCore, *] | simp)
@[simp] theorem State.matRequests_poison : ∀ s a1, (State.matRequests s a1).poison = s.poison := by
  intros; unfold State.matRequests; try dsimp only
  repeat' (first | with_reducible rfl | split | (refine foldl_poison _ _ _ ?_; intro _ _) | (refine foldl_fst_poison _ _ _ ?_; intro _ _) | (rw [foldl_poison]; rotate_left; (intro _ _)) | (rw [foldl_fst_poison]; rotate_left; (intro _ _)) | simp only [State.core_modCore, *] | simp)
@[simp] theorem State.landRow_poison : ∀ s a1 a2 a3, (State.landRow s a1 a2 a3).poison = s.poison := by
  intros; unfold State.landRow; try dsimp only
  repeat' (first | with_reducible rfl | split | (refine foldl_poison _ _ _ ?_; intro _ _) | (refine foldl_fst_poison _ _ _ ?_; intro _ _) | (rw [foldl_poison]; rotate_left; (intro _ _)) | (rw [foldl_fst_poison]; rotate_left; (intro _ _)) | simp only [State.core_modCore, *] | simp)
@[simp] theorem State.enqueue_poison : ∀ s a1 a2 a3, (State.enqueue s a1 a2 a3).poison = s.poison := by
  intros; unfold State.enqueue; dsimp only; repeat' split
  all_goals simp
@[simp] theorem State.cmdTrap_poison : ∀ s a1 a2 a3 a4, (State.cmdTrap s a1 a2 a3 a4).poison = s.poison := by intros; rfl
@[simp] theorem State.tableRead_poison : ∀ s a1 a2 a3, (State.tableRead s a1 a2 a3).poison = s.poison := by
  intros; unfold State.tableRead; dsimp only; repeat' split
  all_goals simp
@[simp] theorem State.sendRrd_poison : ∀ s a1 a2 a3, (State.sendRrd s a1 a2 a3).poison = s.poison := by intros; unfold State.sendRrd; simp [foldl_poison]
@[simp] theorem State.memberKnown_poison : ∀ s a1 a2 a3 a4 a5, (State.memberKnown s a1 a2 a3 a4 a5).poison = s.poison := by intros; rfl
@[simp] theorem State.pieceRead_poison : ∀ s a1 a2 a3 a4, (State.pieceRead s a1 a2 a3 a4).poison = s.poison := by
  intros; unfold State.pieceRead; try dsimp only
  repeat' (first | with_reducible rfl | split | (refine foldl_poison _ _ _ ?_; intro _ _) | (refine foldl_fst_poison _ _ _ ?_; intro _ _) | (rw [foldl_poison]; rotate_left; (intro _ _)) | (rw [foldl_fst_poison]; rotate_left; (intro _ _)) | simp only [State.core_modCore, *] | simp)
@[simp] theorem State.endWalks_poison : ∀ s a1, (State.endWalks s a1).poison = s.poison := by
  intros; unfold State.endWalks; try dsimp only
  repeat' (first | with_reducible rfl | split | (refine foldl_poison _ _ _ ?_; intro _ _) | (refine foldl_fst_poison _ _ _ ?_; intro _ _) | (rw [foldl_poison]; rotate_left; (intro _ _)) | (rw [foldl_fst_poison]; rotate_left; (intro _ _)) | simp only [State.core_modCore, *] | simp)
@[simp] theorem State.landWalk_poison : ∀ s a1 a2, (State.landWalk s a1 a2).poison = s.poison := by intros; unfold State.landWalk; split <;> simp
@[simp] theorem State.queuePacket_poison : ∀ s a1 a2 a3, (State.queuePacket s a1 a2 a3).poison = s.poison := by
  intros; unfold State.queuePacket; dsimp only; repeat' split
  all_goals simp
@[simp] theorem State.sendOpen_poison : ∀ s a1 a2 a3 a4, (State.sendOpen s a1 a2 a3 a4).poison = s.poison := by
  intros; unfold State.sendOpen; dsimp only; repeat' split
  all_goals simp
@[simp] theorem State.stamp_poison : ∀ s a1 a2, (State.stamp s a1 a2).2.poison = s.poison := by intros; rfl
@[simp] theorem State.noteSent_poison : ∀ s a1 a2 a3, (State.noteSent s a1 a2 a3).poison = s.poison := by
  intros; unfold State.noteSent; repeat' split
  all_goals simp
@[simp] theorem State.sendHome_poison : ∀ s a1 a2 a3 a4 a5, (State.sendHome s a1 a2 a3 a4 a5).poison = s.poison := by
  intros; unfold State.sendHome; dsimp only; repeat' split
  all_goals simp
@[simp] theorem State.sendFar_poison : ∀ s a1 a2 a3 a4, (State.sendFar s a1 a2 a3 a4).poison = s.poison := by
  intros; unfold State.sendFar; dsimp only; repeat' split
  all_goals simp
@[simp] theorem State.sendReq_poison : ∀ s a1 a2 a3 a4 a5, (State.sendReq s a1 a2 a3 a4 a5).poison = s.poison := by
  intros; unfold State.sendReq; try dsimp only
  repeat' (first | with_reducible rfl | split | (refine foldl_poison _ _ _ ?_; intro _ _) | (refine foldl_fst_poison _ _ _ ?_; intro _ _) | (rw [foldl_poison]; rotate_left; (intro _ _)) | (rw [foldl_fst_poison]; rotate_left; (intro _ _)) | simp only [State.core_modCore, *] | simp)
@[simp] theorem State.leaveHeld_poison : ∀ s a1, (State.leaveHeld s a1).poison = s.poison := by
  intros; unfold State.leaveHeld; dsimp only; repeat' split
  all_goals simp
@[simp] theorem State.takeEntry_poison : ∀ s a1 a2 a3, (State.takeEntry s a1 a2 a3).poison = s.poison := by intros; rfl
@[simp] theorem State.gstData_poison : ∀ s a1 a2 a3, (State.gstData s a1 a2 a3).poison = s.poison := by
  intros; unfold State.gstData; dsimp only; repeat' split
  all_goals simp
@[simp] theorem State.gatomLeave_poison : ∀ s a1, (State.gatomLeave s a1).poison = s.poison := by
  intros; unfold State.gatomLeave; try dsimp only
  repeat' (first | with_reducible rfl | split | (refine foldl_poison _ _ _ ?_; intro _ _) | (refine foldl_fst_poison _ _ _ ?_; intro _ _) | (rw [foldl_poison]; rotate_left; (intro _ _)) | (rw [foldl_fst_poison]; rotate_left; (intro _ _)) | simp only [State.core_modCore, *] | simp)
@[simp] theorem State.noteDone_poison : ∀ s a1 a2, (State.noteDone s a1 a2).poison = s.poison := by intros; rfl
@[simp] theorem State.cancelReqs_poison : ∀ s a1 a2, (State.cancelReqs s a1 a2).poison = s.poison := by
  intros; unfold State.cancelReqs; try dsimp only
  repeat' (first | with_reducible rfl | split | (refine foldl_poison _ _ _ ?_; intro _ _) | (refine foldl_fst_poison _ _ _ ?_; intro _ _) | (rw [foldl_poison]; rotate_left; (intro _ _)) | (rw [foldl_fst_poison]; rotate_left; (intro _ _)) | simp only [State.core_modCore, *] | simp)
@[simp] theorem State.setShadows_poison : ∀ s a1, (State.setShadows s a1).poison = s.poison := by intros; rfl
@[simp] theorem State.setStamps_poison : ∀ s a1 a2 a3, (State.setStamps s a1 a2 a3).poison = s.poison := by intros; rfl
@[simp] theorem State.homeAnswer_poison : ∀ s a1 a2 a3 a4 a5, (State.homeAnswer s a1 a2 a3 a4 a5).poison = s.poison := by intros; unfold State.homeAnswer; split <;> simp
@[simp] theorem State.dropReq_poison : ∀ s a1, (State.dropReq s a1).poison = s.poison := by intros; rfl
@[simp] theorem State.reqDone_poison : ∀ s a1, (State.reqDone s a1).poison = s.poison := by intros; unfold State.reqDone; split <;> simp
@[simp] theorem State.takeReply_poison : ∀ s a1, (State.takeReply s a1).poison = s.poison := by
  intros; unfold State.takeReply; dsimp only; repeat' split
  all_goals simp
@[simp] theorem State.releaseEvent_poison : ∀ s a1 a2 a3 a4, (State.releaseEvent s a1 a2 a3 a4).poison = s.poison := by
  intros; unfold State.releaseEvent; try dsimp only
  repeat' (first | with_reducible rfl | split | (refine foldl_poison _ _ _ ?_; intro _ _) | (refine foldl_fst_poison _ _ _ ?_; intro _ _) | (rw [foldl_poison]; rotate_left; (intro _ _)) | (rw [foldl_fst_poison]; rotate_left; (intro _ _)) | simp only [State.core_modCore, *] | simp)
@[simp] theorem State.acquireEvent_poison : ∀ s a1 a2 a3 a4, (State.acquireEvent s a1 a2 a3 a4).poison = s.poison := by intros; rfl
@[simp] theorem State.fenceTell_poison (s : State) (c : CoreId) (q : FenceSt) : (s.fenceTell c q).poison = s.poison := by
  unfold State.fenceTell
  cases q.rel
  · exact State.modCore_poison _ _ _
  · exact (State.modCore_poison _ _ _).trans (State.releaseEvent_poison _ _ _ _ _)
@[simp] theorem State.fenceDone_poison : ∀ s a1 a2, (State.fenceDone s a1 a2).poison = s.poison := by intros; unfold State.fenceDone; split <;> simp
@[simp] theorem State.fenceStep_poison : ∀ s a1, (State.fenceStep s a1).poison = s.poison := by
  intros; unfold State.fenceStep; dsimp only; repeat' split
  all_goals simp
@[simp] theorem State.fbRead_poison : ∀ s a1 a2 a3 a4, (State.fbRead s a1 a2 a3 a4).poison = s.poison := by intros; unfold State.fbRead; simp
@[simp] theorem State.fbUpdate_poison : ∀ s a1 a2 a3 a4 a5, (State.fbUpdate s a1 a2 a3 a4 a5).poison = s.poison := by intros; unfold State.fbUpdate; simp
@[simp] theorem State.badSkip_poison : ∀ s a1 a2, (State.badSkip s a1 a2).poison = s.poison := by intros; rfl
@[simp] theorem State.haulWait_poison : ∀ s a1 a2, (State.haulWait s a1 a2).poison = s.poison := by intros; unfold State.haulWait; split <;> simp
@[simp] theorem State.haulUpdate_poison : ∀ s a1 a2 a3 a4 a5 a6 a7, (State.haulUpdate s a1 a2 a3 a4 a5 a6 a7).poison = s.poison := by intros; unfold State.haulUpdate; split <;> simp
@[simp] theorem State.resultY_poison : ∀ s a1 a2 a3 a4, (State.resultY s a1 a2 a3 a4).poison = s.poison := by intros; rfl
@[simp] theorem State.dropHaul_poison : ∀ s a1 a2, (State.dropHaul s a1 a2).poison = s.poison := by intros; rfl
@[simp] theorem State.putHaul_poison : ∀ s a1 a2 a3, (State.putHaul s a1 a2 a3).poison = s.poison := by intros; rfl
@[simp] theorem State.wakeAt_poison : ∀ s a1 a2 a3, (State.wakeAt s a1 a2 a3).poison = s.poison := by intros; rfl
@[simp] theorem State.wakeOn_poison : ∀ s a1 a2 a3, (State.wakeOn s a1 a2 a3).poison = s.poison := by intros; rfl
@[simp] theorem State.failHaul_poison : ∀ s a1 a2, (State.failHaul s a1 a2).poison = s.poison := by intros; rfl
@[simp] theorem State.capture_poison : ∀ s a1 a2 a3, (State.capture s a1 a2 a3).poison = s.poison := by intros; rfl
@[simp] theorem State.deliver_poison : ∀ s a1 a2 a3 a4 a5 a6, (State.deliver s a1 a2 a3 a4 a5 a6).poison = s.poison := by
  intros; unfold State.deliver; dsimp only; repeat' split
  all_goals simp
@[simp] theorem State.haulRead_poison : ∀ s a1 a2 a3, (State.haulRead s a1 a2 a3).poison = s.poison := by intros; unfold State.haulRead; split <;> simp
@[simp] theorem State.haulApply_poison : ∀ s a1 a2 a3, (State.haulApply s a1 a2 a3).poison = s.poison := by
  intros; unfold State.haulApply; dsimp only; repeat' split
  all_goals simp
@[simp] theorem State.haulCheck_poison : ∀ s a1 a2 a3, (State.haulCheck s a1 a2 a3).poison = s.poison := by
  intros; unfold State.haulCheck; repeat' split
  all_goals simp
@[simp] theorem State.haulBoard_poison : ∀ s a1 a2 a3, (State.haulBoard s a1 a2 a3).poison = s.poison := by
  intros; unfold State.haulBoard; dsimp only; repeat' split
  all_goals simp
@[simp] theorem State.tryArrive_poison : ∀ s a1 a2, (State.tryArrive s a1 a2).poison = s.poison := by
  intros; unfold State.tryArrive; dsimp only; repeat' split
  all_goals simp
@[simp] theorem State.barDone_poison (s : State) (c : CoreId) (k : CtxId) (level tick : Nat) : (s.barDone c k level tick).poison = s.poison := by
  unfold State.barDone
  dsimp only
  generalize hx : s.modCtx c k _ = x
  have h : (x.releaseEvent c k (barScope level) tick).poison = s.poison := by rw [State.releaseEvent_poison, ← hx, State.modCtx_poison]
  generalize x.releaseEvent c k (barScope level) tick = u at h
  split
  · rw [State.wakeAt_poison, State.acquireEvent_poison, h]
  · rw [State.modCtx_poison, h]
@[simp] theorem State.barWake_poison (s : State) (c : CoreId) (lk tick : Nat) : (s.barWake c lk tick).poison = s.poison := by
  unfold State.barWake
  refine foldl_poison _ _ s fun s i => ?_
  dsimp only
  generalize s.ctx c i = x
  split
  · split
    · exact State.barDone_poison _ _ _ _ _
    · rfl
  · rfl
@[simp] theorem State.barMet_poison : ∀ s a1 a2 a3, (State.barMet s a1 a2 a3).poison = s.poison := by
  intros; unfold State.barMet; dsimp only; repeat' split
  all_goals simp
@[simp] theorem State.seeBits_poison : ∀ s a1 a2 a3 a4, (State.seeBits s a1 a2 a3 a4).poison = s.poison := by intros; rfl
@[simp] theorem State.barInvert_poison : ∀ s a1 a2 a3 a4, (State.barInvert s a1 a2 a3 a4).poison = s.poison := by
  intros; unfold State.barInvert; dsimp only; repeat' split
  all_goals simp
@[simp] theorem State.barCheck_poison : ∀ s a1 a2 a3, (State.barCheck s a1 a2 a3).poison = s.poison := by
  intros; unfold State.barCheck; dsimp only; repeat' split
  all_goals simp
@[simp] theorem State.passUser_poison (s : State) (c : CoreId) (n : Nat) : (s.passUser c n).poison = s.poison := by
  have h1 : ∀ (l : List HaulOp) (s : State), (l.foldl (fun s u => s.haulRead c n u) s).poison = s.poison := fun l s => foldl_poison l _ s fun s u => by simp
  have h2 : ∀ (l : List HaulOp) (s : State), (l.foldl (fun s u => s.haulApply c n u) s).poison = s.poison := fun l s => foldl_poison l _ s fun s u => by simp
  have h3 : ∀ (l : List HaulOp) (s : State), (l.foldl (fun s u => s.haulCheck c n u) s).poison = s.poison := fun l s => foldl_poison l _ s fun s u => by simp
  unfold State.passUser
  generalize hl : (fun (s : State) (u : HaulOp) => if s.now ≤ u.after + 360 then s.haulBoard c n u else s) = g
  have h4 : ∀ (l : List HaulOp) (s : State), (l.foldl g s).poison = s.poison := fun l s => foldl_poison l _ s fun s u => by rw [← hl]; dsimp only; split <;> simp
  simp only [h1, h2, h3, h4]
@[simp] theorem State.passSystem_poison : ∀ s a1 a2, (State.passSystem s a1 a2).poison = s.poison := by intros; unfold State.passSystem; simp [foldl_poison]
@[simp] theorem State.fbDone_poison : ∀ s a1 a2, (State.fbDone s a1 a2).poison = s.poison := by
  intros; unfold State.fbDone; repeat' split
  all_goals simp
@[simp] theorem State.loopPush_poison : ∀ s a1 a2, (State.loopPush s a1 a2).poison = s.poison := by
  intros; unfold State.loopPush; dsimp only; repeat' split
  all_goals simp
@[simp] theorem State.loopBreak_poison : ∀ s a1, (State.loopBreak s a1).poison = s.poison := by intros; unfold State.loopBreak; split <;> simp
@[simp] theorem State.tryLock_poison : ∀ s a1 a2 a3, (State.tryLock s a1 a2 a3).2.poison = s.poison := by
  intros; unfold State.tryLock; dsimp only; repeat' split
  all_goals simp
@[simp] theorem State.retryLocks_poison : ∀ s a1, (State.retryLocks s a1).poison = s.poison := by
  intros; unfold State.retryLocks; try dsimp only
  repeat' (first | with_reducible rfl | split | (refine foldl_poison _ _ _ ?_; intro _ _) | (refine foldl_fst_poison _ _ _ ?_; intro _ _) | (rw [foldl_poison]; rotate_left; (intro _ _)) | (rw [foldl_fst_poison]; rotate_left; (intro _ _)) | simp only [State.core_modCore, *] | simp)
@[simp] theorem State.decideAbort_poison : ∀ s a1 a2 a3 a4, (State.decideAbort s a1 a2 a3 a4).poison = s.poison := by intros; rfl
@[simp] theorem State.leaveEntry_poison : ∀ s a1 a2 a3 a4 a5 a6, (State.leaveEntry s a1 a2 a3 a4 a5 a6).poison = s.poison := by
  intros; unfold State.leaveEntry; dsimp only; repeat' split
  all_goals simp
@[simp] theorem State.release_poison : ∀ s a1 a2 a3 a4, (State.release s a1 a2 a3 a4).poison = s.poison := by
  intros; unfold State.release; try dsimp only
  repeat' (first | with_reducible rfl | split | (refine foldl_poison _ _ _ ?_; intro _ _) | (refine foldl_fst_poison _ _ _ ?_; intro _ _) | (rw [foldl_poison]; rotate_left; (intro _ _)) | (rw [foldl_fst_poison]; rotate_left; (intro _ _)) | simp only [State.core_modCore, *] | simp)
@[simp] theorem State.sendLeaving_poison : ∀ s a1, (State.sendLeaving s a1).poison = s.poison := by intros; unfold State.sendLeaving; simp [foldl_poison]
@[simp] theorem State.landMembers_poison : ∀ s a1, (State.landMembers s a1).poison = s.poison := by intros; unfold State.landMembers; simp [foldl_poison]
@[simp] theorem State.loadDone_poison : ∀ s a1 a2 a3, (State.loadDone s a1 a2 a3).poison = s.poison := by
  intros; unfold State.loadDone; dsimp only; repeat' split
  all_goals simp
@[simp] theorem State.matRow_poison : ∀ s a1 a2 a3 a4, (State.matRow s a1 a2 a3 a4).poison = s.poison := by
  intros; unfold State.matRow; repeat' split
  all_goals simp
@[simp] theorem State.replyHome_poison : ∀ s a1 a2 a3 a4, (State.replyHome s a1 a2 a3 a4).poison = s.poison := by intros; unfold State.replyHome; split <;> simp
@[simp] theorem State.replyTo_poison : ∀ s a1 a2 a3, (State.replyTo s a1 a2 a3).poison = s.poison := by
  intros; unfold State.replyTo; repeat' split
  all_goals simp
@[simp] theorem State.amoStage_poison : ∀ s a1 a2 a3 a4, (State.amoStage s a1 a2 a3 a4).poison = s.poison := by
  intros; unfold State.amoStage; dsimp only; repeat' split
  all_goals simp
@[simp] theorem State.readAcc_poison : ∀ s a1 a2, (State.readAcc s a1 a2).poison = s.poison := by
  intros; unfold State.readAcc; dsimp only; repeat' split
  all_goals simp
@[simp] theorem State.memberDone_poison : ∀ s a1 a2 a3, (State.memberDone s a1 a2 a3).poison = s.poison := by
  intros; unfold State.memberDone; repeat' split
  all_goals simp
@[simp] theorem State.startRefetch_poison : ∀ s a1 a2, (State.startRefetch s a1 a2).poison = s.poison := by
  intros; unfold State.startRefetch; dsimp only; repeat' split
  all_goals simp
@[simp] theorem State.openCycle_poison : ∀ s a1, (State.openCycle s a1).poison = s.poison := by intros; unfold State.openCycle; simp
@[simp] theorem State.haltBoundary_poison (s : State) (c : CoreId) (s1 : State) (r : Nat) : (s.haltBoundary c s1 r).poison = s.poison := rfl

@[simp] theorem State.beginPeriod_poison (s : State) (c : CoreId) : (s.beginPeriod c).poison = s.poison := by
  unfold State.beginPeriod
  generalize hu : ((s.endWalks c).landMembers c).modCore c _ = u
  have h : u.poison = s.poison := by rw [← hu]; simp
  dsimp only
  repeat' split
  all_goals simp [h]
@[simp] theorem State.settleClaims_poison : ∀ s a1 a2, (State.settleClaims s a1 a2).poison = s.poison := by intros; rfl
@[simp] theorem State.takeCheckpoint_poison : ∀ s a1, (State.takeCheckpoint s a1).poison = s.poison := by intros; rfl
@[simp] theorem State.yieldTrap_poison : ∀ s a1, (State.yieldTrap s a1).poison = s.poison := by intros; rfl
@[simp] theorem State.yieldRelease_poison : ∀ s a1, (State.yieldRelease s a1).poison = s.poison := by
  intros; unfold State.yieldRelease; dsimp only; repeat' split
  all_goals simp
@[simp] theorem State.startBundle_poison : ∀ s a1 a2 a3, (State.startBundle s a1 a2 a3).poison = s.poison := by intros; unfold State.startBundle; simp
@[simp] theorem State.openIssue_poison : ∀ s a1, (State.openIssue s a1).poison = s.poison := by
  intros; unfold State.openIssue; dsimp only; repeat' split
  all_goals simp
@[simp] theorem State.endBundle_poison : ∀ s a1, (State.endBundle s a1).poison = s.poison := by
  intros; unfold State.endBundle; dsimp only; repeat' split
  all_goals simp
@[simp] theorem State.profile_poison : ∀ s a1, (State.profile s a1).poison = s.poison := by
  intros; unfold State.profile; dsimp only; repeat' split
  all_goals simp
@[simp] theorem State.closeCycle_poison : ∀ s a1, (State.closeCycle s a1).poison = s.poison := by intros; unfold State.closeCycle; simp
@[simp] theorem State.flood_poison : ∀ s a1, (State.flood s a1).poison = s.poison := by
  intros; unfold State.flood; try dsimp only
  repeat' (first | with_reducible rfl | split | (refine foldl_poison _ _ _ ?_; intro _ _) | (refine foldl_fst_poison _ _ _ ?_; intro _ _) | (rw [foldl_poison]; rotate_left; (intro _ _)) | (rw [foldl_fst_poison]; rotate_left; (intro _ _)) | simp only [State.core_modCore, *] | simp)
@[simp] theorem State.floodLoss_poison : ∀ s a1, (State.floodLoss s a1).poison = s.poison := by intros; unfold State.floodLoss; split <;> simp
@[simp] theorem State.purgeTraps_poison : ∀ s a1, (State.purgeTraps s a1).poison = s.poison := by intros; rfl
@[simp] theorem State.unclaim_poison : ∀ s a1 a2 a3 a4, (State.unclaim s a1 a2 a3 a4).poison = s.poison := by intros; rfl
@[simp] theorem State.dropClaims_poison : ∀ s a1 a2, (State.dropClaims s a1 a2).poison = s.poison := by
  intros; unfold State.dropClaims; try dsimp only
  repeat' (first | with_reducible rfl | split | (refine foldl_poison _ _ _ ?_; intro _ _) | (refine foldl_fst_poison _ _ _ ?_; intro _ _) | (rw [foldl_poison]; rotate_left; (intro _ _)) | (rw [foldl_fst_poison]; rotate_left; (intro _ _)) | simp only [State.core_modCore, *] | simp)
@[simp] theorem State.dropWire_poison : ∀ s a1, (State.dropWire s a1).poison = s.poison := by intros; rfl
@[simp] theorem State.discard_poison : ∀ s a1 a2 a3, (State.discard s a1 a2 a3).poison = s.poison := by intros; unfold State.discard; simp
@[simp] theorem State.rollBack_poison : ∀ s a1 a2 a3, (State.rollBack s a1 a2 a3).poison = s.poison := by intros; unfold State.rollBack; simp
@[simp] theorem State.stopOn_poison (s : State) (c : CoreId) (lk : Nat) : (s.stopOn c lk).poison = s.poison := by
  unfold State.stopOn
  generalize hg : (fun (s : State) (i : CtxId) => if (s.ctx c i).lk = some lk then _ else s) = g
  have h4 : ∀ (l : List CtxId) (s : State), (l.foldl g s).poison = s.poison := fun l s => foldl_poison l _ s fun s u => by rw [← hg]; dsimp only; split <;> simp
  simp only [State.modCore_poison, h4]
@[simp] theorem State.stopLaunch_poison (s : State) (lk : Nat) : (s.stopLaunch lk).poison = s.poison := by
  unfold State.stopLaunch
  generalize List.finRange 324 = l
  simp only [State.modLaunch_poison]
  exact foldl_poison l _ s fun s c => by split <;> simp
@[simp] theorem State.tellAbort_poison : ∀ s a1, (State.tellAbort s a1).poison = s.poison := by
  intros; unfold State.tellAbort; repeat' split
  all_goals simp
@[simp] theorem State.badCmd_poison : ∀ s a1, (State.badCmd s a1).poison = s.poison := by intros; rfl
@[simp] theorem State.prune_poison : ∀ s a1, (State.prune s a1).poison = s.poison := by intros; rfl
@[simp] theorem State.dequeue_poison : ∀ s a1, (State.dequeue s a1).poison = s.poison := by intros; unfold State.dequeue; split <;> simp
@[simp] theorem State.dropVector_poison : ∀ s a1 a2, (State.dropVector s a1 a2).poison = s.poison := by intros; rfl
@[simp] theorem State.recordEnd_poison : ∀ s a1 a2 a3, (State.recordEnd s a1 a2 a3).poison = s.poison := by
  intros; unfold State.recordEnd; dsimp only; repeat' split
  all_goals simp
@[simp] theorem State.clearShift_poison : ∀ s a1, (State.clearShift s a1).poison = s.poison := by
  intros; unfold State.clearShift; repeat' split
  all_goals simp
@[simp] theorem State.askYield_poison : ∀ s a1, (State.askYield s a1).poison = s.poison := by
  intros; unfold State.askYield; repeat' split
  all_goals simp
@[simp] theorem State.resume_poison : ∀ s a1, (State.resume s a1).poison = s.poison := by
  intros; unfold State.resume; try dsimp only
  repeat' (first | with_reducible rfl | split | (refine foldl_poison _ _ _ ?_; intro _ _) | (refine foldl_fst_poison _ _ _ ?_; intro _ _) | (rw [foldl_poison]; rotate_left; (intro _ _)) | (rw [foldl_fst_poison]; rotate_left; (intro _ _)) | simp only [State.core_modCore, *] | simp)
@[simp] theorem State.swapResume_poison (s : State) (part : Nat) : (s.swapResume part).poison = s.poison := by
  unfold State.swapResume
  split
  · cases s.resumable part [] <;> simp
  · rfl
@[simp] theorem State.startRec_poison : ∀ s a1 a2, (State.startRec s a1 a2).poison = s.poison := by intros; unfold State.startRec; split <;> simp
@[simp] theorem State.retireCore_poison : ∀ s a1 a2 a3, (State.retireCore s a1 a2 a3).poison = s.poison := by intros; unfold State.retireCore; simp
@[simp] theorem State.freeSkips_poison : ∀ s a1, (State.freeSkips s a1).poison = s.poison := by
  intros; unfold State.freeSkips; try dsimp only
  repeat' (first | with_reducible rfl | split | (refine foldl_poison _ _ _ ?_; intro _ _) | (refine foldl_fst_poison _ _ _ ?_; intro _ _) | (rw [foldl_poison]; rotate_left; (intro _ _)) | (rw [foldl_fst_poison]; rotate_left; (intro _ _)) | simp only [State.core_modCore, *] | simp)
@[simp] theorem State.saveCore_poison (s : State) (lk : Nat) (keep : Bool) (c : CoreId) : (s.saveCore lk keep c).poison = s.poison := by
  unfold State.saveCore
  dsimp only
  rw [State.tickFree_poison, State.modCore_poison, State.noteLoc_poison]
  split <;> simp
@[simp] theorem State.putBits_poison : ∀ s a1 a2, (State.putBits s a1 a2).poison = s.poison := by intros; unfold State.putBits; split <;> simp
@[simp] theorem State.unparkDone_poison : ∀ s a1, (State.unparkDone s a1).poison = s.poison := by
  intros; unfold State.unparkDone; dsimp only; repeat' split
  all_goals simp
@[simp] theorem State.denied_poison : ∀ s, (State.denied s).poison = s.poison := by intros; rfl
@[simp] theorem State.swapRefused_poison : ∀ s a1 a2, (State.swapRefused s a1 a2).poison = s.poison := by intros; rfl
@[simp] theorem State.rejudgeYields_poison : ∀ s a1, (State.rejudgeYields s a1).poison = s.poison := by
  intros; unfold State.rejudgeYields; try dsimp only
  repeat' (first | with_reducible rfl | split | (refine foldl_poison _ _ _ ?_; intro _ _) | (refine foldl_fst_poison _ _ _ ?_; intro _ _) | (rw [foldl_poison]; rotate_left; (intro _ _)) | (rw [foldl_fst_poison]; rotate_left; (intro _ _)) | simp only [State.core_modCore, *] | simp)
@[simp] theorem State.fixYields_poison : ∀ s, (State.fixYields s).poison = s.poison := by
  intros; unfold State.fixYields; try dsimp only
  repeat' (first | with_reducible rfl | split | (refine foldl_poison _ _ _ ?_; intro _ _) | (refine foldl_fst_poison _ _ _ ?_; intro _ _) | (rw [foldl_poison]; rotate_left; (intro _ _)) | (rw [foldl_fst_poison]; rotate_left; (intro _ _)) | simp only [State.core_modCore, *] | simp)
@[simp] theorem State.takeImage_poison : ∀ s a1 a2 a3, (State.takeImage s a1 a2 a3).poison = s.poison := by intros; unfold State.takeImage; split <;> simp
@[simp] theorem State.setBusy_poison : ∀ s, (State.setBusy s).poison = s.poison := by intros; rfl
@[simp] theorem State.rekeyDie_poison : ∀ s a1 a2, (State.rekeyDie s a1 a2).poison = s.poison := by
  intros; unfold State.rekeyDie; dsimp only; repeat' split
  all_goals simp
@[simp] theorem State.dropCached_poison : ∀ s a1 a2 a3, (State.dropCached s a1 a2 a3).poison = s.poison := by intros; unfold State.dropCached; split <;> simp
@[simp] theorem State.wcinvStep_poison : ∀ s a1, (State.wcinvStep s a1).poison = s.poison := by intros; unfold State.wcinvStep; simp [foldl_poison]
@[simp] theorem State.markStale_poison : ∀ s a1 a2 a3, (State.markStale s a1 a2 a3).poison = s.poison := by
  intros; unfold State.markStale; try dsimp only
  repeat' (first | with_reducible rfl | split | (refine foldl_poison _ _ _ ?_; intro _ _) | (refine foldl_fst_poison _ _ _ ?_; intro _ _) | (rw [foldl_poison]; rotate_left; (intro _ _)) | (rw [foldl_fst_poison]; rotate_left; (intro _ _)) | simp only [State.core_modCore, *] | simp)
@[simp] theorem State.bsinvStep_poison : ∀ s, (State.bsinvStep s).poison = s.poison := by
  intros; unfold State.bsinvStep; try dsimp only
  repeat' (first | with_reducible rfl | split | (refine foldl_poison _ _ _ ?_; intro _ _) | (refine foldl_fst_poison _ _ _ ?_; intro _ _) | (rw [foldl_poison]; rotate_left; (intro _ _)) | (rw [foldl_fst_poison]; rotate_left; (intro _ _)) | simp only [State.core_modCore, *] | simp)
@[simp] theorem State.acknowledge_poison : ∀ s, (State.acknowledge s).poison = s.poison := by intros; unfold State.acknowledge; simp [foldl_poison]
@[simp] theorem State.clearShadows_poison : ∀ s a1, (State.clearShadows s a1).poison = s.poison := by intros; rfl
@[simp] theorem State.writePf_poison : ∀ s a1 a2, (State.writePf s a1 a2).poison = s.poison := by
  intros; unfold State.writePf; dsimp only; repeat' split
  all_goals simp
@[simp] theorem State.dbgRead_poison : ∀ s a1 a2 a3 a4 a5, (State.dbgRead s a1 a2 a3 a4 a5).1.poison = s.poison := by
  intros; unfold State.dbgRead; dsimp only; repeat' split
  all_goals simp
@[simp] theorem State.dbgEnd_poison : ∀ s a1 a2, (State.dbgEnd s a1 a2).poison = s.poison := by intros; rfl
@[simp] theorem State.dbgResult_poison : ∀ s a1 a2 a3 a4, (State.dbgResult s a1 a2 a3 a4).poison = s.poison := by intros; unfold State.dbgResult; split <;> simp
@[simp] theorem State.dbgReply_poison : ∀ s a1 a2 a3, (State.dbgReply s a1 a2 a3).poison = s.poison := by
  intros; unfold State.dbgReply; dsimp only; repeat' split
  all_goals simp
@[simp] theorem State.closeDebug_poison : ∀ s a1 a2, (State.closeDebug s a1 a2).poison = s.poison := by
  intros; unfold State.closeDebug; try dsimp only
  repeat' (first | with_reducible rfl | split | (refine foldl_poison _ _ _ ?_; intro _ _) | (refine foldl_fst_poison _ _ _ ?_; intro _ _) | (rw [foldl_poison]; rotate_left; (intro _ _)) | (rw [foldl_fst_poison]; rotate_left; (intro _ _)) | simp only [State.core_modCore, *] | simp)
@[simp] theorem State.closePolicy_poison : ∀ s a1, (State.closePolicy s a1).poison = s.poison := by intros; unfold State.closePolicy; simp
@[simp] theorem State.countDrop_poison : ∀ s a1, (State.countDrop s a1).poison = s.poison := by intros; unfold State.countDrop; split <;> simp
@[simp] theorem State.endRun_poison : ∀ s a1, (State.endRun s a1).poison = s.poison := by
  intros; unfold State.endRun; try dsimp only
  repeat' (first | with_reducible rfl | split | (refine foldl_poison _ _ _ ?_; intro _ _) | (refine foldl_fst_poison _ _ _ ?_; intro _ _) | (rw [foldl_poison]; rotate_left; (intro _ _)) | (rw [foldl_fst_poison]; rotate_left; (intro _ _)) | simp only [State.core_modCore, *] | simp)
@[simp] theorem State.modFlow_poison : ∀ s a1 a2 a3, (State.modFlow s a1 a2 a3).poison = s.poison := by intros; rfl
@[simp] theorem State.sendFlit_poison : ∀ s a1 a2 a3 a4 a5, (State.sendFlit s a1 a2 a3 a4 a5).poison = s.poison := by
  intros; unfold State.sendFlit; dsimp only; repeat' split
  all_goals simp
@[simp] theorem State.flowReads_poison : ∀ s a1 a2 a3, (State.flowReads s a1 a2 a3).1.poison = s.poison := by
  intros; unfold State.flowReads; try dsimp only
  repeat' (first | with_reducible rfl | split | (refine foldl_poison _ _ _ ?_; intro _ _) | (refine foldl_fst_poison _ _ _ ?_; intro _ _) | (rw [foldl_poison]; rotate_left; (intro _ _)) | (rw [foldl_fst_poison]; rotate_left; (intro _ _)) | simp only [State.core_modCore, *] | simp)
@[simp] theorem State.runReads_poison : ∀ s a1 a2, (State.runReads s a1 a2).1.poison = s.poison := by intros; unfold State.runReads; simp [foldl_fst_poison]
@[simp] theorem State.setFault_poison : ∀ s a1, (State.setFault s a1).poison = s.poison := by intros; unfold State.setFault; split <;> simp
@[simp] theorem State.linkFault_poison : ∀ s a1 a2, (State.linkFault s a1 a2).poison = s.poison := by
  intros; unfold State.linkFault; dsimp only; repeat' split
  all_goals simp
@[simp] theorem State.countInc_poison : ∀ s a1, (State.countInc s a1).poison = s.poison := by intros; rfl
@[simp] theorem State.takeFlit_poison : ∀ s a1 a2 a3 a4 a5 a6 a7 a8, (State.takeFlit s a1 a2 a3 a4 a5 a6 a7 a8).poison = s.poison := by
  intros; unfold State.takeFlit; repeat' split
  all_goals simp
@[simp] theorem State.hearArrival_poison : ∀ s a1 a2 a3 a4 a5, (State.hearArrival s a1 a2 a3 a4 a5).poison = s.poison := by
  intros; unfold State.hearArrival; dsimp only; repeat' split
  all_goals simp
@[simp] theorem State.sendBarrier_poison : ∀ s a1 a2 a3, (State.sendBarrier s a1 a2 a3).poison = s.poison := by
  intros; unfold State.sendBarrier; try dsimp only
  repeat' (first | with_reducible rfl | split | (refine foldl_poison _ _ _ ?_; intro _ _) | (refine foldl_fst_poison _ _ _ ?_; intro _ _) | (rw [foldl_poison]; rotate_left; (intro _ _)) | (rw [foldl_fst_poison]; rotate_left; (intro _ _)) | simp only [State.core_modCore, *] | simp)
@[simp] theorem State.takeBarrier_poison : ∀ s a1 a2 a3, (State.takeBarrier s a1 a2 a3).poison = s.poison := by
  intros; unfold State.takeBarrier; dsimp only; repeat' split
  all_goals simp
@[simp] theorem State.countBad_poison : ∀ s a1, (State.countBad s a1).poison = s.poison := by intros; unfold State.countBad; split <;> simp
@[simp] theorem State.takeRequest_poison : ∀ s a1, (State.takeRequest s a1).poison = s.poison := by intros; unfold State.takeRequest; split <;> simp
@[simp] theorem State.farRequest_poison : ∀ s a1 a2 a3 a4 a5 a6 a7 a8 a9 a10, (State.farRequest s a1 a2 a3 a4 a5 a6 a7 a8 a9 a10).poison = s.poison := by intros; unfold State.farRequest; simp
@[simp] theorem State.farReply_poison : ∀ s a1 a2 a3 a4, (State.farReply s a1 a2 a3 a4).poison = s.poison := by intros; rfl
@[simp] theorem State.farApplied_poison : ∀ s a1 a2 a3, (State.farApplied s a1 a2 a3).poison = s.poison := by intros; rfl
@[simp] theorem State.heardBy_poison : ∀ s a1 a2 a3, (State.heardBy s a1 a2 a3).poison = s.poison := by
  intros; unfold State.heardBy; dsimp only; repeat' split
  all_goals simp
@[simp] theorem State.sendQueued_poison : ∀ s, (State.sendQueued s).poison = s.poison := by
  intros; unfold State.sendQueued; try dsimp only
  repeat' (first | with_reducible rfl | split | (refine foldl_poison _ _ _ ?_; intro _ _) | (refine foldl_fst_poison _ _ _ ?_; intro _ _) | (rw [foldl_poison]; rotate_left; (intro _ _)) | (rw [foldl_fst_poison]; rotate_left; (intro _ _)) | simp only [State.core_modCore, *] | simp)
@[simp] theorem State.askTime_poison : ∀ s, (State.askTime s).poison = s.poison := by
  intros; unfold State.askTime; repeat' split
  all_goals simp
@[simp] theorem State.podTick_poison : ∀ s a1, (State.podTick s a1).poison = s.poison := by
  intros; unfold State.podTick; dsimp only; repeat' split
  all_goals simp
@[simp] theorem State.linkStep_poison (s : State) : s.linkStep.poison = s.poison := by
  unfold State.linkStep
  dsimp only
  rw [State.sendQueued_poison, State.askTime_poison]
  exact foldl_poison _ _ s fun s l => by split <;> simp
@[simp] theorem State.respond_poison : ∀ s a1 a2 a3, (State.respond s a1 a2 a3).poison = s.poison := by intros; rfl
@[simp] theorem State.spdmError_poison : ∀ s a1 a2, (State.spdmError s a1 a2).poison = s.poison := by intros; rfl
@[simp] theorem State.spdmPlain_poison : ∀ s a1 a2 a3 a4, (State.spdmPlain s a1 a2 a3 a4).poison = s.poison := by intros; rfl
@[simp] theorem State.setSession_poison : ∀ s a1 a2, (State.setSession s a1 a2).poison = s.poison := by intros; rfl
@[simp] theorem State.leaveRun_poison : ∀ s a1, (State.leaveRun s a1).poison = s.poison := by intros; unfold State.leaveRun; split <;> simp
@[simp] theorem State.tdispTo_poison (s : State) (n : Fin 9) (t : Tdisp) : (s.tdispTo n t).poison = s.poison := by
  unfold State.tdispTo
  dsimp only
  rw [State.modVf_poison]
  split
  · simp
  · rfl
@[simp] theorem State.senseHeat_poison : ∀ s a1 a2 a3, (State.senseHeat s a1 a2 a3).poison = s.poison := by
  intros; unfold State.senseHeat; dsimp only; repeat' split
  all_goals simp
@[simp] theorem State.countUncor_poison : ∀ s a1 a2, (State.countUncor s a1 a2).poison = s.poison := by intros; rfl
@[simp] theorem State.strikeLoc_poison : ∀ s a1 a2 a3 a4, (State.strikeLoc s a1 a2 a3 a4).poison = s.poison := by intros; unfold State.strikeLoc; split <;> simp
@[simp] theorem State.drawn_poison : ∀ s a1 a2, (State.drawn s a1 a2).poison = s.poison := by intros; rfl
@[simp] theorem State.resultV_poison : ∀ s a1 a2 a3 a4 a5, (State.resultV s a1 a2 a3 a4 a5).poison = s.poison := by intros; rfl
@[simp] theorem State.clearStamps_poison : ∀ s a1 a2, (State.clearStamps s a1 a2).poison = s.poison := by intros; rfl
@[simp] theorem State.takeAnswer_poison : ∀ s a1 a2 a3 a4, (State.takeAnswer s a1 a2 a3 a4).poison = s.poison := by
  intros; unfold State.takeAnswer; dsimp only; repeat' split
  all_goals simp
@[simp] theorem State.setLink_poison : ∀ s a1 a2, (State.setLink s a1 a2).poison = s.poison := by intros; unfold State.setLink; split <;> simp
@[simp] theorem State.enterPackage_poison : ∀ s, (State.enterPackage s).poison = s.poison := by intros; unfold State.enterPackage; simp
@[simp] theorem State.endTick_poison : ∀ s, (State.endTick s).poison = s.poison := by intros; rfl
@[simp] theorem State.withFetchWord_poison : ∀ s a1 a2, (State.withFetchWord s a1 a2).poison = s.poison := by intros; rfl

end Sys2Proof.Machine
end

