-- ==== Sys2Proof/Laws/Canonical.lean ====
section
/-!
SUPPORT. Every operation that writes a memory keeps both in canonical form (R53, R54, R167).
-/

set_option maxRecDepth 4000

namespace Sys2Proof.Machine

theorem State.canonical_of {s t : State} (h : s.canonical) (hm : t.mem = s.mem) (hh : t.hostMem = s.hostMem) : t.canonical := by
  unfold State.canonical; rw [hm, hh]; exact h

theorem State.canonical_congr {s t : State} (hm : t.mem = s.mem) (hh : t.hostMem = s.hostMem) : t.canonical ↔ s.canonical := by
  unfold State.canonical; rw [hm, hh]

theorem foldl_canonical {α : Type} (l : List α) (f : State → α → State) (s : State) (h : s.canonical) (hf : ∀ s a, s.canonical → (f s a).canonical) :
    (l.foldl f s).canonical := by
  induction l generalizing s with
  | nil => exact h
  | cons a l ih => exact ih _ (hf s a h)

@[simp] theorem State.setCore_canonical : ∀ s a1 a2, (State.setCore s a1 a2).canonical ↔ s.canonical := by intros; exact State.canonical_congr (State.setCore_mem _ _ _) (State.setCore_hostMem _ _ _)
@[simp] theorem State.modCore_canonical : ∀ s a1 a2, (State.modCore s a1 a2).canonical ↔ s.canonical := by intros; exact State.canonical_congr (State.modCore_mem _ _ _) (State.modCore_hostMem _ _ _)
@[simp] theorem State.setCtx_canonical : ∀ s a1 a2 a3, (State.setCtx s a1 a2 a3).canonical ↔ s.canonical := by intros; exact State.canonical_congr (State.setCtx_mem _ _ _ _) (State.setCtx_hostMem _ _ _ _)
@[simp] theorem State.modCtx_canonical : ∀ s a1 a2 a3, (State.modCtx s a1 a2 a3).canonical ↔ s.canonical := by intros; exact State.canonical_congr (State.modCtx_mem _ _ _ _) (State.modCtx_hostMem _ _ _ _)
@[simp] theorem State.modDie_canonical : ∀ s a1 a2, (State.modDie s a1 a2).canonical ↔ s.canonical := by intros; exact State.canonical_congr (State.modDie_mem _ _ _) (State.modDie_hostMem _ _ _)
@[simp] theorem State.modVf_canonical : ∀ s a1 a2, (State.modVf s a1 a2).canonical ↔ s.canonical := by intros; exact State.canonical_congr (State.modVf_mem _ _ _) (State.modVf_hostMem _ _ _)
@[simp] theorem State.modLaunch_canonical : ∀ s a1 a2, (State.modLaunch s a1 a2).canonical ↔ s.canonical := by intros; exact State.canonical_congr (State.modLaunch_mem _ _ _) (State.modLaunch_hostMem _ _ _)
@[simp] theorem State.noteLoc_canonical : ∀ s a1 a2, (State.noteLoc s a1 a2).canonical ↔ s.canonical := by intros; exact State.canonical_congr (State.noteLoc_mem _ _ _) (State.noteLoc_hostMem _ _ _)
@[simp] theorem State.tickFree_canonical : ∀ s, (State.tickFree s).canonical ↔ s.canonical := by intros; exact State.canonical_congr (State.tickFree_mem _) (State.tickFree_hostMem _)
@[simp] theorem State.addResult_canonical : ∀ s a1 a2, (State.addResult s a1 a2).canonical ↔ s.canonical := by intros; exact State.canonical_congr (State.addResult_mem _ _ _) (State.addResult_hostMem _ _ _)
@[simp] theorem State.result_canonical : ∀ s a1 a2 a3 a4 a5 a6 a7 a8, (State.result s a1 a2 a3 a4 a5 a6 a7 a8).canonical ↔ s.canonical := by intros; exact State.canonical_congr (State.result_mem _ _ _ _ _ _ _ _ _) (State.result_hostMem _ _ _ _ _ _ _ _ _)
@[simp] theorem State.resultX_canonical : ∀ s a1 a2 a3 a4 a5 a6 a7, (State.resultX s a1 a2 a3 a4 a5 a6 a7).canonical ↔ s.canonical := by intros; exact State.canonical_congr (State.resultX_mem _ _ _ _ _ _ _ _) (State.resultX_hostMem _ _ _ _ _ _ _ _)
@[simp] theorem State.raise_canonical : ∀ s a1 a2 a3 a4, (State.raise s a1 a2 a3 a4).canonical ↔ s.canonical := by intros; exact State.canonical_congr (State.raise_mem _ _ _ _ _) (State.raise_hostMem _ _ _ _ _)
@[simp] theorem State.setTag_canonical : ∀ s a1 a2 a3, (State.setTag s a1 a2 a3).canonical ↔ s.canonical := by intros; exact State.canonical_congr (State.setTag_mem _ _ _ _) (State.setTag_hostMem _ _ _ _)
@[simp] theorem State.withhold_canonical : ∀ s a1 a2 a3, (State.withhold s a1 a2 a3).canonical ↔ s.canonical := by intros; exact State.canonical_congr (State.withhold_mem _ _ _ _) (State.withhold_hostMem _ _ _ _)
@[simp] theorem State.addAccess_canonical : ∀ s a1 a2, (State.addAccess s a1 a2).canonical ↔ s.canonical := by intros; exact State.canonical_congr (State.addAccess_mem _ _ _) (State.addAccess_hostMem _ _ _)
@[simp] theorem State.emit_canonical : ∀ s a1, (State.emit s a1).canonical ↔ s.canonical := by intros; exact State.canonical_congr (State.emit_mem _ _) (State.emit_hostMem _ _)
@[simp] theorem State.noteRegs_canonical : ∀ s a1 a2, (State.noteRegs s a1 a2).canonical ↔ s.canonical := by intros; exact State.canonical_congr (State.noteRegs_mem _ _ _) (State.noteRegs_hostMem _ _ _)
@[simp] theorem State.haltMid_canonical : ∀ s a1 a2 a3 a4 a5, (State.haltMid s a1 a2 a3 a4 a5).canonical ↔ s.canonical := by intros; exact State.canonical_congr (State.haltMid_mem _ _ _ _ _ _) (State.haltMid_hostMem _ _ _ _ _ _)
@[simp] theorem State.watchLate_canonical : ∀ s a1 a2 a3 a4 a5 a6 a7, (State.watchLate s a1 a2 a3 a4 a5 a6 a7).canonical ↔ s.canonical := by intros; exact State.canonical_congr (State.watchLate_mem _ _ _ _ _ _ _ _) (State.watchLate_hostMem _ _ _ _ _ _ _ _)
@[simp] theorem State.resultS_canonical : ∀ s a1 a2 a3 a4, (State.resultS s a1 a2 a3 a4).canonical ↔ s.canonical := by intros; exact State.canonical_congr (State.resultS_mem _ _ _ _ _) (State.resultS_hostMem _ _ _ _ _)
@[simp] theorem State.jumpTo_canonical : ∀ s a1 a2, (State.jumpTo s a1 a2).canonical ↔ s.canonical := by intros; exact State.canonical_congr (State.jumpTo_mem _ _ _) (State.jumpTo_hostMem _ _ _)
@[simp] theorem State.branch_canonical : ∀ s a1 a2 a3, (State.branch s a1 a2 a3).canonical ↔ s.canonical := by intros; exact State.canonical_congr (State.branch_mem _ _ _ _) (State.branch_hostMem _ _ _ _)
@[simp] theorem State.load_canonical : ∀ s a1 a2 a3 a4 a5, (State.load s a1 a2 a3 a4 a5).canonical ↔ s.canonical := by intros; exact State.canonical_congr (State.load_mem _ _ _ _ _ _) (State.load_hostMem _ _ _ _ _ _)
@[simp] theorem State.storeAt_canonical : ∀ s a1 a2 a3 a4 a5 a6 a7, (State.storeAt s a1 a2 a3 a4 a5 a6 a7).canonical ↔ s.canonical := by intros; exact State.canonical_congr (State.storeAt_mem _ _ _ _ _ _ _ _) (State.storeAt_hostMem _ _ _ _ _ _ _ _)
@[simp] theorem State.storeW_canonical : ∀ s a1 a2 a3 a4 a5 a6, (State.storeW s a1 a2 a3 a4 a5 a6).canonical ↔ s.canonical := by intros; exact State.canonical_congr (State.storeW_mem _ _ _ _ _ _ _) (State.storeW_hostMem _ _ _ _ _ _ _)
@[simp] theorem State.noteReads_canonical : ∀ s a1 a2, (State.noteReads s a1 a2).canonical ↔ s.canonical := by intros; exact State.canonical_congr (State.noteReads_mem _ _ _) (State.noteReads_hostMem _ _ _)
@[simp] theorem State.noteChunks_canonical : ∀ s a1 a2, (State.noteChunks s a1 a2).canonical ↔ s.canonical := by intros; exact State.canonical_congr (State.noteChunks_mem _ _ _) (State.noteChunks_hostMem _ _ _)
@[simp] theorem State.report_canonical : ∀ s a1 a2 a3 a4, (State.report s a1 a2 a3 a4).canonical ↔ s.canonical := by intros; exact State.canonical_congr (State.report_mem _ _ _ _ _) (State.report_hostMem _ _ _ _ _)
@[simp] theorem State.failAcc_canonical : ∀ s a1 a2 a3 a4, (State.failAcc s a1 a2 a3 a4).canonical ↔ s.canonical := by intros; exact State.canonical_congr (State.failAcc_mem _ _ _ _ _) (State.failAcc_hostMem _ _ _ _ _)
@[simp] theorem State.watchWrites_canonical : ∀ s a1 a2 a3, (State.watchWrites s a1 a2 a3).canonical ↔ s.canonical := by intros; exact State.canonical_congr (State.watchWrites_mem _ _ _ _) (State.watchWrites_hostMem _ _ _ _)
@[simp] theorem State.scrambleStacks_canonical : ∀ s a1 a2, (State.scrambleStacks s a1 a2).canonical ↔ s.canonical := by intros; exact State.canonical_congr (State.scrambleStacks_mem _ _ _) (State.scrambleStacks_hostMem _ _ _)
@[simp] theorem State.otherKeys_canonical : ∀ s a1 a2, (State.otherKeys s a1 a2).canonical ↔ s.canonical := by intros; exact State.canonical_congr (State.otherKeys_mem _ _ _) (State.otherKeys_hostMem _ _ _)
@[simp] theorem State.sendTimed_canonical : ∀ s a1 a2 a3 a4 a5, (State.sendTimed s a1 a2 a3 a4 a5).canonical ↔ s.canonical := by intros; exact State.canonical_congr (State.sendTimed_mem _ _ _ _ _ _) (State.sendTimed_hostMem _ _ _ _ _ _)
@[simp] theorem State.matEnter_canonical : ∀ s a1 a2 a3 a4 a5, (State.matEnter s a1 a2 a3 a4 a5).canonical ↔ s.canonical := by intros; exact State.canonical_congr (State.matEnter_mem _ _ _ _ _ _) (State.matEnter_hostMem _ _ _ _ _ _)
@[simp] theorem State.planEnter_canonical : ∀ s a1 a2, (State.planEnter s a1 a2).canonical ↔ s.canonical := by intros; exact State.canonical_congr (State.planEnter_mem _ _ _) (State.planEnter_hostMem _ _ _)
@[simp] theorem State.matTrap_canonical : ∀ s a1 a2 a3 a4 a5 a6, (State.matTrap s a1 a2 a3 a4 a5 a6).canonical ↔ s.canonical := by intros; exact State.canonical_congr (State.matTrap_mem _ _ _ _ _ _ _) (State.matTrap_hostMem _ _ _ _ _ _ _)
@[simp] theorem State.backTrap_canonical : ∀ s a1 a2, (State.backTrap s a1 a2).canonical ↔ s.canonical := by intros; exact State.canonical_congr (State.backTrap_mem _ _ _) (State.backTrap_hostMem _ _ _)
@[simp] theorem State.modFace_canonical : ∀ s a1 a2, (State.modFace s a1 a2).canonical ↔ s.canonical := by intros; exact State.canonical_congr (State.modFace_mem _ _ _) (State.modFace_hostMem _ _ _)
@[simp] theorem State.setArr_canonical : ∀ s a1 a2 a3 a4, (State.setArr s a1 a2 a3 a4).canonical ↔ s.canonical := by intros; exact State.canonical_congr (State.setArr_mem _ _ _ _ _) (State.setArr_hostMem _ _ _ _ _)
@[simp] theorem State.setFfmt_canonical : ∀ s a1 a2 a3 a4 a5, (State.setFfmt s a1 a2 a3 a4 a5).canonical ↔ s.canonical := by intros; exact State.canonical_congr (State.setFfmt_mem _ _ _ _ _ _) (State.setFfmt_hostMem _ _ _ _ _ _)
@[simp] theorem State.mdrDrawn_canonical : ∀ s a1 a2, (State.mdrDrawn s a1 a2).canonical ↔ s.canonical := by intros; exact State.canonical_congr (State.mdrDrawn_mem _ _ _) (State.mdrDrawn_hostMem _ _ _)
@[simp] theorem State.rowReady_canonical : ∀ s a1 a2 a3 a4 a5 a6 a7 a8 a9, (State.rowReady s a1 a2 a3 a4 a5 a6 a7 a8 a9).canonical ↔ s.canonical := by intros; exact State.canonical_congr (State.rowReady_mem _ _ _ _ _ _ _ _ _ _) (State.rowReady_hostMem _ _ _ _ _ _ _ _ _ _)
@[simp] theorem State.keepGot_canonical : ∀ s a1 a2 a3 a4 a5 a6, (State.keepGot s a1 a2 a3 a4 a5 a6).canonical ↔ s.canonical := by intros; exact State.canonical_congr (State.keepGot_mem _ _ _ _ _ _ _) (State.keepGot_hostMem _ _ _ _ _ _ _)
@[simp] theorem State.transposeAll_canonical : ∀ s a1 a2, (State.transposeAll s a1 a2).canonical ↔ s.canonical := by intros; exact State.canonical_congr (State.transposeAll_mem _ _ _) (State.transposeAll_hostMem _ _ _)
@[simp] theorem State.loadBlock_canonical : ∀ s a1 a2 a3 a4, (State.loadBlock s a1 a2 a3 a4).canonical ↔ s.canonical := by intros; exact State.canonical_congr (State.loadBlock_mem _ _ _ _ _) (State.loadBlock_hostMem _ _ _ _ _)
@[simp] theorem State.rowRead_canonical : ∀ s a1 a2 a3 a4 a5, (State.rowRead s a1 a2 a3 a4 a5).canonical ↔ s.canonical := by intros; exact State.canonical_congr (State.rowRead_mem _ _ _ _ _ _) (State.rowRead_hostMem _ _ _ _ _ _)
@[simp] theorem State.drainRow_canonical : ∀ s a1 a2 a3, (State.drainRow s a1 a2 a3).canonical ↔ s.canonical := by intros; exact State.canonical_congr (State.drainRow_mem _ _ _ _) (State.drainRow_hostMem _ _ _ _)
@[simp] theorem State.requestRows_canonical : ∀ s a1 a2, (State.requestRows s a1 a2).canonical ↔ s.canonical := by intros; exact State.canonical_congr (State.requestRows_mem _ _ _) (State.requestRows_hostMem _ _ _)
@[simp] theorem State.matBegin_canonical : ∀ s a1, (State.matBegin s a1).canonical ↔ s.canonical := by intros; exact State.canonical_congr (State.matBegin_mem _ _) (State.matBegin_hostMem _ _)
@[simp] theorem State.matRequests_canonical : ∀ s a1, (State.matRequests s a1).canonical ↔ s.canonical := by intros; exact State.canonical_congr (State.matRequests_mem _ _) (State.matRequests_hostMem _ _)
@[simp] theorem State.landRow_canonical : ∀ s a1 a2 a3, (State.landRow s a1 a2 a3).canonical ↔ s.canonical := by intros; exact State.canonical_congr (State.landRow_mem _ _ _ _) (State.landRow_hostMem _ _ _ _)
@[simp] theorem State.enqueue_canonical : ∀ s a1 a2 a3, (State.enqueue s a1 a2 a3).canonical ↔ s.canonical := by intros; exact State.canonical_congr (State.enqueue_mem _ _ _ _) (State.enqueue_hostMem _ _ _ _)
@[simp] theorem State.cmdTrap_canonical : ∀ s a1 a2 a3 a4, (State.cmdTrap s a1 a2 a3 a4).canonical ↔ s.canonical := by intros; exact State.canonical_congr (State.cmdTrap_mem _ _ _ _ _) (State.cmdTrap_hostMem _ _ _ _ _)
@[simp] theorem State.tableRead_canonical : ∀ s a1 a2 a3, (State.tableRead s a1 a2 a3).canonical ↔ s.canonical := by intros; exact State.canonical_congr (State.tableRead_mem _ _ _ _) (State.tableRead_hostMem _ _ _ _)
@[simp] theorem State.sendRrd_canonical : ∀ s a1 a2 a3, (State.sendRrd s a1 a2 a3).canonical ↔ s.canonical := by intros; exact State.canonical_congr (State.sendRrd_mem _ _ _ _) (State.sendRrd_hostMem _ _ _ _)
@[simp] theorem State.memberKnown_canonical : ∀ s a1 a2 a3 a4 a5, (State.memberKnown s a1 a2 a3 a4 a5).canonical ↔ s.canonical := by intros; exact State.canonical_congr (State.memberKnown_mem _ _ _ _ _ _) (State.memberKnown_hostMem _ _ _ _ _ _)
@[simp] theorem State.pieceRead_canonical : ∀ s a1 a2 a3 a4, (State.pieceRead s a1 a2 a3 a4).canonical ↔ s.canonical := by intros; exact State.canonical_congr (State.pieceRead_mem _ _ _ _ _) (State.pieceRead_hostMem _ _ _ _ _)
@[simp] theorem State.endWalks_canonical : ∀ s a1, (State.endWalks s a1).canonical ↔ s.canonical := by intros; exact State.canonical_congr (State.endWalks_mem _ _) (State.endWalks_hostMem _ _)
@[simp] theorem State.landWalk_canonical : ∀ s a1 a2, (State.landWalk s a1 a2).canonical ↔ s.canonical := by intros; exact State.canonical_congr (State.landWalk_mem _ _ _) (State.landWalk_hostMem _ _ _)
@[simp] theorem State.queuePacket_canonical : ∀ s a1 a2 a3, (State.queuePacket s a1 a2 a3).canonical ↔ s.canonical := by intros; exact State.canonical_congr (State.queuePacket_mem _ _ _ _) (State.queuePacket_hostMem _ _ _ _)
@[simp] theorem State.sendOpen_canonical : ∀ s a1 a2 a3 a4, (State.sendOpen s a1 a2 a3 a4).canonical ↔ s.canonical := by intros; exact State.canonical_congr (State.sendOpen_mem _ _ _ _ _) (State.sendOpen_hostMem _ _ _ _ _)
@[simp] theorem State.stamp_canonical : ∀ s a1 a2, (State.stamp s a1 a2).2.canonical ↔ s.canonical := by intros; exact State.canonical_congr (State.stamp_mem _ _ _) (State.stamp_hostMem _ _ _)
@[simp] theorem State.noteSent_canonical : ∀ s a1 a2 a3, (State.noteSent s a1 a2 a3).canonical ↔ s.canonical := by intros; exact State.canonical_congr (State.noteSent_mem _ _ _ _) (State.noteSent_hostMem _ _ _ _)
@[simp] theorem State.sendHome_canonical : ∀ s a1 a2 a3 a4 a5, (State.sendHome s a1 a2 a3 a4 a5).canonical ↔ s.canonical := by intros; exact State.canonical_congr (State.sendHome_mem _ _ _ _ _ _) (State.sendHome_hostMem _ _ _ _ _ _)
@[simp] theorem State.sendFar_canonical : ∀ s a1 a2 a3 a4, (State.sendFar s a1 a2 a3 a4).canonical ↔ s.canonical := by intros; exact State.canonical_congr (State.sendFar_mem _ _ _ _ _) (State.sendFar_hostMem _ _ _ _ _)
@[simp] theorem State.sendReq_canonical : ∀ s a1 a2 a3 a4 a5, (State.sendReq s a1 a2 a3 a4 a5).canonical ↔ s.canonical := by intros; exact State.canonical_congr (State.sendReq_mem _ _ _ _ _ _) (State.sendReq_hostMem _ _ _ _ _ _)
@[simp] theorem State.leaveHeld_canonical : ∀ s a1, (State.leaveHeld s a1).canonical ↔ s.canonical := by intros; exact State.canonical_congr (State.leaveHeld_mem _ _) (State.leaveHeld_hostMem _ _)
@[simp] theorem State.takeEntry_canonical : ∀ s a1 a2 a3, (State.takeEntry s a1 a2 a3).canonical ↔ s.canonical := by intros; exact State.canonical_congr (State.takeEntry_mem _ _ _ _) (State.takeEntry_hostMem _ _ _ _)
@[simp] theorem State.gstData_canonical : ∀ s a1 a2 a3, (State.gstData s a1 a2 a3).canonical ↔ s.canonical := by intros; exact State.canonical_congr (State.gstData_mem _ _ _ _) (State.gstData_hostMem _ _ _ _)
@[simp] theorem State.gatomLeave_canonical : ∀ s a1, (State.gatomLeave s a1).canonical ↔ s.canonical := by intros; exact State.canonical_congr (State.gatomLeave_mem _ _) (State.gatomLeave_hostMem _ _)
@[simp] theorem State.noteDone_canonical : ∀ s a1 a2, (State.noteDone s a1 a2).canonical ↔ s.canonical := by intros; exact State.canonical_congr (State.noteDone_mem _ _ _) (State.noteDone_hostMem _ _ _)
@[simp] theorem State.cancelReqs_canonical : ∀ s a1 a2, (State.cancelReqs s a1 a2).canonical ↔ s.canonical := by intros; exact State.canonical_congr (State.cancelReqs_mem _ _ _) (State.cancelReqs_hostMem _ _ _)
@[simp] theorem State.setShadows_canonical : ∀ s a1, (State.setShadows s a1).canonical ↔ s.canonical := by intros; exact State.canonical_congr (State.setShadows_mem _ _) (State.setShadows_hostMem _ _)
@[simp] theorem State.setStamps_canonical : ∀ s a1 a2 a3, (State.setStamps s a1 a2 a3).canonical ↔ s.canonical := by intros; exact State.canonical_congr (State.setStamps_mem _ _ _ _) (State.setStamps_hostMem _ _ _ _)
@[simp] theorem State.homeAnswer_canonical : ∀ s a1 a2 a3 a4 a5, (State.homeAnswer s a1 a2 a3 a4 a5).canonical ↔ s.canonical := by intros; exact State.canonical_congr (State.homeAnswer_mem _ _ _ _ _ _) (State.homeAnswer_hostMem _ _ _ _ _ _)
@[simp] theorem State.dropReq_canonical : ∀ s a1, (State.dropReq s a1).canonical ↔ s.canonical := by intros; exact State.canonical_congr (State.dropReq_mem _ _) (State.dropReq_hostMem _ _)
@[simp] theorem State.reqDone_canonical : ∀ s a1, (State.reqDone s a1).canonical ↔ s.canonical := by intros; exact State.canonical_congr (State.reqDone_mem _ _) (State.reqDone_hostMem _ _)
@[simp] theorem State.takeReply_canonical : ∀ s a1, (State.takeReply s a1).canonical ↔ s.canonical := by intros; exact State.canonical_congr (State.takeReply_mem _ _) (State.takeReply_hostMem _ _)
@[simp] theorem State.releaseEvent_canonical : ∀ s a1 a2 a3 a4, (State.releaseEvent s a1 a2 a3 a4).canonical ↔ s.canonical := by intros; exact State.canonical_congr (State.releaseEvent_mem _ _ _ _ _) (State.releaseEvent_hostMem _ _ _ _ _)
@[simp] theorem State.acquireEvent_canonical : ∀ s a1 a2 a3 a4, (State.acquireEvent s a1 a2 a3 a4).canonical ↔ s.canonical := by intros; exact State.canonical_congr (State.acquireEvent_mem _ _ _ _ _) (State.acquireEvent_hostMem _ _ _ _ _)
@[simp] theorem State.fenceTell_canonical : ∀ s a1 a2, (State.fenceTell s a1 a2).canonical ↔ s.canonical := by intros; exact State.canonical_congr (State.fenceTell_mem _ _ _) (State.fenceTell_hostMem _ _ _)
@[simp] theorem State.fenceDone_canonical : ∀ s a1 a2, (State.fenceDone s a1 a2).canonical ↔ s.canonical := by intros; exact State.canonical_congr (State.fenceDone_mem _ _ _) (State.fenceDone_hostMem _ _ _)
@[simp] theorem State.fenceStep_canonical : ∀ s a1, (State.fenceStep s a1).canonical ↔ s.canonical := by intros; exact State.canonical_congr (State.fenceStep_mem _ _) (State.fenceStep_hostMem _ _)
@[simp] theorem State.modSkip_canonical : ∀ s a1 a2, (State.modSkip s a1 a2).canonical ↔ s.canonical := by intros; exact State.canonical_congr (State.modSkip_mem _ _ _) (State.modSkip_hostMem _ _ _)
@[simp] theorem State.block_canonical : ∀ s a1 a2, (State.block s a1 a2).canonical ↔ s.canonical := by intros; exact State.canonical_congr (State.block_mem _ _ _) (State.block_hostMem _ _ _)
@[simp] theorem State.addHaul_canonical : ∀ s a1 a2, (State.addHaul s a1 a2).canonical ↔ s.canonical := by intros; exact State.canonical_congr (State.addHaul_mem _ _ _) (State.addHaul_hostMem _ _ _)
@[simp] theorem State.fbRead_canonical : ∀ s a1 a2 a3 a4, (State.fbRead s a1 a2 a3 a4).canonical ↔ s.canonical := by intros; exact State.canonical_congr (State.fbRead_mem _ _ _ _ _) (State.fbRead_hostMem _ _ _ _ _)
@[simp] theorem State.fbUpdate_canonical : ∀ s a1 a2 a3 a4 a5, (State.fbUpdate s a1 a2 a3 a4 a5).canonical ↔ s.canonical := by intros; exact State.canonical_congr (State.fbUpdate_mem _ _ _ _ _ _) (State.fbUpdate_hostMem _ _ _ _ _ _)
@[simp] theorem State.badSkip_canonical : ∀ s a1 a2, (State.badSkip s a1 a2).canonical ↔ s.canonical := by intros; exact State.canonical_congr (State.badSkip_mem _ _ _) (State.badSkip_hostMem _ _ _)
@[simp] theorem State.haulWait_canonical : ∀ s a1 a2, (State.haulWait s a1 a2).canonical ↔ s.canonical := by intros; exact State.canonical_congr (State.haulWait_mem _ _ _) (State.haulWait_hostMem _ _ _)
@[simp] theorem State.haulUpdate_canonical : ∀ s a1 a2 a3 a4 a5 a6 a7, (State.haulUpdate s a1 a2 a3 a4 a5 a6 a7).canonical ↔ s.canonical := by intros; exact State.canonical_congr (State.haulUpdate_mem _ _ _ _ _ _ _ _) (State.haulUpdate_hostMem _ _ _ _ _ _ _ _)
@[simp] theorem State.resultY_canonical : ∀ s a1 a2 a3 a4, (State.resultY s a1 a2 a3 a4).canonical ↔ s.canonical := by intros; exact State.canonical_congr (State.resultY_mem _ _ _ _ _) (State.resultY_hostMem _ _ _ _ _)
@[simp] theorem State.dropHaul_canonical : ∀ s a1 a2, (State.dropHaul s a1 a2).canonical ↔ s.canonical := by intros; exact State.canonical_congr (State.dropHaul_mem _ _ _) (State.dropHaul_hostMem _ _ _)
@[simp] theorem State.putHaul_canonical : ∀ s a1 a2 a3, (State.putHaul s a1 a2 a3).canonical ↔ s.canonical := by intros; exact State.canonical_congr (State.putHaul_mem _ _ _ _) (State.putHaul_hostMem _ _ _ _)
@[simp] theorem State.wakeAt_canonical : ∀ s a1 a2 a3, (State.wakeAt s a1 a2 a3).canonical ↔ s.canonical := by intros; exact State.canonical_congr (State.wakeAt_mem _ _ _ _) (State.wakeAt_hostMem _ _ _ _)
@[simp] theorem State.wakeOn_canonical : ∀ s a1 a2 a3, (State.wakeOn s a1 a2 a3).canonical ↔ s.canonical := by intros; exact State.canonical_congr (State.wakeOn_mem _ _ _ _) (State.wakeOn_hostMem _ _ _ _)
@[simp] theorem State.failHaul_canonical : ∀ s a1 a2, (State.failHaul s a1 a2).canonical ↔ s.canonical := by intros; exact State.canonical_congr (State.failHaul_mem _ _ _) (State.failHaul_hostMem _ _ _)
@[simp] theorem State.capture_canonical : ∀ s a1 a2 a3, (State.capture s a1 a2 a3).canonical ↔ s.canonical := by intros; exact State.canonical_congr (State.capture_mem _ _ _ _) (State.capture_hostMem _ _ _ _)
@[simp] theorem State.deliver_canonical : ∀ s a1 a2 a3 a4 a5 a6, (State.deliver s a1 a2 a3 a4 a5 a6).canonical ↔ s.canonical := by intros; exact State.canonical_congr (State.deliver_mem _ _ _ _ _ _ _) (State.deliver_hostMem _ _ _ _ _ _ _)
@[simp] theorem State.haulRead_canonical : ∀ s a1 a2 a3, (State.haulRead s a1 a2 a3).canonical ↔ s.canonical := by intros; exact State.canonical_congr (State.haulRead_mem _ _ _ _) (State.haulRead_hostMem _ _ _ _)
@[simp] theorem State.haulApply_canonical : ∀ s a1 a2 a3, (State.haulApply s a1 a2 a3).canonical ↔ s.canonical := by intros; exact State.canonical_congr (State.haulApply_mem _ _ _ _) (State.haulApply_hostMem _ _ _ _)
@[simp] theorem State.haulCheck_canonical : ∀ s a1 a2 a3, (State.haulCheck s a1 a2 a3).canonical ↔ s.canonical := by intros; exact State.canonical_congr (State.haulCheck_mem _ _ _ _) (State.haulCheck_hostMem _ _ _ _)
@[simp] theorem State.haulBoard_canonical : ∀ s a1 a2 a3, (State.haulBoard s a1 a2 a3).canonical ↔ s.canonical := by intros; exact State.canonical_congr (State.haulBoard_mem _ _ _ _) (State.haulBoard_hostMem _ _ _ _)
@[simp] theorem State.tryArrive_canonical : ∀ s a1 a2, (State.tryArrive s a1 a2).canonical ↔ s.canonical := by intros; exact State.canonical_congr (State.tryArrive_mem _ _ _) (State.tryArrive_hostMem _ _ _)
@[simp] theorem State.barDone_canonical : ∀ s a1 a2 a3 a4, (State.barDone s a1 a2 a3 a4).canonical ↔ s.canonical := by intros; exact State.canonical_congr (State.barDone_mem _ _ _ _ _) (State.barDone_hostMem _ _ _ _ _)
@[simp] theorem State.barWake_canonical : ∀ s a1 a2 a3, (State.barWake s a1 a2 a3).canonical ↔ s.canonical := by intros; exact State.canonical_congr (State.barWake_mem _ _ _ _) (State.barWake_hostMem _ _ _ _)
@[simp] theorem State.barMet_canonical : ∀ s a1 a2 a3, (State.barMet s a1 a2 a3).canonical ↔ s.canonical := by intros; exact State.canonical_congr (State.barMet_mem _ _ _ _) (State.barMet_hostMem _ _ _ _)
@[simp] theorem State.seeBits_canonical : ∀ s a1 a2 a3 a4, (State.seeBits s a1 a2 a3 a4).canonical ↔ s.canonical := by intros; exact State.canonical_congr (State.seeBits_mem _ _ _ _ _) (State.seeBits_hostMem _ _ _ _ _)
@[simp] theorem State.barInvert_canonical : ∀ s a1 a2 a3 a4, (State.barInvert s a1 a2 a3 a4).canonical ↔ s.canonical := by intros; exact State.canonical_congr (State.barInvert_mem _ _ _ _ _) (State.barInvert_hostMem _ _ _ _ _)
@[simp] theorem State.barCheck_canonical : ∀ s a1 a2 a3, (State.barCheck s a1 a2 a3).canonical ↔ s.canonical := by intros; exact State.canonical_congr (State.barCheck_mem _ _ _ _) (State.barCheck_hostMem _ _ _ _)
@[simp] theorem State.passUser_canonical : ∀ s a1 a2, (State.passUser s a1 a2).canonical ↔ s.canonical := by intros; exact State.canonical_congr (State.passUser_mem _ _ _) (State.passUser_hostMem _ _ _)
@[simp] theorem State.passSystem_canonical : ∀ s a1 a2, (State.passSystem s a1 a2).canonical ↔ s.canonical := by intros; exact State.canonical_congr (State.passSystem_mem _ _ _) (State.passSystem_hostMem _ _ _)
@[simp] theorem State.fbDone_canonical : ∀ s a1 a2, (State.fbDone s a1 a2).canonical ↔ s.canonical := by intros; exact State.canonical_congr (State.fbDone_mem _ _ _) (State.fbDone_hostMem _ _ _)
@[simp] theorem State.modFocus_canonical : ∀ s a1, (State.modFocus s a1).canonical ↔ s.canonical := by intros; exact State.canonical_congr (State.modFocus_mem _ _) (State.modFocus_hostMem _ _)
@[simp] theorem State.loopPush_canonical : ∀ s a1 a2, (State.loopPush s a1 a2).canonical ↔ s.canonical := by intros; exact State.canonical_congr (State.loopPush_mem _ _ _) (State.loopPush_hostMem _ _ _)
@[simp] theorem State.loopBreak_canonical : ∀ s a1, (State.loopBreak s a1).canonical ↔ s.canonical := by intros; exact State.canonical_congr (State.loopBreak_mem _ _) (State.loopBreak_hostMem _ _)
@[simp] theorem State.tryLock_canonical : ∀ s a1 a2 a3, (State.tryLock s a1 a2 a3).2.canonical ↔ s.canonical := by intros; exact State.canonical_congr (State.tryLock_mem _ _ _ _) (State.tryLock_hostMem _ _ _ _)
@[simp] theorem State.retryLocks_canonical : ∀ s a1, (State.retryLocks s a1).canonical ↔ s.canonical := by intros; exact State.canonical_congr (State.retryLocks_mem _ _) (State.retryLocks_hostMem _ _)
@[simp] theorem State.decideAbort_canonical : ∀ s a1 a2 a3 a4, (State.decideAbort s a1 a2 a3 a4).canonical ↔ s.canonical := by intros; exact State.canonical_congr (State.decideAbort_mem _ _ _ _ _) (State.decideAbort_hostMem _ _ _ _ _)
@[simp] theorem State.leaveEntry_canonical : ∀ s a1 a2 a3 a4 a5 a6, (State.leaveEntry s a1 a2 a3 a4 a5 a6).canonical ↔ s.canonical := by intros; exact State.canonical_congr (State.leaveEntry_mem _ _ _ _ _ _ _) (State.leaveEntry_hostMem _ _ _ _ _ _ _)
@[simp] theorem State.release_canonical : ∀ s a1 a2 a3 a4, (State.release s a1 a2 a3 a4).canonical ↔ s.canonical := by intros; exact State.canonical_congr (State.release_mem _ _ _ _ _) (State.release_hostMem _ _ _ _ _)
@[simp] theorem State.sendLeaving_canonical : ∀ s a1, (State.sendLeaving s a1).canonical ↔ s.canonical := by intros; exact State.canonical_congr (State.sendLeaving_mem _ _) (State.sendLeaving_hostMem _ _)
@[simp] theorem State.landMembers_canonical : ∀ s a1, (State.landMembers s a1).canonical ↔ s.canonical := by intros; exact State.canonical_congr (State.landMembers_mem _ _) (State.landMembers_hostMem _ _)
@[simp] theorem State.loadDone_canonical : ∀ s a1 a2 a3, (State.loadDone s a1 a2 a3).canonical ↔ s.canonical := by intros; exact State.canonical_congr (State.loadDone_mem _ _ _ _) (State.loadDone_hostMem _ _ _ _)
@[simp] theorem State.matRow_canonical : ∀ s a1 a2 a3 a4, (State.matRow s a1 a2 a3 a4).canonical ↔ s.canonical := by intros; exact State.canonical_congr (State.matRow_mem _ _ _ _ _) (State.matRow_hostMem _ _ _ _ _)
@[simp] theorem State.replyHome_canonical : ∀ s a1 a2 a3 a4, (State.replyHome s a1 a2 a3 a4).canonical ↔ s.canonical := by intros; exact State.canonical_congr (State.replyHome_mem _ _ _ _ _) (State.replyHome_hostMem _ _ _ _ _)
@[simp] theorem State.replyTo_canonical : ∀ s a1 a2 a3, (State.replyTo s a1 a2 a3).canonical ↔ s.canonical := by intros; exact State.canonical_congr (State.replyTo_mem _ _ _ _) (State.replyTo_hostMem _ _ _ _)
@[simp] theorem State.amoStage_canonical : ∀ s a1 a2 a3 a4, (State.amoStage s a1 a2 a3 a4).canonical ↔ s.canonical := by intros; exact State.canonical_congr (State.amoStage_mem _ _ _ _ _) (State.amoStage_hostMem _ _ _ _ _)
@[simp] theorem State.readAcc_canonical : ∀ s a1 a2, (State.readAcc s a1 a2).canonical ↔ s.canonical := by intros; exact State.canonical_congr (State.readAcc_mem _ _ _) (State.readAcc_hostMem _ _ _)
@[simp] theorem State.memberDone_canonical : ∀ s a1 a2 a3, (State.memberDone s a1 a2 a3).canonical ↔ s.canonical := by intros; exact State.canonical_congr (State.memberDone_mem _ _ _ _) (State.memberDone_hostMem _ _ _ _)
@[simp] theorem State.startRefetch_canonical : ∀ s a1 a2, (State.startRefetch s a1 a2).canonical ↔ s.canonical := by intros; exact State.canonical_congr (State.startRefetch_mem _ _ _) (State.startRefetch_hostMem _ _ _)
@[simp] theorem State.openCycle_canonical : ∀ s a1, (State.openCycle s a1).canonical ↔ s.canonical := by intros; exact State.canonical_congr (State.openCycle_mem _ _) (State.openCycle_hostMem _ _)
@[simp] theorem State.beginPeriod_canonical : ∀ s a1, (State.beginPeriod s a1).canonical ↔ s.canonical := by intros; exact State.canonical_congr (State.beginPeriod_mem _ _) (State.beginPeriod_hostMem _ _)
@[simp] theorem State.settleClaims_canonical : ∀ s a1 a2, (State.settleClaims s a1 a2).canonical ↔ s.canonical := by intros; exact State.canonical_congr (State.settleClaims_mem _ _ _) (State.settleClaims_hostMem _ _ _)
@[simp] theorem State.takeCheckpoint_canonical : ∀ s a1, (State.takeCheckpoint s a1).canonical ↔ s.canonical := by intros; exact State.canonical_congr (State.takeCheckpoint_mem _ _) (State.takeCheckpoint_hostMem _ _)
@[simp] theorem State.yieldTrap_canonical : ∀ s a1, (State.yieldTrap s a1).canonical ↔ s.canonical := by intros; exact State.canonical_congr (State.yieldTrap_mem _ _) (State.yieldTrap_hostMem _ _)
@[simp] theorem State.yieldRelease_canonical : ∀ s a1, (State.yieldRelease s a1).canonical ↔ s.canonical := by intros; exact State.canonical_congr (State.yieldRelease_mem _ _) (State.yieldRelease_hostMem _ _)
@[simp] theorem State.startBundle_canonical : ∀ s a1 a2 a3, (State.startBundle s a1 a2 a3).canonical ↔ s.canonical := by intros; exact State.canonical_congr (State.startBundle_mem _ _ _ _) (State.startBundle_hostMem _ _ _ _)
@[simp] theorem State.openIssue_canonical : ∀ s a1, (State.openIssue s a1).canonical ↔ s.canonical := by intros; exact State.canonical_congr (State.openIssue_mem _ _) (State.openIssue_hostMem _ _)
@[simp] theorem State.endBundle_canonical : ∀ s a1, (State.endBundle s a1).canonical ↔ s.canonical := by intros; exact State.canonical_congr (State.endBundle_mem _ _) (State.endBundle_hostMem _ _)
@[simp] theorem State.profile_canonical : ∀ s a1, (State.profile s a1).canonical ↔ s.canonical := by intros; exact State.canonical_congr (State.profile_mem _ _) (State.profile_hostMem _ _)
@[simp] theorem State.closeCycle_canonical : ∀ s a1, (State.closeCycle s a1).canonical ↔ s.canonical := by intros; exact State.canonical_congr (State.closeCycle_mem _ _) (State.closeCycle_hostMem _ _)
@[simp] theorem State.flood_canonical : ∀ s a1, (State.flood s a1).canonical ↔ s.canonical := by intros; exact State.canonical_congr (State.flood_mem _ _) (State.flood_hostMem _ _)
@[simp] theorem State.floodLoss_canonical : ∀ s a1, (State.floodLoss s a1).canonical ↔ s.canonical := by intros; exact State.canonical_congr (State.floodLoss_mem _ _) (State.floodLoss_hostMem _ _)
@[simp] theorem State.purgeTraps_canonical : ∀ s a1, (State.purgeTraps s a1).canonical ↔ s.canonical := by intros; exact State.canonical_congr (State.purgeTraps_mem _ _) (State.purgeTraps_hostMem _ _)
@[simp] theorem State.unclaim_canonical : ∀ s a1 a2 a3 a4, (State.unclaim s a1 a2 a3 a4).canonical ↔ s.canonical := by intros; exact State.canonical_congr (State.unclaim_mem _ _ _ _ _) (State.unclaim_hostMem _ _ _ _ _)
@[simp] theorem State.dropClaims_canonical : ∀ s a1 a2, (State.dropClaims s a1 a2).canonical ↔ s.canonical := by intros; exact State.canonical_congr (State.dropClaims_mem _ _ _) (State.dropClaims_hostMem _ _ _)
@[simp] theorem State.dropWire_canonical : ∀ s a1, (State.dropWire s a1).canonical ↔ s.canonical := by intros; exact State.canonical_congr (State.dropWire_mem _ _) (State.dropWire_hostMem _ _)
@[simp] theorem State.discard_canonical : ∀ s a1 a2 a3, (State.discard s a1 a2 a3).canonical ↔ s.canonical := by intros; exact State.canonical_congr (State.discard_mem _ _ _ _) (State.discard_hostMem _ _ _ _)
@[simp] theorem State.rollBack_canonical : ∀ s a1 a2 a3, (State.rollBack s a1 a2 a3).canonical ↔ s.canonical := by intros; exact State.canonical_congr (State.rollBack_mem _ _ _ _) (State.rollBack_hostMem _ _ _ _)
@[simp] theorem State.stopOn_canonical : ∀ s a1 a2, (State.stopOn s a1 a2).canonical ↔ s.canonical := by intros; exact State.canonical_congr (State.stopOn_mem _ _ _) (State.stopOn_hostMem _ _ _)
@[simp] theorem State.stopLaunch_canonical : ∀ s a1, (State.stopLaunch s a1).canonical ↔ s.canonical := by intros; exact State.canonical_congr (State.stopLaunch_mem _ _) (State.stopLaunch_hostMem _ _)
@[simp] theorem State.tellAbort_canonical : ∀ s a1, (State.tellAbort s a1).canonical ↔ s.canonical := by intros; exact State.canonical_congr (State.tellAbort_mem _ _) (State.tellAbort_hostMem _ _)
@[simp] theorem State.badCmd_canonical : ∀ s a1, (State.badCmd s a1).canonical ↔ s.canonical := by intros; exact State.canonical_congr (State.badCmd_mem _ _) (State.badCmd_hostMem _ _)
@[simp] theorem State.prune_canonical : ∀ s a1, (State.prune s a1).canonical ↔ s.canonical := by intros; exact State.canonical_congr (State.prune_mem _ _) (State.prune_hostMem _ _)
@[simp] theorem State.setQueue_canonical : ∀ s a1 a2 a3, (State.setQueue s a1 a2 a3).canonical ↔ s.canonical := by intros; exact State.canonical_congr (State.setQueue_mem _ _ _ _) (State.setQueue_hostMem _ _ _ _)
@[simp] theorem State.dequeue_canonical : ∀ s a1, (State.dequeue s a1).canonical ↔ s.canonical := by intros; exact State.canonical_congr (State.dequeue_mem _ _) (State.dequeue_hostMem _ _)
@[simp] theorem State.dropVector_canonical : ∀ s a1 a2, (State.dropVector s a1 a2).canonical ↔ s.canonical := by intros; exact State.canonical_congr (State.dropVector_mem _ _ _) (State.dropVector_hostMem _ _ _)
@[simp] theorem State.recordEnd_canonical : ∀ s a1 a2 a3, (State.recordEnd s a1 a2 a3).canonical ↔ s.canonical := by intros; exact State.canonical_congr (State.recordEnd_mem _ _ _ _) (State.recordEnd_hostMem _ _ _ _)
@[simp] theorem State.clearShift_canonical : ∀ s a1, (State.clearShift s a1).canonical ↔ s.canonical := by intros; exact State.canonical_congr (State.clearShift_mem _ _) (State.clearShift_hostMem _ _)
@[simp] theorem State.askYield_canonical : ∀ s a1, (State.askYield s a1).canonical ↔ s.canonical := by intros; exact State.canonical_congr (State.askYield_mem _ _) (State.askYield_hostMem _ _)
@[simp] theorem State.resume_canonical : ∀ s a1, (State.resume s a1).canonical ↔ s.canonical := by intros; exact State.canonical_congr (State.resume_mem _ _) (State.resume_hostMem _ _)
@[simp] theorem State.swapResume_canonical : ∀ s a1, (State.swapResume s a1).canonical ↔ s.canonical := by intros; exact State.canonical_congr (State.swapResume_mem _ _) (State.swapResume_hostMem _ _)
@[simp] theorem State.startRec_canonical : ∀ s a1 a2, (State.startRec s a1 a2).canonical ↔ s.canonical := by intros; exact State.canonical_congr (State.startRec_mem _ _ _) (State.startRec_hostMem _ _ _)
@[simp] theorem State.retireCore_canonical : ∀ s a1 a2 a3, (State.retireCore s a1 a2 a3).canonical ↔ s.canonical := by intros; exact State.canonical_congr (State.retireCore_mem _ _ _ _) (State.retireCore_hostMem _ _ _ _)
@[simp] theorem State.freeSkips_canonical : ∀ s a1, (State.freeSkips s a1).canonical ↔ s.canonical := by intros; exact State.canonical_congr (State.freeSkips_mem _ _) (State.freeSkips_hostMem _ _)
@[simp] theorem State.saveCore_canonical : ∀ s a1 a2 a3, (State.saveCore s a1 a2 a3).canonical ↔ s.canonical := by intros; exact State.canonical_congr (State.saveCore_mem _ _ _ _) (State.saveCore_hostMem _ _ _ _)
@[simp] theorem State.putBits_canonical : ∀ s a1 a2, (State.putBits s a1 a2).canonical ↔ s.canonical := by intros; exact State.canonical_congr (State.putBits_mem _ _ _) (State.putBits_hostMem _ _ _)
@[simp] theorem State.unparkDone_canonical : ∀ s a1, (State.unparkDone s a1).canonical ↔ s.canonical := by intros; exact State.canonical_congr (State.unparkDone_mem _ _) (State.unparkDone_hostMem _ _)
@[simp] theorem State.denied_canonical : ∀ s, (State.denied s).canonical ↔ s.canonical := by intros; exact State.canonical_congr (State.denied_mem _) (State.denied_hostMem _)
@[simp] theorem State.swapRefused_canonical : ∀ s a1 a2, (State.swapRefused s a1 a2).canonical ↔ s.canonical := by intros; exact State.canonical_congr (State.swapRefused_mem _ _ _) (State.swapRefused_hostMem _ _ _)
@[simp] theorem State.rejudgeYields_canonical : ∀ s a1, (State.rejudgeYields s a1).canonical ↔ s.canonical := by intros; exact State.canonical_congr (State.rejudgeYields_mem _ _) (State.rejudgeYields_hostMem _ _)
@[simp] theorem State.fixYields_canonical : ∀ s, (State.fixYields s).canonical ↔ s.canonical := by intros; exact State.canonical_congr (State.fixYields_mem _) (State.fixYields_hostMem _)
@[simp] theorem State.modImage_canonical : ∀ s a1 a2, (State.modImage s a1 a2).canonical ↔ s.canonical := by intros; exact State.canonical_congr (State.modImage_mem _ _ _) (State.modImage_hostMem _ _ _)
@[simp] theorem State.takeImage_canonical : ∀ s a1 a2 a3, (State.takeImage s a1 a2 a3).canonical ↔ s.canonical := by intros; exact State.canonical_congr (State.takeImage_mem _ _ _ _) (State.takeImage_hostMem _ _ _ _)
@[simp] theorem State.setBusy_canonical : ∀ s, (State.setBusy s).canonical ↔ s.canonical := by intros; exact State.canonical_congr (State.setBusy_mem _) (State.setBusy_hostMem _)
@[simp] theorem State.rekeyDie_canonical : ∀ s a1 a2, (State.rekeyDie s a1 a2).canonical ↔ s.canonical := by intros; exact State.canonical_congr (State.rekeyDie_mem _ _ _) (State.rekeyDie_hostMem _ _ _)
@[simp] theorem State.dropCached_canonical : ∀ s a1 a2 a3, (State.dropCached s a1 a2 a3).canonical ↔ s.canonical := by intros; exact State.canonical_congr (State.dropCached_mem _ _ _ _) (State.dropCached_hostMem _ _ _ _)
@[simp] theorem State.wcinvStep_canonical : ∀ s a1, (State.wcinvStep s a1).canonical ↔ s.canonical := by intros; exact State.canonical_congr (State.wcinvStep_mem _ _) (State.wcinvStep_hostMem _ _)
@[simp] theorem State.markStale_canonical : ∀ s a1 a2 a3, (State.markStale s a1 a2 a3).canonical ↔ s.canonical := by intros; exact State.canonical_congr (State.markStale_mem _ _ _ _) (State.markStale_hostMem _ _ _ _)
@[simp] theorem State.bsinvStep_canonical : ∀ s, (State.bsinvStep s).canonical ↔ s.canonical := by intros; exact State.canonical_congr (State.bsinvStep_mem _) (State.bsinvStep_hostMem _)
@[simp] theorem State.acknowledge_canonical : ∀ s, (State.acknowledge s).canonical ↔ s.canonical := by intros; exact State.canonical_congr (State.acknowledge_mem _) (State.acknowledge_hostMem _)
@[simp] theorem State.clearShadows_canonical : ∀ s a1, (State.clearShadows s a1).canonical ↔ s.canonical := by intros; exact State.canonical_congr (State.clearShadows_mem _ _) (State.clearShadows_hostMem _ _)
@[simp] theorem State.writePf_canonical : ∀ s a1 a2, (State.writePf s a1 a2).canonical ↔ s.canonical := by intros; exact State.canonical_congr (State.writePf_mem _ _ _) (State.writePf_hostMem _ _ _)
@[simp] theorem State.dbgRead_canonical : ∀ s a1 a2 a3 a4 a5, (State.dbgRead s a1 a2 a3 a4 a5).1.canonical ↔ s.canonical := by intros; exact State.canonical_congr (State.dbgRead_mem _ _ _ _ _ _) (State.dbgRead_hostMem _ _ _ _ _ _)
@[simp] theorem State.dbgEnd_canonical : ∀ s a1 a2, (State.dbgEnd s a1 a2).canonical ↔ s.canonical := by intros; exact State.canonical_congr (State.dbgEnd_mem _ _ _) (State.dbgEnd_hostMem _ _ _)
@[simp] theorem State.dbgResult_canonical : ∀ s a1 a2 a3 a4, (State.dbgResult s a1 a2 a3 a4).canonical ↔ s.canonical := by intros; exact State.canonical_congr (State.dbgResult_mem _ _ _ _ _) (State.dbgResult_hostMem _ _ _ _ _)
@[simp] theorem State.dbgReply_canonical : ∀ s a1 a2 a3, (State.dbgReply s a1 a2 a3).canonical ↔ s.canonical := by intros; exact State.canonical_congr (State.dbgReply_mem _ _ _ _) (State.dbgReply_hostMem _ _ _ _)
@[simp] theorem State.closeDebug_canonical : ∀ s a1 a2, (State.closeDebug s a1 a2).canonical ↔ s.canonical := by intros; exact State.canonical_congr (State.closeDebug_mem _ _ _) (State.closeDebug_hostMem _ _ _)
@[simp] theorem State.closePolicy_canonical : ∀ s a1, (State.closePolicy s a1).canonical ↔ s.canonical := by intros; exact State.canonical_congr (State.closePolicy_mem _ _) (State.closePolicy_hostMem _ _)
@[simp] theorem State.modPod_canonical : ∀ s a1 a2, (State.modPod s a1 a2).canonical ↔ s.canonical := by intros; exact State.canonical_congr (State.modPod_mem _ _ _) (State.modPod_hostMem _ _ _)
@[simp] theorem State.countDrop_canonical : ∀ s a1, (State.countDrop s a1).canonical ↔ s.canonical := by intros; exact State.canonical_congr (State.countDrop_mem _ _) (State.countDrop_hostMem _ _)
@[simp] theorem State.endRun_canonical : ∀ s a1, (State.endRun s a1).canonical ↔ s.canonical := by intros; exact State.canonical_congr (State.endRun_mem _ _) (State.endRun_hostMem _ _)
@[simp] theorem State.modFlow_canonical : ∀ s a1 a2 a3, (State.modFlow s a1 a2 a3).canonical ↔ s.canonical := by intros; exact State.canonical_congr (State.modFlow_mem _ _ _ _) (State.modFlow_hostMem _ _ _ _)
@[simp] theorem State.sendFlit_canonical : ∀ s a1 a2 a3 a4 a5, (State.sendFlit s a1 a2 a3 a4 a5).canonical ↔ s.canonical := by intros; exact State.canonical_congr (State.sendFlit_mem _ _ _ _ _ _) (State.sendFlit_hostMem _ _ _ _ _ _)
@[simp] theorem State.flowReads_canonical : ∀ s a1 a2 a3, (State.flowReads s a1 a2 a3).1.canonical ↔ s.canonical := by intros; exact State.canonical_congr (State.flowReads_mem _ _ _ _) (State.flowReads_hostMem _ _ _ _)
@[simp] theorem State.runReads_canonical : ∀ s a1 a2, (State.runReads s a1 a2).1.canonical ↔ s.canonical := by intros; exact State.canonical_congr (State.runReads_mem _ _ _) (State.runReads_hostMem _ _ _)
@[simp] theorem State.setFault_canonical : ∀ s a1, (State.setFault s a1).canonical ↔ s.canonical := by intros; exact State.canonical_congr (State.setFault_mem _ _) (State.setFault_hostMem _ _)
@[simp] theorem State.linkFault_canonical : ∀ s a1 a2, (State.linkFault s a1 a2).canonical ↔ s.canonical := by intros; exact State.canonical_congr (State.linkFault_mem _ _ _) (State.linkFault_hostMem _ _ _)
@[simp] theorem State.countInc_canonical : ∀ s a1, (State.countInc s a1).canonical ↔ s.canonical := by intros; exact State.canonical_congr (State.countInc_mem _ _) (State.countInc_hostMem _ _)
@[simp] theorem State.takeFlit_canonical : ∀ s a1 a2 a3 a4 a5 a6 a7 a8, (State.takeFlit s a1 a2 a3 a4 a5 a6 a7 a8).canonical ↔ s.canonical := by intros; exact State.canonical_congr (State.takeFlit_mem _ _ _ _ _ _ _ _ _) (State.takeFlit_hostMem _ _ _ _ _ _ _ _ _)
@[simp] theorem State.hearArrival_canonical : ∀ s a1 a2 a3 a4 a5, (State.hearArrival s a1 a2 a3 a4 a5).canonical ↔ s.canonical := by intros; exact State.canonical_congr (State.hearArrival_mem _ _ _ _ _ _) (State.hearArrival_hostMem _ _ _ _ _ _)
@[simp] theorem State.sendBarrier_canonical : ∀ s a1 a2 a3, (State.sendBarrier s a1 a2 a3).canonical ↔ s.canonical := by intros; exact State.canonical_congr (State.sendBarrier_mem _ _ _ _) (State.sendBarrier_hostMem _ _ _ _)
@[simp] theorem State.takeBarrier_canonical : ∀ s a1 a2 a3, (State.takeBarrier s a1 a2 a3).canonical ↔ s.canonical := by intros; exact State.canonical_congr (State.takeBarrier_mem _ _ _ _) (State.takeBarrier_hostMem _ _ _ _)
@[simp] theorem State.countBad_canonical : ∀ s a1, (State.countBad s a1).canonical ↔ s.canonical := by intros; exact State.canonical_congr (State.countBad_mem _ _) (State.countBad_hostMem _ _)
@[simp] theorem State.takeRequest_canonical : ∀ s a1, (State.takeRequest s a1).canonical ↔ s.canonical := by intros; exact State.canonical_congr (State.takeRequest_mem _ _) (State.takeRequest_hostMem _ _)
@[simp] theorem State.farRequest_canonical : ∀ s a1 a2 a3 a4 a5 a6 a7 a8 a9 a10, (State.farRequest s a1 a2 a3 a4 a5 a6 a7 a8 a9 a10).canonical ↔ s.canonical := by intros; exact State.canonical_congr (State.farRequest_mem _ _ _ _ _ _ _ _ _ _ _) (State.farRequest_hostMem _ _ _ _ _ _ _ _ _ _ _)
@[simp] theorem State.farReply_canonical : ∀ s a1 a2 a3 a4, (State.farReply s a1 a2 a3 a4).canonical ↔ s.canonical := by intros; exact State.canonical_congr (State.farReply_mem _ _ _ _ _) (State.farReply_hostMem _ _ _ _ _)
@[simp] theorem State.farApplied_canonical : ∀ s a1 a2 a3, (State.farApplied s a1 a2 a3).canonical ↔ s.canonical := by intros; exact State.canonical_congr (State.farApplied_mem _ _ _ _) (State.farApplied_hostMem _ _ _ _)
@[simp] theorem State.heardBy_canonical : ∀ s a1 a2 a3, (State.heardBy s a1 a2 a3).canonical ↔ s.canonical := by intros; exact State.canonical_congr (State.heardBy_mem _ _ _ _) (State.heardBy_hostMem _ _ _ _)
@[simp] theorem State.sendQueued_canonical : ∀ s, (State.sendQueued s).canonical ↔ s.canonical := by intros; exact State.canonical_congr (State.sendQueued_mem _) (State.sendQueued_hostMem _)
@[simp] theorem State.askTime_canonical : ∀ s, (State.askTime s).canonical ↔ s.canonical := by intros; exact State.canonical_congr (State.askTime_mem _) (State.askTime_hostMem _)
@[simp] theorem State.podTick_canonical : ∀ s a1, (State.podTick s a1).canonical ↔ s.canonical := by intros; exact State.canonical_congr (State.podTick_mem _ _) (State.podTick_hostMem _ _)
@[simp] theorem State.linkStep_canonical : ∀ s, (State.linkStep s).canonical ↔ s.canonical := by intros; exact State.canonical_congr (State.linkStep_mem _) (State.linkStep_hostMem _)
@[simp] theorem State.respond_canonical : ∀ s a1 a2 a3, (State.respond s a1 a2 a3).canonical ↔ s.canonical := by intros; exact State.canonical_congr (State.respond_mem _ _ _ _) (State.respond_hostMem _ _ _ _)
@[simp] theorem State.spdmError_canonical : ∀ s a1 a2, (State.spdmError s a1 a2).canonical ↔ s.canonical := by intros; exact State.canonical_congr (State.spdmError_mem _ _ _) (State.spdmError_hostMem _ _ _)
@[simp] theorem State.spdmPlain_canonical : ∀ s a1 a2 a3 a4, (State.spdmPlain s a1 a2 a3 a4).canonical ↔ s.canonical := by intros; exact State.canonical_congr (State.spdmPlain_mem _ _ _ _ _) (State.spdmPlain_hostMem _ _ _ _ _)
@[simp] theorem State.setSession_canonical : ∀ s a1 a2, (State.setSession s a1 a2).canonical ↔ s.canonical := by intros; exact State.canonical_congr (State.setSession_mem _ _ _) (State.setSession_hostMem _ _ _)
@[simp] theorem State.leaveRun_canonical : ∀ s a1, (State.leaveRun s a1).canonical ↔ s.canonical := by intros; exact State.canonical_congr (State.leaveRun_mem _ _) (State.leaveRun_hostMem _ _)
@[simp] theorem State.tdispTo_canonical : ∀ s a1 a2, (State.tdispTo s a1 a2).canonical ↔ s.canonical := by intros; exact State.canonical_congr (State.tdispTo_mem _ _ _) (State.tdispTo_hostMem _ _ _)
@[simp] theorem State.senseHeat_canonical : ∀ s a1 a2 a3, (State.senseHeat s a1 a2 a3).canonical ↔ s.canonical := by intros; exact State.canonical_congr (State.senseHeat_mem _ _ _ _) (State.senseHeat_hostMem _ _ _ _)
@[simp] theorem State.countUncor_canonical : ∀ s a1 a2, (State.countUncor s a1 a2).canonical ↔ s.canonical := by intros; exact State.canonical_congr (State.countUncor_mem _ _ _) (State.countUncor_hostMem _ _ _)
@[simp] theorem State.poisonWords_canonical : ∀ s a1, (State.poisonWords s a1).canonical ↔ s.canonical := by intros; exact State.canonical_congr (State.poisonWords_mem _ _) (State.poisonWords_hostMem _ _)
@[simp] theorem State.strikePad_canonical : ∀ s a1 a2 a3, (State.strikePad s a1 a2 a3).canonical ↔ s.canonical := by intros; exact State.canonical_congr (State.strikePad_mem _ _ _ _) (State.strikePad_hostMem _ _ _ _)
@[simp] theorem State.strikeLoc_canonical : ∀ s a1 a2 a3 a4, (State.strikeLoc s a1 a2 a3 a4).canonical ↔ s.canonical := by intros; exact State.canonical_congr (State.strikeLoc_mem _ _ _ _ _) (State.strikeLoc_hostMem _ _ _ _ _)
@[simp] theorem State.drawn_canonical : ∀ s a1 a2, (State.drawn s a1 a2).canonical ↔ s.canonical := by intros; exact State.canonical_congr (State.drawn_mem _ _ _) (State.drawn_hostMem _ _ _)
@[simp] theorem State.resultV_canonical : ∀ s a1 a2 a3 a4 a5, (State.resultV s a1 a2 a3 a4 a5).canonical ↔ s.canonical := by intros; exact State.canonical_congr (State.resultV_mem _ _ _ _ _ _) (State.resultV_hostMem _ _ _ _ _ _)
@[simp] theorem State.clearStamps_canonical : ∀ s a1 a2, (State.clearStamps s a1 a2).canonical ↔ s.canonical := by intros; exact State.canonical_congr (State.clearStamps_mem _ _ _) (State.clearStamps_hostMem _ _ _)
@[simp] theorem State.takeAnswer_canonical : ∀ s a1 a2 a3 a4, (State.takeAnswer s a1 a2 a3 a4).canonical ↔ s.canonical := by intros; exact State.canonical_congr (State.takeAnswer_mem _ _ _ _ _) (State.takeAnswer_hostMem _ _ _ _ _)
@[simp] theorem State.setLink_canonical : ∀ s a1 a2, (State.setLink s a1 a2).canonical ↔ s.canonical := by intros; exact State.canonical_congr (State.setLink_mem _ _ _) (State.setLink_hostMem _ _ _)
@[simp] theorem State.enterPackage_canonical : ∀ s, (State.enterPackage s).canonical ↔ s.canonical := by intros; exact State.canonical_congr (State.enterPackage_mem _) (State.enterPackage_hostMem _)
@[simp] theorem State.endTick_canonical : ∀ s, (State.endTick s).canonical ↔ s.canonical := by intros; exact State.canonical_congr (State.endTick_mem _) (State.endTick_hostMem _)
@[simp] theorem State.withFetchWord_canonical : ∀ s a1 a2, (State.withFetchWord s a1 a2).canonical ↔ s.canonical := by intros; exact State.canonical_congr (State.withFetchWord_mem _ _ _) (State.withFetchWord_hostMem _ _ _)

theorem State.writeChunk_canonical (s : State) (pa : Nat) (w : ChunkW) (h : s.canonical) : (s.writeChunk pa w).canonical :=
  ⟨s.writeChunk_wf pa w h.1, h.2⟩

theorem State.writeLocal_canonical : ∀ s a1 a2, s.canonical → (State.writeLocal s a1 a2).canonical := by
  intros; unfold State.writeLocal; try dsimp only
  repeat' (first | with_reducible assumption | (with_reducible refine State.writeChunk_canonical _ _ _ ?_) | split | (refine foldl_canonical _ _ _ ?_ ?_; rotate_left; (intro _ _ _)) | simp | (refine State.canonical_of ?_ rfl rfl))

theorem State.zeroTile_canonical : ∀ s a1 a2 a3, s.canonical → (State.zeroTile s a1 a2 a3).canonical := by
  intros; unfold State.zeroTile; try dsimp only
  repeat' (first | with_reducible assumption | (with_reducible refine State.writeLocal_canonical _ _ _ ?_) | split | (refine foldl_canonical _ _ _ ?_ ?_; rotate_left; (intro _ _ _)) | simp | (refine State.canonical_of ?_ rfl rfl))

theorem State.writeAcc_canonical : ∀ s a1 a2, s.canonical → (State.writeAcc s a1 a2).canonical := by
  intros; unfold State.writeAcc; try dsimp only
  repeat' (first | with_reducible assumption | (with_reducible first | refine State.writeLocal_canonical _ _ _ ?_ | refine State.zeroTile_canonical _ _ _ _ ?_) | split | (refine foldl_canonical _ _ _ ?_ ?_; rotate_left; (intro _ _ _)) | simp | (refine State.canonical_of ?_ rfl rfl))

theorem State.putHbm_canonical (s : State) (a n v : Nat) (marks : BitVec 8) (h : s.canonical) : (s.putHbm a n v marks).canonical :=
  ⟨(s.writeChunk_canonical _ _ h).1, h.2⟩

theorem State.logRace_canonical : ∀ s a1 a2 a3 a4, s.canonical → (State.logRace s a1 a2 a3 a4).canonical := by
  intros; unfold State.logRace; try dsimp only
  repeat' (first | with_reducible assumption | (with_reducible refine State.putHbm_canonical _ _ _ _ _ ?_) | split | (refine foldl_canonical _ _ _ ?_ ?_; rotate_left; (intro _ _ _)) | simp | (refine State.canonical_of ?_ rfl rfl))

theorem State.homeWrite_canonical (s : State) (part loc n v : Nat) (marks : BitVec 8) (h : s.canonical) : (s.homeWrite part loc n v marks).canonical := by
  unfold State.homeWrite
  split
  · exact s.putHbm_canonical _ _ _ _ h
  · exact ⟨h.1, Memory.write_wf _ _ _ _ h.2⟩
  · exact h

theorem State.logRaces_canonical : ∀ s a1 a2, s.canonical → (State.logRaces s a1 a2).canonical := by
  intros; unfold State.logRaces; try dsimp only
  repeat' (first | with_reducible assumption | (with_reducible refine State.logRace_canonical _ _ _ _ _ ?_) | split | (refine foldl_canonical _ _ _ ?_ ?_; rotate_left; (intro _ _ _)) | simp | (refine State.canonical_of ?_ rfl rfl))

theorem State.noteRace_canonical (s : State) (q : HomeReq) (j : List RaceHit) (h : s.canonical) : (s.noteRace q j).canonical := by
  unfold State.noteRace
  exact (State.setShadows_canonical _ _).2 (State.logRaces_canonical _ _ _ h)

theorem State.homeChunk_canonical (s : State) (q : HomeReq) (c : Nat × BitVec 512 × BitVec 8) (h : s.canonical) : (s.homeChunk q c).canonical :=
  have := s.homeWrite_canonical q.part (podLoc c.1) 64 c.2.1.toNat c.2.2 h
  ⟨this.1, this.2⟩

theorem State.homeAtom_canonical (s : State) (q : HomeReq) (h : s.canonical) : (s.homeAtom q).canonical := by
  unfold State.homeAtom; dsimp only
  rw [State.homeAnswer_canonical]
  exact ⟨(State.homeWrite_canonical _ _ _ _ _ _ h).1, (State.homeWrite_canonical _ _ _ _ _ _ h).2⟩

theorem State.postRecord_canonical : ∀ s a1 a2 a3 a4, s.canonical → (State.postRecord s a1 a2 a3 a4).canonical := by
  intros; unfold State.postRecord; try dsimp only
  repeat' (first | with_reducible assumption | (with_reducible refine State.putHbm_canonical _ _ _ _ _ ?_) | split | (refine foldl_canonical _ _ _ ?_ ?_; rotate_left; (intro _ _ _)) | simp | (refine State.canonical_of ?_ rfl rfl))

theorem State.linkAbort_canonical : ∀ s a1 a2 a3 a4, s.canonical → (State.linkAbort s a1 a2 a3 a4).canonical := by
  intros; unfold State.linkAbort; try dsimp only
  repeat' (first | with_reducible assumption | (with_reducible refine State.postRecord_canonical _ _ _ _ _ ?_) | split | (refine foldl_canonical _ _ _ ?_ ?_; rotate_left; (intro _ _ _)) | simp | (refine State.canonical_of ?_ rfl rfl))

theorem State.failAny_canonical : ∀ s a1 a2 a3 a4, s.canonical → (State.failAny s a1 a2 a3 a4).canonical := by
  intros; unfold State.failAny; try dsimp only
  repeat' (first | with_reducible assumption | (with_reducible refine State.linkAbort_canonical _ _ _ _ _ ?_) | split | (refine foldl_canonical _ _ _ ?_ ?_; rotate_left; (intro _ _ _)) | simp | (refine State.canonical_of ?_ rfl rfl))

theorem State.amoWrite_canonical : ∀ s a1 a2 a3, s.canonical → (State.amoWrite s a1 a2 a3).canonical := by
  intros; unfold State.amoWrite; try dsimp only
  repeat' (first | with_reducible assumption | (with_reducible refine State.writeLocal_canonical _ _ _ ?_) | split | (refine foldl_canonical _ _ _ ?_ ?_; rotate_left; (intro _ _ _)) | simp | (refine State.canonical_of ?_ rfl rfl))

theorem State.hauWrite_canonical : ∀ s a1 a2 a3 a4 a5, s.canonical → (State.hauWrite s a1 a2 a3 a4 a5).canonical := by
  intros; unfold State.hauWrite; try dsimp only
  repeat' (first | with_reducible assumption | (with_reducible refine State.writeLocal_canonical _ _ _ ?_) | split | (refine foldl_canonical _ _ _ ?_ ?_; rotate_left; (intro _ _ _)) | simp | (refine State.canonical_of ?_ rfl rfl))

theorem State.applyAcc_canonical : ∀ s a1 a2, s.canonical → (State.applyAcc s a1 a2).canonical := by
  intros; unfold State.applyAcc; try dsimp only
  repeat' (first | with_reducible assumption | (with_reducible first | refine State.writeAcc_canonical _ _ _ ?_ | refine State.failAny_canonical _ _ _ _ _ ?_ | refine State.amoWrite_canonical _ _ _ _ ?_ | refine State.hauWrite_canonical _ _ _ _ _ _ ?_) | split | (refine foldl_canonical _ _ _ ?_ ?_; rotate_left; (intro _ _ _)) | simp | (refine State.canonical_of ?_ rfl rfl))

theorem State.readOne_canonical : ∀ s a1 a2, s.canonical → (State.readOne s a1 a2).canonical := by
  intros; unfold State.readOne; try dsimp only
  repeat' (first | with_reducible assumption | (with_reducible refine State.failAny_canonical _ _ _ _ _ ?_) | split | (refine foldl_canonical _ _ _ ?_ ?_; rotate_left; (intro _ _ _)) | simp | (refine State.canonical_of ?_ rfl rfl))

theorem State.failLost_canonical : ∀ s a1 a2, s.canonical → (State.failLost s a1 a2).canonical := by
  intros; unfold State.failLost; try dsimp only
  repeat' (first | with_reducible assumption | (with_reducible refine State.failAny_canonical _ _ _ _ _ ?_) | split | (refine foldl_canonical _ _ _ ?_ ?_; rotate_left; (intro _ _ _)) | simp | (refine State.canonical_of ?_ rfl rfl))

theorem State.writeOne_canonical : ∀ s a1 a2, s.canonical → (State.writeOne s a1 a2).canonical := by
  intros; unfold State.writeOne; try dsimp only
  repeat' (first | with_reducible assumption | (with_reducible refine State.applyAcc_canonical _ _ _ ?_) | split | (refine foldl_canonical _ _ _ ?_ ?_; rotate_left; (intro _ _ _)) | simp | (refine State.canonical_of ?_ rfl rfl))

theorem State.performAll_canonical : ∀ s a1, s.canonical → (State.performAll s a1).canonical := by
  intros; unfold State.performAll; try dsimp only
  repeat' (first | with_reducible assumption | (with_reducible first | refine State.readOne_canonical _ _ _ ?_ | refine State.failLost_canonical _ _ _ ?_ | refine State.writeOne_canonical _ _ _ ?_) | split | (refine foldl_canonical _ _ _ ?_ ?_; rotate_left; (intro _ _ _)) | simp | (refine State.canonical_of ?_ rfl rfl))

theorem State.chunkWord_canonical : ∀ s a1 a2 a3 a4 a5, s.canonical → (State.chunkWord s a1 a2 a3 a4 a5).canonical := by
  intros; unfold State.chunkWord; try dsimp only
  repeat' (first | with_reducible assumption | (with_reducible refine State.writeLocal_canonical _ _ _ ?_) | split | (refine foldl_canonical _ _ _ ?_ ?_; rotate_left; (intro _ _ _)) | simp | (refine State.canonical_of ?_ rfl rfl))

theorem State.fetchWrite_canonical : ∀ s a1 a2 a3 a4, s.canonical → (State.fetchWrite s a1 a2 a3 a4).canonical := by
  intros; unfold State.fetchWrite; try dsimp only
  repeat' (first | with_reducible assumption | (with_reducible refine State.chunkWord_canonical _ _ _ _ _ _ ?_) | split | (refine foldl_canonical _ _ _ ?_ ?_; rotate_left; (intro _ _ _)) | simp | (refine State.canonical_of ?_ rfl rfl))

theorem State.fetchInitial_canonical (s : State) (c : CoreId) (lk n : Nat) (h : s.canonical) : (s.fetchInitial c lk n).canonical := by
  induction n generalizing s with
  | zero => exact h
  | succ n ih =>
    unfold State.fetchInitial
    dsimp only
    repeat' split
    all_goals first | exact h | exact ih _ (s.fetchWrite_canonical c _ _ _ h)

theorem State.fetchInitials_canonical : ∀ s a1, s.canonical → (State.fetchInitials s a1).canonical := by
  intros; unfold State.fetchInitials; try dsimp only
  repeat' (first | with_reducible assumption | (with_reducible refine State.fetchInitial_canonical _ _ _ _ ?_) | split | (refine foldl_canonical _ _ _ ?_ ?_; rotate_left; (intro _ _ _)) | simp | (refine State.canonical_of ?_ rfl rfl))

theorem State.lateFails_canonical (s : State) (c : CoreId) (a : Access) (h : s.canonical) : (s.lateFails c a).canonical := by
  unfold State.lateFails
  refine State.failAny_canonical _ _ _ _ _ ?_
  have h1 := (State.modCore_canonical s c fun k => { k with acc := k.acc.erase a }).2 h
  exact ⟨h1.1, h1.2⟩

theorem State.noteStale_canonical : ∀ s a1, s.canonical → (State.noteStale s a1).canonical := by
  intros; unfold State.noteStale; try dsimp only
  repeat' (first | with_reducible assumption | (with_reducible refine State.postRecord_canonical _ _ _ _ _ ?_) | split | (refine foldl_canonical _ _ _ ?_ ?_; rotate_left; (intro _ _ _)) | simp | (refine State.canonical_of ?_ rfl rfl))

theorem State.tenantPut_canonical : ∀ s a1 a2 a3 a4, s.canonical → (State.tenantPut s a1 a2 a3 a4).canonical := by
  intros; unfold State.tenantPut; try dsimp only
  repeat' (first | with_reducible assumption | (with_reducible first | refine State.writeLocal_canonical _ _ _ ?_ | refine State.homeWrite_canonical _ _ _ _ _ _ ?_) | split | (refine foldl_canonical _ _ _ ?_ ?_; rotate_left; (intro _ _ _)) | simp | (refine State.canonical_of ?_ rfl rfl))

theorem State.writeRecord_canonical : ∀ s a1, s.canonical → (State.writeRecord s a1).canonical := by
  intros; unfold State.writeRecord; try dsimp only
  repeat' (first | with_reducible assumption | (with_reducible refine State.tenantPut_canonical _ _ _ _ _ ?_) | split | (refine foldl_canonical _ _ _ ?_ ?_; rotate_left; (intro _ _ _)) | simp | (refine State.canonical_of ?_ rfl rfl))

theorem State.takeRecord_canonical (s : State) (src part pa queue : Nat) (data : BitVec 256) (h : s.canonical) : (s.takeRecord src part pa queue data).canonical := by
  unfold State.takeRecord; dsimp only
  rw [State.sendOpen_canonical]
  split
  · exact s.tenantPut_canonical _ _ _ _ h
  · exact h

theorem State.endLaunch_canonical (s : State) (lk status cause core : Nat) (h : s.canonical) : (s.endLaunch lk status cause core).canonical := by
  unfold State.endLaunch; dsimp only
  split
  · rw [State.prune_canonical]
    exact State.writeRecord_canonical _ _ ⟨h.1, h.2⟩
  · exact ⟨h.1, h.2⟩

theorem State.reject_canonical : ∀ s a1 a2 a3, s.canonical → (State.reject s a1 a2 a3).canonical := by
  intros; unfold State.reject; try dsimp only
  repeat' (first | with_reducible assumption | (with_reducible refine State.endLaunch_canonical _ _ _ _ _ ?_) | split | (refine foldl_canonical _ _ _ ?_ ?_; rotate_left; (intro _ _ _)) | simp | (refine State.canonical_of ?_ rfl rfl))

theorem State.zeroBank_canonical (s : State) (c : CoreId) (b : Nat) (h : s.canonical) : (s.zeroBank c b).canonical :=
  ⟨Memory.filter_wf s.mem _ h.1, h.2⟩

theorem State.bindCore_canonical : ∀ s a1 a2 a3, s.canonical → (State.bindCore s a1 a2 a3).canonical := by
  intros; unfold State.bindCore; try dsimp only
  repeat' (first | with_reducible assumption | (with_reducible refine State.zeroBank_canonical _ _ _ ?_) | split | (refine foldl_canonical _ _ _ ?_ ?_; rotate_left; (intro _ _ _)) | simp | (refine State.canonical_of ?_ rfl rfl))

theorem State.bindCores_canonical : ∀ s a1 a2, s.canonical → (State.bindCores s a1 a2).canonical := by
  intros; unfold State.bindCores; try dsimp only
  repeat' (first | with_reducible assumption | (with_reducible refine State.bindCore_canonical _ _ _ _ ?_) | split | (refine foldl_canonical _ _ _ ?_ ?_; rotate_left; (intro _ _ _)) | simp | (refine State.canonical_of ?_ rfl rfl))

theorem State.bind_canonical (s : State) (l : Launch) (h : s.canonical) : (s.bind l).canonical := by
  have hb : ∀ (u : State) (b : Launch) (p : Option Launch), u.canonical → (u.bindCores b p).canonical := fun u b p hu => u.bindCores_canonical b p hu
  have := hb ((s.dequeue (s.boundAs l)).modLaunch l.key fun x => { s.boundAs l with headSince := x.headSince }) (s.boundAs l) (s.predOf l)
    (by rw [State.modLaunch_canonical, State.dequeue_canonical]; exact h)
  have := (State.clearShift_canonical _ (s.boundAs l)).2 this
  exact ⟨this.1, this.2⟩

theorem State.tryHeads_canonical (s : State) (l : List Launch) (h : s.canonical) : (s.tryHeads l).canonical := by
  induction l generalizing s with
  | nil => exact h
  | cons a l ih =>
    unfold State.tryHeads; dsimp only
    split
    · exact ih _ (s.reject_canonical _ _ _ h)
    · split
      · exact ih _ (s.reject_canonical _ _ _ h)
      · split
        · exact s.bind_canonical _ h
        · refine ih _ ?_
          split
          · exact h
          · exact State.canonical_of h (by simp) (by simp)
      · exact ih _ h

theorem State.select_canonical : ∀ s a1, s.canonical → (State.select s a1).canonical := by
  intros; unfold State.select; try dsimp only
  repeat' (first | with_reducible assumption | (with_reducible refine State.tryHeads_canonical _ _ ?_) | split | (refine foldl_canonical _ _ _ ?_ ?_; rotate_left; (intro _ _ _)) | simp | (refine State.canonical_of ?_ rfl rfl))

theorem State.swapRecord_canonical : ∀ s a1, s.canonical → (State.swapRecord s a1).canonical := by
  intros; unfold State.swapRecord; try dsimp only
  repeat' (first | with_reducible assumption | (with_reducible refine State.postRecord_canonical _ _ _ _ _ ?_) | split | (refine foldl_canonical _ _ _ ?_ ?_; rotate_left; (intro _ _ _)) | simp | (refine State.canonical_of ?_ rfl rfl))

theorem State.parkCore_canonical (s : State) (lk : Nat) (c : CoreId) (h : s.canonical) : (s.parkCore lk c).canonical := by
  unfold State.parkCore
  split
  · exact h
  · dsimp only
    rw [State.retryLocks_canonical, State.modCore_canonical]
    exact foldl_canonical _ _ _ h fun s b hs => s.zeroBank_canonical c b hs

theorem State.park_canonical : ∀ s a1 a2 a3, s.canonical → (State.park s a1 a2 a3).canonical := by
  intros; unfold State.park; try dsimp only
  repeat' (first | with_reducible assumption | (with_reducible first | refine State.swapRecord_canonical _ _ ?_ | refine State.parkCore_canonical _ _ _ ?_) | split | (refine foldl_canonical _ _ _ ?_ ?_; rotate_left; (intro _ _ _)) | simp | (refine State.canonical_of ?_ rfl rfl))

theorem State.parkIfDone_canonical : ∀ s a1, s.canonical → (State.parkIfDone s a1).canonical := by
  intros; unfold State.parkIfDone; try dsimp only
  repeat' (first | with_reducible assumption | (with_reducible refine State.park_canonical _ _ _ _ ?_) | split | (refine foldl_canonical _ _ _ ?_ ?_; rotate_left; (intro _ _ _)) | simp | (refine State.canonical_of ?_ rfl rfl))

theorem State.unpark_canonical : ∀ s a1 a2, s.canonical → (State.unpark s a1 a2).canonical := by
  intros; unfold State.unpark; try dsimp only
  repeat' (first | with_reducible assumption | (with_reducible refine State.zeroBank_canonical _ _ _ ?_) | split | (refine foldl_canonical _ _ _ ?_ ?_; rotate_left; (intro _ _ _)) | simp | (refine State.canonical_of ?_ rfl rfl))

theorem State.refuseImage_canonical : ∀ s a1 a2 a3 a4, s.canonical → (State.refuseImage s a1 a2 a3 a4).canonical := by
  intros; unfold State.refuseImage; try dsimp only
  repeat' (first | with_reducible assumption | (with_reducible refine State.reject_canonical _ _ _ _ ?_) | split | (refine foldl_canonical _ _ _ ?_ ?_; rotate_left; (intro _ _ _)) | simp | (refine State.canonical_of ?_ rfl rfl))

theorem State.stopStream_canonical : ∀ s a1 a2, s.canonical → (State.stopStream s a1 a2).canonical := by
  intros; unfold State.stopStream; try dsimp only
  repeat' (first | with_reducible assumption | (with_reducible refine State.refuseImage_canonical _ _ _ _ _ ?_) | split | (refine foldl_canonical _ _ _ ?_ ?_; rotate_left; (intro _ _ _)) | simp | (refine State.canonical_of ?_ rfl rfl))

theorem State.dbgWrite_canonical : ∀ s a1 a2 a3 a4 a5 a6, s.canonical → (State.dbgWrite s a1 a2 a3 a4 a5 a6).1.canonical := by
  intros; unfold State.dbgWrite; try dsimp only
  repeat' (first | with_reducible assumption | (with_reducible refine State.writeLocal_canonical _ _ _ ?_) | split | (refine foldl_canonical _ _ _ ?_ ?_; rotate_left; (intro _ _ _)) | simp | (refine State.canonical_of ?_ rfl rfl))

theorem State.dbgLocal_canonical : ∀ s a1 a2 a3 a4, s.canonical → (State.dbgLocal s a1 a2 a3 a4).1.canonical := by
  intros; unfold State.dbgLocal; try dsimp only
  repeat' (first | with_reducible assumption | (with_reducible refine State.dbgWrite_canonical _ _ _ _ _ _ _ ?_) | split | (refine foldl_canonical _ _ _ ?_ ?_; rotate_left; (intro _ _ _)) | simp | (refine State.canonical_of ?_ rfl rfl))

theorem State.dbgForward_canonical : ∀ s a1 a2 a3 a4, s.canonical → (State.dbgForward s a1 a2 a3 a4).canonical := by
  intros; unfold State.dbgForward; try dsimp only
  repeat' (first | with_reducible assumption | (with_reducible refine State.dbgLocal_canonical _ _ _ _ _ ?_) | split | (refine foldl_canonical _ _ _ ?_ ?_; rotate_left; (intro _ _ _)) | simp | (refine State.canonical_of ?_ rfl rfl))

theorem State.dbgCommand_canonical : ∀ s a1 a2 a3 a4, s.canonical → (State.dbgCommand s a1 a2 a3 a4).canonical := by
  intros; unfold State.dbgCommand; try dsimp only
  repeat' (first | with_reducible assumption | (with_reducible first | refine State.dbgLocal_canonical _ _ _ _ _ ?_ | refine State.dbgForward_canonical _ _ _ _ _ ?_) | split | (refine foldl_canonical _ _ _ ?_ ?_; rotate_left; (intro _ _ _)) | simp | (refine State.canonical_of ?_ rfl rfl))

theorem State.dbgServe_canonical : ∀ s a1 a2 a3 a4, s.canonical → (State.dbgServe s a1 a2 a3 a4).canonical := by
  intros; unfold State.dbgServe; try dsimp only
  repeat' (first | with_reducible assumption | (with_reducible refine State.dbgLocal_canonical _ _ _ _ _ ?_) | split | (refine foldl_canonical _ _ _ ?_ ?_; rotate_left; (intro _ _ _)) | simp | (refine State.canonical_of ?_ rfl rfl))

theorem State.openPacket_canonical (s : State) (port : Fin 12) (hd : FlitHdr) (b : PacketBody) (h : s.canonical) : (s.openPacket port hd b).canonical := by
  cases b <;> unfold State.openPacket <;> dsimp only
  case release =>
    rw [State.sendOpen_canonical]
    exact foldl_canonical _ _ _ h fun s d hs => by split <;> simpa using hs
  case record => exact s.takeRecord_canonical _ _ _ _ _ h
  case dbg => exact s.dbgServe_canonical _ _ _ _ h
  case notice => exact h
  case announce => exact h
  case timeRep => exact h
  all_goals simpa using h

theorem State.openEnd_canonical : ∀ s a1 a2 a3, s.canonical → (State.openEnd s a1 a2 a3).canonical := by
  intros; unfold State.openEnd; try dsimp only
  repeat' (first | with_reducible assumption | (with_reducible first | refine State.bind_canonical _ _ ?_ | refine State.openPacket_canonical _ _ _ _ ?_) | split | (refine foldl_canonical _ _ _ ?_ ?_; rotate_left; (intro _ _ _)) | simp | (refine State.canonical_of ?_ rfl rfl))

theorem State.podTraps_canonical : ∀ s a1 a2 a3 a4, s.canonical → (State.podTraps s a1 a2 a3 a4).canonical := by
  intros; unfold State.podTraps; try dsimp only
  repeat' (first | with_reducible assumption | (with_reducible refine State.postRecord_canonical _ _ _ _ _ ?_) | split | (refine foldl_canonical _ _ _ ?_ ?_; rotate_left; (intro _ _ _)) | simp | (refine State.canonical_of ?_ rfl rfl))

theorem State.hostPut_canonical (s : State) (host : Bool) (addr : Nat) (data : List Byte) (h : s.canonical) : (s.hostPut host addr data).canonical := by
  unfold State.hostPut
  split
  · exact (State.clearStamps_canonical _ _ _).2 ⟨h.1, Memory.write_wf _ _ _ _ h.2⟩
  · refine (State.clearStamps_canonical _ _ _).2 (foldl_canonical _ _ _ h fun s b hs => ?_)
    split
    · exact s.putHbm_canonical (addr + b.1) 1 b.2.toNat 0 hs
    · exact hs

end Sys2Proof.Machine
end

