-- ==== Sys2Proof/Laws/Issue.lean ====
section
/-!
SUPPORT. How a slot form that its bundle admits runs (R79, R92): each shared operation of the slots once.
-/

namespace Sys2Proof.Machine

/-- A form that its bundle admits fails no check made before a slot performs. -/
theorem State.admits.check {s : State} {f : Focus} {i : Instr} (h : s.admits f i) : s.formCheck f i false = none := by
  obtain ⟨_, hw, hl, hv, hr⟩ := h
  have h1 : (sourcesOf i).any (litBad f) = false := by simpa using hl
  have h2 : ((vregsOf i).any fun n => decide (n.toNat ≥ (((s.core f.core).lcOf f.ctx).map LaunchCore.vregs).getD 32)) = false := by
    rw [List.any_eq_false]; intro n hn; simpa using hv n hn
  have h3 : (sourcesOf i).any (regBad (s.core f.core) f.ctx) = false := by simpa using hr
  unfold State.formCheck
  simp only [hw, h1, h2, h3, Bool.not_true, Bool.or_self, Bool.false_eq_true, if_false]

/-- An admitted form whose operand values are legal performs. -/
theorem slotRun_go {s : State} {f : Focus} {i : Instr} (name : String) (bad : Focus → Bool) (go : Focus → State) (h : s.admits f i)
    (hb : bad f = false) : slotRun i name s bad go = .next (go f) := by
  unfold slotRun
  rw [h.1]
  simp only [hb, h.check]

theorem slotGo_go {s : State} {f : Focus} {i : Instr} (name : String) (go : Focus → State) (h : s.admits f i) :
    slotGo i name s go = .next (go f) := slotRun_go name _ go h rfl

theorem syncSlot_go {s : State} {f : Focus} {i : Instr} (name : String) (go : Focus → State) (h : s.admits f i)
    (hb : s.syncBad f i = false) : syncSlot i name s go = .next (go f) := slotRun_go name _ go h hb

theorem matSlot_go {s : State} {f : Focus} {i : Instr} (name : String) (go : Focus → State) (h : s.admits f i)
    (hb : s.matBad f i = false) : matSlot i name s go = .next (go f) := slotRun_go name _ go h hb

theorem copySlot_go {s : State} {f : Focus} {i : Instr} (name : String) (go : Focus → State) (h : s.admits f i)
    (hb : s.copyBad f i = false) : copySlot i name s go = .next (go f) := slotRun_go name _ go h hb

/-- A slot form with a bundle in issue never stops. -/
theorem slotRun_next {s : State} {f : Focus} (i : Instr) (name : String) (bad : Focus → Bool) (go : Focus → State) (h : s.focus = some f) :
    ∃ t, slotRun i name s bad go = .next t := by
  unfold slotRun
  rw [h]
  cases hc : s.formCheck f i (bad f) with
  | none => exact ⟨go f, by simp only [hc]⟩
  | some q => exact ⟨s.raise f (partOf i) q.1 q.2, by simp only [hc]⟩

/-- What a slot form answers is its effect, or the state with its trap raised. -/
theorem slotRun_cases {s t : State} {i : Instr} {name : String} {bad : Focus → Bool} {go : Focus → State}
    (h : slotRun i name s bad go = .next t) :
    ∃ f, s.focus = some f ∧ (t = go f ∨ ∃ c a, t = s.raise f (partOf i) c a) := by
  unfold slotRun at h
  cases hf : s.focus with
  | none => rw [hf] at h; simp at h
  | some f =>
    rw [hf] at h
    refine ⟨f, rfl, ?_⟩
    cases hc : s.formCheck f i (bad f) with
    | none => simp only [hc] at h; injection h with h; exact .inl h.symm
    | some q => simp only [hc] at h; injection h with h; exact .inr ⟨q.1, q.2, h.symm⟩

/-- Where the policy leaves watchpoints closed, an access performs (R342, R350). -/
theorem State.watched_closed {s : State} {f : Focus} (part : Nat) (write : Bool) (touch : Nat → Bool) (perf : State → State)
    (h : s.unwatched f) : s.watched f part write touch perf = perf s := by
  unfold State.watched
  simp [show s.isOpen (s.partOf (s.focusLk f)) 2 = false from h]

end Sys2Proof.Machine
end

