-- ==== Sys2Proof/Laws/Packets.lean ====
section
/-!
SUPPORT. Sealing and opening under one key agree (R310): a flit opens to the payload that was sealed, an open packet to its contents, and both tags verify.
-/

namespace Sys2Proof.Machine

/-! ### Scheduled flits -/

@[simp] theorem flitOpen_flitSeal (key : Option (BitVec 256)) (iv : BitVec 96) (pay : BitVec 1024) : flitOpen key iv (flitSeal key iv pay).1 = pay := by
  unfold flitOpen flitSeal
  rw [BitVec.xor_assoc, BitVec.xor_self, BitVec.xor_zero]

@[simp] theorem flitOk_flitSeal (key : Option (BitVec 256)) (iv : BitVec 96) (pay : BitVec 1024) :
    flitOk key iv (flitSeal key iv pay).1 (flitSeal key iv pay).2 = true := by
  simp [flitOk, flitSeal]

/-! ### Header fields -/

theorem bits_append_low {m n : Nat} (a : BitVec m) (b : BitVec n) (lo w : Nat) (h : lo + w ≤ n) : bits (a ++ b) lo w = bits b lo w := by
  unfold bits; ext i hi
  simp [BitVec.getElem_extractLsb', BitVec.getLsbD_append, show lo + i < n by omega]

theorem bits_append_high {m n : Nat} (a : BitVec m) (b : BitVec n) (lo w : Nat) (h : n ≤ lo) : bits (a ++ b) lo w = bits a (lo - n) w := by
  unfold bits; ext i hi
  simp [BitVec.getElem_extractLsb', BitVec.getLsbD_append, show ¬lo + i < n by omega, show lo - n + i = lo + i - n by omega]

theorem bits_whole {n : Nat} (a : BitVec n) : bits a 0 n = a := by
  unfold bits; ext i hi; simp

/-- The fields of a header are those it was made of (R296). -/
theorem mkHdr_fields (src kind dst part : Nat) (sinc dinc : BitVec 16) (tag : BitVec 64) :
    let h := mkHdr src kind dst part sinc dinc tag
    hdrKind h = kind % 16 ∧ hdrDst h = dst % 4096 ∧ hdrPart h = part % 16 ∧ hdrSinc h = sinc ∧ hdrDinc h = dinc ∧ hdrTag h = tag := by
  have key : ∀ lo w, bits (mkHdr src kind dst part sinc dinc tag) lo w =
      bits (n := 64 + 16 + 16 + 4 + 12 + 4 + 12) (tag ++ dinc ++ sinc ++ BitVec.ofNat 4 part ++ BitVec.ofNat 12 dst ++ BitVec.ofNat 4 kind ++ BitVec.ofNat 12 src) lo w :=
    fun _ _ => rfl
  unfold hdrKind hdrDst hdrPart hdrSinc hdrDinc hdrTag
  dsimp only
  refine ⟨?_, ?_, ?_, ?_, ?_, ?_⟩
  · rw [key, bits_append_high, bits_append_low, bits_whole, BitVec.toNat_ofNat] <;> omega
  · rw [key, bits_append_high, bits_append_high, bits_append_low, bits_whole, BitVec.toNat_ofNat] <;> omega
  · rw [key, bits_append_high, bits_append_high, bits_append_high, bits_append_low, bits_whole, BitVec.toNat_ofNat] <;> omega
  · rw [key, bits_append_high, bits_append_high, bits_append_high, bits_append_high, bits_append_low, bits_whole] <;> omega
  · rw [key, bits_append_high, bits_append_high, bits_append_high, bits_append_high, bits_append_high, bits_append_low, bits_whole] <;> omega
  · rw [key, bits_append_high, bits_append_high, bits_append_high, bits_append_high, bits_append_high, bits_append_high, bits_whole] <;> omega

/-! ### The words of an open packet -/

@[simp] theorem wordOpt_optWord {n : Nat} (o : Option (BitVec n)) : wordOpt n (optWord o) = o := by
  cases o <;> simp [wordOpt, optWord]

@[simp] theorem words3_chunkWords3 (l : List (Nat × BitVec 512 × BitVec 8)) : words3 (chunkWords3 l) = l := by
  induction l with
  | nil => rfl
  | cons c l ih => rw [show chunkWords3 (c :: l) = c.1 :: c.2.1.toNat :: c.2.2.toNat :: chunkWords3 l from rfl, words3, ih]; simp

@[simp] theorem words2_dataWords (l : List (BitVec 512 × BitVec 8)) : words2 (dataWords l) = l := by
  induction l with
  | nil => rfl
  | cons c l ih => rw [show dataWords (c :: l) = c.1.toNat :: c.2.toNat :: dataWords l from rfl, words2, ih]; simp

theorem vector3 {α : Type} (v : Vector α 3) : #v[v[0], v[1], v[2]] = v := by
  ext i hi
  match i, hi with
  | 0, _ => rfl
  | 1, _ => rfl
  | 2, _ => rfl

theorem toNat_beq_one (b : Bool) : (b.toNat == 1) = b := by cases b <;> rfl

/-- The words of a packet stand for it. -/
theorem packetOfWords_packetWords (b : PacketBody) : packetOfWords (packetWords b) = some b := by
  cases b <;> simp [packetWords, packetOfWords, whoWords, vector3, toNat_beq_one]

/-! ### Sealing -/

@[simp] theorem padWords_padWords (key : Option (BitVec 256)) (iv : BitVec 96) (i : Nat) (ws : List Nat) :
    padWords key iv i (padWords key iv i ws) = ws := by
  induction ws generalizing i with
  | nil => rfl
  | cons w ws ih => simp [padWords, ih, Nat.xor_assoc]

theorem wireBody_sealBody (key : Option (BitVec 256)) (iv : BitVec 96) (b : PacketBody) : wireBody key (sealBody key iv b).1 = some b := by
  simp [wireBody, sealBody, packetOfWords_packetWords]

theorem wireOk_sealBody (key : Option (BitVec 256)) (iv : BitVec 96) (b : PacketBody) : wireOk key (sealBody key iv b).2 (sealBody key iv b).1 = true := by
  simp [wireOk, sealBody]

end Sys2Proof.Machine
end

