-- ==== Sys2Proof/Laws/Regs.lean ====
section
/-!
SUPPORT. What the operations of the slots leave of the registers of every context (R69, R74, R144): results reach registers when they land, so at issue only LFSR states move, by draws (R120, R126).
-/

namespace Sys2Proof.Machine

theorem Ctx.sameRegs.refl (k : Ctx) : k.sameRegs k := ⟨rfl, rfl, rfl, rfl, rfl, rfl, rfl, rfl, rfl, rfl, rfl⟩

theorem Ctx.sameRegs.trans {k l m : Ctx} (h : k.sameRegs l) (g : l.sameRegs m) : k.sameRegs m := by
  obtain ⟨h1, h2, h3, h4, h5, h6, h7, h8, h9, h10, h11⟩ := h
  obtain ⟨g1, g2, g3, g4, g5, g6, g7, g8, g9, g10, g11⟩ := g
  exact ⟨g1.trans h1, g2.trans h2, g3.trans h3, g4.trans h4, g5.trans h5, g6.trans h6, g7.trans h7, g8.trans h8, g9.trans h9, g10.trans h10,
    g11.trans h11⟩

@[simp] theorem State.sameRegs.refl (s : State) : s.sameRegs s := fun _ _ => .refl _

theorem State.sameRegs.trans {s t u : State} (h : s.sameRegs t) (g : t.sameRegs u) : s.sameRegs u := fun c k => (h c k).trans (g c k)

/-- A change outside the cores changes no register. -/
theorem State.sameRegs_outside {s t u : State} (e : u.cores = t.cores) (h : s.sameRegs t) : s.sameRegs u := fun c k => by
  simpa only [State.ctx, State.core, e] using h c k

/-- A change of one core that keeps the registers of its contexts. -/
theorem State.sameRegs_modCore {s t : State} {c : CoreId} {g : Core → Core} (hg : ∀ n, ((t.core c).ctx n).sameRegs ((g (t.core c)).ctx n))
    (h : s.sameRegs t) : s.sameRegs (t.modCore c g) := by
  refine h.trans fun d k => ?_
  unfold State.ctx
  by_cases e : d = c
  · subst e; rw [State.core_modCore]; exact hg k
  · rw [State.core_modCore_ne _ _ _ _ e]; exact .refl _

/-- A change of one core that leaves its contexts alone. -/
theorem State.sameRegs_modCore' {s t : State} {c : CoreId} {g : Core → Core} (hg : (g (t.core c)).ctxs = (t.core c).ctxs) (h : s.sameRegs t) :
    s.sameRegs (t.modCore c g) :=
  State.sameRegs_modCore (fun n => by simp only [Core.ctx, hg]; exact .refl _) h

/-- A change of one context that keeps its registers. -/
theorem State.sameRegs_modCtx {s t : State} {c : CoreId} {n : CtxId} {g : Ctx → Ctx} (hg : ∀ k, Ctx.sameRegs k (g k)) (h : s.sameRegs t) :
    s.sameRegs (t.modCtx c n g) := by
  refine State.sameRegs_modCore (fun m => ?_) h
  by_cases e : m = n
  · subst e; rw [Core.ctx_modCtx]; exact hg _
  · rw [Core.ctx_modCtx_ne _ _ _ _ e]; exact .refl _

section Ops
variable {s t : State}

@[simp] theorem State.sameRegs_raise {f : Focus} {part cause : Nat} {addr : Word} (h : s.sameRegs t) : s.sameRegs (t.raise f part cause addr) :=
  State.sameRegs_modCore' rfl h

@[simp] theorem State.sameRegs_addResult {c : CoreId} {r : Result} (h : s.sameRegs t) : s.sameRegs (t.addResult c r) := State.sameRegs_modCore' rfl h

@[simp] theorem State.sameRegs_result {f : Focus} {part lat : Nat} {dest : Dest} {val : VReg} {wen : MaskReg} {latch : Option (Fin 8)} {fl : Flags}
    (h : s.sameRegs t) : s.sameRegs (t.result f part lat dest val wen latch fl) := State.sameRegs_addResult h

@[simp] theorem State.sameRegs_resultX {f : Focus} {part lat : Nat} {d : BitVec 5} {nw : Bool} {unit : Fin 8} {v : Word} (h : s.sameRegs t) :
    s.sameRegs (t.resultX f part lat d nw unit v) := State.sameRegs_addResult h

@[simp] theorem State.sameRegs_resultS {f : Focus} {lat : Nat} {rd : BitVec 5} {v : Word} (h : s.sameRegs t) : s.sameRegs (t.resultS f lat rd v) := by
  unfold State.resultS; split
  · exact h
  · exact State.sameRegs_addResult h

@[simp] theorem State.sameRegs_addAccess {c : CoreId} {a : Access} (h : s.sameRegs t) : s.sameRegs (t.addAccess c a) := State.sameRegs_modCore' rfl h

@[simp] theorem State.sameRegs_withhold {f : Focus} {part : Nat} {w : WKind} (h : s.sameRegs t) : s.sameRegs (t.withhold f part w) := by
  unfold State.withhold; split
  · exact State.sameRegs_raise h
  · exact State.sameRegs_modCtx (fun _ => .refl _) h

@[simp] theorem State.sameRegs_haltMid {f : Focus} {reason part : Nat} {done : BitVec 9} {exempt : BitVec 4} (h : s.sameRegs t) :
    s.sameRegs (t.haltMid f reason part done exempt) := by
  have h1 (g : Core → Core) (hg : ∀ k, (g k).ctxs = k.ctxs) : s.sameRegs { t.modCore f.core g with focus := none } :=
    State.sameRegs_outside rfl (State.sameRegs_modCore' (hg _) h)
  exact h1 _ fun _ => rfl

@[simp] theorem State.sameRegs_watched {f : Focus} {part : Nat} {write : Bool} {touch : Nat → Bool} {perf : State → State}
    (hp : ∀ u, s.sameRegs u → s.sameRegs (perf u)) (h : s.sameRegs t) : s.sameRegs (t.watched f part write touch perf) := by
  unfold State.watched
  split
  · exact hp _ h
  · dsimp only
    split
    · exact hp _ (State.sameRegs_modCore' rfl h)
    · split
      · exact State.sameRegs_raise (State.sameRegs_modCore' rfl h)
      · exact State.sameRegs_haltMid (State.sameRegs_modCore' rfl h)

@[simp] theorem State.sameRegs_load {f : Focus} {part align : Nat} {party : Party} {l : LdRec} (h : s.sameRegs t) : s.sameRegs (t.load f part align party l) := by
  unfold State.load; split
  · exact State.sameRegs_raise h
  · exact State.sameRegs_watched (fun _ => State.sameRegs_addAccess) h

@[simp] theorem State.sameRegs_storeAt {f : Focus} {part ea align : Nat} {touched : List Nat} {touch : Nat → Bool} {w : WKind} (h : s.sameRegs t) :
    s.sameRegs (t.storeAt f part ea align touched touch w) := by
  unfold State.storeAt; split
  · exact State.sameRegs_raise h
  · split
    · exact State.sameRegs_raise h
    · exact State.sameRegs_watched (fun _ => State.sameRegs_withhold) h

@[simp] theorem State.sameRegs_storeW {f : Focus} {part ea align : Nat} {wr : List ChunkW} {tag : Option (BitVec 16)} (h : s.sameRegs t) :
    s.sameRegs (t.storeW f part ea align wr tag) := State.sameRegs_storeAt h

@[simp] theorem State.sameRegs_jumpTo {f : Focus} {target : Word} (h : s.sameRegs t) : s.sameRegs (t.jumpTo f target) := by
  unfold State.jumpTo; split
  · exact State.sameRegs_raise h
  · exact State.sameRegs_outside rfl h

@[simp] theorem State.sameRegs_branch {f : Focus} {imm : BitVec 12} {taken : Bool} (h : s.sameRegs t) : s.sameRegs (t.branch f imm taken) := by
  unfold State.branch; split
  · exact State.sameRegs_jumpTo h
  · exact h

/-! ### Matrix and copy operations -/

@[simp] theorem State.sameRegs_tickFree (h : s.sameRegs t) : s.sameRegs t.tickFree := State.sameRegs_outside rfl h

@[simp] theorem State.sameRegs_matEnter {f : Focus} {m : MForm} {path : MPath} {held : List Nat} {reads : List (Nat × Nat × List Nat)}
    (h : s.sameRegs t) : s.sameRegs (t.matEnter f m path held reads) := by
  unfold State.matEnter
  exact State.sameRegs_tickFree (State.sameRegs_modCore' rfl h)

@[simp] theorem State.sameRegs_modFace {f : Focus} {g : Face → Face} (h : s.sameRegs t) : s.sameRegs (t.modFace f g) := State.sameRegs_modCore' rfl h

@[simp] theorem State.sameRegs_setArr {f : Focus} {arr k kv : Nat} (h : s.sameRegs t) : s.sameRegs (t.setArr f arr k kv) := by
  unfold State.setArr; split
  · exact State.sameRegs_modCore' rfl (State.sameRegs_modFace h)
  · exact State.sameRegs_modFace h

@[simp] theorem State.sameRegs_setFfmt {f : Focus} {fm : Fmt} {bk : Bool} {c n : Nat} (h : s.sameRegs t) : s.sameRegs (t.setFfmt f fm bk c n) := by
  unfold State.setFfmt; split
  · exact State.sameRegs_modFace h
  · exact State.sameRegs_modCore' rfl (State.sameRegs_modFace h)

@[simp] theorem State.sameRegs_planEnter {f : Focus} {p : MatPlan} (h : s.sameRegs t) : s.sameRegs (t.planEnter f p) := State.sameRegs_matEnter h

theorem State.sameRegs_backTrap {f : Focus} {loads : Bool} (h : s.sameRegs t) : s.sameRegs (t.backTrap f loads) := by
  unfold State.backTrap; dsimp only
  (repeat' split)
  · exact State.sameRegs_modCore' rfl h
  · exact h
  · exact h

@[simp] theorem State.sameRegs_matRun {f : Focus} {p : MatPlan} {also : State → State} (ha : ∀ u, s.sameRegs u → s.sameRegs (also u)) (h : s.sameRegs t) :
    s.sameRegs (t.matRun f p also) := by
  unfold State.matRun; split
  · exact State.sameRegs_backTrap (State.sameRegs_raise h)
  · exact State.sameRegs_backTrap (ha _ (State.sameRegs_planEnter h))

@[simp] theorem State.sameRegs_enqueue {f : Focus} {fails : List (Nat × Word)} {c : EngCmd} (h : s.sameRegs t) : s.sameRegs (t.enqueue f fails c) := by
  unfold State.enqueue; dsimp only; split
  · exact State.sameRegs_raise h
  · exact State.sameRegs_modCore' rfl h

theorem State.queuePacket_cores (s : State) (p : Nat) (hd : FlitHdr) (b : PacketWire) : (s.queuePacket p hd b).cores = s.cores := by
  unfold State.queuePacket; split
  · dsimp only; split <;> rfl
  · rfl

theorem State.sendOpen_cores (s : State) (kind dst part : Nat) (b : PacketBody) : (s.sendOpen kind dst part b).cores = s.cores := by
  unfold State.sendOpen; split
  · rfl
  · dsimp only; rw [State.queuePacket_cores]; (repeat' split) <;> rfl

@[simp] theorem State.sameRegs_sendOpen {kind dst part : Nat} {b : PacketBody} (h : s.sameRegs t) : s.sameRegs (t.sendOpen kind dst part b) :=
  State.sameRegs_outside (State.sendOpen_cores ..) h

@[simp] theorem State.sameRegs_stamp {c : CoreId} {k : CtxId} (h : s.sameRegs t) : s.sameRegs (t.stamp c k).2 :=
  State.sameRegs_modCtx (fun _ => .refl _) (State.sameRegs_outside rfl h)

@[simp] theorem State.sameRegs_noteSent {c : CoreId} {k : CtxId} {pa : Nat} (h : s.sameRegs t) : s.sameRegs (t.noteSent c k pa) := by
  unfold State.noteSent
  (repeat' split) <;> first | exact h | exact State.sameRegs_modCtx (fun _ => .refl _) h

@[simp] theorem State.sameRegs_takeEntry {c : CoreId} {e : Fin 64} {r : UReq} (h : s.sameRegs t) : s.sameRegs (t.takeEntry c e r) :=
  State.sameRegs_modCore' rfl h

theorem State.sameRegs_foldl {α : Type} {g : State → α → State} (hg : ∀ u a, s.sameRegs u → s.sameRegs (g u a)) (l : List α) (h : s.sameRegs t) :
    s.sameRegs (l.foldl g t) := by
  induction l generalizing t with
  | nil => exact h
  | cons a l ih => exact ih (hg t a h)

theorem State.sameRegs_sendHome {c : CoreId} {e : Fin 64} {r : UReq} {ready : Bool} {chunks : List (Nat × BitVec 512 × BitVec 8)}
    (h : s.sameRegs t) : s.sameRegs (t.sendHome c e r ready chunks) := by
  have hs := State.sameRegs_stamp (c := c) (k := r.ctx) h
  have hm : ∀ {u : State} {g : Core → Core}, (∀ k, (g k).ctxs = k.ctxs) → s.sameRegs u → s.sameRegs (u.modCore c g) :=
    fun hg hu => State.sameRegs_modCore' (hg _) hu
  have ho : ∀ {u : State} {q : List HomeReq}, s.sameRegs u → s.sameRegs { u with homeQ := q } := fun hu => State.sameRegs_outside rfl hu
  unfold State.sendHome
  dsimp only
  (repeat' split) <;> refine State.sameRegs_tickFree (ho (hm ?_ ?_)) <;> first | exact fun _ => rfl | exact h | exact hs

theorem State.sameRegs_sendFar {c : CoreId} {e : Fin 64} {r : UReq} {chunks : List (Nat × BitVec 512 × BitVec 8)} (h : s.sameRegs t) :
    s.sameRegs (t.sendFar c e r chunks) := by
  unfold State.sendFar; dsimp only; split
  · exact State.sameRegs_sendOpen h
  · exact State.sameRegs_sendOpen (State.sameRegs_outside rfl h)

@[simp] theorem State.sameRegs_sendReq {c : CoreId} {e : Fin 64} {r : UReq} {ready : Bool} {chunks : List (Nat × BitVec 512 × BitVec 8)}
    (h : s.sameRegs t) : s.sameRegs (t.sendReq c e r ready chunks) := by
  have hn : s.sameRegs (if r.kind = .gld then t else r.pas.foldl (fun s pa => s.noteSent c r.ctx pa) t) := by
    split
    · exact h
    · exact State.sameRegs_foldl (fun _ _ hu => State.sameRegs_noteSent hu) _ h
  unfold State.sendReq
  dsimp only
  generalize (if r.kind = .gld then t else r.pas.foldl (fun s pa => s.noteSent c r.ctx pa) t) = u at hn ⊢
  (repeat' split)
  · exact State.sameRegs_sendHome hn
  · exact State.sameRegs_sendFar hn
  · exact hn

/-- A slot form keeps the registers where its effect does. -/
theorem State.sameRegs_slotRun {i : Instr} {name : String} {bad : Focus → Bool} {go : Focus → State} (h : slotRun i name s bad go = .next t)
    (hg : ∀ f, s.focus = some f → s.sameRegs (go f)) : s.sameRegs t := by
  obtain ⟨f, hf, rfl | ⟨c, a, rfl⟩⟩ := slotRun_cases h
  · exact hg f hf
  · exact State.sameRegs_raise (.refl s)

end Ops

/-! ### Sync operations -/

section Sync
variable {s t : State}

@[simp] theorem State.sameRegs_modFocus {g : Focus → Focus} (h : s.sameRegs t) : s.sameRegs (t.modFocus g) := State.sameRegs_outside rfl h

@[simp] theorem State.sameRegs_block {f : Focus} {w : Wait} (h : s.sameRegs t) : s.sameRegs (t.block f w) := by
  have h1 : s.sameRegs (t.modCtx f.core f.ctx fun k => { k with st := .waiting, wait := w, wakeTick := none, wakeCyc := none }) :=
    State.sameRegs_modCtx (fun _ => .refl _) h
  unfold State.block
  exact State.sameRegs_outside rfl h1

theorem Core.modBank_ctxs (k : Core) (b : Nat) (g : Bank → Bank) : (k.modBank b g).ctxs = k.ctxs := by
  unfold Core.modBank; split <;> rfl

theorem Core.giveBank_ctxs (k : Core) (lk b t : Nat) : (k.giveBank lk b t).ctxs = k.ctxs := Core.modBank_ctxs ..

theorem Core.giveBanks_ctxs (lk t : Nat) (l : List Nat) (k : Core) : (l.foldl (fun k b => k.giveBank lk b t) k).ctxs = k.ctxs := by
  induction l generalizing k with
  | nil => rfl
  | cons b l ih => rw [List.foldl_cons, ih, Core.giveBank_ctxs]

@[simp] theorem State.sameRegs_modLc {c : CoreId} {lk : Nat} {g : LaunchCore → LaunchCore} (h : s.sameRegs t) :
    s.sameRegs (t.modCore c fun k => k.modLc lk g) := State.sameRegs_modCore' rfl h

@[simp] theorem State.sameRegs_tryArrive {c : CoreId} {lk : Nat} (h : s.sameRegs t) : s.sameRegs (t.tryArrive c lk) := by
  unfold State.tryArrive
  dsimp only
  split
  · split
    · split
      · exact State.sameRegs_modLc h
      · exact h
    · exact h
  · exact h

@[simp] theorem State.sameRegs_tryLock {c : CoreId} {lk : Nat} {m : BitVec 16} (h : s.sameRegs t) : s.sameRegs (t.tryLock c lk m).2 := by
  unfold State.tryLock
  split
  · dsimp only; split
    · exact h
    · exact State.sameRegs_modCore' rfl h
  · exact h

@[simp] theorem State.sameRegs_wakeOn {c : CoreId} {k : CtxId} {n : Nat} (h : s.sameRegs t) : s.sameRegs (t.wakeOn c k n) :=
  State.sameRegs_modCtx (fun _ => .refl _) h

@[simp] theorem State.sameRegs_retryLocks {c : CoreId} (h : s.sameRegs t) : s.sameRegs (t.retryLocks c) := by
  refine State.sameRegs_foldl (fun u i hu => ?_) _ h
  dsimp only
  split
  · split
    · exact hu
    · split
      · exact State.sameRegs_tryLock hu
      · exact State.sameRegs_addResult (State.sameRegs_wakeOn (State.sameRegs_tryLock hu))
  · exact hu

@[simp] theorem State.sameRegs_addHaul {c : CoreId} {u : HaulOp} (h : s.sameRegs t) : s.sameRegs (t.addHaul c u) := State.sameRegs_modCore' rfl h

theorem State.sendTimed_cores (s : State) (lk pkg core n : Nat) (a : Access) : (s.sendTimed lk pkg core n a).cores = s.cores := by
  unfold State.sendTimed; dsimp only; split
  · rfl
  · split <;> rfl

@[simp] theorem State.sameRegs_fbRead {c : CoreId} {u : HaulOp} {n back : Nat} (h : s.sameRegs t) : s.sameRegs (t.fbRead c u n back) :=
  State.sameRegs_outside (State.sendTimed_cores ..) h

@[simp] theorem State.sameRegs_fbUpdate {c : CoreId} {u : HaulOp} {n back : Nat} {always : Bool} (h : s.sameRegs t) : s.sameRegs (t.fbUpdate c u n back always) :=
  State.sameRegs_outside (State.sendTimed_cores ..) h

@[simp] theorem State.sameRegs_haulWait {f : Focus} {u : HaulOp} (h : s.sameRegs t) : s.sameRegs (t.haulWait f u) := by
  unfold State.haulWait; dsimp only; split
  · exact State.sameRegs_addHaul (State.sameRegs_block h)
  · exact State.sameRegs_fbRead (State.sameRegs_addHaul (State.sameRegs_block h))

@[simp] theorem State.sameRegs_haulUpdate {f : Focus} {kind : HaulKind} {a : Word} {lane : Nat} {b : BitVec 512} {d : BitVec 5} {nw : Bool}
    (h : s.sameRegs t) : s.sameRegs (t.haulUpdate f kind a lane b d nw) := by
  unfold State.haulUpdate; split
  · exact State.sameRegs_raise h
  · exact State.sameRegs_withhold h

end Sync

/-! ### Changes of one context -/

/-- Every context keeps its registers, but for what `e` hides of one context. -/
def State.keepsBut (f : Focus) (e : Ctx → Ctx) (s t : State) : Prop := ∀ c k,
  (c ≠ f.core ∨ k ≠ f.ctx → (s.ctx c k).sameRegs (t.ctx c k)) ∧ (e (s.ctx c k)).sameRegs (e (t.ctx c k))

/-- LFSR states hidden: what draws change (R120). -/
abbrev State.drawsOnly (f : Focus) (s t : State) : Prop := s.keepsBut f (fun k => { k with lfsr := 0 }) t

/-- Loop stack and DEBT hidden: what loop forms and guard change (R109, R246). -/
abbrev State.loopsOnly (f : Focus) (s t : State) : Prop := s.keepsBut f (fun k => { k with loops := [], debt := 0 }) t

theorem State.sameRegs.drawsOnly {f : Focus} {s t : State} (h : s.sameRegs t) : s.drawsOnly f t := fun c k => by
  obtain ⟨h1, h2, h3, h4, h5, h6, _, h8, h9, h10, h11⟩ := h c k
  exact ⟨fun _ => h c k, h1, h2, h3, h4, h5, h6, rfl, h8, h9, h10, h11⟩

theorem State.sameRegs.loopsOnly {f : Focus} {s t : State} (h : s.sameRegs t) : s.loopsOnly f t := fun c k => by
  obtain ⟨h1, h2, h3, h4, h5, h6, h7, _, h9, h10, _⟩ := h c k
  exact ⟨fun _ => h c k, h1, h2, h3, h4, h5, h6, h7, rfl, h9, h10, rfl⟩

theorem State.keepsBut.trans {f : Focus} {e : Ctx → Ctx} {s t u : State} (h : s.keepsBut f e t) (g : t.keepsBut f e u) : s.keepsBut f e u := fun c k =>
  ⟨fun n => ((h c k).1 n).trans ((g c k).1 n), (h c k).2.trans (g c k).2⟩

/-- A change of one context that `e` hides. -/
theorem State.keepsBut_modCtx (s : State) (f : Focus) (e g : Ctx → Ctx) (he : ∀ k, (e k).sameRegs (e (g k))) : s.keepsBut f e (s.modCtx f.core f.ctx g) := by
  intro c k
  by_cases hc : c = f.core
  · subst hc
    by_cases hk : k = f.ctx
    · subst hk
      rw [State.ctx_modCtx]
      exact ⟨fun h => by simp at h, he _⟩
    · rw [State.ctx_modCtx_ne _ _ _ _ _ hk]; exact ⟨fun _ => .refl _, .refl _⟩
  · rw [State.ctx_modCtx_core _ _ _ _ _ _ hc]; exact ⟨fun _ => .refl _, .refl _⟩

/-- A vector result draws, and lands later. -/
theorem State.drawsOnly_resultV (s : State) (f : Focus) (o : VOps) (lat : Nat) (unit : Fin 8) (r : VOut) : s.drawsOnly f (s.resultV f o lat unit r) := by
  have h1 : s.drawsOnly f (s.drawn f r.env.lfsr) := State.keepsBut_modCtx s f _ _ fun _ => .refl _
  unfold State.resultV
  exact h1.trans (State.sameRegs_result (.refl _)).drawsOnly

/-- The draws of an mdr. -/
theorem State.drawsOnly_mdrDrawn (s : State) (f : Focus) (o : MOps) : s.drawsOnly f (s.mdrDrawn f o) := by
  unfold State.mdrDrawn
  split
  · exact State.keepsBut_modCtx s f _ _ fun _ => .refl _
  · exact (State.sameRegs.refl s).drawsOnly

theorem State.loopsOnly_loopPush (s : State) (f : Focus) (i : Instr) : s.loopsOnly f (s.loopPush f i) := by
  unfold State.loopPush; dsimp only; split
  · exact (State.sameRegs_modFocus (.refl s)).loopsOnly
  · exact State.keepsBut_modCtx s f _ _ fun _ => .refl _

theorem State.loopsOnly_loopBreak (s : State) (f : Focus) : s.loopsOnly f (s.loopBreak f) := by
  unfold State.loopBreak; split
  · rename_i rest _
    have h1 : s.loopsOnly f (s.modCtx f.core f.ctx fun k => { k with loops := rest }) := State.keepsBut_modCtx s f _ _ fun _ => .refl _
    exact h1.trans (State.sameRegs_modFocus (.refl _)).loopsOnly
  · exact (State.sameRegs.refl s).loopsOnly

end Sys2Proof.Machine
end

