-- ==== Sys2Proof/Laws/RegRows.lean ====
section
/-!
SUPPORT. What each slot form leaves of the registers at its issue (R69, R74, R109, R120, R246): every context's, but for the draws of vector and matrix forms and the loop stack and DEBT of sync forms.
-/

set_option maxRecDepth 8000

namespace Sys2Proof.Machine

theorem State.keepsBut_slotRun {s t : State} {f : Focus} {e : Ctx → Ctx} {i : Instr} {name : String} {bad : Focus → Bool} {go : Focus → State} (hf : s.focus = some f) (h : slotRun i name s bad go = .next t)
    (he : ∀ t, s.sameRegs t → s.keepsBut f e t) (hg : s.keepsBut f e (go f)) : s.keepsBut f e t := by
  obtain ⟨g, hf', rfl | ⟨c, a, rfl⟩⟩ := slotRun_cases h
  · rw [hf] at hf'; cases hf'; exact hg
  · exact he _ (State.sameRegs_raise (.refl s))
theorem execLui_regs : ∀ a0 a1 s t f, s.focus = some f → execLui a0 a1 s = .next t → s.sameRegs t := by
  intro a0 a1 s t f hf h; unfold execLui slotGo at h
  refine State.sameRegs_slotRun h fun f hf => ?_
  (try dsimp only [State.resultY, State.badSkip]); (repeat' split) <;> simp
theorem execAuipc_regs : ∀ a0 a1 s t f, s.focus = some f → execAuipc a0 a1 s = .next t → s.sameRegs t := by
  intro a0 a1 s t f hf h; unfold execAuipc slotGo at h
  refine State.sameRegs_slotRun h fun f hf => ?_
  (try dsimp only [State.resultY, State.badSkip]); (repeat' split) <;> simp
theorem execJal_regs : ∀ a0 a1 s t f, s.focus = some f → execJal a0 a1 s = .next t → s.sameRegs t := by
  intro a0 a1 s t f hf h; unfold execJal slotGo at h
  refine State.sameRegs_slotRun h fun f hf => ?_
  (try dsimp only [State.resultY, State.badSkip]); (repeat' split) <;> simp
theorem execJalr_regs : ∀ a0 a1 a2 s t f, s.focus = some f → execJalr a0 a1 a2 s = .next t → s.sameRegs t := by
  intro a0 a1 a2 s t f hf h; unfold execJalr slotGo at h
  refine State.sameRegs_slotRun h fun f hf => ?_
  (try dsimp only [State.resultY, State.badSkip]); (repeat' split) <;> simp
theorem execBeq_regs : ∀ a0 a1 a2 s t f, s.focus = some f → execBeq a0 a1 a2 s = .next t → s.sameRegs t := by
  intro a0 a1 a2 s t f hf h; unfold execBeq slotGo at h
  refine State.sameRegs_slotRun h fun f hf => ?_
  (try dsimp only [State.resultY, State.badSkip]); (repeat' split) <;> simp
theorem execBne_regs : ∀ a0 a1 a2 s t f, s.focus = some f → execBne a0 a1 a2 s = .next t → s.sameRegs t := by
  intro a0 a1 a2 s t f hf h; unfold execBne slotGo at h
  refine State.sameRegs_slotRun h fun f hf => ?_
  (try dsimp only [State.resultY, State.badSkip]); (repeat' split) <;> simp
theorem execBlt_regs : ∀ a0 a1 a2 s t f, s.focus = some f → execBlt a0 a1 a2 s = .next t → s.sameRegs t := by
  intro a0 a1 a2 s t f hf h; unfold execBlt slotGo at h
  refine State.sameRegs_slotRun h fun f hf => ?_
  (try dsimp only [State.resultY, State.badSkip]); (repeat' split) <;> simp
theorem execBge_regs : ∀ a0 a1 a2 s t f, s.focus = some f → execBge a0 a1 a2 s = .next t → s.sameRegs t := by
  intro a0 a1 a2 s t f hf h; unfold execBge slotGo at h
  refine State.sameRegs_slotRun h fun f hf => ?_
  (try dsimp only [State.resultY, State.badSkip]); (repeat' split) <;> simp
theorem execBltu_regs : ∀ a0 a1 a2 s t f, s.focus = some f → execBltu a0 a1 a2 s = .next t → s.sameRegs t := by
  intro a0 a1 a2 s t f hf h; unfold execBltu slotGo at h
  refine State.sameRegs_slotRun h fun f hf => ?_
  (try dsimp only [State.resultY, State.badSkip]); (repeat' split) <;> simp
theorem execBgeu_regs : ∀ a0 a1 a2 s t f, s.focus = some f → execBgeu a0 a1 a2 s = .next t → s.sameRegs t := by
  intro a0 a1 a2 s t f hf h; unfold execBgeu slotGo at h
  refine State.sameRegs_slotRun h fun f hf => ?_
  (try dsimp only [State.resultY, State.badSkip]); (repeat' split) <;> simp
theorem execLb_regs : ∀ a0 a1 a2 s t f, s.focus = some f → execLb a0 a1 a2 s = .next t → s.sameRegs t := by
  intro a0 a1 a2 s t f hf h; unfold execLb scalarLoad slotGo at h
  refine State.sameRegs_slotRun h fun f hf => ?_
  (try dsimp only [State.resultY, State.badSkip]); (repeat' split) <;> simp
theorem execLh_regs : ∀ a0 a1 a2 s t f, s.focus = some f → execLh a0 a1 a2 s = .next t → s.sameRegs t := by
  intro a0 a1 a2 s t f hf h; unfold execLh scalarLoad slotGo at h
  refine State.sameRegs_slotRun h fun f hf => ?_
  (try dsimp only [State.resultY, State.badSkip]); (repeat' split) <;> simp
theorem execLw_regs : ∀ a0 a1 a2 s t f, s.focus = some f → execLw a0 a1 a2 s = .next t → s.sameRegs t := by
  intro a0 a1 a2 s t f hf h; unfold execLw scalarLoad slotGo at h
  refine State.sameRegs_slotRun h fun f hf => ?_
  (try dsimp only [State.resultY, State.badSkip]); (repeat' split) <;> simp
theorem execLdd_regs : ∀ a0 a1 a2 s t f, s.focus = some f → execLdd a0 a1 a2 s = .next t → s.sameRegs t := by
  intro a0 a1 a2 s t f hf h; unfold execLdd scalarLoad slotGo at h
  refine State.sameRegs_slotRun h fun f hf => ?_
  (try dsimp only [State.resultY, State.badSkip]); (repeat' split) <;> simp
theorem execLbu_regs : ∀ a0 a1 a2 s t f, s.focus = some f → execLbu a0 a1 a2 s = .next t → s.sameRegs t := by
  intro a0 a1 a2 s t f hf h; unfold execLbu scalarLoad slotGo at h
  refine State.sameRegs_slotRun h fun f hf => ?_
  (try dsimp only [State.resultY, State.badSkip]); (repeat' split) <;> simp
theorem execLhu_regs : ∀ a0 a1 a2 s t f, s.focus = some f → execLhu a0 a1 a2 s = .next t → s.sameRegs t := by
  intro a0 a1 a2 s t f hf h; unfold execLhu scalarLoad slotGo at h
  refine State.sameRegs_slotRun h fun f hf => ?_
  (try dsimp only [State.resultY, State.badSkip]); (repeat' split) <;> simp
theorem execLwu_regs : ∀ a0 a1 a2 s t f, s.focus = some f → execLwu a0 a1 a2 s = .next t → s.sameRegs t := by
  intro a0 a1 a2 s t f hf h; unfold execLwu scalarLoad slotGo at h
  refine State.sameRegs_slotRun h fun f hf => ?_
  (try dsimp only [State.resultY, State.badSkip]); (repeat' split) <;> simp
theorem execSb_regs : ∀ a0 a1 a2 s t f, s.focus = some f → execSb a0 a1 a2 s = .next t → s.sameRegs t := by
  intro a0 a1 a2 s t f hf h; unfold execSb scalarStore slotGo at h
  refine State.sameRegs_slotRun h fun f hf => ?_
  (try dsimp only [State.resultY, State.badSkip]); (repeat' split) <;> simp
theorem execShh_regs : ∀ a0 a1 a2 s t f, s.focus = some f → execShh a0 a1 a2 s = .next t → s.sameRegs t := by
  intro a0 a1 a2 s t f hf h; unfold execShh scalarStore slotGo at h
  refine State.sameRegs_slotRun h fun f hf => ?_
  (try dsimp only [State.resultY, State.badSkip]); (repeat' split) <;> simp
theorem execSw_regs : ∀ a0 a1 a2 s t f, s.focus = some f → execSw a0 a1 a2 s = .next t → s.sameRegs t := by
  intro a0 a1 a2 s t f hf h; unfold execSw scalarStore slotGo at h
  refine State.sameRegs_slotRun h fun f hf => ?_
  (try dsimp only [State.resultY, State.badSkip]); (repeat' split) <;> simp
theorem execSd_regs : ∀ a0 a1 a2 s t f, s.focus = some f → execSd a0 a1 a2 s = .next t → s.sameRegs t := by
  intro a0 a1 a2 s t f hf h; unfold execSd scalarStore slotGo at h
  refine State.sameRegs_slotRun h fun f hf => ?_
  (try dsimp only [State.resultY, State.badSkip]); (repeat' split) <;> simp
theorem execAddi_regs : ∀ a0 a1 a2 s t f, s.focus = some f → execAddi a0 a1 a2 s = .next t → s.sameRegs t := by
  intro a0 a1 a2 s t f hf h; unfold execAddi slotGo at h
  refine State.sameRegs_slotRun h fun f hf => ?_
  (try dsimp only [State.resultY, State.badSkip]); (repeat' split) <;> simp
theorem execSlti_regs : ∀ a0 a1 a2 s t f, s.focus = some f → execSlti a0 a1 a2 s = .next t → s.sameRegs t := by
  intro a0 a1 a2 s t f hf h; unfold execSlti slotGo at h
  refine State.sameRegs_slotRun h fun f hf => ?_
  (try dsimp only [State.resultY, State.badSkip]); (repeat' split) <;> simp
theorem execSltiu_regs : ∀ a0 a1 a2 s t f, s.focus = some f → execSltiu a0 a1 a2 s = .next t → s.sameRegs t := by
  intro a0 a1 a2 s t f hf h; unfold execSltiu slotGo at h
  refine State.sameRegs_slotRun h fun f hf => ?_
  (try dsimp only [State.resultY, State.badSkip]); (repeat' split) <;> simp
theorem execXori_regs : ∀ a0 a1 a2 s t f, s.focus = some f → execXori a0 a1 a2 s = .next t → s.sameRegs t := by
  intro a0 a1 a2 s t f hf h; unfold execXori slotGo at h
  refine State.sameRegs_slotRun h fun f hf => ?_
  (try dsimp only [State.resultY, State.badSkip]); (repeat' split) <;> simp
theorem execOri_regs : ∀ a0 a1 a2 s t f, s.focus = some f → execOri a0 a1 a2 s = .next t → s.sameRegs t := by
  intro a0 a1 a2 s t f hf h; unfold execOri slotGo at h
  refine State.sameRegs_slotRun h fun f hf => ?_
  (try dsimp only [State.resultY, State.badSkip]); (repeat' split) <;> simp
theorem execAndi_regs : ∀ a0 a1 a2 s t f, s.focus = some f → execAndi a0 a1 a2 s = .next t → s.sameRegs t := by
  intro a0 a1 a2 s t f hf h; unfold execAndi slotGo at h
  refine State.sameRegs_slotRun h fun f hf => ?_
  (try dsimp only [State.resultY, State.badSkip]); (repeat' split) <;> simp
theorem execSlli_regs : ∀ a0 a1 a2 s t f, s.focus = some f → execSlli a0 a1 a2 s = .next t → s.sameRegs t := by
  intro a0 a1 a2 s t f hf h; unfold execSlli slotGo at h
  refine State.sameRegs_slotRun h fun f hf => ?_
  (try dsimp only [State.resultY, State.badSkip]); (repeat' split) <;> simp
theorem execSrli_regs : ∀ a0 a1 a2 s t f, s.focus = some f → execSrli a0 a1 a2 s = .next t → s.sameRegs t := by
  intro a0 a1 a2 s t f hf h; unfold execSrli slotGo at h
  refine State.sameRegs_slotRun h fun f hf => ?_
  (try dsimp only [State.resultY, State.badSkip]); (repeat' split) <;> simp
theorem execSrai_regs : ∀ a0 a1 a2 s t f, s.focus = some f → execSrai a0 a1 a2 s = .next t → s.sameRegs t := by
  intro a0 a1 a2 s t f hf h; unfold execSrai slotGo at h
  refine State.sameRegs_slotRun h fun f hf => ?_
  (try dsimp only [State.resultY, State.badSkip]); (repeat' split) <;> simp
theorem execAdd_regs : ∀ a0 a1 a2 s t f, s.focus = some f → execAdd a0 a1 a2 s = .next t → s.sameRegs t := by
  intro a0 a1 a2 s t f hf h; unfold execAdd slotGo at h
  refine State.sameRegs_slotRun h fun f hf => ?_
  (try dsimp only [State.resultY, State.badSkip]); (repeat' split) <;> simp
theorem execSub_regs : ∀ a0 a1 a2 s t f, s.focus = some f → execSub a0 a1 a2 s = .next t → s.sameRegs t := by
  intro a0 a1 a2 s t f hf h; unfold execSub slotGo at h
  refine State.sameRegs_slotRun h fun f hf => ?_
  (try dsimp only [State.resultY, State.badSkip]); (repeat' split) <;> simp
theorem execSll_regs : ∀ a0 a1 a2 s t f, s.focus = some f → execSll a0 a1 a2 s = .next t → s.sameRegs t := by
  intro a0 a1 a2 s t f hf h; unfold execSll slotGo at h
  refine State.sameRegs_slotRun h fun f hf => ?_
  (try dsimp only [State.resultY, State.badSkip]); (repeat' split) <;> simp
theorem execSlt_regs : ∀ a0 a1 a2 s t f, s.focus = some f → execSlt a0 a1 a2 s = .next t → s.sameRegs t := by
  intro a0 a1 a2 s t f hf h; unfold execSlt slotGo at h
  refine State.sameRegs_slotRun h fun f hf => ?_
  (try dsimp only [State.resultY, State.badSkip]); (repeat' split) <;> simp
theorem execSltu_regs : ∀ a0 a1 a2 s t f, s.focus = some f → execSltu a0 a1 a2 s = .next t → s.sameRegs t := by
  intro a0 a1 a2 s t f hf h; unfold execSltu slotGo at h
  refine State.sameRegs_slotRun h fun f hf => ?_
  (try dsimp only [State.resultY, State.badSkip]); (repeat' split) <;> simp
theorem execXorR_regs : ∀ a0 a1 a2 s t f, s.focus = some f → execXorR a0 a1 a2 s = .next t → s.sameRegs t := by
  intro a0 a1 a2 s t f hf h; unfold execXorR slotGo at h
  refine State.sameRegs_slotRun h fun f hf => ?_
  (try dsimp only [State.resultY, State.badSkip]); (repeat' split) <;> simp
theorem execSrl_regs : ∀ a0 a1 a2 s t f, s.focus = some f → execSrl a0 a1 a2 s = .next t → s.sameRegs t := by
  intro a0 a1 a2 s t f hf h; unfold execSrl slotGo at h
  refine State.sameRegs_slotRun h fun f hf => ?_
  (try dsimp only [State.resultY, State.badSkip]); (repeat' split) <;> simp
theorem execSra_regs : ∀ a0 a1 a2 s t f, s.focus = some f → execSra a0 a1 a2 s = .next t → s.sameRegs t := by
  intro a0 a1 a2 s t f hf h; unfold execSra slotGo at h
  refine State.sameRegs_slotRun h fun f hf => ?_
  (try dsimp only [State.resultY, State.badSkip]); (repeat' split) <;> simp
theorem execOrR_regs : ∀ a0 a1 a2 s t f, s.focus = some f → execOrR a0 a1 a2 s = .next t → s.sameRegs t := by
  intro a0 a1 a2 s t f hf h; unfold execOrR slotGo at h
  refine State.sameRegs_slotRun h fun f hf => ?_
  (try dsimp only [State.resultY, State.badSkip]); (repeat' split) <;> simp
theorem execAndR_regs : ∀ a0 a1 a2 s t f, s.focus = some f → execAndR a0 a1 a2 s = .next t → s.sameRegs t := by
  intro a0 a1 a2 s t f hf h; unfold execAndR slotGo at h
  refine State.sameRegs_slotRun h fun f hf => ?_
  (try dsimp only [State.resultY, State.badSkip]); (repeat' split) <;> simp
theorem execMul_regs : ∀ a0 a1 a2 s t f, s.focus = some f → execMul a0 a1 a2 s = .next t → s.sameRegs t := by
  intro a0 a1 a2 s t f hf h; unfold execMul slotGo at h
  refine State.sameRegs_slotRun h fun f hf => ?_
  (try dsimp only [State.resultY, State.badSkip]); (repeat' split) <;> simp
theorem execMulh_regs : ∀ a0 a1 a2 s t f, s.focus = some f → execMulh a0 a1 a2 s = .next t → s.sameRegs t := by
  intro a0 a1 a2 s t f hf h; unfold execMulh slotGo at h
  refine State.sameRegs_slotRun h fun f hf => ?_
  (try dsimp only [State.resultY, State.badSkip]); (repeat' split) <;> simp
theorem execMulhsu_regs : ∀ a0 a1 a2 s t f, s.focus = some f → execMulhsu a0 a1 a2 s = .next t → s.sameRegs t := by
  intro a0 a1 a2 s t f hf h; unfold execMulhsu slotGo at h
  refine State.sameRegs_slotRun h fun f hf => ?_
  (try dsimp only [State.resultY, State.badSkip]); (repeat' split) <;> simp
theorem execMulhu_regs : ∀ a0 a1 a2 s t f, s.focus = some f → execMulhu a0 a1 a2 s = .next t → s.sameRegs t := by
  intro a0 a1 a2 s t f hf h; unfold execMulhu slotGo at h
  refine State.sameRegs_slotRun h fun f hf => ?_
  (try dsimp only [State.resultY, State.badSkip]); (repeat' split) <;> simp
theorem execDiv_regs : ∀ a0 a1 a2 s t f, s.focus = some f → execDiv a0 a1 a2 s = .next t → s.sameRegs t := by
  intro a0 a1 a2 s t f hf h; unfold execDiv slotGo at h
  refine State.sameRegs_slotRun h fun f hf => ?_
  (try dsimp only [State.resultY, State.badSkip]); (repeat' split) <;> simp
theorem execDivu_regs : ∀ a0 a1 a2 s t f, s.focus = some f → execDivu a0 a1 a2 s = .next t → s.sameRegs t := by
  intro a0 a1 a2 s t f hf h; unfold execDivu slotGo at h
  refine State.sameRegs_slotRun h fun f hf => ?_
  (try dsimp only [State.resultY, State.badSkip]); (repeat' split) <;> simp
theorem execRem_regs : ∀ a0 a1 a2 s t f, s.focus = some f → execRem a0 a1 a2 s = .next t → s.sameRegs t := by
  intro a0 a1 a2 s t f hf h; unfold execRem slotGo at h
  refine State.sameRegs_slotRun h fun f hf => ?_
  (try dsimp only [State.resultY, State.badSkip]); (repeat' split) <;> simp
theorem execRemu_regs : ∀ a0 a1 a2 s t f, s.focus = some f → execRemu a0 a1 a2 s = .next t → s.sameRegs t := by
  intro a0 a1 a2 s t f hf h; unfold execRemu slotGo at h
  refine State.sameRegs_slotRun h fun f hf => ?_
  (try dsimp only [State.resultY, State.badSkip]); (repeat' split) <;> simp
theorem execAddiw_regs : ∀ a0 a1 a2 s t f, s.focus = some f → execAddiw a0 a1 a2 s = .next t → s.sameRegs t := by
  intro a0 a1 a2 s t f hf h; unfold execAddiw slotGo at h
  refine State.sameRegs_slotRun h fun f hf => ?_
  (try dsimp only [State.resultY, State.badSkip]); (repeat' split) <;> simp
theorem execSlliw_regs : ∀ a0 a1 a2 s t f, s.focus = some f → execSlliw a0 a1 a2 s = .next t → s.sameRegs t := by
  intro a0 a1 a2 s t f hf h; unfold execSlliw slotGo at h
  refine State.sameRegs_slotRun h fun f hf => ?_
  (try dsimp only [State.resultY, State.badSkip]); (repeat' split) <;> simp
theorem execSrliw_regs : ∀ a0 a1 a2 s t f, s.focus = some f → execSrliw a0 a1 a2 s = .next t → s.sameRegs t := by
  intro a0 a1 a2 s t f hf h; unfold execSrliw slotGo at h
  refine State.sameRegs_slotRun h fun f hf => ?_
  (try dsimp only [State.resultY, State.badSkip]); (repeat' split) <;> simp
theorem execSraiw_regs : ∀ a0 a1 a2 s t f, s.focus = some f → execSraiw a0 a1 a2 s = .next t → s.sameRegs t := by
  intro a0 a1 a2 s t f hf h; unfold execSraiw slotGo at h
  refine State.sameRegs_slotRun h fun f hf => ?_
  (try dsimp only [State.resultY, State.badSkip]); (repeat' split) <;> simp
theorem execAddw_regs : ∀ a0 a1 a2 s t f, s.focus = some f → execAddw a0 a1 a2 s = .next t → s.sameRegs t := by
  intro a0 a1 a2 s t f hf h; unfold execAddw slotGo at h
  refine State.sameRegs_slotRun h fun f hf => ?_
  (try dsimp only [State.resultY, State.badSkip]); (repeat' split) <;> simp
theorem execSubw_regs : ∀ a0 a1 a2 s t f, s.focus = some f → execSubw a0 a1 a2 s = .next t → s.sameRegs t := by
  intro a0 a1 a2 s t f hf h; unfold execSubw slotGo at h
  refine State.sameRegs_slotRun h fun f hf => ?_
  (try dsimp only [State.resultY, State.badSkip]); (repeat' split) <;> simp
theorem execSllw_regs : ∀ a0 a1 a2 s t f, s.focus = some f → execSllw a0 a1 a2 s = .next t → s.sameRegs t := by
  intro a0 a1 a2 s t f hf h; unfold execSllw slotGo at h
  refine State.sameRegs_slotRun h fun f hf => ?_
  (try dsimp only [State.resultY, State.badSkip]); (repeat' split) <;> simp
theorem execSrlw_regs : ∀ a0 a1 a2 s t f, s.focus = some f → execSrlw a0 a1 a2 s = .next t → s.sameRegs t := by
  intro a0 a1 a2 s t f hf h; unfold execSrlw slotGo at h
  refine State.sameRegs_slotRun h fun f hf => ?_
  (try dsimp only [State.resultY, State.badSkip]); (repeat' split) <;> simp
theorem execSraw_regs : ∀ a0 a1 a2 s t f, s.focus = some f → execSraw a0 a1 a2 s = .next t → s.sameRegs t := by
  intro a0 a1 a2 s t f hf h; unfold execSraw slotGo at h
  refine State.sameRegs_slotRun h fun f hf => ?_
  (try dsimp only [State.resultY, State.badSkip]); (repeat' split) <;> simp
theorem execMulw_regs : ∀ a0 a1 a2 s t f, s.focus = some f → execMulw a0 a1 a2 s = .next t → s.sameRegs t := by
  intro a0 a1 a2 s t f hf h; unfold execMulw slotGo at h
  refine State.sameRegs_slotRun h fun f hf => ?_
  (try dsimp only [State.resultY, State.badSkip]); (repeat' split) <;> simp
theorem execDivw_regs : ∀ a0 a1 a2 s t f, s.focus = some f → execDivw a0 a1 a2 s = .next t → s.sameRegs t := by
  intro a0 a1 a2 s t f hf h; unfold execDivw slotGo at h
  refine State.sameRegs_slotRun h fun f hf => ?_
  (try dsimp only [State.resultY, State.badSkip]); (repeat' split) <;> simp
theorem execDivuw_regs : ∀ a0 a1 a2 s t f, s.focus = some f → execDivuw a0 a1 a2 s = .next t → s.sameRegs t := by
  intro a0 a1 a2 s t f hf h; unfold execDivuw slotGo at h
  refine State.sameRegs_slotRun h fun f hf => ?_
  (try dsimp only [State.resultY, State.badSkip]); (repeat' split) <;> simp
theorem execRemw_regs : ∀ a0 a1 a2 s t f, s.focus = some f → execRemw a0 a1 a2 s = .next t → s.sameRegs t := by
  intro a0 a1 a2 s t f hf h; unfold execRemw slotGo at h
  refine State.sameRegs_slotRun h fun f hf => ?_
  (try dsimp only [State.resultY, State.badSkip]); (repeat' split) <;> simp
theorem execRemuw_regs : ∀ a0 a1 a2 s t f, s.focus = some f → execRemuw a0 a1 a2 s = .next t → s.sameRegs t := by
  intro a0 a1 a2 s t f hf h; unfold execRemuw slotGo at h
  refine State.sameRegs_slotRun h fun f hf => ?_
  (try dsimp only [State.resultY, State.badSkip]); (repeat' split) <;> simp
theorem execNopY_regs : ∀  s t f, s.focus = some f → execNopY  s = .next t → s.loopsOnly f t := by
  intro  s t f hf h; unfold execNopY syncSlot at h
  refine State.keepsBut_slotRun hf h (fun _ h => h.loopsOnly) ?_
  refine State.sameRegs.loopsOnly ?_
  (try dsimp only [State.resultY, State.badSkip]); (repeat' split) <;> simp
theorem execLoop_regs : ∀ a0 a1 s t f, s.focus = some f → execLoop a0 a1 s = .next t → s.loopsOnly f t := by
  intro a0 a1 s t f hf h; unfold execLoop syncSlot at h
  refine State.keepsBut_slotRun hf h (fun _ h => h.loopsOnly) ?_
  exact State.loopsOnly_loopPush _ _ _
theorem execLoopx_regs : ∀ a0 a1 s t f, s.focus = some f → execLoopx a0 a1 s = .next t → s.loopsOnly f t := by
  intro a0 a1 s t f hf h; unfold execLoopx syncSlot at h
  refine State.keepsBut_slotRun hf h (fun _ h => h.loopsOnly) ?_
  exact State.loopsOnly_loopPush _ _ _
theorem execLbrk_regs : ∀ a0 s t f, s.focus = some f → execLbrk a0 s = .next t → s.loopsOnly f t := by
  intro a0 s t f hf h; unfold execLbrk syncSlot at h
  refine State.keepsBut_slotRun hf h (fun _ h => h.loopsOnly) ?_
  (try dsimp only); split
  · exact State.loopsOnly_loopBreak _ _
  · exact (State.sameRegs.refl s).loopsOnly
theorem execLbrkU_regs : ∀  s t f, s.focus = some f → execLbrkU  s = .next t → s.loopsOnly f t := by
  intro  s t f hf h; unfold execLbrkU syncSlot at h
  refine State.keepsBut_slotRun hf h (fun _ h => h.loopsOnly) ?_
  exact State.loopsOnly_loopBreak _ _
theorem execBankAcq_regs : ∀ a0 s t f, s.focus = some f → execBankAcq a0 s = .next t → s.loopsOnly f t := by
  intro a0 s t f hf h; unfold execBankAcq syncSlot at h
  refine State.keepsBut_slotRun hf h (fun _ h => h.loopsOnly) ?_
  refine State.sameRegs.loopsOnly ?_
  (try dsimp only [State.resultY, State.badSkip]); repeat' (with_reducible first | exact State.sameRegs.refl _ | assumption | refine State.sameRegs_raise ?_ | refine State.sameRegs_addResult ?_ | refine State.sameRegs_result ?_ | refine State.sameRegs_resultX ?_ | refine State.sameRegs_resultS ?_ | refine State.sameRegs_addAccess ?_ | refine State.sameRegs_withhold ?_ | refine State.sameRegs_haltMid ?_ | refine State.sameRegs_load ?_ | refine State.sameRegs_storeAt ?_ | refine State.sameRegs_storeW ?_ | refine State.sameRegs_jumpTo ?_ | refine State.sameRegs_branch ?_ | refine State.sameRegs_matEnter ?_ | refine State.sameRegs_modFace ?_ | refine State.sameRegs_setArr ?_ | refine State.sameRegs_setFfmt ?_ | refine State.sameRegs_planEnter ?_ | refine State.sameRegs_enqueue ?_ | refine State.sameRegs_tickFree ?_ | refine State.sameRegs_sendOpen ?_ | refine State.sameRegs_stamp ?_ | refine State.sameRegs_noteSent ?_ | refine State.sameRegs_takeEntry ?_ | refine State.sameRegs_sendReq ?_ | refine State.sameRegs_modFocus ?_ | refine State.sameRegs_block ?_ | refine State.sameRegs_tryArrive ?_ | refine State.sameRegs_tryLock ?_ | refine State.sameRegs_wakeOn ?_ | refine State.sameRegs_retryLocks ?_ | refine State.sameRegs_addHaul ?_ | refine State.sameRegs_fbRead ?_ | refine State.sameRegs_fbUpdate ?_ | refine State.sameRegs_haulWait ?_ | refine State.sameRegs_haulUpdate ?_ | refine State.sameRegs_matRun (fun _ _ => ?_) ?_ | refine State.sameRegs_watched (fun _ _ => ?_) ?_ | refine State.sameRegs_modLc ?_ | refine State.sameRegs_modCore' (Core.giveBanks_ctxs _ _ _ _) ?_ | refine State.sameRegs_modCtx (fun _ => Ctx.sameRegs.refl _) ?_ | refine State.sameRegs_modCore' rfl ?_ | refine State.sameRegs_outside (t := s) rfl ?_ | split | dsimp only [id])
theorem execBankRel_regs : ∀ a0 s t f, s.focus = some f → execBankRel a0 s = .next t → s.loopsOnly f t := by
  intro a0 s t f hf h; unfold execBankRel syncSlot at h
  refine State.keepsBut_slotRun hf h (fun _ h => h.loopsOnly) ?_
  refine State.sameRegs.loopsOnly ?_
  (try dsimp only [State.resultY, State.badSkip]); repeat' (with_reducible first | exact State.sameRegs.refl _ | assumption | refine State.sameRegs_raise ?_ | refine State.sameRegs_addResult ?_ | refine State.sameRegs_result ?_ | refine State.sameRegs_resultX ?_ | refine State.sameRegs_resultS ?_ | refine State.sameRegs_addAccess ?_ | refine State.sameRegs_withhold ?_ | refine State.sameRegs_haltMid ?_ | refine State.sameRegs_load ?_ | refine State.sameRegs_storeAt ?_ | refine State.sameRegs_storeW ?_ | refine State.sameRegs_jumpTo ?_ | refine State.sameRegs_branch ?_ | refine State.sameRegs_matEnter ?_ | refine State.sameRegs_modFace ?_ | refine State.sameRegs_setArr ?_ | refine State.sameRegs_setFfmt ?_ | refine State.sameRegs_planEnter ?_ | refine State.sameRegs_enqueue ?_ | refine State.sameRegs_tickFree ?_ | refine State.sameRegs_sendOpen ?_ | refine State.sameRegs_stamp ?_ | refine State.sameRegs_noteSent ?_ | refine State.sameRegs_takeEntry ?_ | refine State.sameRegs_sendReq ?_ | refine State.sameRegs_modFocus ?_ | refine State.sameRegs_block ?_ | refine State.sameRegs_tryArrive ?_ | refine State.sameRegs_tryLock ?_ | refine State.sameRegs_wakeOn ?_ | refine State.sameRegs_retryLocks ?_ | refine State.sameRegs_addHaul ?_ | refine State.sameRegs_fbRead ?_ | refine State.sameRegs_fbUpdate ?_ | refine State.sameRegs_haulWait ?_ | refine State.sameRegs_haulUpdate ?_ | refine State.sameRegs_matRun (fun _ _ => ?_) ?_ | refine State.sameRegs_watched (fun _ _ => ?_) ?_ | refine State.sameRegs_modLc ?_ | refine State.sameRegs_modCore' (Core.giveBanks_ctxs _ _ _ _) ?_ | refine State.sameRegs_modCtx (fun _ => Ctx.sameRegs.refl _) ?_ | refine State.sameRegs_modCore' rfl ?_ | refine State.sameRegs_outside (t := s) rfl ?_ | split | dsimp only [id])
theorem execBar_regs : ∀ a0 a1 s t f, s.focus = some f → execBar a0 a1 s = .next t → s.loopsOnly f t := by
  intro a0 a1 s t f hf h; unfold execBar syncSlot at h
  refine State.keepsBut_slotRun hf h (fun _ h => h.loopsOnly) ?_
  refine State.sameRegs.loopsOnly ?_
  (try dsimp only [State.resultY, State.badSkip]); (repeat' split) <;> simp
theorem execGuard_regs : ∀ a0 s t f, s.focus = some f → execGuard a0 s = .next t → s.loopsOnly f t := by
  intro a0 s t f hf h; unfold execGuard syncSlot at h
  refine State.keepsBut_slotRun hf h (fun _ h => h.loopsOnly) ?_
  dsimp only; split
  · exact (State.sameRegs_raise (.refl s)).loopsOnly
  · have h1 (g : Core → Core) (hg : ∀ k, (g k).ctxs = k.ctxs) : s.loopsOnly f (s.modCore f.core g) := (State.sameRegs_modCore' (hg _) (.refl s)).loopsOnly
    refine State.keepsBut.trans (t := s.modCore f.core _) (h1 _ ?_) (State.keepsBut_modCtx _ f _ _ ?_)
    · intro _; rfl
    · intro _; exact .refl _
theorem execFence_regs : ∀ a0 a1 s t f, s.focus = some f → execFence a0 a1 s = .next t → s.loopsOnly f t := by
  intro a0 a1 s t f hf h; unfold execFence syncSlot at h
  refine State.keepsBut_slotRun hf h (fun _ h => h.loopsOnly) ?_
  refine State.sameRegs.loopsOnly ?_
  (try dsimp only [State.resultY, State.badSkip]); repeat' (with_reducible first | exact State.sameRegs.refl _ | assumption | refine State.sameRegs_raise ?_ | refine State.sameRegs_addResult ?_ | refine State.sameRegs_result ?_ | refine State.sameRegs_resultX ?_ | refine State.sameRegs_resultS ?_ | refine State.sameRegs_addAccess ?_ | refine State.sameRegs_withhold ?_ | refine State.sameRegs_haltMid ?_ | refine State.sameRegs_load ?_ | refine State.sameRegs_storeAt ?_ | refine State.sameRegs_storeW ?_ | refine State.sameRegs_jumpTo ?_ | refine State.sameRegs_branch ?_ | refine State.sameRegs_matEnter ?_ | refine State.sameRegs_modFace ?_ | refine State.sameRegs_setArr ?_ | refine State.sameRegs_setFfmt ?_ | refine State.sameRegs_planEnter ?_ | refine State.sameRegs_enqueue ?_ | refine State.sameRegs_tickFree ?_ | refine State.sameRegs_sendOpen ?_ | refine State.sameRegs_stamp ?_ | refine State.sameRegs_noteSent ?_ | refine State.sameRegs_takeEntry ?_ | refine State.sameRegs_sendReq ?_ | refine State.sameRegs_modFocus ?_ | refine State.sameRegs_block ?_ | refine State.sameRegs_tryArrive ?_ | refine State.sameRegs_tryLock ?_ | refine State.sameRegs_wakeOn ?_ | refine State.sameRegs_retryLocks ?_ | refine State.sameRegs_addHaul ?_ | refine State.sameRegs_fbRead ?_ | refine State.sameRegs_fbUpdate ?_ | refine State.sameRegs_haulWait ?_ | refine State.sameRegs_haulUpdate ?_ | refine State.sameRegs_matRun (fun _ _ => ?_) ?_ | refine State.sameRegs_watched (fun _ _ => ?_) ?_ | refine State.sameRegs_modLc ?_ | refine State.sameRegs_modCore' (Core.giveBanks_ctxs _ _ _ _) ?_ | refine State.sameRegs_modCtx (fun _ => Ctx.sameRegs.refl _) ?_ | refine State.sameRegs_modCore' rfl ?_ | refine State.sameRegs_outside (t := s) rfl ?_ | split | dsimp only [id])
theorem execBankTst_regs : ∀ a0 a1 a2 s t f, s.focus = some f → execBankTst a0 a1 a2 s = .next t → s.loopsOnly f t := by
  intro a0 a1 a2 s t f hf h; unfold execBankTst syncSlot at h
  refine State.keepsBut_slotRun hf h (fun _ h => h.loopsOnly) ?_
  refine State.sameRegs.loopsOnly ?_
  (try dsimp only [State.resultY, State.badSkip]); (repeat' split) <;> simp
theorem execHaulBoard_regs : ∀ a0 a1 a2 s t f, s.focus = some f → execHaulBoard a0 a1 a2 s = .next t → s.loopsOnly f t := by
  intro a0 a1 a2 s t f hf h; unfold execHaulBoard syncSlot at h
  refine State.keepsBut_slotRun hf h (fun _ h => h.loopsOnly) ?_
  refine State.sameRegs.loopsOnly ?_
  (try dsimp only [State.resultY, State.badSkip]); (repeat' split) <;> simp
theorem execHaulAlight_regs : ∀ a0 a1 a2 s t f, s.focus = some f → execHaulAlight a0 a1 a2 s = .next t → s.loopsOnly f t := by
  intro a0 a1 a2 s t f hf h; unfold execHaulAlight syncSlot at h
  refine State.keepsBut_slotRun hf h (fun _ h => h.loopsOnly) ?_
  refine State.sameRegs.loopsOnly ?_
  (try dsimp only [State.resultY, State.badSkip]); (repeat' split) <;> simp
theorem execHaulLd_regs : ∀ a0 a1 a2 s t f, s.focus = some f → execHaulLd a0 a1 a2 s = .next t → s.loopsOnly f t := by
  intro a0 a1 a2 s t f hf h; unfold execHaulLd syncSlot at h
  refine State.keepsBut_slotRun hf h (fun _ h => h.loopsOnly) ?_
  refine State.sameRegs.loopsOnly ?_
  (try dsimp only [State.resultY, State.badSkip]); (repeat' split) <;> simp
theorem execHaulSt_regs : ∀ a0 a1 a2 a3 s t f, s.focus = some f → execHaulSt a0 a1 a2 a3 s = .next t → s.loopsOnly f t := by
  intro a0 a1 a2 a3 s t f hf h; unfold execHaulSt syncSlot at h
  refine State.keepsBut_slotRun hf h (fun _ h => h.loopsOnly) ?_
  refine State.sameRegs.loopsOnly ?_
  (try dsimp only [State.resultY, State.badSkip]); (repeat' split) <;> simp
theorem execHaulOp_regs : ∀ a0 a1 a2 a3 a4 a5 a6 s t f, s.focus = some f → execHaulOp a0 a1 a2 a3 a4 a5 a6 s = .next t → s.loopsOnly f t := by
  intro a0 a1 a2 a3 a4 a5 a6 s t f hf h; unfold execHaulOp syncSlot at h
  refine State.keepsBut_slotRun hf h (fun _ h => h.loopsOnly) ?_
  refine State.sameRegs.loopsOnly ?_
  (try dsimp only [State.resultY, State.badSkip]); (repeat' split) <;> simp
theorem execHaulXchg_regs : ∀ a0 a1 a2 a3 a4 s t f, s.focus = some f → execHaulXchg a0 a1 a2 a3 a4 s = .next t → s.loopsOnly f t := by
  intro a0 a1 a2 a3 a4 s t f hf h; unfold execHaulXchg syncSlot at h
  refine State.keepsBut_slotRun hf h (fun _ h => h.loopsOnly) ?_
  refine State.sameRegs.loopsOnly ?_
  (try dsimp only [State.resultY, State.badSkip]); (repeat' split) <;> simp
theorem execHaulCas_regs : ∀ a0 a1 a2 a3 a4 s t f, s.focus = some f → execHaulCas a0 a1 a2 a3 a4 s = .next t → s.loopsOnly f t := by
  intro a0 a1 a2 a3 a4 s t f hf h; unfold execHaulCas syncSlot at h
  refine State.keepsBut_slotRun hf h (fun _ h => h.loopsOnly) ?_
  refine State.sameRegs.loopsOnly ?_
  (try dsimp only [State.resultY, State.badSkip]); (repeat' split) <;> simp
theorem execHaulLse_regs : ∀ a0 a1 a2 a3 a4 s t f, s.focus = some f → execHaulLse a0 a1 a2 a3 a4 s = .next t → s.loopsOnly f t := by
  intro a0 a1 a2 a3 a4 s t f hf h; unfold execHaulLse syncSlot at h
  refine State.keepsBut_slotRun hf h (fun _ h => h.loopsOnly) ?_
  refine State.sameRegs.loopsOnly ?_
  (try dsimp only [State.resultY, State.badSkip]); (repeat' split) <;> simp
theorem execHaulBar_regs : ∀ a0 a1 a2 s t f, s.focus = some f → execHaulBar a0 a1 a2 s = .next t → s.loopsOnly f t := by
  intro a0 a1 a2 s t f hf h; unfold execHaulBar syncSlot at h
  refine State.keepsBut_slotRun hf h (fun _ h => h.loopsOnly) ?_
  refine State.sameRegs.loopsOnly ?_
  (try dsimp only [State.resultY, State.badSkip]); repeat' (with_reducible first | exact State.sameRegs.refl _ | assumption | refine State.sameRegs_raise ?_ | refine State.sameRegs_addResult ?_ | refine State.sameRegs_result ?_ | refine State.sameRegs_resultX ?_ | refine State.sameRegs_resultS ?_ | refine State.sameRegs_addAccess ?_ | refine State.sameRegs_withhold ?_ | refine State.sameRegs_haltMid ?_ | refine State.sameRegs_load ?_ | refine State.sameRegs_storeAt ?_ | refine State.sameRegs_storeW ?_ | refine State.sameRegs_jumpTo ?_ | refine State.sameRegs_branch ?_ | refine State.sameRegs_matEnter ?_ | refine State.sameRegs_modFace ?_ | refine State.sameRegs_setArr ?_ | refine State.sameRegs_setFfmt ?_ | refine State.sameRegs_planEnter ?_ | refine State.sameRegs_enqueue ?_ | refine State.sameRegs_tickFree ?_ | refine State.sameRegs_sendOpen ?_ | refine State.sameRegs_stamp ?_ | refine State.sameRegs_noteSent ?_ | refine State.sameRegs_takeEntry ?_ | refine State.sameRegs_sendReq ?_ | refine State.sameRegs_modFocus ?_ | refine State.sameRegs_block ?_ | refine State.sameRegs_tryArrive ?_ | refine State.sameRegs_tryLock ?_ | refine State.sameRegs_wakeOn ?_ | refine State.sameRegs_retryLocks ?_ | refine State.sameRegs_addHaul ?_ | refine State.sameRegs_fbRead ?_ | refine State.sameRegs_fbUpdate ?_ | refine State.sameRegs_haulWait ?_ | refine State.sameRegs_haulUpdate ?_ | refine State.sameRegs_matRun (fun _ _ => ?_) ?_ | refine State.sameRegs_watched (fun _ _ => ?_) ?_ | refine State.sameRegs_modLc ?_ | refine State.sameRegs_modCore' (Core.giveBanks_ctxs _ _ _ _) ?_ | refine State.sameRegs_modCtx (fun _ => Ctx.sameRegs.refl _) ?_ | refine State.sameRegs_modCore' rfl ?_ | refine State.sameRegs_outside (t := s) rfl ?_ | split | dsimp only [id])
theorem execHaulPass_regs : ∀ a0 a1 a2 s t f, s.focus = some f → execHaulPass a0 a1 a2 s = .next t → s.loopsOnly f t := by
  intro a0 a1 a2 s t f hf h; unfold execHaulPass syncSlot at h
  refine State.keepsBut_slotRun hf h (fun _ h => h.loopsOnly) ?_
  refine State.sameRegs.loopsOnly ?_
  (try dsimp only [State.resultY, State.badSkip]); (repeat' split) <;> simp
theorem execCodeLock_regs : ∀ a0 a1 a2 s t f, s.focus = some f → execCodeLock a0 a1 a2 s = .next t → s.loopsOnly f t := by
  intro a0 a1 a2 s t f hf h; unfold execCodeLock syncSlot at h
  refine State.keepsBut_slotRun hf h (fun _ h => h.loopsOnly) ?_
  refine State.sameRegs.loopsOnly ?_
  (try dsimp only [State.resultY, State.badSkip]); (repeat' split) <;> simp
theorem execCodeLockW_regs : ∀ a0 a1 a2 s t f, s.focus = some f → execCodeLockW a0 a1 a2 s = .next t → s.loopsOnly f t := by
  intro a0 a1 a2 s t f hf h; unfold execCodeLockW syncSlot at h
  refine State.keepsBut_slotRun hf h (fun _ h => h.loopsOnly) ?_
  refine State.sameRegs.loopsOnly ?_
  (try dsimp only [State.resultY, State.badSkip]); (repeat' split) <;> simp
theorem execCodeUnlock_regs : ∀ a0 s t f, s.focus = some f → execCodeUnlock a0 s = .next t → s.loopsOnly f t := by
  intro a0 s t f hf h; unfold execCodeUnlock syncSlot at h
  refine State.keepsBut_slotRun hf h (fun _ h => h.loopsOnly) ?_
  refine State.sameRegs.loopsOnly ?_
  (try dsimp only [State.resultY, State.badSkip]); (repeat' split) <;> simp
theorem execSysrd_regs : ∀ a0 a1 a2 s t f, s.focus = some f → execSysrd a0 a1 a2 s = .next t → s.loopsOnly f t := by
  intro a0 a1 a2 s t f hf h; unfold execSysrd syncSlot at h
  refine State.keepsBut_slotRun hf h (fun _ h => h.loopsOnly) ?_
  refine State.sameRegs.loopsOnly ?_
  (try dsimp only [State.resultY, State.badSkip]); (repeat' split) <;> simp
theorem execSyswr_regs : ∀ a0 a1 s t f, s.focus = some f → execSyswr a0 a1 s = .next t → s.loopsOnly f t := by
  intro a0 a1 s t f hf h; unfold execSyswr syncSlot at h
  refine State.keepsBut_slotRun hf h (fun _ h => h.loopsOnly) ?_
  refine State.sameRegs.loopsOnly ?_
  (try dsimp only [State.resultY, State.badSkip]); (repeat' split) <;> simp
theorem execTrap_regs : ∀ a0 s t f, s.focus = some f → execTrap a0 s = .next t → s.loopsOnly f t := by
  intro a0 s t f hf h; unfold execTrap syncSlot at h
  refine State.keepsBut_slotRun hf h (fun _ h => h.loopsOnly) ?_
  refine State.sameRegs.loopsOnly ?_
  (try dsimp only [State.resultY, State.badSkip]); (repeat' split) <;> simp
theorem execEbrk_regs : ∀  s t f, s.focus = some f → execEbrk  s = .next t → s.loopsOnly f t := by
  intro  s t f hf h; unfold execEbrk syncSlot at h
  refine State.keepsBut_slotRun hf h (fun _ h => h.loopsOnly) ?_
  refine State.sameRegs.loopsOnly ?_
  (try dsimp only [State.resultY, State.badSkip]); repeat' (with_reducible first | exact State.sameRegs.refl _ | assumption | refine State.sameRegs_raise ?_ | refine State.sameRegs_addResult ?_ | refine State.sameRegs_result ?_ | refine State.sameRegs_resultX ?_ | refine State.sameRegs_resultS ?_ | refine State.sameRegs_addAccess ?_ | refine State.sameRegs_withhold ?_ | refine State.sameRegs_haltMid ?_ | refine State.sameRegs_load ?_ | refine State.sameRegs_storeAt ?_ | refine State.sameRegs_storeW ?_ | refine State.sameRegs_jumpTo ?_ | refine State.sameRegs_branch ?_ | refine State.sameRegs_matEnter ?_ | refine State.sameRegs_modFace ?_ | refine State.sameRegs_setArr ?_ | refine State.sameRegs_setFfmt ?_ | refine State.sameRegs_planEnter ?_ | refine State.sameRegs_enqueue ?_ | refine State.sameRegs_tickFree ?_ | refine State.sameRegs_sendOpen ?_ | refine State.sameRegs_stamp ?_ | refine State.sameRegs_noteSent ?_ | refine State.sameRegs_takeEntry ?_ | refine State.sameRegs_sendReq ?_ | refine State.sameRegs_modFocus ?_ | refine State.sameRegs_block ?_ | refine State.sameRegs_tryArrive ?_ | refine State.sameRegs_tryLock ?_ | refine State.sameRegs_wakeOn ?_ | refine State.sameRegs_retryLocks ?_ | refine State.sameRegs_addHaul ?_ | refine State.sameRegs_fbRead ?_ | refine State.sameRegs_fbUpdate ?_ | refine State.sameRegs_haulWait ?_ | refine State.sameRegs_haulUpdate ?_ | refine State.sameRegs_matRun (fun _ _ => ?_) ?_ | refine State.sameRegs_watched (fun _ _ => ?_) ?_ | refine State.sameRegs_modLc ?_ | refine State.sameRegs_modCore' (Core.giveBanks_ctxs _ _ _ _) ?_ | refine State.sameRegs_modCtx (fun _ => Ctx.sameRegs.refl _) ?_ | refine State.sameRegs_modCore' rfl ?_ | refine State.sameRegs_outside (t := s) rfl ?_ | split | dsimp only [id])
theorem execEndCtx_regs : ∀  s t f, s.focus = some f → execEndCtx  s = .next t → s.loopsOnly f t := by
  intro  s t f hf h; unfold execEndCtx syncSlot at h
  refine State.keepsBut_slotRun hf h (fun _ h => h.loopsOnly) ?_
  refine State.sameRegs.loopsOnly ?_
  (try dsimp only [State.resultY, State.badSkip]); repeat' (with_reducible first | exact State.sameRegs.refl _ | assumption | refine State.sameRegs_raise ?_ | refine State.sameRegs_addResult ?_ | refine State.sameRegs_result ?_ | refine State.sameRegs_resultX ?_ | refine State.sameRegs_resultS ?_ | refine State.sameRegs_addAccess ?_ | refine State.sameRegs_withhold ?_ | refine State.sameRegs_haltMid ?_ | refine State.sameRegs_load ?_ | refine State.sameRegs_storeAt ?_ | refine State.sameRegs_storeW ?_ | refine State.sameRegs_jumpTo ?_ | refine State.sameRegs_branch ?_ | refine State.sameRegs_matEnter ?_ | refine State.sameRegs_modFace ?_ | refine State.sameRegs_setArr ?_ | refine State.sameRegs_setFfmt ?_ | refine State.sameRegs_planEnter ?_ | refine State.sameRegs_enqueue ?_ | refine State.sameRegs_tickFree ?_ | refine State.sameRegs_sendOpen ?_ | refine State.sameRegs_stamp ?_ | refine State.sameRegs_noteSent ?_ | refine State.sameRegs_takeEntry ?_ | refine State.sameRegs_sendReq ?_ | refine State.sameRegs_modFocus ?_ | refine State.sameRegs_block ?_ | refine State.sameRegs_tryArrive ?_ | refine State.sameRegs_tryLock ?_ | refine State.sameRegs_wakeOn ?_ | refine State.sameRegs_retryLocks ?_ | refine State.sameRegs_addHaul ?_ | refine State.sameRegs_fbRead ?_ | refine State.sameRegs_fbUpdate ?_ | refine State.sameRegs_haulWait ?_ | refine State.sameRegs_haulUpdate ?_ | refine State.sameRegs_matRun (fun _ _ => ?_) ?_ | refine State.sameRegs_watched (fun _ _ => ?_) ?_ | refine State.sameRegs_modLc ?_ | refine State.sameRegs_modCore' (Core.giveBanks_ctxs _ _ _ _) ?_ | refine State.sameRegs_modCtx (fun _ => Ctx.sameRegs.refl _) ?_ | refine State.sameRegs_modCore' rfl ?_ | refine State.sameRegs_outside (t := s) rfl ?_ | split | dsimp only [id])
theorem execVadd_regs : ∀ a0 s t f, s.focus = some f → execVadd a0 s = .next t → s.drawsOnly f t := by
  intro a0 s t f hf h; unfold execVadd vecForm slotGo at h
  refine State.keepsBut_slotRun hf h (fun _ h => h.drawsOnly) ?_
  exact State.drawsOnly_resultV _ _ _ _ _ _
theorem execVsub_regs : ∀ a0 s t f, s.focus = some f → execVsub a0 s = .next t → s.drawsOnly f t := by
  intro a0 s t f hf h; unfold execVsub vecForm slotGo at h
  refine State.keepsBut_slotRun hf h (fun _ h => h.drawsOnly) ?_
  exact State.drawsOnly_resultV _ _ _ _ _ _
theorem execVmul_regs : ∀ a0 s t f, s.focus = some f → execVmul a0 s = .next t → s.drawsOnly f t := by
  intro a0 s t f hf h; unfold execVmul vecForm slotGo at h
  refine State.keepsBut_slotRun hf h (fun _ h => h.drawsOnly) ?_
  exact State.drawsOnly_resultV _ _ _ _ _ _
theorem execVfma_regs : ∀ a0 s t f, s.focus = some f → execVfma a0 s = .next t → s.drawsOnly f t := by
  intro a0 s t f hf h; unfold execVfma vecForm slotGo at h
  refine State.keepsBut_slotRun hf h (fun _ h => h.drawsOnly) ?_
  exact State.drawsOnly_resultV _ _ _ _ _ _
theorem execVfms_regs : ∀ a0 s t f, s.focus = some f → execVfms a0 s = .next t → s.drawsOnly f t := by
  intro a0 s t f hf h; unfold execVfms vecForm slotGo at h
  refine State.keepsBut_slotRun hf h (fun _ h => h.drawsOnly) ?_
  exact State.drawsOnly_resultV _ _ _ _ _ _
theorem execVfnma_regs : ∀ a0 s t f, s.focus = some f → execVfnma a0 s = .next t → s.drawsOnly f t := by
  intro a0 s t f hf h; unfold execVfnma vecForm slotGo at h
  refine State.keepsBut_slotRun hf h (fun _ h => h.drawsOnly) ?_
  exact State.drawsOnly_resultV _ _ _ _ _ _
theorem execVmax_regs : ∀ a0 s t f, s.focus = some f → execVmax a0 s = .next t → s.drawsOnly f t := by
  intro a0 s t f hf h; unfold execVmax vecForm slotGo at h
  refine State.keepsBut_slotRun hf h (fun _ h => h.drawsOnly) ?_
  exact State.drawsOnly_resultV _ _ _ _ _ _
theorem execVmin_regs : ∀ a0 s t f, s.focus = some f → execVmin a0 s = .next t → s.drawsOnly f t := by
  intro a0 s t f hf h; unfold execVmin vecForm slotGo at h
  refine State.keepsBut_slotRun hf h (fun _ h => h.drawsOnly) ?_
  exact State.drawsOnly_resultV _ _ _ _ _ _
theorem execVabs_regs : ∀ a0 s t f, s.focus = some f → execVabs a0 s = .next t → s.drawsOnly f t := by
  intro a0 s t f hf h; unfold execVabs vecForm slotGo at h
  refine State.keepsBut_slotRun hf h (fun _ h => h.drawsOnly) ?_
  exact State.drawsOnly_resultV _ _ _ _ _ _
theorem execVneg_regs : ∀ a0 s t f, s.focus = some f → execVneg a0 s = .next t → s.drawsOnly f t := by
  intro a0 s t f hf h; unfold execVneg vecForm slotGo at h
  refine State.keepsBut_slotRun hf h (fun _ h => h.drawsOnly) ?_
  exact State.drawsOnly_resultV _ _ _ _ _ _
theorem execVaddsat_regs : ∀ a0 s t f, s.focus = some f → execVaddsat a0 s = .next t → s.drawsOnly f t := by
  intro a0 s t f hf h; unfold execVaddsat vecForm slotGo at h
  refine State.keepsBut_slotRun hf h (fun _ h => h.drawsOnly) ?_
  exact State.drawsOnly_resultV _ _ _ _ _ _
theorem execVsubsat_regs : ∀ a0 s t f, s.focus = some f → execVsubsat a0 s = .next t → s.drawsOnly f t := by
  intro a0 s t f hf h; unfold execVsubsat vecForm slotGo at h
  refine State.keepsBut_slotRun hf h (fun _ h => h.drawsOnly) ?_
  exact State.drawsOnly_resultV _ _ _ _ _ _
theorem execVmulhi_regs : ∀ a0 s t f, s.focus = some f → execVmulhi a0 s = .next t → s.drawsOnly f t := by
  intro a0 s t f hf h; unfold execVmulhi vecForm slotGo at h
  refine State.keepsBut_slotRun hf h (fun _ h => h.drawsOnly) ?_
  exact State.drawsOnly_resultV _ _ _ _ _ _
theorem execVand_regs : ∀ a0 s t f, s.focus = some f → execVand a0 s = .next t → s.drawsOnly f t := by
  intro a0 s t f hf h; unfold execVand vecForm slotGo at h
  refine State.keepsBut_slotRun hf h (fun _ h => h.drawsOnly) ?_
  exact State.drawsOnly_resultV _ _ _ _ _ _
theorem execVor_regs : ∀ a0 s t f, s.focus = some f → execVor a0 s = .next t → s.drawsOnly f t := by
  intro a0 s t f hf h; unfold execVor vecForm slotGo at h
  refine State.keepsBut_slotRun hf h (fun _ h => h.drawsOnly) ?_
  exact State.drawsOnly_resultV _ _ _ _ _ _
theorem execVxor_regs : ∀ a0 s t f, s.focus = some f → execVxor a0 s = .next t → s.drawsOnly f t := by
  intro a0 s t f hf h; unfold execVxor vecForm slotGo at h
  refine State.keepsBut_slotRun hf h (fun _ h => h.drawsOnly) ?_
  exact State.drawsOnly_resultV _ _ _ _ _ _
theorem execVnot_regs : ∀ a0 s t f, s.focus = some f → execVnot a0 s = .next t → s.drawsOnly f t := by
  intro a0 s t f hf h; unfold execVnot vecForm slotGo at h
  refine State.keepsBut_slotRun hf h (fun _ h => h.drawsOnly) ?_
  exact State.drawsOnly_resultV _ _ _ _ _ _
theorem execVshl_regs : ∀ a0 s t f, s.focus = some f → execVshl a0 s = .next t → s.drawsOnly f t := by
  intro a0 s t f hf h; unfold execVshl vecForm slotGo at h
  refine State.keepsBut_slotRun hf h (fun _ h => h.drawsOnly) ?_
  exact State.drawsOnly_resultV _ _ _ _ _ _
theorem execVshr_regs : ∀ a0 s t f, s.focus = some f → execVshr a0 s = .next t → s.drawsOnly f t := by
  intro a0 s t f hf h; unfold execVshr vecForm slotGo at h
  refine State.keepsBut_slotRun hf h (fun _ h => h.drawsOnly) ?_
  exact State.drawsOnly_resultV _ _ _ _ _ _
theorem execVsra_regs : ∀ a0 s t f, s.focus = some f → execVsra a0 s = .next t → s.drawsOnly f t := by
  intro a0 s t f hf h; unfold execVsra vecForm slotGo at h
  refine State.keepsBut_slotRun hf h (fun _ h => h.drawsOnly) ?_
  exact State.drawsOnly_resultV _ _ _ _ _ _
theorem execVcmp_regs : ∀ a0 s t f, s.focus = some f → execVcmp a0 s = .next t → s.drawsOnly f t := by
  intro a0 s t f hf h; unfold execVcmp maskForm slotGo at h
  refine State.keepsBut_slotRun hf h (fun _ h => h.drawsOnly) ?_
  refine State.sameRegs.drawsOnly ?_
  (try dsimp only [State.resultY, State.badSkip]); (repeat' split) <;> simp
theorem execVsel_regs : ∀ a0 s t f, s.focus = some f → execVsel a0 s = .next t → s.drawsOnly f t := by
  intro a0 s t f hf h; unfold execVsel vecForm slotGo at h
  refine State.keepsBut_slotRun hf h (fun _ h => h.drawsOnly) ?_
  exact State.drawsOnly_resultV _ _ _ _ _ _
theorem execMand_regs : ∀ a0 s t f, s.focus = some f → execMand a0 s = .next t → s.drawsOnly f t := by
  intro a0 s t f hf h; unfold execMand maskForm slotGo at h
  refine State.keepsBut_slotRun hf h (fun _ h => h.drawsOnly) ?_
  refine State.sameRegs.drawsOnly ?_
  (try dsimp only [State.resultY, State.badSkip]); (repeat' split) <;> simp
theorem execMor_regs : ∀ a0 s t f, s.focus = some f → execMor a0 s = .next t → s.drawsOnly f t := by
  intro a0 s t f hf h; unfold execMor maskForm slotGo at h
  refine State.keepsBut_slotRun hf h (fun _ h => h.drawsOnly) ?_
  refine State.sameRegs.drawsOnly ?_
  (try dsimp only [State.resultY, State.badSkip]); (repeat' split) <;> simp
theorem execMxor_regs : ∀ a0 s t f, s.focus = some f → execMxor a0 s = .next t → s.drawsOnly f t := by
  intro a0 s t f hf h; unfold execMxor maskForm slotGo at h
  refine State.keepsBut_slotRun hf h (fun _ h => h.drawsOnly) ?_
  refine State.sameRegs.drawsOnly ?_
  (try dsimp only [State.resultY, State.badSkip]); (repeat' split) <;> simp
theorem execMnot_regs : ∀ a0 s t f, s.focus = some f → execMnot a0 s = .next t → s.drawsOnly f t := by
  intro a0 s t f hf h; unfold execMnot maskForm slotGo at h
  refine State.keepsBut_slotRun hf h (fun _ h => h.drawsOnly) ?_
  refine State.sameRegs.drawsOnly ?_
  (try dsimp only [State.resultY, State.badSkip]); (repeat' split) <;> simp
theorem execMpop_regs : ∀ a0 s t f, s.focus = some f → execMpop a0 s = .next t → s.drawsOnly f t := by
  intro a0 s t f hf h; unfold execMpop slotGo at h
  refine State.keepsBut_slotRun hf h (fun _ h => h.drawsOnly) ?_
  refine State.sameRegs.drawsOnly ?_
  (try dsimp only [State.resultY, State.badSkip]); (repeat' split) <;> simp
theorem execMfirst_regs : ∀ a0 s t f, s.focus = some f → execMfirst a0 s = .next t → s.drawsOnly f t := by
  intro a0 s t f hf h; unfold execMfirst slotGo at h
  refine State.keepsBut_slotRun hf h (fun _ h => h.drawsOnly) ?_
  refine State.sameRegs.drawsOnly ?_
  (try dsimp only [State.resultY, State.badSkip]); (repeat' split) <;> simp
theorem execVcvt_regs : ∀ a0 s t f, s.focus = some f → execVcvt a0 s = .next t → s.drawsOnly f t := by
  intro a0 s t f hf h; unfold execVcvt vecForm slotGo at h
  refine State.keepsBut_slotRun hf h (fun _ h => h.drawsOnly) ?_
  exact State.drawsOnly_resultV _ _ _ _ _ _
theorem execVnarrow_regs : ∀ a0 s t f, s.focus = some f → execVnarrow a0 s = .next t → s.drawsOnly f t := by
  intro a0 s t f hf h; unfold execVnarrow vecForm slotGo at h
  refine State.keepsBut_slotRun hf h (fun _ h => h.drawsOnly) ?_
  exact State.drawsOnly_resultV _ _ _ _ _ _
theorem execVwiden_regs : ∀ a0 s t f, s.focus = some f → execVwiden a0 s = .next t → s.drawsOnly f t := by
  intro a0 s t f hf h; unfold execVwiden vecForm slotGo at h
  refine State.keepsBut_slotRun hf h (fun _ h => h.drawsOnly) ?_
  exact State.drawsOnly_resultV _ _ _ _ _ _
theorem execVmxq_regs : ∀ a0 s t f, s.focus = some f → execVmxq a0 s = .next t → s.drawsOnly f t := by
  intro a0 s t f hf h; unfold execVmxq vecForm slotGo at h
  refine State.keepsBut_slotRun hf h (fun _ h => h.drawsOnly) ?_
  exact State.drawsOnly_resultV _ _ _ _ _ _
theorem execVmxd_regs : ∀ a0 s t f, s.focus = some f → execVmxd a0 s = .next t → s.drawsOnly f t := by
  intro a0 s t f hf h; unfold execVmxd vecForm slotGo at h
  refine State.keepsBut_slotRun hf h (fun _ h => h.drawsOnly) ?_
  exact State.drawsOnly_resultV _ _ _ _ _ _
theorem execVperm_regs : ∀ a0 s t f, s.focus = some f → execVperm a0 s = .next t → s.drawsOnly f t := by
  intro a0 s t f hf h; unfold execVperm vecForm slotGo at h
  refine State.keepsBut_slotRun hf h (fun _ h => h.drawsOnly) ?_
  exact State.drawsOnly_resultV _ _ _ _ _ _
theorem execVrot_regs : ∀ a0 s t f, s.focus = some f → execVrot a0 s = .next t → s.drawsOnly f t := by
  intro a0 s t f hf h; unfold execVrot vecForm slotGo at h
  refine State.keepsBut_slotRun hf h (fun _ h => h.drawsOnly) ?_
  exact State.drawsOnly_resultV _ _ _ _ _ _
theorem execVbcast_regs : ∀ a0 s t f, s.focus = some f → execVbcast a0 s = .next t → s.drawsOnly f t := by
  intro a0 s t f hf h; unfold execVbcast vecForm slotGo at h
  refine State.keepsBut_slotRun hf h (fun _ h => h.drawsOnly) ?_
  exact State.drawsOnly_resultV _ _ _ _ _ _
theorem execVslide_regs : ∀ a0 s t f, s.focus = some f → execVslide a0 s = .next t → s.drawsOnly f t := by
  intro a0 s t f hf h; unfold execVslide vecForm slotGo at h
  refine State.keepsBut_slotRun hf h (fun _ h => h.drawsOnly) ?_
  exact State.drawsOnly_resultV _ _ _ _ _ _
theorem execVzip_regs : ∀ a0 s t f, s.focus = some f → execVzip a0 s = .next t → s.drawsOnly f t := by
  intro a0 s t f hf h; unfold execVzip vecForm slotGo at h
  refine State.keepsBut_slotRun hf h (fun _ h => h.drawsOnly) ?_
  exact State.drawsOnly_resultV _ _ _ _ _ _
theorem execVunzip_regs : ∀ a0 s t f, s.focus = some f → execVunzip a0 s = .next t → s.drawsOnly f t := by
  intro a0 s t f hf h; unfold execVunzip vecForm slotGo at h
  refine State.keepsBut_slotRun hf h (fun _ h => h.drawsOnly) ?_
  exact State.drawsOnly_resultV _ _ _ _ _ _
theorem execViota_regs : ∀ a0 s t f, s.focus = some f → execViota a0 s = .next t → s.drawsOnly f t := by
  intro a0 s t f hf h; unfold execViota vecForm slotGo at h
  refine State.keepsBut_slotRun hf h (fun _ h => h.drawsOnly) ?_
  exact State.drawsOnly_resultV _ _ _ _ _ _
theorem execVredsum_regs : ∀ a0 s t f, s.focus = some f → execVredsum a0 s = .next t → s.drawsOnly f t := by
  intro a0 s t f hf h; unfold execVredsum vecForm slotGo at h
  refine State.keepsBut_slotRun hf h (fun _ h => h.drawsOnly) ?_
  exact State.drawsOnly_resultV _ _ _ _ _ _
theorem execVredmax_regs : ∀ a0 s t f, s.focus = some f → execVredmax a0 s = .next t → s.drawsOnly f t := by
  intro a0 s t f hf h; unfold execVredmax vecForm slotGo at h
  refine State.keepsBut_slotRun hf h (fun _ h => h.drawsOnly) ?_
  exact State.drawsOnly_resultV _ _ _ _ _ _
theorem execVredmin_regs : ∀ a0 s t f, s.focus = some f → execVredmin a0 s = .next t → s.drawsOnly f t := by
  intro a0 s t f hf h; unfold execVredmin vecForm slotGo at h
  refine State.keepsBut_slotRun hf h (fun _ h => h.drawsOnly) ?_
  exact State.drawsOnly_resultV _ _ _ _ _ _
theorem execVscan_regs : ∀ a0 s t f, s.focus = some f → execVscan a0 s = .next t → s.drawsOnly f t := by
  intro a0 s t f hf h; unfold execVscan vecForm slotGo at h
  refine State.keepsBut_slotRun hf h (fun _ h => h.drawsOnly) ?_
  exact State.drawsOnly_resultV _ _ _ _ _ _
theorem execVscanmax_regs : ∀ a0 s t f, s.focus = some f → execVscanmax a0 s = .next t → s.drawsOnly f t := by
  intro a0 s t f hf h; unfold execVscanmax vecForm slotGo at h
  refine State.keepsBut_slotRun hf h (fun _ h => h.drawsOnly) ?_
  exact State.drawsOnly_resultV _ _ _ _ _ _
theorem execVfill_regs : ∀ a0 s t f, s.focus = some f → execVfill a0 s = .next t → s.drawsOnly f t := by
  intro a0 s t f hf h; unfold execVfill slotGo at h
  refine State.keepsBut_slotRun hf h (fun _ h => h.drawsOnly) ?_
  exact State.drawsOnly_resultV _ _ _ _ _ _
theorem execVext_regs : ∀ a0 s t f, s.focus = some f → execVext a0 s = .next t → s.drawsOnly f t := by
  intro a0 s t f hf h; unfold execVext slotGo at h
  refine State.keepsBut_slotRun hf h (fun _ h => h.drawsOnly) ?_
  refine State.sameRegs.drawsOnly ?_
  (try dsimp only [State.resultY, State.badSkip]); (repeat' split) <;> simp
theorem execVins_regs : ∀ a0 s t f, s.focus = some f → execVins a0 s = .next t → s.drawsOnly f t := by
  intro a0 s t f hf h; unfold execVins slotGo at h
  refine State.keepsBut_slotRun hf h (fun _ h => h.drawsOnly) ?_
  exact State.drawsOnly_resultV _ _ _ _ _ _
theorem execVmov_regs : ∀ a0 s t f, s.focus = some f → execVmov a0 s = .next t → s.drawsOnly f t := by
  intro a0 s t f hf h; unfold execVmov vecForm slotGo at h
  refine State.keepsBut_slotRun hf h (fun _ h => h.drawsOnly) ?_
  exact State.drawsOnly_resultV _ _ _ _ _ _
theorem execVexp2_regs : ∀ a0 s t f, s.focus = some f → execVexp2 a0 s = .next t → s.drawsOnly f t := by
  intro a0 s t f hf h; unfold execVexp2 vecForm slotGo at h
  refine State.keepsBut_slotRun hf h (fun _ h => h.drawsOnly) ?_
  exact State.drawsOnly_resultV _ _ _ _ _ _
theorem execVlog2_regs : ∀ a0 s t f, s.focus = some f → execVlog2 a0 s = .next t → s.drawsOnly f t := by
  intro a0 s t f hf h; unfold execVlog2 vecForm slotGo at h
  refine State.keepsBut_slotRun hf h (fun _ h => h.drawsOnly) ?_
  exact State.drawsOnly_resultV _ _ _ _ _ _
theorem execVrcp_regs : ∀ a0 s t f, s.focus = some f → execVrcp a0 s = .next t → s.drawsOnly f t := by
  intro a0 s t f hf h; unfold execVrcp vecForm slotGo at h
  refine State.keepsBut_slotRun hf h (fun _ h => h.drawsOnly) ?_
  exact State.drawsOnly_resultV _ _ _ _ _ _
theorem execVrsqrt_regs : ∀ a0 s t f, s.focus = some f → execVrsqrt a0 s = .next t → s.drawsOnly f t := by
  intro a0 s t f hf h; unfold execVrsqrt vecForm slotGo at h
  refine State.keepsBut_slotRun hf h (fun _ h => h.drawsOnly) ?_
  exact State.drawsOnly_resultV _ _ _ _ _ _
theorem execVclass_regs : ∀ a0 s t f, s.focus = some f → execVclass a0 s = .next t → s.drawsOnly f t := by
  intro a0 s t f hf h; unfold execVclass vecForm slotGo at h
  refine State.keepsBut_slotRun hf h (fun _ h => h.drawsOnly) ?_
  exact State.drawsOnly_resultV _ _ _ _ _ _
theorem execVrank_regs : ∀ a0 s t f, s.focus = some f → execVrank a0 s = .next t → s.drawsOnly f t := by
  intro a0 s t f hf h; unfold execVrank slotGo at h
  refine State.keepsBut_slotRun hf h (fun _ h => h.drawsOnly) ?_
  refine State.sameRegs.drawsOnly ?_
  (try dsimp only [State.resultY, State.badSkip]); (repeat' split) <;> simp
theorem execVrecon_regs : ∀ a0 s t f, s.focus = some f → execVrecon a0 s = .next t → s.drawsOnly f t := by
  intro a0 s t f hf h; unfold execVrecon slotGo at h
  refine State.keepsBut_slotRun hf h (fun _ h => h.drawsOnly) ?_
  exact State.drawsOnly_resultV _ _ _ _ _ _
theorem execVrtab_regs : ∀ a0 s t f, s.focus = some f → execVrtab a0 s = .next t → s.drawsOnly f t := by
  intro a0 s t f hf h; unfold execVrtab slotGo at h
  refine State.keepsBut_slotRun hf h (fun _ h => h.drawsOnly) ?_
  refine State.sameRegs.drawsOnly ?_
  (try dsimp only [State.resultY, State.badSkip]); (repeat' split) <;> simp
theorem execMcfg_regs : ∀ a0 s t f, s.focus = some f → execMcfg a0 s = .next t → s.drawsOnly f t := by
  intro a0 s t f hf h; unfold execMcfg matSlot at h
  refine State.keepsBut_slotRun hf h (fun _ h => h.drawsOnly) ?_
  refine State.sameRegs.drawsOnly ?_
  (try dsimp only [State.resultY, State.badSkip]); repeat' (with_reducible first | exact State.sameRegs.refl _ | assumption | refine State.sameRegs_raise ?_ | refine State.sameRegs_addResult ?_ | refine State.sameRegs_result ?_ | refine State.sameRegs_resultX ?_ | refine State.sameRegs_resultS ?_ | refine State.sameRegs_addAccess ?_ | refine State.sameRegs_withhold ?_ | refine State.sameRegs_haltMid ?_ | refine State.sameRegs_load ?_ | refine State.sameRegs_storeAt ?_ | refine State.sameRegs_storeW ?_ | refine State.sameRegs_jumpTo ?_ | refine State.sameRegs_branch ?_ | refine State.sameRegs_matEnter ?_ | refine State.sameRegs_modFace ?_ | refine State.sameRegs_setArr ?_ | refine State.sameRegs_setFfmt ?_ | refine State.sameRegs_planEnter ?_ | refine State.sameRegs_enqueue ?_ | refine State.sameRegs_tickFree ?_ | refine State.sameRegs_sendOpen ?_ | refine State.sameRegs_stamp ?_ | refine State.sameRegs_noteSent ?_ | refine State.sameRegs_takeEntry ?_ | refine State.sameRegs_sendReq ?_ | refine State.sameRegs_modFocus ?_ | refine State.sameRegs_block ?_ | refine State.sameRegs_tryArrive ?_ | refine State.sameRegs_tryLock ?_ | refine State.sameRegs_wakeOn ?_ | refine State.sameRegs_retryLocks ?_ | refine State.sameRegs_addHaul ?_ | refine State.sameRegs_fbRead ?_ | refine State.sameRegs_fbUpdate ?_ | refine State.sameRegs_haulWait ?_ | refine State.sameRegs_haulUpdate ?_ | refine State.sameRegs_matRun (fun _ _ => ?_) ?_ | refine State.sameRegs_watched (fun _ _ => ?_) ?_ | refine State.sameRegs_modLc ?_ | refine State.sameRegs_modCore' (Core.giveBanks_ctxs _ _ _ _) ?_ | refine State.sameRegs_modCtx (fun _ => Ctx.sameRegs.refl _) ?_ | refine State.sameRegs_modCore' rfl ?_ | refine State.sameRegs_outside (t := s) rfl ?_ | split | dsimp only [id])
theorem execMwld_regs : ∀ a0 s t f, s.focus = some f → execMwld a0 s = .next t → s.drawsOnly f t := by
  intro a0 s t f hf h; unfold execMwld matSlot at h
  refine State.keepsBut_slotRun hf h (fun _ h => h.drawsOnly) ?_
  refine State.sameRegs.drawsOnly ?_
  (try dsimp only [State.resultY, State.badSkip]); repeat' (with_reducible first | exact State.sameRegs.refl _ | assumption | refine State.sameRegs_raise ?_ | refine State.sameRegs_addResult ?_ | refine State.sameRegs_result ?_ | refine State.sameRegs_resultX ?_ | refine State.sameRegs_resultS ?_ | refine State.sameRegs_addAccess ?_ | refine State.sameRegs_withhold ?_ | refine State.sameRegs_haltMid ?_ | refine State.sameRegs_load ?_ | refine State.sameRegs_storeAt ?_ | refine State.sameRegs_storeW ?_ | refine State.sameRegs_jumpTo ?_ | refine State.sameRegs_branch ?_ | refine State.sameRegs_matEnter ?_ | refine State.sameRegs_modFace ?_ | refine State.sameRegs_setArr ?_ | refine State.sameRegs_setFfmt ?_ | refine State.sameRegs_planEnter ?_ | refine State.sameRegs_enqueue ?_ | refine State.sameRegs_tickFree ?_ | refine State.sameRegs_sendOpen ?_ | refine State.sameRegs_stamp ?_ | refine State.sameRegs_noteSent ?_ | refine State.sameRegs_takeEntry ?_ | refine State.sameRegs_sendReq ?_ | refine State.sameRegs_modFocus ?_ | refine State.sameRegs_block ?_ | refine State.sameRegs_tryArrive ?_ | refine State.sameRegs_tryLock ?_ | refine State.sameRegs_wakeOn ?_ | refine State.sameRegs_retryLocks ?_ | refine State.sameRegs_addHaul ?_ | refine State.sameRegs_fbRead ?_ | refine State.sameRegs_fbUpdate ?_ | refine State.sameRegs_haulWait ?_ | refine State.sameRegs_haulUpdate ?_ | refine State.sameRegs_matRun (fun _ _ => ?_) ?_ | refine State.sameRegs_watched (fun _ _ => ?_) ?_ | refine State.sameRegs_modLc ?_ | refine State.sameRegs_modCore' (Core.giveBanks_ctxs _ _ _ _) ?_ | refine State.sameRegs_modCtx (fun _ => Ctx.sameRegs.refl _) ?_ | refine State.sameRegs_modCore' rfl ?_ | refine State.sameRegs_outside (t := s) rfl ?_ | split | dsimp only [id])
theorem execMwbank_regs : ∀ a0 s t f, s.focus = some f → execMwbank a0 s = .next t → s.drawsOnly f t := by
  intro a0 s t f hf h; unfold execMwbank matSlot at h
  refine State.keepsBut_slotRun hf h (fun _ h => h.drawsOnly) ?_
  refine State.sameRegs.drawsOnly ?_
  (try dsimp only [State.resultY, State.badSkip]); repeat' (with_reducible first | exact State.sameRegs.refl _ | assumption | refine State.sameRegs_raise ?_ | refine State.sameRegs_addResult ?_ | refine State.sameRegs_result ?_ | refine State.sameRegs_resultX ?_ | refine State.sameRegs_resultS ?_ | refine State.sameRegs_addAccess ?_ | refine State.sameRegs_withhold ?_ | refine State.sameRegs_haltMid ?_ | refine State.sameRegs_load ?_ | refine State.sameRegs_storeAt ?_ | refine State.sameRegs_storeW ?_ | refine State.sameRegs_jumpTo ?_ | refine State.sameRegs_branch ?_ | refine State.sameRegs_matEnter ?_ | refine State.sameRegs_modFace ?_ | refine State.sameRegs_setArr ?_ | refine State.sameRegs_setFfmt ?_ | refine State.sameRegs_planEnter ?_ | refine State.sameRegs_enqueue ?_ | refine State.sameRegs_tickFree ?_ | refine State.sameRegs_sendOpen ?_ | refine State.sameRegs_stamp ?_ | refine State.sameRegs_noteSent ?_ | refine State.sameRegs_takeEntry ?_ | refine State.sameRegs_sendReq ?_ | refine State.sameRegs_modFocus ?_ | refine State.sameRegs_block ?_ | refine State.sameRegs_tryArrive ?_ | refine State.sameRegs_tryLock ?_ | refine State.sameRegs_wakeOn ?_ | refine State.sameRegs_retryLocks ?_ | refine State.sameRegs_addHaul ?_ | refine State.sameRegs_fbRead ?_ | refine State.sameRegs_fbUpdate ?_ | refine State.sameRegs_haulWait ?_ | refine State.sameRegs_haulUpdate ?_ | refine State.sameRegs_matRun (fun _ _ => ?_) ?_ | refine State.sameRegs_watched (fun _ _ => ?_) ?_ | refine State.sameRegs_modLc ?_ | refine State.sameRegs_modCore' (Core.giveBanks_ctxs _ _ _ _) ?_ | refine State.sameRegs_modCtx (fun _ => Ctx.sameRegs.refl _) ?_ | refine State.sameRegs_modCore' rfl ?_ | refine State.sameRegs_outside (t := s) rfl ?_ | split | dsimp only [id])
theorem execMsc_regs : ∀ a0 s t f, s.focus = some f → execMsc a0 s = .next t → s.drawsOnly f t := by
  intro a0 s t f hf h; unfold execMsc matSlot at h
  refine State.keepsBut_slotRun hf h (fun _ h => h.drawsOnly) ?_
  refine State.sameRegs.drawsOnly ?_
  (try dsimp only [State.resultY, State.badSkip]); repeat' (with_reducible first | exact State.sameRegs.refl _ | assumption | refine State.sameRegs_raise ?_ | refine State.sameRegs_addResult ?_ | refine State.sameRegs_result ?_ | refine State.sameRegs_resultX ?_ | refine State.sameRegs_resultS ?_ | refine State.sameRegs_addAccess ?_ | refine State.sameRegs_withhold ?_ | refine State.sameRegs_haltMid ?_ | refine State.sameRegs_load ?_ | refine State.sameRegs_storeAt ?_ | refine State.sameRegs_storeW ?_ | refine State.sameRegs_jumpTo ?_ | refine State.sameRegs_branch ?_ | refine State.sameRegs_matEnter ?_ | refine State.sameRegs_modFace ?_ | refine State.sameRegs_setArr ?_ | refine State.sameRegs_setFfmt ?_ | refine State.sameRegs_planEnter ?_ | refine State.sameRegs_enqueue ?_ | refine State.sameRegs_tickFree ?_ | refine State.sameRegs_sendOpen ?_ | refine State.sameRegs_stamp ?_ | refine State.sameRegs_noteSent ?_ | refine State.sameRegs_takeEntry ?_ | refine State.sameRegs_sendReq ?_ | refine State.sameRegs_modFocus ?_ | refine State.sameRegs_block ?_ | refine State.sameRegs_tryArrive ?_ | refine State.sameRegs_tryLock ?_ | refine State.sameRegs_wakeOn ?_ | refine State.sameRegs_retryLocks ?_ | refine State.sameRegs_addHaul ?_ | refine State.sameRegs_fbRead ?_ | refine State.sameRegs_fbUpdate ?_ | refine State.sameRegs_haulWait ?_ | refine State.sameRegs_haulUpdate ?_ | refine State.sameRegs_matRun (fun _ _ => ?_) ?_ | refine State.sameRegs_watched (fun _ _ => ?_) ?_ | refine State.sameRegs_modLc ?_ | refine State.sameRegs_modCore' (Core.giveBanks_ctxs _ _ _ _) ?_ | refine State.sameRegs_modCtx (fun _ => Ctx.sameRegs.refl _) ?_ | refine State.sameRegs_modCore' rfl ?_ | refine State.sameRegs_outside (t := s) rfl ?_ | split | dsimp only [id])
theorem execMma_regs : ∀ a0 s t f, s.focus = some f → execMma a0 s = .next t → s.drawsOnly f t := by
  intro a0 s t f hf h; unfold execMma matSlot at h
  refine State.keepsBut_slotRun hf h (fun _ h => h.drawsOnly) ?_
  refine State.sameRegs.drawsOnly ?_
  (try dsimp only [State.resultY, State.badSkip]); (repeat' split) <;> simp
theorem execMmaR_regs : ∀ a0 s t f, s.focus = some f → execMmaR a0 s = .next t → s.drawsOnly f t := by
  intro a0 s t f hf h; unfold execMmaR matSlot at h
  refine State.keepsBut_slotRun hf h (fun _ h => h.drawsOnly) ?_
  refine State.sameRegs.drawsOnly ?_
  (try dsimp only [State.resultY, State.badSkip]); (repeat' split) <;> simp
theorem execMmaT_regs : ∀ a0 s t f, s.focus = some f → execMmaT a0 s = .next t → s.drawsOnly f t := by
  intro a0 s t f hf h; unfold execMmaT matSlot at h
  refine State.keepsBut_slotRun hf h (fun _ h => h.drawsOnly) ?_
  refine State.sameRegs.drawsOnly ?_
  (try dsimp only [State.resultY, State.badSkip]); (repeat' split) <;> simp
theorem execMmr_regs : ∀ a0 s t f, s.focus = some f → execMmr a0 s = .next t → s.drawsOnly f t := by
  intro a0 s t f hf h; unfold execMmr matSlot at h
  refine State.keepsBut_slotRun hf h (fun _ h => h.drawsOnly) ?_
  refine State.sameRegs.drawsOnly ?_
  (try dsimp only [State.resultY, State.badSkip]); (repeat' split) <;> simp
theorem execMatt_regs : ∀ a0 s t f, s.focus = some f → execMatt a0 s = .next t → s.drawsOnly f t := by
  intro a0 s t f hf h; unfold execMatt matSlot at h
  refine State.keepsBut_slotRun hf h (fun _ h => h.drawsOnly) ?_
  refine State.sameRegs.drawsOnly ?_
  (try dsimp only [State.resultY, State.badSkip]); repeat' (with_reducible first | exact State.sameRegs.refl _ | assumption | refine State.sameRegs_raise ?_ | refine State.sameRegs_addResult ?_ | refine State.sameRegs_result ?_ | refine State.sameRegs_resultX ?_ | refine State.sameRegs_resultS ?_ | refine State.sameRegs_addAccess ?_ | refine State.sameRegs_withhold ?_ | refine State.sameRegs_haltMid ?_ | refine State.sameRegs_load ?_ | refine State.sameRegs_storeAt ?_ | refine State.sameRegs_storeW ?_ | refine State.sameRegs_jumpTo ?_ | refine State.sameRegs_branch ?_ | refine State.sameRegs_matEnter ?_ | refine State.sameRegs_modFace ?_ | refine State.sameRegs_setArr ?_ | refine State.sameRegs_setFfmt ?_ | refine State.sameRegs_planEnter ?_ | refine State.sameRegs_enqueue ?_ | refine State.sameRegs_tickFree ?_ | refine State.sameRegs_sendOpen ?_ | refine State.sameRegs_stamp ?_ | refine State.sameRegs_noteSent ?_ | refine State.sameRegs_takeEntry ?_ | refine State.sameRegs_sendReq ?_ | refine State.sameRegs_modFocus ?_ | refine State.sameRegs_block ?_ | refine State.sameRegs_tryArrive ?_ | refine State.sameRegs_tryLock ?_ | refine State.sameRegs_wakeOn ?_ | refine State.sameRegs_retryLocks ?_ | refine State.sameRegs_addHaul ?_ | refine State.sameRegs_fbRead ?_ | refine State.sameRegs_fbUpdate ?_ | refine State.sameRegs_haulWait ?_ | refine State.sameRegs_haulUpdate ?_ | refine State.sameRegs_matRun (fun _ _ => ?_) ?_ | refine State.sameRegs_watched (fun _ _ => ?_) ?_ | refine State.sameRegs_modLc ?_ | refine State.sameRegs_modCore' (Core.giveBanks_ctxs _ _ _ _) ?_ | refine State.sameRegs_modCtx (fun _ => Ctx.sameRegs.refl _) ?_ | refine State.sameRegs_modCore' rfl ?_ | refine State.sameRegs_outside (t := s) rfl ?_ | split | dsimp only [id])
theorem execMxt_regs : ∀ a0 s t f, s.focus = some f → execMxt a0 s = .next t → s.drawsOnly f t := by
  intro a0 s t f hf h; unfold execMxt matSlot at h
  refine State.keepsBut_slotRun hf h (fun _ h => h.drawsOnly) ?_
  refine State.sameRegs.drawsOnly ?_
  (try dsimp only [State.resultY, State.badSkip]); (repeat' split) <;> simp
theorem execMdr_regs : ∀ a0 s t f, s.focus = some f → execMdr a0 s = .next t → s.drawsOnly f t := by
  intro a0 s t f hf h; unfold execMdr matSlot at h
  refine State.keepsBut_slotRun hf h (fun _ h => h.drawsOnly) ?_
  unfold State.matRun; split
  · exact (State.sameRegs_backTrap (State.sameRegs_raise (.refl s))).drawsOnly
  · exact State.keepsBut.trans (State.keepsBut.trans (State.sameRegs_planEnter (.refl s)).drawsOnly (State.drawsOnly_mdrDrawn _ _ _))
      (State.sameRegs_backTrap (.refl _)).drawsOnly
theorem execMrel_regs : ∀ a0 s t f, s.focus = some f → execMrel a0 s = .next t → s.drawsOnly f t := by
  intro a0 s t f hf h; unfold execMrel matSlot at h
  refine State.keepsBut_slotRun hf h (fun _ h => h.drawsOnly) ?_
  refine State.sameRegs.drawsOnly ?_
  (try dsimp only [State.resultY, State.badSkip]); repeat' (with_reducible first | exact State.sameRegs.refl _ | assumption | refine State.sameRegs_raise ?_ | refine State.sameRegs_addResult ?_ | refine State.sameRegs_result ?_ | refine State.sameRegs_resultX ?_ | refine State.sameRegs_resultS ?_ | refine State.sameRegs_addAccess ?_ | refine State.sameRegs_withhold ?_ | refine State.sameRegs_haltMid ?_ | refine State.sameRegs_load ?_ | refine State.sameRegs_storeAt ?_ | refine State.sameRegs_storeW ?_ | refine State.sameRegs_jumpTo ?_ | refine State.sameRegs_branch ?_ | refine State.sameRegs_matEnter ?_ | refine State.sameRegs_modFace ?_ | refine State.sameRegs_setArr ?_ | refine State.sameRegs_setFfmt ?_ | refine State.sameRegs_planEnter ?_ | refine State.sameRegs_enqueue ?_ | refine State.sameRegs_tickFree ?_ | refine State.sameRegs_sendOpen ?_ | refine State.sameRegs_stamp ?_ | refine State.sameRegs_noteSent ?_ | refine State.sameRegs_takeEntry ?_ | refine State.sameRegs_sendReq ?_ | refine State.sameRegs_modFocus ?_ | refine State.sameRegs_block ?_ | refine State.sameRegs_tryArrive ?_ | refine State.sameRegs_tryLock ?_ | refine State.sameRegs_wakeOn ?_ | refine State.sameRegs_retryLocks ?_ | refine State.sameRegs_addHaul ?_ | refine State.sameRegs_fbRead ?_ | refine State.sameRegs_fbUpdate ?_ | refine State.sameRegs_haulWait ?_ | refine State.sameRegs_haulUpdate ?_ | refine State.sameRegs_matRun (fun _ _ => ?_) ?_ | refine State.sameRegs_watched (fun _ _ => ?_) ?_ | refine State.sameRegs_modLc ?_ | refine State.sameRegs_modCore' (Core.giveBanks_ctxs _ _ _ _) ?_ | refine State.sameRegs_modCtx (fun _ => Ctx.sameRegs.refl _) ?_ | refine State.sameRegs_modCore' rfl ?_ | refine State.sameRegs_outside (t := s) rfl ?_ | split | dsimp only [id])
theorem execVld_regs : ∀ a0 s t f, s.focus = some f → execVld a0 s = .next t → s.sameRegs t := by
  intro a0 s t f hf h; unfold execVld slotGo at h
  refine State.sameRegs_slotRun h fun f hf => ?_
  (try dsimp only [State.resultY, State.badSkip]); (repeat' split) <;> simp
theorem execVldb_regs : ∀ a0 s t f, s.focus = some f → execVldb a0 s = .next t → s.sameRegs t := by
  intro a0 s t f hf h; unfold execVldb slotGo at h
  refine State.sameRegs_slotRun h fun f hf => ?_
  (try dsimp only [State.resultY, State.badSkip]); (repeat' split) <;> simp
theorem execVlds_regs : ∀ a0 s t f, s.focus = some f → execVlds a0 s = .next t → s.sameRegs t := by
  intro a0 s t f hf h; unfold execVlds slotGo at h
  refine State.sameRegs_slotRun h fun f hf => ?_
  (try dsimp only [State.resultY, State.badSkip]); (repeat' split) <;> simp
theorem execVldm_regs : ∀ a0 s t f, s.focus = some f → execVldm a0 s = .next t → s.sameRegs t := by
  intro a0 s t f hf h; unfold execVldm slotGo at h
  refine State.sameRegs_slotRun h fun f hf => ?_
  (try dsimp only [State.resultY, State.badSkip]); (repeat' split) <;> simp
theorem execVldh_regs : ∀ a0 s t f, s.focus = some f → execVldh a0 s = .next t → s.sameRegs t := by
  intro a0 s t f hf h; unfold execVldh slotGo at h
  refine State.sameRegs_slotRun h fun f hf => ?_
  (try dsimp only [State.resultY, State.badSkip]); (repeat' split) <;> simp
theorem execLdtag_regs : ∀ a0 s t f, s.focus = some f → execLdtag a0 s = .next t → s.sameRegs t := by
  intro a0 s t f hf h; unfold execLdtag slotGo at h
  refine State.sameRegs_slotRun h fun f hf => ?_
  (try dsimp only [State.resultY, State.badSkip]); (repeat' split) <;> simp
theorem execVst_regs : ∀ a0 s t f, s.focus = some f → execVst a0 s = .next t → s.sameRegs t := by
  intro a0 s t f hf h; unfold execVst slotGo at h
  refine State.sameRegs_slotRun h fun f hf => ?_
  (try dsimp only [State.resultY, State.badSkip]); (repeat' split) <;> simp
theorem execVstm_regs : ∀ a0 s t f, s.focus = some f → execVstm a0 s = .next t → s.sameRegs t := by
  intro a0 s t f hf h; unfold execVstm slotGo at h
  refine State.sameRegs_slotRun h fun f hf => ?_
  (try dsimp only [State.resultY, State.badSkip]); (repeat' split) <;> simp
theorem execVsts_regs : ∀ a0 s t f, s.focus = some f → execVsts a0 s = .next t → s.sameRegs t := by
  intro a0 s t f hf h; unfold execVsts slotGo at h
  refine State.sameRegs_slotRun h fun f hf => ?_
  (try dsimp only [State.resultY, State.badSkip]); (repeat' split) <;> simp
theorem execVsth_regs : ∀ a0 s t f, s.focus = some f → execVsth a0 s = .next t → s.sameRegs t := by
  intro a0 s t f hf h; unfold execVsth slotGo at h
  refine State.sameRegs_slotRun h fun f hf => ?_
  (try dsimp only [State.resultY, State.badSkip]); (repeat' split) <;> simp
theorem execTzero_regs : ∀ a0 s t f, s.focus = some f → execTzero a0 s = .next t → s.sameRegs t := by
  intro a0 s t f hf h; unfold execTzero slotGo at h
  refine State.sameRegs_slotRun h fun f hf => ?_
  (try dsimp only [State.resultY, State.badSkip]); (repeat' split) <;> simp
theorem execAmo_regs : ∀ a0 s t f, s.focus = some f → execAmo a0 s = .next t → s.sameRegs t := by
  intro a0 s t f hf h; unfold execAmo slotGo at h
  refine State.sameRegs_slotRun h fun f hf => ?_
  (try dsimp only [State.resultY, State.badSkip]); (repeat' split) <;> simp
theorem execAmoCas_regs : ∀ a0 s t f, s.focus = some f → execAmoCas a0 s = .next t → s.sameRegs t := by
  intro a0 s t f hf h; unfold execAmoCas slotGo at h
  refine State.sameRegs_slotRun h fun f hf => ?_
  (try dsimp only [State.resultY, State.badSkip]); (repeat' split) <;> simp
theorem execCp_regs : ∀ a0 s t f, s.focus = some f → execCp a0 s = .next t → s.sameRegs t := by
  intro a0 s t f hf h; unfold execCp copySlot at h
  refine State.sameRegs_slotRun h fun f hf => ?_
  (try dsimp only [State.resultY, State.badSkip]); (repeat' split) <;> simp
theorem execCpRed_regs : ∀ a0 s t f, s.focus = some f → execCpRed a0 s = .next t → s.sameRegs t := by
  intro a0 s t f hf h; unfold execCpRed copySlot at h
  refine State.sameRegs_slotRun h fun f hf => ?_
  (try dsimp only [State.resultY, State.badSkip]); (repeat' split) <;> simp
theorem execRwr_regs : ∀ a0 s t f, s.focus = some f → execRwr a0 s = .next t → s.sameRegs t := by
  intro a0 s t f hf h; unfold execRwr copySlot at h
  refine State.sameRegs_slotRun h fun f hf => ?_
  (try dsimp only [State.resultY, State.badSkip]); (repeat' split) <;> simp
theorem execRrd_regs : ∀ a0 s t f, s.focus = some f → execRrd a0 s = .next t → s.sameRegs t := by
  intro a0 s t f hf h; unfold execRrd copySlot at h
  refine State.sameRegs_slotRun h fun f hf => ?_
  (try dsimp only [State.resultY, State.badSkip]); (repeat' split) <;> simp
theorem execRamo_regs : ∀ a0 s t f, s.focus = some f → execRamo a0 s = .next t → s.sameRegs t := by
  intro a0 s t f hf h; unfold execRamo copySlot at h
  refine State.sameRegs_slotRun h fun f hf => ?_
  (try dsimp only [State.resultY, State.badSkip]); (repeat' split) <;> simp
theorem execXlat_regs : ∀ a0 s t f, s.focus = some f → execXlat a0 s = .next t → s.sameRegs t := by
  intro a0 s t f hf h; unfold execXlat copySlot at h
  refine State.sameRegs_slotRun h fun f hf => ?_
  (try dsimp only [State.resultY, State.badSkip]); repeat' (with_reducible first | exact State.sameRegs.refl _ | assumption | refine State.sameRegs_raise ?_ | refine State.sameRegs_addResult ?_ | refine State.sameRegs_result ?_ | refine State.sameRegs_resultX ?_ | refine State.sameRegs_resultS ?_ | refine State.sameRegs_addAccess ?_ | refine State.sameRegs_withhold ?_ | refine State.sameRegs_haltMid ?_ | refine State.sameRegs_load ?_ | refine State.sameRegs_storeAt ?_ | refine State.sameRegs_storeW ?_ | refine State.sameRegs_jumpTo ?_ | refine State.sameRegs_branch ?_ | refine State.sameRegs_matEnter ?_ | refine State.sameRegs_modFace ?_ | refine State.sameRegs_setArr ?_ | refine State.sameRegs_setFfmt ?_ | refine State.sameRegs_planEnter ?_ | refine State.sameRegs_enqueue ?_ | refine State.sameRegs_tickFree ?_ | refine State.sameRegs_sendOpen ?_ | refine State.sameRegs_stamp ?_ | refine State.sameRegs_noteSent ?_ | refine State.sameRegs_takeEntry ?_ | refine State.sameRegs_sendReq ?_ | refine State.sameRegs_modFocus ?_ | refine State.sameRegs_block ?_ | refine State.sameRegs_tryArrive ?_ | refine State.sameRegs_tryLock ?_ | refine State.sameRegs_wakeOn ?_ | refine State.sameRegs_retryLocks ?_ | refine State.sameRegs_addHaul ?_ | refine State.sameRegs_fbRead ?_ | refine State.sameRegs_fbUpdate ?_ | refine State.sameRegs_haulWait ?_ | refine State.sameRegs_haulUpdate ?_ | refine State.sameRegs_matRun (fun _ _ => ?_) ?_ | refine State.sameRegs_watched (fun _ _ => ?_) ?_ | refine State.sameRegs_modLc ?_ | refine State.sameRegs_modCore' (Core.giveBanks_ctxs _ _ _ _) ?_ | refine State.sameRegs_modCtx (fun _ => Ctx.sameRegs.refl _) ?_ | refine State.sameRegs_modCore' rfl ?_ | refine State.sameRegs_outside (t := s) rfl ?_ | split | dsimp only [id])
theorem execGld_regs : ∀ a0 s t f, s.focus = some f → execGld a0 s = .next t → s.sameRegs t := by
  intro a0 s t f hf h; unfold execGld copySlot at h
  refine State.sameRegs_slotRun h fun f hf => ?_
  (try dsimp only [State.resultY, State.badSkip]); (repeat' split) <;> simp
theorem execGst_regs : ∀ a0 s t f, s.focus = some f → execGst a0 s = .next t → s.sameRegs t := by
  intro a0 s t f hf h; unfold execGst copySlot at h
  refine State.sameRegs_slotRun h fun f hf => ?_
  (try dsimp only [State.resultY, State.badSkip]); repeat' (with_reducible first | exact State.sameRegs.refl _ | assumption | refine State.sameRegs_raise ?_ | refine State.sameRegs_addResult ?_ | refine State.sameRegs_result ?_ | refine State.sameRegs_resultX ?_ | refine State.sameRegs_resultS ?_ | refine State.sameRegs_addAccess ?_ | refine State.sameRegs_withhold ?_ | refine State.sameRegs_haltMid ?_ | refine State.sameRegs_load ?_ | refine State.sameRegs_storeAt ?_ | refine State.sameRegs_storeW ?_ | refine State.sameRegs_jumpTo ?_ | refine State.sameRegs_branch ?_ | refine State.sameRegs_matEnter ?_ | refine State.sameRegs_modFace ?_ | refine State.sameRegs_setArr ?_ | refine State.sameRegs_setFfmt ?_ | refine State.sameRegs_planEnter ?_ | refine State.sameRegs_enqueue ?_ | refine State.sameRegs_tickFree ?_ | refine State.sameRegs_sendOpen ?_ | refine State.sameRegs_stamp ?_ | refine State.sameRegs_noteSent ?_ | refine State.sameRegs_takeEntry ?_ | refine State.sameRegs_sendReq ?_ | refine State.sameRegs_modFocus ?_ | refine State.sameRegs_block ?_ | refine State.sameRegs_tryArrive ?_ | refine State.sameRegs_tryLock ?_ | refine State.sameRegs_wakeOn ?_ | refine State.sameRegs_retryLocks ?_ | refine State.sameRegs_addHaul ?_ | refine State.sameRegs_fbRead ?_ | refine State.sameRegs_fbUpdate ?_ | refine State.sameRegs_haulWait ?_ | refine State.sameRegs_haulUpdate ?_ | refine State.sameRegs_matRun (fun _ _ => ?_) ?_ | refine State.sameRegs_watched (fun _ _ => ?_) ?_ | refine State.sameRegs_modLc ?_ | refine State.sameRegs_modCore' (Core.giveBanks_ctxs _ _ _ _) ?_ | refine State.sameRegs_modCtx (fun _ => Ctx.sameRegs.refl _) ?_ | refine State.sameRegs_modCore' rfl ?_ | refine State.sameRegs_outside (t := s) rfl ?_ | split | dsimp only [id])
theorem execGatom_regs : ∀ a0 s t f, s.focus = some f → execGatom a0 s = .next t → s.sameRegs t := by
  intro a0 s t f hf h; unfold execGatom copySlot at h
  refine State.sameRegs_slotRun h fun f hf => ?_
  (try dsimp only [State.resultY, State.badSkip]); (repeat' split) <;> simp
theorem execMcast_regs : ∀ a0 s t f, s.focus = some f → execMcast a0 s = .next t → s.sameRegs t := by
  intro a0 s t f hf h; unfold execMcast copySlot at h
  refine State.sameRegs_slotRun h fun f hf => ?_
  (try dsimp only [State.resultY, State.badSkip]); repeat' (with_reducible first | exact State.sameRegs.refl _ | assumption | refine State.sameRegs_raise ?_ | refine State.sameRegs_addResult ?_ | refine State.sameRegs_result ?_ | refine State.sameRegs_resultX ?_ | refine State.sameRegs_resultS ?_ | refine State.sameRegs_addAccess ?_ | refine State.sameRegs_withhold ?_ | refine State.sameRegs_haltMid ?_ | refine State.sameRegs_load ?_ | refine State.sameRegs_storeAt ?_ | refine State.sameRegs_storeW ?_ | refine State.sameRegs_jumpTo ?_ | refine State.sameRegs_branch ?_ | refine State.sameRegs_matEnter ?_ | refine State.sameRegs_modFace ?_ | refine State.sameRegs_setArr ?_ | refine State.sameRegs_setFfmt ?_ | refine State.sameRegs_planEnter ?_ | refine State.sameRegs_enqueue ?_ | refine State.sameRegs_tickFree ?_ | refine State.sameRegs_sendOpen ?_ | refine State.sameRegs_stamp ?_ | refine State.sameRegs_noteSent ?_ | refine State.sameRegs_takeEntry ?_ | refine State.sameRegs_sendReq ?_ | refine State.sameRegs_modFocus ?_ | refine State.sameRegs_block ?_ | refine State.sameRegs_tryArrive ?_ | refine State.sameRegs_tryLock ?_ | refine State.sameRegs_wakeOn ?_ | refine State.sameRegs_retryLocks ?_ | refine State.sameRegs_addHaul ?_ | refine State.sameRegs_fbRead ?_ | refine State.sameRegs_fbUpdate ?_ | refine State.sameRegs_haulWait ?_ | refine State.sameRegs_haulUpdate ?_ | refine State.sameRegs_matRun (fun _ _ => ?_) ?_ | refine State.sameRegs_watched (fun _ _ => ?_) ?_ | refine State.sameRegs_modLc ?_ | refine State.sameRegs_modCore' (Core.giveBanks_ctxs _ _ _ _) ?_ | refine State.sameRegs_modCtx (fun _ => Ctx.sameRegs.refl _) ?_ | refine State.sameRegs_modCore' rfl ?_ | refine State.sameRegs_outside (t := s) rfl ?_ | split | dsimp only [id])
theorem execLnkRun_regs : ∀ a0 s t f, s.focus = some f → execLnkRun a0 s = .next t → s.sameRegs t := by
  intro a0 s t f hf h; unfold execLnkRun copySlot at h
  refine State.sameRegs_slotRun h fun f hf => ?_
  (try dsimp only [State.resultY, State.badSkip]); repeat' (with_reducible first | exact State.sameRegs.refl _ | assumption | refine State.sameRegs_raise ?_ | refine State.sameRegs_addResult ?_ | refine State.sameRegs_result ?_ | refine State.sameRegs_resultX ?_ | refine State.sameRegs_resultS ?_ | refine State.sameRegs_addAccess ?_ | refine State.sameRegs_withhold ?_ | refine State.sameRegs_haltMid ?_ | refine State.sameRegs_load ?_ | refine State.sameRegs_storeAt ?_ | refine State.sameRegs_storeW ?_ | refine State.sameRegs_jumpTo ?_ | refine State.sameRegs_branch ?_ | refine State.sameRegs_matEnter ?_ | refine State.sameRegs_modFace ?_ | refine State.sameRegs_setArr ?_ | refine State.sameRegs_setFfmt ?_ | refine State.sameRegs_planEnter ?_ | refine State.sameRegs_enqueue ?_ | refine State.sameRegs_tickFree ?_ | refine State.sameRegs_sendOpen ?_ | refine State.sameRegs_stamp ?_ | refine State.sameRegs_noteSent ?_ | refine State.sameRegs_takeEntry ?_ | refine State.sameRegs_sendReq ?_ | refine State.sameRegs_modFocus ?_ | refine State.sameRegs_block ?_ | refine State.sameRegs_tryArrive ?_ | refine State.sameRegs_tryLock ?_ | refine State.sameRegs_wakeOn ?_ | refine State.sameRegs_retryLocks ?_ | refine State.sameRegs_addHaul ?_ | refine State.sameRegs_fbRead ?_ | refine State.sameRegs_fbUpdate ?_ | refine State.sameRegs_haulWait ?_ | refine State.sameRegs_haulUpdate ?_ | refine State.sameRegs_matRun (fun _ _ => ?_) ?_ | refine State.sameRegs_watched (fun _ _ => ?_) ?_ | refine State.sameRegs_modLc ?_ | refine State.sameRegs_modCore' (Core.giveBanks_ctxs _ _ _ _) ?_ | refine State.sameRegs_modCtx (fun _ => Ctx.sameRegs.refl _) ?_ | refine State.sameRegs_modCore' rfl ?_ | refine State.sameRegs_outside (t := s) rfl ?_ | split | dsimp only [id])
theorem execLnkSel_regs : ∀ a0 s t f, s.focus = some f → execLnkSel a0 s = .next t → s.sameRegs t := by
  intro a0 s t f hf h; unfold execLnkSel copySlot at h
  refine State.sameRegs_slotRun h fun f hf => ?_
  (try dsimp only [State.resultY, State.badSkip]); repeat' (with_reducible first | exact State.sameRegs.refl _ | assumption | refine State.sameRegs_raise ?_ | refine State.sameRegs_addResult ?_ | refine State.sameRegs_result ?_ | refine State.sameRegs_resultX ?_ | refine State.sameRegs_resultS ?_ | refine State.sameRegs_addAccess ?_ | refine State.sameRegs_withhold ?_ | refine State.sameRegs_haltMid ?_ | refine State.sameRegs_load ?_ | refine State.sameRegs_storeAt ?_ | refine State.sameRegs_storeW ?_ | refine State.sameRegs_jumpTo ?_ | refine State.sameRegs_branch ?_ | refine State.sameRegs_matEnter ?_ | refine State.sameRegs_modFace ?_ | refine State.sameRegs_setArr ?_ | refine State.sameRegs_setFfmt ?_ | refine State.sameRegs_planEnter ?_ | refine State.sameRegs_enqueue ?_ | refine State.sameRegs_tickFree ?_ | refine State.sameRegs_sendOpen ?_ | refine State.sameRegs_stamp ?_ | refine State.sameRegs_noteSent ?_ | refine State.sameRegs_takeEntry ?_ | refine State.sameRegs_sendReq ?_ | refine State.sameRegs_modFocus ?_ | refine State.sameRegs_block ?_ | refine State.sameRegs_tryArrive ?_ | refine State.sameRegs_tryLock ?_ | refine State.sameRegs_wakeOn ?_ | refine State.sameRegs_retryLocks ?_ | refine State.sameRegs_addHaul ?_ | refine State.sameRegs_fbRead ?_ | refine State.sameRegs_fbUpdate ?_ | refine State.sameRegs_haulWait ?_ | refine State.sameRegs_haulUpdate ?_ | refine State.sameRegs_matRun (fun _ _ => ?_) ?_ | refine State.sameRegs_watched (fun _ _ => ?_) ?_ | refine State.sameRegs_modLc ?_ | refine State.sameRegs_modCore' (Core.giveBanks_ctxs _ _ _ _) ?_ | refine State.sameRegs_modCtx (fun _ => Ctx.sameRegs.refl _) ?_ | refine State.sameRegs_modCore' rfl ?_ | refine State.sameRegs_outside (t := s) rfl ?_ | split | dsimp only [id])

end Sys2Proof.Machine
end

