-- ==== Sys2Proof/Laws/Rows.lean ====
section
/-!
SUPPORT. What each row does to the memories (R53, R54, R167, R174): a slot form changes no byte, tag or poison mark; every other row keeps both memories in canonical form.
-/

set_option maxRecDepth 4000

namespace Sys2Proof.Machine

/-- The memories, the tile tags and the poison marks are the same data. -/
def State.memEq (s t : State) : Prop := t.mem = s.mem ∧ t.hostMem = s.hostMem ∧ t.tags = s.tags ∧ t.poison = s.poison
theorem slotRun_memEq {s t : State} {i : Instr} {name : String} {bad : Focus → Bool} {go : Focus → State} (h : slotRun i name s bad go = .next t)
    (hg : ∀ f, s.memEq (go f)) : s.memEq t := by
  obtain ⟨f, _, h | ⟨c, a, h⟩⟩ := slotRun_cases h
  · rw [h]; exact hg f
  · rw [h]; exact ⟨State.raise_mem .., State.raise_hostMem .., State.raise_tags .., State.raise_poison ..⟩
theorem execLui_memEq : ∀ a0 a1 s t, execLui a0 a1 s = .next t → s.memEq t := by
  intro a0 a1 s t h; unfold execLui at h
  unfold slotGo at h
  refine slotRun_memEq h fun f => ?_
  refine ⟨?_, ?_, ?_, ?_⟩ <;> (try dsimp only) <;> (repeat' split) <;> first | rfl | simp
theorem execAuipc_memEq : ∀ a0 a1 s t, execAuipc a0 a1 s = .next t → s.memEq t := by
  intro a0 a1 s t h; unfold execAuipc at h
  unfold slotGo at h
  refine slotRun_memEq h fun f => ?_
  refine ⟨?_, ?_, ?_, ?_⟩ <;> (try dsimp only) <;> (repeat' split) <;> first | rfl | simp
theorem execJal_memEq : ∀ a0 a1 s t, execJal a0 a1 s = .next t → s.memEq t := by
  intro a0 a1 s t h; unfold execJal at h
  unfold slotGo at h
  refine slotRun_memEq h fun f => ?_
  refine ⟨?_, ?_, ?_, ?_⟩ <;> (try dsimp only) <;> (repeat' split) <;> first | rfl | simp
theorem execJalr_memEq : ∀ a0 a1 a2 s t, execJalr a0 a1 a2 s = .next t → s.memEq t := by
  intro a0 a1 a2 s t h; unfold execJalr at h
  unfold slotGo at h
  refine slotRun_memEq h fun f => ?_
  refine ⟨?_, ?_, ?_, ?_⟩ <;> (try dsimp only) <;> (repeat' split) <;> first | rfl | simp
theorem execBeq_memEq : ∀ a0 a1 a2 s t, execBeq a0 a1 a2 s = .next t → s.memEq t := by
  intro a0 a1 a2 s t h; unfold execBeq at h
  unfold slotGo at h
  refine slotRun_memEq h fun f => ?_
  refine ⟨?_, ?_, ?_, ?_⟩ <;> (try dsimp only) <;> (repeat' split) <;> first | rfl | simp
theorem execBne_memEq : ∀ a0 a1 a2 s t, execBne a0 a1 a2 s = .next t → s.memEq t := by
  intro a0 a1 a2 s t h; unfold execBne at h
  unfold slotGo at h
  refine slotRun_memEq h fun f => ?_
  refine ⟨?_, ?_, ?_, ?_⟩ <;> (try dsimp only) <;> (repeat' split) <;> first | rfl | simp
theorem execBlt_memEq : ∀ a0 a1 a2 s t, execBlt a0 a1 a2 s = .next t → s.memEq t := by
  intro a0 a1 a2 s t h; unfold execBlt at h
  unfold slotGo at h
  refine slotRun_memEq h fun f => ?_
  refine ⟨?_, ?_, ?_, ?_⟩ <;> (try dsimp only) <;> (repeat' split) <;> first | rfl | simp
theorem execBge_memEq : ∀ a0 a1 a2 s t, execBge a0 a1 a2 s = .next t → s.memEq t := by
  intro a0 a1 a2 s t h; unfold execBge at h
  unfold slotGo at h
  refine slotRun_memEq h fun f => ?_
  refine ⟨?_, ?_, ?_, ?_⟩ <;> (try dsimp only) <;> (repeat' split) <;> first | rfl | simp
theorem execBltu_memEq : ∀ a0 a1 a2 s t, execBltu a0 a1 a2 s = .next t → s.memEq t := by
  intro a0 a1 a2 s t h; unfold execBltu at h
  unfold slotGo at h
  refine slotRun_memEq h fun f => ?_
  refine ⟨?_, ?_, ?_, ?_⟩ <;> (try dsimp only) <;> (repeat' split) <;> first | rfl | simp
theorem execBgeu_memEq : ∀ a0 a1 a2 s t, execBgeu a0 a1 a2 s = .next t → s.memEq t := by
  intro a0 a1 a2 s t h; unfold execBgeu at h
  unfold slotGo at h
  refine slotRun_memEq h fun f => ?_
  refine ⟨?_, ?_, ?_, ?_⟩ <;> (try dsimp only) <;> (repeat' split) <;> first | rfl | simp
theorem execAddi_memEq : ∀ a0 a1 a2 s t, execAddi a0 a1 a2 s = .next t → s.memEq t := by
  intro a0 a1 a2 s t h; unfold execAddi at h
  unfold slotGo at h
  refine slotRun_memEq h fun f => ?_
  refine ⟨?_, ?_, ?_, ?_⟩ <;> (try dsimp only) <;> (repeat' split) <;> first | rfl | simp
theorem execSlti_memEq : ∀ a0 a1 a2 s t, execSlti a0 a1 a2 s = .next t → s.memEq t := by
  intro a0 a1 a2 s t h; unfold execSlti at h
  unfold slotGo at h
  refine slotRun_memEq h fun f => ?_
  refine ⟨?_, ?_, ?_, ?_⟩ <;> (try dsimp only) <;> (repeat' split) <;> first | rfl | simp
theorem execSltiu_memEq : ∀ a0 a1 a2 s t, execSltiu a0 a1 a2 s = .next t → s.memEq t := by
  intro a0 a1 a2 s t h; unfold execSltiu at h
  unfold slotGo at h
  refine slotRun_memEq h fun f => ?_
  refine ⟨?_, ?_, ?_, ?_⟩ <;> (try dsimp only) <;> (repeat' split) <;> first | rfl | simp
theorem execXori_memEq : ∀ a0 a1 a2 s t, execXori a0 a1 a2 s = .next t → s.memEq t := by
  intro a0 a1 a2 s t h; unfold execXori at h
  unfold slotGo at h
  refine slotRun_memEq h fun f => ?_
  refine ⟨?_, ?_, ?_, ?_⟩ <;> (try dsimp only) <;> (repeat' split) <;> first | rfl | simp
theorem execOri_memEq : ∀ a0 a1 a2 s t, execOri a0 a1 a2 s = .next t → s.memEq t := by
  intro a0 a1 a2 s t h; unfold execOri at h
  unfold slotGo at h
  refine slotRun_memEq h fun f => ?_
  refine ⟨?_, ?_, ?_, ?_⟩ <;> (try dsimp only) <;> (repeat' split) <;> first | rfl | simp
theorem execAndi_memEq : ∀ a0 a1 a2 s t, execAndi a0 a1 a2 s = .next t → s.memEq t := by
  intro a0 a1 a2 s t h; unfold execAndi at h
  unfold slotGo at h
  refine slotRun_memEq h fun f => ?_
  refine ⟨?_, ?_, ?_, ?_⟩ <;> (try dsimp only) <;> (repeat' split) <;> first | rfl | simp
theorem execAddiw_memEq : ∀ a0 a1 a2 s t, execAddiw a0 a1 a2 s = .next t → s.memEq t := by
  intro a0 a1 a2 s t h; unfold execAddiw at h
  unfold slotGo at h
  refine slotRun_memEq h fun f => ?_
  refine ⟨?_, ?_, ?_, ?_⟩ <;> (try dsimp only) <;> (repeat' split) <;> first | rfl | simp
theorem execSlli_memEq : ∀ a0 a1 a2 s t, execSlli a0 a1 a2 s = .next t → s.memEq t := by
  intro a0 a1 a2 s t h; unfold execSlli at h
  unfold slotGo at h
  refine slotRun_memEq h fun f => ?_
  refine ⟨?_, ?_, ?_, ?_⟩ <;> (try dsimp only) <;> (repeat' split) <;> first | rfl | simp
theorem execSrli_memEq : ∀ a0 a1 a2 s t, execSrli a0 a1 a2 s = .next t → s.memEq t := by
  intro a0 a1 a2 s t h; unfold execSrli at h
  unfold slotGo at h
  refine slotRun_memEq h fun f => ?_
  refine ⟨?_, ?_, ?_, ?_⟩ <;> (try dsimp only) <;> (repeat' split) <;> first | rfl | simp
theorem execSrai_memEq : ∀ a0 a1 a2 s t, execSrai a0 a1 a2 s = .next t → s.memEq t := by
  intro a0 a1 a2 s t h; unfold execSrai at h
  unfold slotGo at h
  refine slotRun_memEq h fun f => ?_
  refine ⟨?_, ?_, ?_, ?_⟩ <;> (try dsimp only) <;> (repeat' split) <;> first | rfl | simp
theorem execSlliw_memEq : ∀ a0 a1 a2 s t, execSlliw a0 a1 a2 s = .next t → s.memEq t := by
  intro a0 a1 a2 s t h; unfold execSlliw at h
  unfold slotGo at h
  refine slotRun_memEq h fun f => ?_
  refine ⟨?_, ?_, ?_, ?_⟩ <;> (try dsimp only) <;> (repeat' split) <;> first | rfl | simp
theorem execSrliw_memEq : ∀ a0 a1 a2 s t, execSrliw a0 a1 a2 s = .next t → s.memEq t := by
  intro a0 a1 a2 s t h; unfold execSrliw at h
  unfold slotGo at h
  refine slotRun_memEq h fun f => ?_
  refine ⟨?_, ?_, ?_, ?_⟩ <;> (try dsimp only) <;> (repeat' split) <;> first | rfl | simp
theorem execSraiw_memEq : ∀ a0 a1 a2 s t, execSraiw a0 a1 a2 s = .next t → s.memEq t := by
  intro a0 a1 a2 s t h; unfold execSraiw at h
  unfold slotGo at h
  refine slotRun_memEq h fun f => ?_
  refine ⟨?_, ?_, ?_, ?_⟩ <;> (try dsimp only) <;> (repeat' split) <;> first | rfl | simp
theorem execAdd_memEq : ∀ a0 a1 a2 s t, execAdd a0 a1 a2 s = .next t → s.memEq t := by
  intro a0 a1 a2 s t h; unfold execAdd at h
  unfold slotGo at h
  refine slotRun_memEq h fun f => ?_
  refine ⟨?_, ?_, ?_, ?_⟩ <;> (try dsimp only) <;> (repeat' split) <;> first | rfl | simp
theorem execSub_memEq : ∀ a0 a1 a2 s t, execSub a0 a1 a2 s = .next t → s.memEq t := by
  intro a0 a1 a2 s t h; unfold execSub at h
  unfold slotGo at h
  refine slotRun_memEq h fun f => ?_
  refine ⟨?_, ?_, ?_, ?_⟩ <;> (try dsimp only) <;> (repeat' split) <;> first | rfl | simp
theorem execSll_memEq : ∀ a0 a1 a2 s t, execSll a0 a1 a2 s = .next t → s.memEq t := by
  intro a0 a1 a2 s t h; unfold execSll at h
  unfold slotGo at h
  refine slotRun_memEq h fun f => ?_
  refine ⟨?_, ?_, ?_, ?_⟩ <;> (try dsimp only) <;> (repeat' split) <;> first | rfl | simp
theorem execSlt_memEq : ∀ a0 a1 a2 s t, execSlt a0 a1 a2 s = .next t → s.memEq t := by
  intro a0 a1 a2 s t h; unfold execSlt at h
  unfold slotGo at h
  refine slotRun_memEq h fun f => ?_
  refine ⟨?_, ?_, ?_, ?_⟩ <;> (try dsimp only) <;> (repeat' split) <;> first | rfl | simp
theorem execSltu_memEq : ∀ a0 a1 a2 s t, execSltu a0 a1 a2 s = .next t → s.memEq t := by
  intro a0 a1 a2 s t h; unfold execSltu at h
  unfold slotGo at h
  refine slotRun_memEq h fun f => ?_
  refine ⟨?_, ?_, ?_, ?_⟩ <;> (try dsimp only) <;> (repeat' split) <;> first | rfl | simp
theorem execXorR_memEq : ∀ a0 a1 a2 s t, execXorR a0 a1 a2 s = .next t → s.memEq t := by
  intro a0 a1 a2 s t h; unfold execXorR at h
  unfold slotGo at h
  refine slotRun_memEq h fun f => ?_
  refine ⟨?_, ?_, ?_, ?_⟩ <;> (try dsimp only) <;> (repeat' split) <;> first | rfl | simp
theorem execSrl_memEq : ∀ a0 a1 a2 s t, execSrl a0 a1 a2 s = .next t → s.memEq t := by
  intro a0 a1 a2 s t h; unfold execSrl at h
  unfold slotGo at h
  refine slotRun_memEq h fun f => ?_
  refine ⟨?_, ?_, ?_, ?_⟩ <;> (try dsimp only) <;> (repeat' split) <;> first | rfl | simp
theorem execSra_memEq : ∀ a0 a1 a2 s t, execSra a0 a1 a2 s = .next t → s.memEq t := by
  intro a0 a1 a2 s t h; unfold execSra at h
  unfold slotGo at h
  refine slotRun_memEq h fun f => ?_
  refine ⟨?_, ?_, ?_, ?_⟩ <;> (try dsimp only) <;> (repeat' split) <;> first | rfl | simp
theorem execOrR_memEq : ∀ a0 a1 a2 s t, execOrR a0 a1 a2 s = .next t → s.memEq t := by
  intro a0 a1 a2 s t h; unfold execOrR at h
  unfold slotGo at h
  refine slotRun_memEq h fun f => ?_
  refine ⟨?_, ?_, ?_, ?_⟩ <;> (try dsimp only) <;> (repeat' split) <;> first | rfl | simp
theorem execAndR_memEq : ∀ a0 a1 a2 s t, execAndR a0 a1 a2 s = .next t → s.memEq t := by
  intro a0 a1 a2 s t h; unfold execAndR at h
  unfold slotGo at h
  refine slotRun_memEq h fun f => ?_
  refine ⟨?_, ?_, ?_, ?_⟩ <;> (try dsimp only) <;> (repeat' split) <;> first | rfl | simp
theorem execMul_memEq : ∀ a0 a1 a2 s t, execMul a0 a1 a2 s = .next t → s.memEq t := by
  intro a0 a1 a2 s t h; unfold execMul at h
  unfold slotGo at h
  refine slotRun_memEq h fun f => ?_
  refine ⟨?_, ?_, ?_, ?_⟩ <;> (try dsimp only) <;> (repeat' split) <;> first | rfl | simp
theorem execMulh_memEq : ∀ a0 a1 a2 s t, execMulh a0 a1 a2 s = .next t → s.memEq t := by
  intro a0 a1 a2 s t h; unfold execMulh at h
  unfold slotGo at h
  refine slotRun_memEq h fun f => ?_
  refine ⟨?_, ?_, ?_, ?_⟩ <;> (try dsimp only) <;> (repeat' split) <;> first | rfl | simp
theorem execMulhsu_memEq : ∀ a0 a1 a2 s t, execMulhsu a0 a1 a2 s = .next t → s.memEq t := by
  intro a0 a1 a2 s t h; unfold execMulhsu at h
  unfold slotGo at h
  refine slotRun_memEq h fun f => ?_
  refine ⟨?_, ?_, ?_, ?_⟩ <;> (try dsimp only) <;> (repeat' split) <;> first | rfl | simp
theorem execMulhu_memEq : ∀ a0 a1 a2 s t, execMulhu a0 a1 a2 s = .next t → s.memEq t := by
  intro a0 a1 a2 s t h; unfold execMulhu at h
  unfold slotGo at h
  refine slotRun_memEq h fun f => ?_
  refine ⟨?_, ?_, ?_, ?_⟩ <;> (try dsimp only) <;> (repeat' split) <;> first | rfl | simp
theorem execDiv_memEq : ∀ a0 a1 a2 s t, execDiv a0 a1 a2 s = .next t → s.memEq t := by
  intro a0 a1 a2 s t h; unfold execDiv at h
  unfold slotGo at h
  refine slotRun_memEq h fun f => ?_
  refine ⟨?_, ?_, ?_, ?_⟩ <;> (try dsimp only) <;> (repeat' split) <;> first | rfl | simp
theorem execDivu_memEq : ∀ a0 a1 a2 s t, execDivu a0 a1 a2 s = .next t → s.memEq t := by
  intro a0 a1 a2 s t h; unfold execDivu at h
  unfold slotGo at h
  refine slotRun_memEq h fun f => ?_
  refine ⟨?_, ?_, ?_, ?_⟩ <;> (try dsimp only) <;> (repeat' split) <;> first | rfl | simp
theorem execRem_memEq : ∀ a0 a1 a2 s t, execRem a0 a1 a2 s = .next t → s.memEq t := by
  intro a0 a1 a2 s t h; unfold execRem at h
  unfold slotGo at h
  refine slotRun_memEq h fun f => ?_
  refine ⟨?_, ?_, ?_, ?_⟩ <;> (try dsimp only) <;> (repeat' split) <;> first | rfl | simp
theorem execRemu_memEq : ∀ a0 a1 a2 s t, execRemu a0 a1 a2 s = .next t → s.memEq t := by
  intro a0 a1 a2 s t h; unfold execRemu at h
  unfold slotGo at h
  refine slotRun_memEq h fun f => ?_
  refine ⟨?_, ?_, ?_, ?_⟩ <;> (try dsimp only) <;> (repeat' split) <;> first | rfl | simp
theorem execAddw_memEq : ∀ a0 a1 a2 s t, execAddw a0 a1 a2 s = .next t → s.memEq t := by
  intro a0 a1 a2 s t h; unfold execAddw at h
  unfold slotGo at h
  refine slotRun_memEq h fun f => ?_
  refine ⟨?_, ?_, ?_, ?_⟩ <;> (try dsimp only) <;> (repeat' split) <;> first | rfl | simp
theorem execSubw_memEq : ∀ a0 a1 a2 s t, execSubw a0 a1 a2 s = .next t → s.memEq t := by
  intro a0 a1 a2 s t h; unfold execSubw at h
  unfold slotGo at h
  refine slotRun_memEq h fun f => ?_
  refine ⟨?_, ?_, ?_, ?_⟩ <;> (try dsimp only) <;> (repeat' split) <;> first | rfl | simp
theorem execSllw_memEq : ∀ a0 a1 a2 s t, execSllw a0 a1 a2 s = .next t → s.memEq t := by
  intro a0 a1 a2 s t h; unfold execSllw at h
  unfold slotGo at h
  refine slotRun_memEq h fun f => ?_
  refine ⟨?_, ?_, ?_, ?_⟩ <;> (try dsimp only) <;> (repeat' split) <;> first | rfl | simp
theorem execSrlw_memEq : ∀ a0 a1 a2 s t, execSrlw a0 a1 a2 s = .next t → s.memEq t := by
  intro a0 a1 a2 s t h; unfold execSrlw at h
  unfold slotGo at h
  refine slotRun_memEq h fun f => ?_
  refine ⟨?_, ?_, ?_, ?_⟩ <;> (try dsimp only) <;> (repeat' split) <;> first | rfl | simp
theorem execSraw_memEq : ∀ a0 a1 a2 s t, execSraw a0 a1 a2 s = .next t → s.memEq t := by
  intro a0 a1 a2 s t h; unfold execSraw at h
  unfold slotGo at h
  refine slotRun_memEq h fun f => ?_
  refine ⟨?_, ?_, ?_, ?_⟩ <;> (try dsimp only) <;> (repeat' split) <;> first | rfl | simp
theorem execMulw_memEq : ∀ a0 a1 a2 s t, execMulw a0 a1 a2 s = .next t → s.memEq t := by
  intro a0 a1 a2 s t h; unfold execMulw at h
  unfold slotGo at h
  refine slotRun_memEq h fun f => ?_
  refine ⟨?_, ?_, ?_, ?_⟩ <;> (try dsimp only) <;> (repeat' split) <;> first | rfl | simp
theorem execDivw_memEq : ∀ a0 a1 a2 s t, execDivw a0 a1 a2 s = .next t → s.memEq t := by
  intro a0 a1 a2 s t h; unfold execDivw at h
  unfold slotGo at h
  refine slotRun_memEq h fun f => ?_
  refine ⟨?_, ?_, ?_, ?_⟩ <;> (try dsimp only) <;> (repeat' split) <;> first | rfl | simp
theorem execDivuw_memEq : ∀ a0 a1 a2 s t, execDivuw a0 a1 a2 s = .next t → s.memEq t := by
  intro a0 a1 a2 s t h; unfold execDivuw at h
  unfold slotGo at h
  refine slotRun_memEq h fun f => ?_
  refine ⟨?_, ?_, ?_, ?_⟩ <;> (try dsimp only) <;> (repeat' split) <;> first | rfl | simp
theorem execRemw_memEq : ∀ a0 a1 a2 s t, execRemw a0 a1 a2 s = .next t → s.memEq t := by
  intro a0 a1 a2 s t h; unfold execRemw at h
  unfold slotGo at h
  refine slotRun_memEq h fun f => ?_
  refine ⟨?_, ?_, ?_, ?_⟩ <;> (try dsimp only) <;> (repeat' split) <;> first | rfl | simp
theorem execRemuw_memEq : ∀ a0 a1 a2 s t, execRemuw a0 a1 a2 s = .next t → s.memEq t := by
  intro a0 a1 a2 s t h; unfold execRemuw at h
  unfold slotGo at h
  refine slotRun_memEq h fun f => ?_
  refine ⟨?_, ?_, ?_, ?_⟩ <;> (try dsimp only) <;> (repeat' split) <;> first | rfl | simp
theorem execLb_memEq : ∀ a0 a1 a2 s t, execLb a0 a1 a2 s = .next t → s.memEq t := by
  intro a0 a1 a2 s t h; unfold execLb at h
  unfold scalarLoad slotGo at h
  refine slotRun_memEq h fun f => ?_
  refine ⟨?_, ?_, ?_, ?_⟩ <;> (try dsimp only) <;> (repeat' split) <;> first | rfl | simp
theorem execLh_memEq : ∀ a0 a1 a2 s t, execLh a0 a1 a2 s = .next t → s.memEq t := by
  intro a0 a1 a2 s t h; unfold execLh at h
  unfold scalarLoad slotGo at h
  refine slotRun_memEq h fun f => ?_
  refine ⟨?_, ?_, ?_, ?_⟩ <;> (try dsimp only) <;> (repeat' split) <;> first | rfl | simp
theorem execLw_memEq : ∀ a0 a1 a2 s t, execLw a0 a1 a2 s = .next t → s.memEq t := by
  intro a0 a1 a2 s t h; unfold execLw at h
  unfold scalarLoad slotGo at h
  refine slotRun_memEq h fun f => ?_
  refine ⟨?_, ?_, ?_, ?_⟩ <;> (try dsimp only) <;> (repeat' split) <;> first | rfl | simp
theorem execLdd_memEq : ∀ a0 a1 a2 s t, execLdd a0 a1 a2 s = .next t → s.memEq t := by
  intro a0 a1 a2 s t h; unfold execLdd at h
  unfold scalarLoad slotGo at h
  refine slotRun_memEq h fun f => ?_
  refine ⟨?_, ?_, ?_, ?_⟩ <;> (try dsimp only) <;> (repeat' split) <;> first | rfl | simp
theorem execLbu_memEq : ∀ a0 a1 a2 s t, execLbu a0 a1 a2 s = .next t → s.memEq t := by
  intro a0 a1 a2 s t h; unfold execLbu at h
  unfold scalarLoad slotGo at h
  refine slotRun_memEq h fun f => ?_
  refine ⟨?_, ?_, ?_, ?_⟩ <;> (try dsimp only) <;> (repeat' split) <;> first | rfl | simp
theorem execLhu_memEq : ∀ a0 a1 a2 s t, execLhu a0 a1 a2 s = .next t → s.memEq t := by
  intro a0 a1 a2 s t h; unfold execLhu at h
  unfold scalarLoad slotGo at h
  refine slotRun_memEq h fun f => ?_
  refine ⟨?_, ?_, ?_, ?_⟩ <;> (try dsimp only) <;> (repeat' split) <;> first | rfl | simp
theorem execLwu_memEq : ∀ a0 a1 a2 s t, execLwu a0 a1 a2 s = .next t → s.memEq t := by
  intro a0 a1 a2 s t h; unfold execLwu at h
  unfold scalarLoad slotGo at h
  refine slotRun_memEq h fun f => ?_
  refine ⟨?_, ?_, ?_, ?_⟩ <;> (try dsimp only) <;> (repeat' split) <;> first | rfl | simp
theorem execVld_memEq : ∀ a0 s t, execVld a0 s = .next t → s.memEq t := by
  intro a0 s t h; unfold execVld at h
  unfold slotGo at h
  refine slotRun_memEq h fun f => ?_
  refine ⟨?_, ?_, ?_, ?_⟩ <;> (try dsimp only) <;> (repeat' split) <;> first | rfl | simp
theorem execVldb_memEq : ∀ a0 s t, execVldb a0 s = .next t → s.memEq t := by
  intro a0 s t h; unfold execVldb at h
  unfold slotGo at h
  refine slotRun_memEq h fun f => ?_
  refine ⟨?_, ?_, ?_, ?_⟩ <;> (try dsimp only) <;> (repeat' split) <;> first | rfl | simp
theorem execVlds_memEq : ∀ a0 s t, execVlds a0 s = .next t → s.memEq t := by
  intro a0 s t h; unfold execVlds at h
  unfold slotGo at h
  refine slotRun_memEq h fun f => ?_
  refine ⟨?_, ?_, ?_, ?_⟩ <;> (try dsimp only) <;> (repeat' split) <;> first | rfl | simp
theorem execVldm_memEq : ∀ a0 s t, execVldm a0 s = .next t → s.memEq t := by
  intro a0 s t h; unfold execVldm at h
  unfold slotGo at h
  refine slotRun_memEq h fun f => ?_
  refine ⟨?_, ?_, ?_, ?_⟩ <;> (try dsimp only) <;> (repeat' split) <;> first | rfl | simp
theorem execVldh_memEq : ∀ a0 s t, execVldh a0 s = .next t → s.memEq t := by
  intro a0 s t h; unfold execVldh at h
  unfold slotGo at h
  refine slotRun_memEq h fun f => ?_
  refine ⟨?_, ?_, ?_, ?_⟩ <;> (try dsimp only) <;> (repeat' split) <;> first | rfl | simp
theorem execLdtag_memEq : ∀ a0 s t, execLdtag a0 s = .next t → s.memEq t := by
  intro a0 s t h; unfold execLdtag at h
  unfold slotGo at h
  refine slotRun_memEq h fun f => ?_
  refine ⟨?_, ?_, ?_, ?_⟩ <;> (try dsimp only) <;> (repeat' split) <;> first | rfl | simp
theorem execSb_memEq : ∀ a0 a1 a2 s t, execSb a0 a1 a2 s = .next t → s.memEq t := by
  intro a0 a1 a2 s t h; unfold execSb at h
  unfold scalarStore slotGo at h
  refine slotRun_memEq h fun f => ?_
  refine ⟨?_, ?_, ?_, ?_⟩ <;> (try dsimp only) <;> (repeat' split) <;> first | rfl | simp
theorem execShh_memEq : ∀ a0 a1 a2 s t, execShh a0 a1 a2 s = .next t → s.memEq t := by
  intro a0 a1 a2 s t h; unfold execShh at h
  unfold scalarStore slotGo at h
  refine slotRun_memEq h fun f => ?_
  refine ⟨?_, ?_, ?_, ?_⟩ <;> (try dsimp only) <;> (repeat' split) <;> first | rfl | simp
theorem execSw_memEq : ∀ a0 a1 a2 s t, execSw a0 a1 a2 s = .next t → s.memEq t := by
  intro a0 a1 a2 s t h; unfold execSw at h
  unfold scalarStore slotGo at h
  refine slotRun_memEq h fun f => ?_
  refine ⟨?_, ?_, ?_, ?_⟩ <;> (try dsimp only) <;> (repeat' split) <;> first | rfl | simp
theorem execSd_memEq : ∀ a0 a1 a2 s t, execSd a0 a1 a2 s = .next t → s.memEq t := by
  intro a0 a1 a2 s t h; unfold execSd at h
  unfold scalarStore slotGo at h
  refine slotRun_memEq h fun f => ?_
  refine ⟨?_, ?_, ?_, ?_⟩ <;> (try dsimp only) <;> (repeat' split) <;> first | rfl | simp
theorem execVst_memEq : ∀ a0 s t, execVst a0 s = .next t → s.memEq t := by
  intro a0 s t h; unfold execVst at h
  unfold slotGo at h
  refine slotRun_memEq h fun f => ?_
  refine ⟨?_, ?_, ?_, ?_⟩ <;> (try dsimp only) <;> (repeat' split) <;> first | rfl | simp
theorem execVstm_memEq : ∀ a0 s t, execVstm a0 s = .next t → s.memEq t := by
  intro a0 s t h; unfold execVstm at h
  unfold slotGo at h
  refine slotRun_memEq h fun f => ?_
  refine ⟨?_, ?_, ?_, ?_⟩ <;> (try dsimp only) <;> (repeat' split) <;> first | rfl | simp
theorem execVsts_memEq : ∀ a0 s t, execVsts a0 s = .next t → s.memEq t := by
  intro a0 s t h; unfold execVsts at h
  unfold slotGo at h
  refine slotRun_memEq h fun f => ?_
  refine ⟨?_, ?_, ?_, ?_⟩ <;> (try dsimp only) <;> (repeat' split) <;> first | rfl | simp
theorem execVsth_memEq : ∀ a0 s t, execVsth a0 s = .next t → s.memEq t := by
  intro a0 s t h; unfold execVsth at h
  unfold slotGo at h
  refine slotRun_memEq h fun f => ?_
  refine ⟨?_, ?_, ?_, ?_⟩ <;> (try dsimp only) <;> (repeat' split) <;> first | rfl | simp
theorem execTzero_memEq : ∀ a0 s t, execTzero a0 s = .next t → s.memEq t := by
  intro a0 s t h; unfold execTzero at h
  unfold slotGo at h
  refine slotRun_memEq h fun f => ?_
  refine ⟨?_, ?_, ?_, ?_⟩ <;> (try dsimp only) <;> (repeat' split) <;> first | rfl | simp
theorem execAmo_memEq : ∀ a0 s t, execAmo a0 s = .next t → s.memEq t := by
  intro a0 s t h; unfold execAmo at h
  unfold slotGo at h
  refine slotRun_memEq h fun f => ?_
  refine ⟨?_, ?_, ?_, ?_⟩ <;> (try dsimp only) <;> (repeat' split) <;> first | rfl | simp
theorem execAmoCas_memEq : ∀ a0 s t, execAmoCas a0 s = .next t → s.memEq t := by
  intro a0 s t h; unfold execAmoCas at h
  unfold slotGo at h
  refine slotRun_memEq h fun f => ?_
  refine ⟨?_, ?_, ?_, ?_⟩ <;> (try dsimp only) <;> (repeat' split) <;> first | rfl | simp
theorem execMcfg_memEq : ∀ a0 s t, execMcfg a0 s = .next t → s.memEq t := by
  intro a0 s t h; unfold execMcfg at h
  unfold matSlot at h
  refine slotRun_memEq h fun f => ?_
  refine ⟨?_, ?_, ?_, ?_⟩
  · try dsimp only
    (repeat' split) <;> first | (exact State.matRun_mem _ _ _ _ fun _ => by first | rfl | simp) | simp
  · try dsimp only
    (repeat' split) <;> first | (exact State.matRun_hostMem _ _ _ _ fun _ => by first | rfl | simp) | simp
  · try dsimp only
    (repeat' split) <;> first | (exact State.matRun_tags _ _ _ _ fun _ => by first | rfl | simp) | simp
  · try dsimp only
    (repeat' split) <;> first | (exact State.matRun_poison _ _ _ _ fun _ => by first | rfl | simp) | simp
theorem execMwbank_memEq : ∀ a0 s t, execMwbank a0 s = .next t → s.memEq t := by
  intro a0 s t h; unfold execMwbank at h
  unfold matSlot at h
  refine slotRun_memEq h fun f => ?_
  refine ⟨?_, ?_, ?_, ?_⟩
  · try dsimp only
    (repeat' split) <;> first | (exact State.matRun_mem _ _ _ _ fun _ => by first | rfl | simp) | simp
  · try dsimp only
    (repeat' split) <;> first | (exact State.matRun_hostMem _ _ _ _ fun _ => by first | rfl | simp) | simp
  · try dsimp only
    (repeat' split) <;> first | (exact State.matRun_tags _ _ _ _ fun _ => by first | rfl | simp) | simp
  · try dsimp only
    (repeat' split) <;> first | (exact State.matRun_poison _ _ _ _ fun _ => by first | rfl | simp) | simp
theorem execMwld_memEq : ∀ a0 s t, execMwld a0 s = .next t → s.memEq t := by
  intro a0 s t h; unfold execMwld at h
  unfold matSlot at h
  refine slotRun_memEq h fun f => ?_
  refine ⟨?_, ?_, ?_, ?_⟩
  · try dsimp only
    (repeat' split) <;> first | (exact State.matRun_mem _ _ _ _ fun _ => by first | rfl | simp) | simp
  · try dsimp only
    (repeat' split) <;> first | (exact State.matRun_hostMem _ _ _ _ fun _ => by first | rfl | simp) | simp
  · try dsimp only
    (repeat' split) <;> first | (exact State.matRun_tags _ _ _ _ fun _ => by first | rfl | simp) | simp
  · try dsimp only
    (repeat' split) <;> first | (exact State.matRun_poison _ _ _ _ fun _ => by first | rfl | simp) | simp
theorem execMsc_memEq : ∀ a0 s t, execMsc a0 s = .next t → s.memEq t := by
  intro a0 s t h; unfold execMsc at h
  unfold matSlot at h
  refine slotRun_memEq h fun f => ?_
  refine ⟨?_, ?_, ?_, ?_⟩
  · try dsimp only
    (repeat' split) <;> first | (exact State.matRun_mem _ _ _ _ fun _ => by first | rfl | simp) | simp
  · try dsimp only
    (repeat' split) <;> first | (exact State.matRun_hostMem _ _ _ _ fun _ => by first | rfl | simp) | simp
  · try dsimp only
    (repeat' split) <;> first | (exact State.matRun_tags _ _ _ _ fun _ => by first | rfl | simp) | simp
  · try dsimp only
    (repeat' split) <;> first | (exact State.matRun_poison _ _ _ _ fun _ => by first | rfl | simp) | simp
theorem execMma_memEq : ∀ a0 s t, execMma a0 s = .next t → s.memEq t := by
  intro a0 s t h; unfold execMma at h
  unfold matSlot at h
  refine slotRun_memEq h fun f => ?_
  refine ⟨?_, ?_, ?_, ?_⟩
  · try dsimp only
    (repeat' split) <;> first | (exact State.matRun_mem _ _ _ _ fun _ => by first | rfl | simp) | simp
  · try dsimp only
    (repeat' split) <;> first | (exact State.matRun_hostMem _ _ _ _ fun _ => by first | rfl | simp) | simp
  · try dsimp only
    (repeat' split) <;> first | (exact State.matRun_tags _ _ _ _ fun _ => by first | rfl | simp) | simp
  · try dsimp only
    (repeat' split) <;> first | (exact State.matRun_poison _ _ _ _ fun _ => by first | rfl | simp) | simp
theorem execMmaT_memEq : ∀ a0 s t, execMmaT a0 s = .next t → s.memEq t := by
  intro a0 s t h; unfold execMmaT at h
  unfold matSlot at h
  refine slotRun_memEq h fun f => ?_
  refine ⟨?_, ?_, ?_, ?_⟩
  · try dsimp only
    (repeat' split) <;> first | (exact State.matRun_mem _ _ _ _ fun _ => by first | rfl | simp) | simp
  · try dsimp only
    (repeat' split) <;> first | (exact State.matRun_hostMem _ _ _ _ fun _ => by first | rfl | simp) | simp
  · try dsimp only
    (repeat' split) <;> first | (exact State.matRun_tags _ _ _ _ fun _ => by first | rfl | simp) | simp
  · try dsimp only
    (repeat' split) <;> first | (exact State.matRun_poison _ _ _ _ fun _ => by first | rfl | simp) | simp
theorem execMmaR_memEq : ∀ a0 s t, execMmaR a0 s = .next t → s.memEq t := by
  intro a0 s t h; unfold execMmaR at h
  unfold matSlot at h
  refine slotRun_memEq h fun f => ?_
  refine ⟨?_, ?_, ?_, ?_⟩
  · try dsimp only
    (repeat' split) <;> first | (exact State.matRun_mem _ _ _ _ fun _ => by first | rfl | simp) | simp
  · try dsimp only
    (repeat' split) <;> first | (exact State.matRun_hostMem _ _ _ _ fun _ => by first | rfl | simp) | simp
  · try dsimp only
    (repeat' split) <;> first | (exact State.matRun_tags _ _ _ _ fun _ => by first | rfl | simp) | simp
  · try dsimp only
    (repeat' split) <;> first | (exact State.matRun_poison _ _ _ _ fun _ => by first | rfl | simp) | simp
theorem execMmr_memEq : ∀ a0 s t, execMmr a0 s = .next t → s.memEq t := by
  intro a0 s t h; unfold execMmr at h
  unfold matSlot at h
  refine slotRun_memEq h fun f => ?_
  refine ⟨?_, ?_, ?_, ?_⟩
  · try dsimp only
    (repeat' split) <;> first | (exact State.matRun_mem _ _ _ _ fun _ => by first | rfl | simp) | simp
  · try dsimp only
    (repeat' split) <;> first | (exact State.matRun_hostMem _ _ _ _ fun _ => by first | rfl | simp) | simp
  · try dsimp only
    (repeat' split) <;> first | (exact State.matRun_tags _ _ _ _ fun _ => by first | rfl | simp) | simp
  · try dsimp only
    (repeat' split) <;> first | (exact State.matRun_poison _ _ _ _ fun _ => by first | rfl | simp) | simp
theorem execMatt_memEq : ∀ a0 s t, execMatt a0 s = .next t → s.memEq t := by
  intro a0 s t h; unfold execMatt at h
  unfold matSlot at h
  refine slotRun_memEq h fun f => ?_
  refine ⟨?_, ?_, ?_, ?_⟩
  · try dsimp only
    (repeat' split) <;> first | (exact State.matRun_mem _ _ _ _ fun _ => by first | rfl | simp) | simp
  · try dsimp only
    (repeat' split) <;> first | (exact State.matRun_hostMem _ _ _ _ fun _ => by first | rfl | simp) | simp
  · try dsimp only
    (repeat' split) <;> first | (exact State.matRun_tags _ _ _ _ fun _ => by first | rfl | simp) | simp
  · try dsimp only
    (repeat' split) <;> first | (exact State.matRun_poison _ _ _ _ fun _ => by first | rfl | simp) | simp
theorem execMxt_memEq : ∀ a0 s t, execMxt a0 s = .next t → s.memEq t := by
  intro a0 s t h; unfold execMxt at h
  unfold matSlot at h
  refine slotRun_memEq h fun f => ?_
  refine ⟨?_, ?_, ?_, ?_⟩
  · try dsimp only
    (repeat' split) <;> first | (exact State.matRun_mem _ _ _ _ fun _ => by first | rfl | simp) | simp
  · try dsimp only
    (repeat' split) <;> first | (exact State.matRun_hostMem _ _ _ _ fun _ => by first | rfl | simp) | simp
  · try dsimp only
    (repeat' split) <;> first | (exact State.matRun_tags _ _ _ _ fun _ => by first | rfl | simp) | simp
  · try dsimp only
    (repeat' split) <;> first | (exact State.matRun_poison _ _ _ _ fun _ => by first | rfl | simp) | simp
theorem execMdr_memEq : ∀ a0 s t, execMdr a0 s = .next t → s.memEq t := by
  intro a0 s t h; unfold execMdr at h
  unfold matSlot at h
  refine slotRun_memEq h fun f => ?_
  refine ⟨?_, ?_, ?_, ?_⟩
  · try dsimp only
    (repeat' split) <;> first | (exact State.matRun_mem _ _ _ _ fun _ => by first | rfl | simp) | simp
  · try dsimp only
    (repeat' split) <;> first | (exact State.matRun_hostMem _ _ _ _ fun _ => by first | rfl | simp) | simp
  · try dsimp only
    (repeat' split) <;> first | (exact State.matRun_tags _ _ _ _ fun _ => by first | rfl | simp) | simp
  · try dsimp only
    (repeat' split) <;> first | (exact State.matRun_poison _ _ _ _ fun _ => by first | rfl | simp) | simp
theorem execMrel_memEq : ∀ a0 s t, execMrel a0 s = .next t → s.memEq t := by
  intro a0 s t h; unfold execMrel at h
  unfold matSlot at h
  refine slotRun_memEq h fun f => ?_
  refine ⟨?_, ?_, ?_, ?_⟩ <;> (try dsimp only) <;> (repeat' split) <;> first | rfl | simp
theorem execCp_memEq : ∀ a0 s t, execCp a0 s = .next t → s.memEq t := by
  intro a0 s t h; unfold execCp at h
  unfold copySlot at h
  refine slotRun_memEq h fun f => ?_
  refine ⟨?_, ?_, ?_, ?_⟩ <;> (try dsimp only) <;> (repeat' split) <;> first | rfl | simp
theorem execCpRed_memEq : ∀ a0 s t, execCpRed a0 s = .next t → s.memEq t := by
  intro a0 s t h; unfold execCpRed at h
  unfold copySlot at h
  refine slotRun_memEq h fun f => ?_
  refine ⟨?_, ?_, ?_, ?_⟩ <;> (try dsimp only) <;> (repeat' split) <;> first | rfl | simp
theorem execRwr_memEq : ∀ a0 s t, execRwr a0 s = .next t → s.memEq t := by
  intro a0 s t h; unfold execRwr at h
  unfold copySlot at h
  refine slotRun_memEq h fun f => ?_
  refine ⟨?_, ?_, ?_, ?_⟩ <;> (try dsimp only) <;> (repeat' split) <;> first | rfl | simp
theorem execRrd_memEq : ∀ a0 s t, execRrd a0 s = .next t → s.memEq t := by
  intro a0 s t h; unfold execRrd at h
  unfold copySlot at h
  refine slotRun_memEq h fun f => ?_
  refine ⟨?_, ?_, ?_, ?_⟩ <;> (try dsimp only) <;> (repeat' split) <;> first | rfl | simp
theorem execRamo_memEq : ∀ a0 s t, execRamo a0 s = .next t → s.memEq t := by
  intro a0 s t h; unfold execRamo at h
  unfold copySlot at h
  refine slotRun_memEq h fun f => ?_
  refine ⟨?_, ?_, ?_, ?_⟩ <;> (try dsimp only) <;> (repeat' split) <;> first | rfl | simp
theorem execMcast_memEq : ∀ a0 s t, execMcast a0 s = .next t → s.memEq t := by
  intro a0 s t h; unfold execMcast at h
  unfold copySlot at h
  refine slotRun_memEq h fun f => ?_
  refine ⟨?_, ?_, ?_, ?_⟩ <;> (try dsimp only) <;> (repeat' split) <;> first | rfl | simp
theorem execXlat_memEq : ∀ a0 s t, execXlat a0 s = .next t → s.memEq t := by
  intro a0 s t h; unfold execXlat at h
  unfold copySlot at h
  refine slotRun_memEq h fun f => ?_
  refine ⟨?_, ?_, ?_, ?_⟩ <;> (try dsimp only) <;> (repeat' split) <;> first | rfl | simp
theorem execGld_memEq : ∀ a0 s t, execGld a0 s = .next t → s.memEq t := by
  intro a0 s t h; unfold execGld at h
  unfold copySlot at h
  refine slotRun_memEq h fun f => ?_
  refine ⟨?_, ?_, ?_, ?_⟩ <;> (try dsimp only) <;> (repeat' split) <;> first | rfl | simp
theorem execGst_memEq : ∀ a0 s t, execGst a0 s = .next t → s.memEq t := by
  intro a0 s t h; unfold execGst at h
  unfold copySlot at h
  refine slotRun_memEq h fun f => ?_
  refine ⟨?_, ?_, ?_, ?_⟩ <;> (try dsimp only) <;> (repeat' split) <;> first | rfl | simp
theorem execGatom_memEq : ∀ a0 s t, execGatom a0 s = .next t → s.memEq t := by
  intro a0 s t h; unfold execGatom at h
  unfold copySlot at h
  refine slotRun_memEq h fun f => ?_
  refine ⟨?_, ?_, ?_, ?_⟩ <;> (try dsimp only) <;> (repeat' split) <;> first | rfl | simp
theorem execNopY_memEq : ∀ s t, execNopY s = .next t → s.memEq t := by
  intro s t h; unfold execNopY at h
  unfold syncSlot at h
  refine slotRun_memEq h fun f => ?_
  refine ⟨?_, ?_, ?_, ?_⟩ <;> (try dsimp only) <;> (repeat' split) <;> first | rfl | simp
theorem execLoop_memEq : ∀ a0 a1 s t, execLoop a0 a1 s = .next t → s.memEq t := by
  intro a0 a1 s t h; unfold execLoop at h
  unfold syncSlot at h
  refine slotRun_memEq h fun f => ?_
  refine ⟨?_, ?_, ?_, ?_⟩ <;> (try dsimp only) <;> (repeat' split) <;> first | rfl | simp
theorem execLoopx_memEq : ∀ a0 a1 s t, execLoopx a0 a1 s = .next t → s.memEq t := by
  intro a0 a1 s t h; unfold execLoopx at h
  unfold syncSlot at h
  refine slotRun_memEq h fun f => ?_
  refine ⟨?_, ?_, ?_, ?_⟩ <;> (try dsimp only) <;> (repeat' split) <;> first | rfl | simp
theorem execLbrk_memEq : ∀ a0 s t, execLbrk a0 s = .next t → s.memEq t := by
  intro a0 s t h; unfold execLbrk at h
  unfold syncSlot at h
  refine slotRun_memEq h fun f => ?_
  refine ⟨?_, ?_, ?_, ?_⟩ <;> (try dsimp only) <;> (repeat' split) <;> first | rfl | simp
theorem execLbrkU_memEq : ∀ s t, execLbrkU s = .next t → s.memEq t := by
  intro s t h; unfold execLbrkU at h
  unfold syncSlot at h
  refine slotRun_memEq h fun f => ?_
  refine ⟨?_, ?_, ?_, ?_⟩ <;> (try dsimp only) <;> (repeat' split) <;> first | rfl | simp
theorem execBankAcq_memEq : ∀ a0 s t, execBankAcq a0 s = .next t → s.memEq t := by
  intro a0 s t h; unfold execBankAcq at h
  unfold syncSlot at h
  refine slotRun_memEq h fun f => ?_
  refine ⟨?_, ?_, ?_, ?_⟩ <;> (try dsimp only) <;> (repeat' split) <;> first | rfl | simp
theorem execBankRel_memEq : ∀ a0 s t, execBankRel a0 s = .next t → s.memEq t := by
  intro a0 s t h; unfold execBankRel at h
  unfold syncSlot at h
  refine slotRun_memEq h fun f => ?_
  refine ⟨?_, ?_, ?_, ?_⟩ <;> (try dsimp only) <;> (repeat' split) <;> first | rfl | simp
theorem execBankTst_memEq : ∀ a0 a1 a2 s t, execBankTst a0 a1 a2 s = .next t → s.memEq t := by
  intro a0 a1 a2 s t h; unfold execBankTst at h
  unfold syncSlot at h
  refine slotRun_memEq h fun f => ?_
  refine ⟨?_, ?_, ?_, ?_⟩ <;> (try dsimp only) <;> (repeat' split) <;> first | rfl | simp
theorem execBar_memEq : ∀ a0 a1 s t, execBar a0 a1 s = .next t → s.memEq t := by
  intro a0 a1 s t h; unfold execBar at h
  unfold syncSlot at h
  refine slotRun_memEq h fun f => ?_
  refine ⟨?_, ?_, ?_, ?_⟩ <;> (try dsimp only) <;> (repeat' split) <;> first | rfl | simp
theorem execGuard_memEq : ∀ a0 s t, execGuard a0 s = .next t → s.memEq t := by
  intro a0 s t h; unfold execGuard at h
  unfold syncSlot at h
  refine slotRun_memEq h fun f => ?_
  refine ⟨?_, ?_, ?_, ?_⟩ <;> (try dsimp only) <;> (repeat' split) <;> first | rfl | simp
theorem execFence_memEq : ∀ a0 a1 s t, execFence a0 a1 s = .next t → s.memEq t := by
  intro a0 a1 s t h; unfold execFence at h
  unfold syncSlot at h
  refine slotRun_memEq h fun f => ?_
  refine ⟨?_, ?_, ?_, ?_⟩ <;> (try dsimp only) <;> (repeat' split) <;> first | rfl | simp
theorem execCodeLock_memEq : ∀ a0 a1 a2 s t, execCodeLock a0 a1 a2 s = .next t → s.memEq t := by
  intro a0 a1 a2 s t h; unfold execCodeLock at h
  unfold syncSlot at h
  refine slotRun_memEq h fun f => ?_
  refine ⟨?_, ?_, ?_, ?_⟩ <;> (try dsimp only) <;> (repeat' split) <;> first | rfl | simp
theorem execCodeLockW_memEq : ∀ a0 a1 a2 s t, execCodeLockW a0 a1 a2 s = .next t → s.memEq t := by
  intro a0 a1 a2 s t h; unfold execCodeLockW at h
  unfold syncSlot at h
  refine slotRun_memEq h fun f => ?_
  refine ⟨?_, ?_, ?_, ?_⟩ <;> (try dsimp only) <;> (repeat' split) <;> first | rfl | simp
theorem execCodeUnlock_memEq : ∀ a0 s t, execCodeUnlock a0 s = .next t → s.memEq t := by
  intro a0 s t h; unfold execCodeUnlock at h
  unfold syncSlot at h
  refine slotRun_memEq h fun f => ?_
  dsimp only; split
  · exact ⟨rfl, rfl, rfl, rfl⟩
  · exact ⟨by rw [State.retryLocks_mem, State.modCore_mem], by rw [State.retryLocks_hostMem, State.modCore_hostMem], by rw [State.retryLocks_tags, State.modCore_tags], by rw [State.retryLocks_poison, State.modCore_poison]⟩
theorem execHaulBoard_memEq : ∀ a0 a1 a2 s t, execHaulBoard a0 a1 a2 s = .next t → s.memEq t := by
  intro a0 a1 a2 s t h; unfold execHaulBoard at h
  unfold syncSlot at h
  refine slotRun_memEq h fun f => ?_
  refine ⟨?_, ?_, ?_, ?_⟩ <;> (try dsimp only) <;> (repeat' split) <;> first | rfl | simp
theorem execHaulAlight_memEq : ∀ a0 a1 a2 s t, execHaulAlight a0 a1 a2 s = .next t → s.memEq t := by
  intro a0 a1 a2 s t h; unfold execHaulAlight at h
  unfold syncSlot at h
  refine slotRun_memEq h fun f => ?_
  refine ⟨?_, ?_, ?_, ?_⟩ <;> (try dsimp only) <;> (repeat' split) <;> first | rfl | simp
theorem execHaulLd_memEq : ∀ a0 a1 a2 s t, execHaulLd a0 a1 a2 s = .next t → s.memEq t := by
  intro a0 a1 a2 s t h; unfold execHaulLd at h
  unfold syncSlot at h
  refine slotRun_memEq h fun f => ?_
  refine ⟨?_, ?_, ?_, ?_⟩ <;> (try dsimp only) <;> (repeat' split) <;> first | rfl | simp
theorem execHaulPass_memEq : ∀ a0 a1 a2 s t, execHaulPass a0 a1 a2 s = .next t → s.memEq t := by
  intro a0 a1 a2 s t h; unfold execHaulPass at h
  unfold syncSlot at h
  refine slotRun_memEq h fun f => ?_
  refine ⟨?_, ?_, ?_, ?_⟩ <;> (try dsimp only) <;> (repeat' split) <;> first | rfl | simp
theorem execHaulBar_memEq : ∀ a0 a1 a2 s t, execHaulBar a0 a1 a2 s = .next t → s.memEq t := by
  intro a0 a1 a2 s t h; unfold execHaulBar at h
  unfold syncSlot at h
  refine slotRun_memEq h fun f => ?_
  refine ⟨?_, ?_, ?_, ?_⟩ <;> (try dsimp only) <;> (repeat' split) <;> first | rfl | simp
theorem execHaulSt_memEq : ∀ a0 a1 a2 a3 s t, execHaulSt a0 a1 a2 a3 s = .next t → s.memEq t := by
  intro a0 a1 a2 a3 s t h; unfold execHaulSt at h
  unfold syncSlot at h
  refine slotRun_memEq h fun f => ?_
  refine ⟨?_, ?_, ?_, ?_⟩ <;> (try dsimp only) <;> (repeat' split) <;> first | rfl | simp
theorem execHaulOp_memEq : ∀ a0 a1 a2 a3 a4 a5 a6 s t, execHaulOp a0 a1 a2 a3 a4 a5 a6 s = .next t → s.memEq t := by
  intro a0 a1 a2 a3 a4 a5 a6 s t h; unfold execHaulOp at h
  unfold syncSlot at h
  refine slotRun_memEq h fun f => ?_
  refine ⟨?_, ?_, ?_, ?_⟩ <;> (try dsimp only) <;> (repeat' split) <;> first | rfl | simp
theorem execHaulXchg_memEq : ∀ a0 a1 a2 a3 a4 s t, execHaulXchg a0 a1 a2 a3 a4 s = .next t → s.memEq t := by
  intro a0 a1 a2 a3 a4 s t h; unfold execHaulXchg at h
  unfold syncSlot at h
  refine slotRun_memEq h fun f => ?_
  refine ⟨?_, ?_, ?_, ?_⟩ <;> (try dsimp only) <;> (repeat' split) <;> first | rfl | simp
theorem execHaulCas_memEq : ∀ a0 a1 a2 a3 a4 s t, execHaulCas a0 a1 a2 a3 a4 s = .next t → s.memEq t := by
  intro a0 a1 a2 a3 a4 s t h; unfold execHaulCas at h
  unfold syncSlot at h
  refine slotRun_memEq h fun f => ?_
  refine ⟨?_, ?_, ?_, ?_⟩ <;> (try dsimp only) <;> (repeat' split) <;> first | rfl | simp
theorem execHaulLse_memEq : ∀ a0 a1 a2 a3 a4 s t, execHaulLse a0 a1 a2 a3 a4 s = .next t → s.memEq t := by
  intro a0 a1 a2 a3 a4 s t h; unfold execHaulLse at h
  unfold syncSlot at h
  refine slotRun_memEq h fun f => ?_
  refine ⟨?_, ?_, ?_, ?_⟩ <;> (try dsimp only) <;> (repeat' split) <;> first | rfl | simp
theorem execSysrd_memEq : ∀ a0 a1 a2 s t, execSysrd a0 a1 a2 s = .next t → s.memEq t := by
  intro a0 a1 a2 s t h; unfold execSysrd at h
  unfold syncSlot at h
  refine slotRun_memEq h fun f => ?_
  refine ⟨?_, ?_, ?_, ?_⟩ <;> (try dsimp only) <;> (repeat' split) <;> first | rfl | simp
theorem execSyswr_memEq : ∀ a0 a1 s t, execSyswr a0 a1 s = .next t → s.memEq t := by
  intro a0 a1 s t h; unfold execSyswr at h
  unfold syncSlot at h
  refine slotRun_memEq h fun f => ?_
  refine ⟨?_, ?_, ?_, ?_⟩ <;> (try dsimp only) <;> (repeat' split) <;> first | rfl | simp
theorem execTrap_memEq : ∀ a0 s t, execTrap a0 s = .next t → s.memEq t := by
  intro a0 s t h; unfold execTrap at h
  unfold syncSlot at h
  refine slotRun_memEq h fun f => ?_
  refine ⟨?_, ?_, ?_, ?_⟩ <;> (try dsimp only) <;> (repeat' split) <;> first | rfl | simp
theorem execEbrk_memEq : ∀ s t, execEbrk s = .next t → s.memEq t := by
  intro s t h; unfold execEbrk at h
  unfold syncSlot at h
  refine slotRun_memEq h fun f => ?_
  refine ⟨?_, ?_, ?_, ?_⟩ <;> (try dsimp only) <;> (repeat' split) <;> first | rfl | simp
theorem execEndCtx_memEq : ∀ s t, execEndCtx s = .next t → s.memEq t := by
  intro s t h; unfold execEndCtx at h
  unfold syncSlot at h
  refine slotRun_memEq h fun f => ?_
  refine ⟨?_, ?_, ?_, ?_⟩ <;> (try dsimp only) <;> (repeat' split) <;> first | rfl | simp
theorem execLnkRun_memEq : ∀ a0 s t, execLnkRun a0 s = .next t → s.memEq t := by
  intro a0 s t h; unfold execLnkRun at h
  unfold copySlot at h
  refine slotRun_memEq h fun f => ?_
  refine ⟨?_, ?_, ?_, ?_⟩ <;> (try dsimp only) <;> (repeat' split) <;> first | rfl | simp
theorem execLnkSel_memEq : ∀ a0 s t, execLnkSel a0 s = .next t → s.memEq t := by
  intro a0 s t h; unfold execLnkSel at h
  unfold copySlot at h
  refine slotRun_memEq h fun f => ?_
  refine ⟨?_, ?_, ?_, ?_⟩ <;> (try dsimp only) <;> (repeat' split) <;> first | rfl | simp
theorem execVadd_memEq : ∀ a0 s t, execVadd a0 s = .next t → s.memEq t := by
  intro a0 s t h; unfold execVadd at h
  unfold vecForm slotGo at h
  refine slotRun_memEq h fun f => ?_
  refine ⟨?_, ?_, ?_, ?_⟩ <;> (try dsimp only) <;> (repeat' split) <;> first | rfl | simp
theorem execVsub_memEq : ∀ a0 s t, execVsub a0 s = .next t → s.memEq t := by
  intro a0 s t h; unfold execVsub at h
  unfold vecForm slotGo at h
  refine slotRun_memEq h fun f => ?_
  refine ⟨?_, ?_, ?_, ?_⟩ <;> (try dsimp only) <;> (repeat' split) <;> first | rfl | simp
theorem execVmul_memEq : ∀ a0 s t, execVmul a0 s = .next t → s.memEq t := by
  intro a0 s t h; unfold execVmul at h
  unfold vecForm slotGo at h
  refine slotRun_memEq h fun f => ?_
  refine ⟨?_, ?_, ?_, ?_⟩ <;> (try dsimp only) <;> (repeat' split) <;> first | rfl | simp
theorem execVfma_memEq : ∀ a0 s t, execVfma a0 s = .next t → s.memEq t := by
  intro a0 s t h; unfold execVfma at h
  unfold vecForm slotGo at h
  refine slotRun_memEq h fun f => ?_
  refine ⟨?_, ?_, ?_, ?_⟩ <;> (try dsimp only) <;> (repeat' split) <;> first | rfl | simp
theorem execVfms_memEq : ∀ a0 s t, execVfms a0 s = .next t → s.memEq t := by
  intro a0 s t h; unfold execVfms at h
  unfold vecForm slotGo at h
  refine slotRun_memEq h fun f => ?_
  refine ⟨?_, ?_, ?_, ?_⟩ <;> (try dsimp only) <;> (repeat' split) <;> first | rfl | simp
theorem execVfnma_memEq : ∀ a0 s t, execVfnma a0 s = .next t → s.memEq t := by
  intro a0 s t h; unfold execVfnma at h
  unfold vecForm slotGo at h
  refine slotRun_memEq h fun f => ?_
  refine ⟨?_, ?_, ?_, ?_⟩ <;> (try dsimp only) <;> (repeat' split) <;> first | rfl | simp
theorem execVmax_memEq : ∀ a0 s t, execVmax a0 s = .next t → s.memEq t := by
  intro a0 s t h; unfold execVmax at h
  unfold vecForm slotGo at h
  refine slotRun_memEq h fun f => ?_
  refine ⟨?_, ?_, ?_, ?_⟩ <;> (try dsimp only) <;> (repeat' split) <;> first | rfl | simp
theorem execVmin_memEq : ∀ a0 s t, execVmin a0 s = .next t → s.memEq t := by
  intro a0 s t h; unfold execVmin at h
  unfold vecForm slotGo at h
  refine slotRun_memEq h fun f => ?_
  refine ⟨?_, ?_, ?_, ?_⟩ <;> (try dsimp only) <;> (repeat' split) <;> first | rfl | simp
theorem execVabs_memEq : ∀ a0 s t, execVabs a0 s = .next t → s.memEq t := by
  intro a0 s t h; unfold execVabs at h
  unfold vecForm slotGo at h
  refine slotRun_memEq h fun f => ?_
  refine ⟨?_, ?_, ?_, ?_⟩ <;> (try dsimp only) <;> (repeat' split) <;> first | rfl | simp
theorem execVneg_memEq : ∀ a0 s t, execVneg a0 s = .next t → s.memEq t := by
  intro a0 s t h; unfold execVneg at h
  unfold vecForm slotGo at h
  refine slotRun_memEq h fun f => ?_
  refine ⟨?_, ?_, ?_, ?_⟩ <;> (try dsimp only) <;> (repeat' split) <;> first | rfl | simp
theorem execVaddsat_memEq : ∀ a0 s t, execVaddsat a0 s = .next t → s.memEq t := by
  intro a0 s t h; unfold execVaddsat at h
  unfold vecForm slotGo at h
  refine slotRun_memEq h fun f => ?_
  refine ⟨?_, ?_, ?_, ?_⟩ <;> (try dsimp only) <;> (repeat' split) <;> first | rfl | simp
theorem execVsubsat_memEq : ∀ a0 s t, execVsubsat a0 s = .next t → s.memEq t := by
  intro a0 s t h; unfold execVsubsat at h
  unfold vecForm slotGo at h
  refine slotRun_memEq h fun f => ?_
  refine ⟨?_, ?_, ?_, ?_⟩ <;> (try dsimp only) <;> (repeat' split) <;> first | rfl | simp
theorem execVmulhi_memEq : ∀ a0 s t, execVmulhi a0 s = .next t → s.memEq t := by
  intro a0 s t h; unfold execVmulhi at h
  unfold vecForm slotGo at h
  refine slotRun_memEq h fun f => ?_
  refine ⟨?_, ?_, ?_, ?_⟩ <;> (try dsimp only) <;> (repeat' split) <;> first | rfl | simp
theorem execVand_memEq : ∀ a0 s t, execVand a0 s = .next t → s.memEq t := by
  intro a0 s t h; unfold execVand at h
  unfold vecForm slotGo at h
  refine slotRun_memEq h fun f => ?_
  refine ⟨?_, ?_, ?_, ?_⟩ <;> (try dsimp only) <;> (repeat' split) <;> first | rfl | simp
theorem execVor_memEq : ∀ a0 s t, execVor a0 s = .next t → s.memEq t := by
  intro a0 s t h; unfold execVor at h
  unfold vecForm slotGo at h
  refine slotRun_memEq h fun f => ?_
  refine ⟨?_, ?_, ?_, ?_⟩ <;> (try dsimp only) <;> (repeat' split) <;> first | rfl | simp
theorem execVxor_memEq : ∀ a0 s t, execVxor a0 s = .next t → s.memEq t := by
  intro a0 s t h; unfold execVxor at h
  unfold vecForm slotGo at h
  refine slotRun_memEq h fun f => ?_
  refine ⟨?_, ?_, ?_, ?_⟩ <;> (try dsimp only) <;> (repeat' split) <;> first | rfl | simp
theorem execVnot_memEq : ∀ a0 s t, execVnot a0 s = .next t → s.memEq t := by
  intro a0 s t h; unfold execVnot at h
  unfold vecForm slotGo at h
  refine slotRun_memEq h fun f => ?_
  refine ⟨?_, ?_, ?_, ?_⟩ <;> (try dsimp only) <;> (repeat' split) <;> first | rfl | simp
theorem execVshl_memEq : ∀ a0 s t, execVshl a0 s = .next t → s.memEq t := by
  intro a0 s t h; unfold execVshl at h
  unfold vecForm slotGo at h
  refine slotRun_memEq h fun f => ?_
  refine ⟨?_, ?_, ?_, ?_⟩ <;> (try dsimp only) <;> (repeat' split) <;> first | rfl | simp
theorem execVshr_memEq : ∀ a0 s t, execVshr a0 s = .next t → s.memEq t := by
  intro a0 s t h; unfold execVshr at h
  unfold vecForm slotGo at h
  refine slotRun_memEq h fun f => ?_
  refine ⟨?_, ?_, ?_, ?_⟩ <;> (try dsimp only) <;> (repeat' split) <;> first | rfl | simp
theorem execVsra_memEq : ∀ a0 s t, execVsra a0 s = .next t → s.memEq t := by
  intro a0 s t h; unfold execVsra at h
  unfold vecForm slotGo at h
  refine slotRun_memEq h fun f => ?_
  refine ⟨?_, ?_, ?_, ?_⟩ <;> (try dsimp only) <;> (repeat' split) <;> first | rfl | simp
theorem execVcmp_memEq : ∀ a0 s t, execVcmp a0 s = .next t → s.memEq t := by
  intro a0 s t h; unfold execVcmp at h
  unfold maskForm slotGo at h
  refine slotRun_memEq h fun f => ?_
  refine ⟨?_, ?_, ?_, ?_⟩ <;> (try dsimp only) <;> (repeat' split) <;> first | rfl | simp
theorem execVsel_memEq : ∀ a0 s t, execVsel a0 s = .next t → s.memEq t := by
  intro a0 s t h; unfold execVsel at h
  unfold vecForm slotGo at h
  refine slotRun_memEq h fun f => ?_
  refine ⟨?_, ?_, ?_, ?_⟩ <;> (try dsimp only) <;> (repeat' split) <;> first | rfl | simp
theorem execMand_memEq : ∀ a0 s t, execMand a0 s = .next t → s.memEq t := by
  intro a0 s t h; unfold execMand at h
  unfold maskForm slotGo at h
  refine slotRun_memEq h fun f => ?_
  refine ⟨?_, ?_, ?_, ?_⟩ <;> (try dsimp only) <;> (repeat' split) <;> first | rfl | simp
theorem execMor_memEq : ∀ a0 s t, execMor a0 s = .next t → s.memEq t := by
  intro a0 s t h; unfold execMor at h
  unfold maskForm slotGo at h
  refine slotRun_memEq h fun f => ?_
  refine ⟨?_, ?_, ?_, ?_⟩ <;> (try dsimp only) <;> (repeat' split) <;> first | rfl | simp
theorem execMxor_memEq : ∀ a0 s t, execMxor a0 s = .next t → s.memEq t := by
  intro a0 s t h; unfold execMxor at h
  unfold maskForm slotGo at h
  refine slotRun_memEq h fun f => ?_
  refine ⟨?_, ?_, ?_, ?_⟩ <;> (try dsimp only) <;> (repeat' split) <;> first | rfl | simp
theorem execMnot_memEq : ∀ a0 s t, execMnot a0 s = .next t → s.memEq t := by
  intro a0 s t h; unfold execMnot at h
  unfold maskForm slotGo at h
  refine slotRun_memEq h fun f => ?_
  refine ⟨?_, ?_, ?_, ?_⟩ <;> (try dsimp only) <;> (repeat' split) <;> first | rfl | simp
theorem execMpop_memEq : ∀ a0 s t, execMpop a0 s = .next t → s.memEq t := by
  intro a0 s t h; unfold execMpop at h
  unfold slotGo at h
  refine slotRun_memEq h fun f => ?_
  refine ⟨?_, ?_, ?_, ?_⟩ <;> (try dsimp only) <;> (repeat' split) <;> first | rfl | simp
theorem execMfirst_memEq : ∀ a0 s t, execMfirst a0 s = .next t → s.memEq t := by
  intro a0 s t h; unfold execMfirst at h
  unfold slotGo at h
  refine slotRun_memEq h fun f => ?_
  refine ⟨?_, ?_, ?_, ?_⟩ <;> (try dsimp only) <;> (repeat' split) <;> first | rfl | simp
theorem execVrank_memEq : ∀ a0 s t, execVrank a0 s = .next t → s.memEq t := by
  intro a0 s t h; unfold execVrank at h
  unfold slotGo at h
  refine slotRun_memEq h fun f => ?_
  refine ⟨?_, ?_, ?_, ?_⟩ <;> (try dsimp only) <;> (repeat' split) <;> first | rfl | simp
theorem execVrecon_memEq : ∀ a0 s t, execVrecon a0 s = .next t → s.memEq t := by
  intro a0 s t h; unfold execVrecon at h
  unfold slotGo at h
  refine slotRun_memEq h fun f => ?_
  refine ⟨?_, ?_, ?_, ?_⟩ <;> (try dsimp only) <;> (repeat' split) <;> first | rfl | simp
theorem execVrtab_memEq : ∀ a0 s t, execVrtab a0 s = .next t → s.memEq t := by
  intro a0 s t h; unfold execVrtab at h
  unfold slotGo at h
  refine slotRun_memEq h fun f => ?_
  refine ⟨?_, ?_, ?_, ?_⟩ <;> (try dsimp only) <;> (repeat' split) <;> first | rfl | simp
theorem execVcvt_memEq : ∀ a0 s t, execVcvt a0 s = .next t → s.memEq t := by
  intro a0 s t h; unfold execVcvt at h
  unfold vecForm slotGo at h
  refine slotRun_memEq h fun f => ?_
  refine ⟨?_, ?_, ?_, ?_⟩ <;> (try dsimp only) <;> (repeat' split) <;> first | rfl | simp
theorem execVnarrow_memEq : ∀ a0 s t, execVnarrow a0 s = .next t → s.memEq t := by
  intro a0 s t h; unfold execVnarrow at h
  unfold vecForm slotGo at h
  refine slotRun_memEq h fun f => ?_
  refine ⟨?_, ?_, ?_, ?_⟩ <;> (try dsimp only) <;> (repeat' split) <;> first | rfl | simp
theorem execVwiden_memEq : ∀ a0 s t, execVwiden a0 s = .next t → s.memEq t := by
  intro a0 s t h; unfold execVwiden at h
  unfold vecForm slotGo at h
  refine slotRun_memEq h fun f => ?_
  refine ⟨?_, ?_, ?_, ?_⟩ <;> (try dsimp only) <;> (repeat' split) <;> first | rfl | simp
theorem execVmxq_memEq : ∀ a0 s t, execVmxq a0 s = .next t → s.memEq t := by
  intro a0 s t h; unfold execVmxq at h
  unfold vecForm slotGo at h
  refine slotRun_memEq h fun f => ?_
  refine ⟨?_, ?_, ?_, ?_⟩ <;> (try dsimp only) <;> (repeat' split) <;> first | rfl | simp
theorem execVmxd_memEq : ∀ a0 s t, execVmxd a0 s = .next t → s.memEq t := by
  intro a0 s t h; unfold execVmxd at h
  unfold vecForm slotGo at h
  refine slotRun_memEq h fun f => ?_
  refine ⟨?_, ?_, ?_, ?_⟩ <;> (try dsimp only) <;> (repeat' split) <;> first | rfl | simp
theorem execVexp2_memEq : ∀ a0 s t, execVexp2 a0 s = .next t → s.memEq t := by
  intro a0 s t h; unfold execVexp2 at h
  unfold vecForm slotGo at h
  refine slotRun_memEq h fun f => ?_
  refine ⟨?_, ?_, ?_, ?_⟩ <;> (try dsimp only) <;> (repeat' split) <;> first | rfl | simp
theorem execVlog2_memEq : ∀ a0 s t, execVlog2 a0 s = .next t → s.memEq t := by
  intro a0 s t h; unfold execVlog2 at h
  unfold vecForm slotGo at h
  refine slotRun_memEq h fun f => ?_
  refine ⟨?_, ?_, ?_, ?_⟩ <;> (try dsimp only) <;> (repeat' split) <;> first | rfl | simp
theorem execVrcp_memEq : ∀ a0 s t, execVrcp a0 s = .next t → s.memEq t := by
  intro a0 s t h; unfold execVrcp at h
  unfold vecForm slotGo at h
  refine slotRun_memEq h fun f => ?_
  refine ⟨?_, ?_, ?_, ?_⟩ <;> (try dsimp only) <;> (repeat' split) <;> first | rfl | simp
theorem execVrsqrt_memEq : ∀ a0 s t, execVrsqrt a0 s = .next t → s.memEq t := by
  intro a0 s t h; unfold execVrsqrt at h
  unfold vecForm slotGo at h
  refine slotRun_memEq h fun f => ?_
  refine ⟨?_, ?_, ?_, ?_⟩ <;> (try dsimp only) <;> (repeat' split) <;> first | rfl | simp
theorem execVclass_memEq : ∀ a0 s t, execVclass a0 s = .next t → s.memEq t := by
  intro a0 s t h; unfold execVclass at h
  unfold vecForm slotGo at h
  refine slotRun_memEq h fun f => ?_
  refine ⟨?_, ?_, ?_, ?_⟩ <;> (try dsimp only) <;> (repeat' split) <;> first | rfl | simp
theorem execVperm_memEq : ∀ a0 s t, execVperm a0 s = .next t → s.memEq t := by
  intro a0 s t h; unfold execVperm at h
  unfold vecForm slotGo at h
  refine slotRun_memEq h fun f => ?_
  refine ⟨?_, ?_, ?_, ?_⟩ <;> (try dsimp only) <;> (repeat' split) <;> first | rfl | simp
theorem execVrot_memEq : ∀ a0 s t, execVrot a0 s = .next t → s.memEq t := by
  intro a0 s t h; unfold execVrot at h
  unfold vecForm slotGo at h
  refine slotRun_memEq h fun f => ?_
  refine ⟨?_, ?_, ?_, ?_⟩ <;> (try dsimp only) <;> (repeat' split) <;> first | rfl | simp
theorem execVbcast_memEq : ∀ a0 s t, execVbcast a0 s = .next t → s.memEq t := by
  intro a0 s t h; unfold execVbcast at h
  unfold vecForm slotGo at h
  refine slotRun_memEq h fun f => ?_
  refine ⟨?_, ?_, ?_, ?_⟩ <;> (try dsimp only) <;> (repeat' split) <;> first | rfl | simp
theorem execVslide_memEq : ∀ a0 s t, execVslide a0 s = .next t → s.memEq t := by
  intro a0 s t h; unfold execVslide at h
  unfold vecForm slotGo at h
  refine slotRun_memEq h fun f => ?_
  refine ⟨?_, ?_, ?_, ?_⟩ <;> (try dsimp only) <;> (repeat' split) <;> first | rfl | simp
theorem execVzip_memEq : ∀ a0 s t, execVzip a0 s = .next t → s.memEq t := by
  intro a0 s t h; unfold execVzip at h
  unfold vecForm slotGo at h
  refine slotRun_memEq h fun f => ?_
  refine ⟨?_, ?_, ?_, ?_⟩ <;> (try dsimp only) <;> (repeat' split) <;> first | rfl | simp
theorem execVunzip_memEq : ∀ a0 s t, execVunzip a0 s = .next t → s.memEq t := by
  intro a0 s t h; unfold execVunzip at h
  unfold vecForm slotGo at h
  refine slotRun_memEq h fun f => ?_
  refine ⟨?_, ?_, ?_, ?_⟩ <;> (try dsimp only) <;> (repeat' split) <;> first | rfl | simp
theorem execViota_memEq : ∀ a0 s t, execViota a0 s = .next t → s.memEq t := by
  intro a0 s t h; unfold execViota at h
  unfold vecForm slotGo at h
  refine slotRun_memEq h fun f => ?_
  refine ⟨?_, ?_, ?_, ?_⟩ <;> (try dsimp only) <;> (repeat' split) <;> first | rfl | simp
theorem execVredsum_memEq : ∀ a0 s t, execVredsum a0 s = .next t → s.memEq t := by
  intro a0 s t h; unfold execVredsum at h
  unfold vecForm slotGo at h
  refine slotRun_memEq h fun f => ?_
  refine ⟨?_, ?_, ?_, ?_⟩ <;> (try dsimp only) <;> (repeat' split) <;> first | rfl | simp
theorem execVredmax_memEq : ∀ a0 s t, execVredmax a0 s = .next t → s.memEq t := by
  intro a0 s t h; unfold execVredmax at h
  unfold vecForm slotGo at h
  refine slotRun_memEq h fun f => ?_
  refine ⟨?_, ?_, ?_, ?_⟩ <;> (try dsimp only) <;> (repeat' split) <;> first | rfl | simp
theorem execVredmin_memEq : ∀ a0 s t, execVredmin a0 s = .next t → s.memEq t := by
  intro a0 s t h; unfold execVredmin at h
  unfold vecForm slotGo at h
  refine slotRun_memEq h fun f => ?_
  refine ⟨?_, ?_, ?_, ?_⟩ <;> (try dsimp only) <;> (repeat' split) <;> first | rfl | simp
theorem execVscan_memEq : ∀ a0 s t, execVscan a0 s = .next t → s.memEq t := by
  intro a0 s t h; unfold execVscan at h
  unfold vecForm slotGo at h
  refine slotRun_memEq h fun f => ?_
  refine ⟨?_, ?_, ?_, ?_⟩ <;> (try dsimp only) <;> (repeat' split) <;> first | rfl | simp
theorem execVscanmax_memEq : ∀ a0 s t, execVscanmax a0 s = .next t → s.memEq t := by
  intro a0 s t h; unfold execVscanmax at h
  unfold vecForm slotGo at h
  refine slotRun_memEq h fun f => ?_
  refine ⟨?_, ?_, ?_, ?_⟩ <;> (try dsimp only) <;> (repeat' split) <;> first | rfl | simp
theorem execVfill_memEq : ∀ a0 s t, execVfill a0 s = .next t → s.memEq t := by
  intro a0 s t h; unfold execVfill at h
  unfold slotGo at h
  refine slotRun_memEq h fun f => ?_
  refine ⟨?_, ?_, ?_, ?_⟩ <;> (try dsimp only) <;> (repeat' split) <;> first | rfl | simp
theorem execVext_memEq : ∀ a0 s t, execVext a0 s = .next t → s.memEq t := by
  intro a0 s t h; unfold execVext at h
  unfold slotGo at h
  refine slotRun_memEq h fun f => ?_
  refine ⟨?_, ?_, ?_, ?_⟩ <;> (try dsimp only) <;> (repeat' split) <;> first | rfl | simp
theorem execVins_memEq : ∀ a0 s t, execVins a0 s = .next t → s.memEq t := by
  intro a0 s t h; unfold execVins at h
  unfold slotGo at h
  refine slotRun_memEq h fun f => ?_
  refine ⟨?_, ?_, ?_, ?_⟩ <;> (try dsimp only) <;> (repeat' split) <;> first | rfl | simp
theorem execVmov_memEq : ∀ a0 s t, execVmov a0 s = .next t → s.memEq t := by
  intro a0 s t h; unfold execVmov at h
  unfold vecForm slotGo at h
  refine slotRun_memEq h fun f => ?_
  refine ⟨?_, ?_, ?_, ?_⟩ <;> (try dsimp only) <;> (repeat' split) <;> first | rfl | simp
theorem State.memEq.canonical {s t : State} (h : s.memEq t) (hs : s.canonical) : t.canonical := State.canonical_of hs h.1 h.2.1
theorem execMatrixRowLand_canonical : ∀ a0 s t, s.canonical → execMatrixRowLand a0 s = .next t → t.canonical := by
  intro a0 s t hs h; unfold execMatrixRowLand at h; try dsimp only at h
  repeat' split at h
  all_goals first | (injection h with h; subst h) | (cases h; done)
  all_goals (repeat' (first | with_reducible assumption | (with_reducible exact State.canonical_of hs rfl rfl) | split | (refine foldl_canonical _ _ _ ?_ ?_; rotate_left; (intro _ _ _)) | simp | (refine State.canonical_of ?_ rfl rfl)))
theorem execEnginePiece_canonical : ∀ a0 s t, s.canonical → execEnginePiece a0 s = .next t → t.canonical := by
  intro a0 s t hs h; unfold execEnginePiece at h; try dsimp only at h
  repeat' split at h
  all_goals first | (injection h with h; subst h) | (cases h; done)
  all_goals (repeat' (first | with_reducible assumption | (with_reducible exact State.canonical_of hs rfl rfl) | split | (refine foldl_canonical _ _ _ ?_ ?_; rotate_left; (intro _ _ _)) | simp | (refine State.canonical_of ?_ rfl rfl)))
theorem execCpRedInplaceEnqueue_canonical : ∀ a0 s t, s.canonical → execCpRedInplaceEnqueue a0 s = .next t → t.canonical := by
  intro a0 s t hs h; unfold execCpRedInplaceEnqueue at h; try dsimp only at h
  repeat' split at h
  all_goals first | (injection h with h; subst h) | (cases h; done)
  all_goals (repeat' (first | with_reducible assumption | (with_reducible exact State.canonical_of hs rfl rfl) | split | (refine foldl_canonical _ _ _ ?_ ?_; rotate_left; (intro _ _ _)) | simp | (refine State.canonical_of ?_ rfl rfl)))
theorem execMcastOutcome_canonical : ∀ a0 s t, s.canonical → execMcastOutcome a0 s = .next t → t.canonical := by
  intro a0 s t hs h; unfold execMcastOutcome at h; try dsimp only at h
  repeat' split at h
  all_goals first | (injection h with h; subst h) | (cases h; done)
  all_goals (repeat' (first | with_reducible assumption | (with_reducible exact State.canonical_of hs rfl rfl) | split | (refine foldl_canonical _ _ _ ?_ ?_; rotate_left; (intro _ _ _)) | simp | (refine State.canonical_of ?_ rfl rfl)))
theorem execHomeServeRead_canonical : ∀ a0 s t, s.canonical → execHomeServeRead a0 s = .next t → t.canonical := by
  intro a0 s t hs h; unfold execHomeServeRead at h; try dsimp only at h
  repeat' split at h
  all_goals first | (injection h with h; subst h) | (cases h; done)
  all_goals (repeat' (first | with_reducible assumption | (with_reducible exact State.canonical_of hs rfl rfl) | (with_reducible first | refine State.logRaces_canonical _ _ _ ?_) | split | (refine foldl_canonical _ _ _ ?_ ?_; rotate_left; (intro _ _ _)) | simp | (refine State.canonical_of ?_ rfl rfl)))
theorem execHomeApplyWrite_canonical (n : Nat) (s t : State) (hs : s.canonical) (h : execHomeApplyWrite n s = .next t) : t.canonical := by
  unfold execHomeApplyWrite at h
  cases e : s.homeQ[n]? with
  | none => rw [e] at h; cases h
  | some q =>
    rw [e] at h; dsimp only at h
    split at h
    · have h0 : ((s.dropReq n).reqDone q).canonical := by rw [State.reqDone_canonical, State.dropReq_canonical]; exact hs
      generalize (s.dropReq n).reqDone q = u at *
      have h1 := u.noteRace_canonical q (s.races q) h0
      split at h
      · injection h with h; rw [← h, State.homeAnswer_canonical]; exact h0
      · injection h with h; rw [← h]; exact State.homeAtom_canonical _ _ h1
      · injection h with h; rw [← h, State.homeAnswer_canonical]
        exact foldl_canonical _ _ _ h1 fun y c hy => y.homeChunk_canonical q c hy
    · cases h
theorem execSpoil_canonical : ∀ a0 s t, s.canonical → execSpoil a0 s = .next t → t.canonical := by
  intro a0 s t hs h; unfold execSpoil at h; try dsimp only at h
  repeat' split at h
  all_goals first | (injection h with h; subst h) | (cases h; done)
  all_goals (repeat' (first | with_reducible assumption | (with_reducible exact State.canonical_of hs rfl rfl) | split | (refine foldl_canonical _ _ _ ?_ ?_; rotate_left; (intro _ _ _)) | simp | (refine State.canonical_of ?_ rfl rfl)))
theorem execGldLanding_canonical : ∀ a0 a1 s t, s.canonical → execGldLanding a0 a1 s = .next t → t.canonical := by
  intro a0 a1 s t hs h; unfold execGldLanding at h; try dsimp only at h
  repeat' split at h
  all_goals first | (injection h with h; subst h) | (cases h; done)
  all_goals (repeat' (first | with_reducible assumption | (with_reducible exact State.canonical_of hs rfl rfl) | split | (refine foldl_canonical _ _ _ ?_ ?_; rotate_left; (intro _ _ _)) | simp | (refine State.canonical_of ?_ rfl rfl)))
theorem execGstAck_canonical : ∀ a0 a1 s t, s.canonical → execGstAck a0 a1 s = .next t → t.canonical := by
  intro a0 a1 s t hs h; unfold execGstAck at h; try dsimp only at h
  repeat' split at h
  all_goals first | (injection h with h; subst h) | (cases h; done)
  all_goals (repeat' (first | with_reducible assumption | (with_reducible exact State.canonical_of hs rfl rfl) | split | (refine foldl_canonical _ _ _ ?_ ?_; rotate_left; (intro _ _ _)) | simp | (refine State.canonical_of ?_ rfl rfl)))
theorem execGatomValue_canonical : ∀ a0 a1 s t, s.canonical → execGatomValue a0 a1 s = .next t → t.canonical := by
  intro a0 a1 s t hs h; unfold execGatomValue at h; try dsimp only at h
  repeat' split at h
  all_goals first | (injection h with h; subst h) | (cases h; done)
  all_goals (repeat' (first | with_reducible assumption | (with_reducible exact State.canonical_of hs rfl rfl) | split | (refine foldl_canonical _ _ _ ?_ ?_; rotate_left; (intro _ _ _)) | simp | (refine State.canonical_of ?_ rfl rfl)))
theorem execLandingTimeout_canonical : ∀ a0 a1 s t, s.canonical → execLandingTimeout a0 a1 s = .next t → t.canonical := by
  intro a0 a1 s t hs h; unfold execLandingTimeout at h; try dsimp only at h
  repeat' split at h
  all_goals first | (injection h with h; subst h) | (cases h; done)
  all_goals (repeat' (first | with_reducible assumption | (with_reducible exact State.canonical_of hs rfl rfl) | split | (refine foldl_canonical _ _ _ ?_ ?_; rotate_left; (intro _ _ _)) | simp | (refine State.canonical_of ?_ rfl rfl)))
theorem execHaulPassage_canonical (c : CoreId) (s t : State) (hs : s.canonical) (h : execHaulPassage c s = .next t) : t.canonical := by
  unfold execHaulPassage at h
  split at h
  · dsimp only at h; split at h
    · injection h with h; rw [← h, State.passSystem_canonical]; exact hs
    · injection h with h; rw [← h, State.passUser_canonical]; exact hs
  · cases h
theorem execBoardExhausted_canonical : ∀ a0 s t, s.canonical → execBoardExhausted a0 s = .next t → t.canonical := by
  intro a0 s t hs h; unfold execBoardExhausted at h; try dsimp only at h
  repeat' split at h
  all_goals first | (injection h with h; subst h) | (cases h; done)
  all_goals (repeat' (first | with_reducible assumption | (with_reducible exact State.canonical_of hs rfl rfl) | split | (refine foldl_canonical _ _ _ ?_ ?_; rotate_left; (intro _ _ _)) | simp | (refine State.canonical_of ?_ rfl rfl)))
theorem execFallbackCheck_canonical : ∀ a0 s t, s.canonical → execFallbackCheck a0 s = .next t → t.canonical := by
  intro a0 s t hs h; unfold execFallbackCheck at h; try dsimp only at h
  repeat' split at h
  all_goals first | (injection h with h; subst h) | (cases h; done)
  all_goals (repeat' (first | with_reducible assumption | (with_reducible exact State.canonical_of hs rfl rfl) | split | (refine foldl_canonical _ _ _ ?_ ?_; rotate_left; (intro _ _ _)) | simp | (refine State.canonical_of ?_ rfl rfl)))
theorem execWithholdRelease_canonical (c : CoreId) (k : CtxId) (s t : State) (hs : s.canonical) (h : execWithholdRelease c k s = .next t) : t.canonical := by
  unfold execWithholdRelease at h; dsimp only at h
  split at h
  · cases h
  · injection h with h; rw [← h, State.release_canonical, State.modCtx_canonical]; exact hs
theorem execTimedRemoteArrival_canonical : ∀ a0 s t, s.canonical → execTimedRemoteArrival a0 s = .next t → t.canonical := by
  intro a0 s t hs h; unfold execTimedRemoteArrival at h; try dsimp only at h
  repeat' split at h
  all_goals first | (injection h with h; subst h) | (cases h; done)
  all_goals (repeat' (first | with_reducible assumption | (with_reducible exact State.canonical_of hs rfl rfl) | split | (refine foldl_canonical _ _ _ ?_ ?_; rotate_left; (intro _ _ _)) | simp | (refine State.canonical_of ?_ rfl rfl)))
theorem execRemoteFailureReport_canonical : ∀ a0 s t, s.canonical → execRemoteFailureReport a0 s = .next t → t.canonical := by
  intro a0 s t hs h; unfold execRemoteFailureReport at h; try dsimp only at h
  repeat' split at h
  all_goals first | (injection h with h; subst h) | (cases h; done)
  all_goals (repeat' (first | with_reducible assumption | (with_reducible exact State.canonical_of hs rfl rfl) | split | (refine foldl_canonical _ _ _ ?_ ?_; rotate_left; (intro _ _ _)) | simp | (refine State.canonical_of ?_ rfl rfl)))
theorem execReusingChunkWrite_canonical : ∀ a0 a1 s t, s.canonical → execReusingChunkWrite a0 a1 s = .next t → t.canonical := by
  intro a0 a1 s t hs h; unfold execReusingChunkWrite at h; try dsimp only at h
  repeat' split at h
  all_goals first | (injection h with h; subst h) | (cases h; done)
  all_goals (repeat' (first | with_reducible assumption | (with_reducible exact State.canonical_of hs rfl rfl) | (with_reducible first | refine State.fetchWrite_canonical _ _ _ _ _ ?_) | split | (refine foldl_canonical _ _ _ ?_ ?_; rotate_left; (intro _ _ _)) | simp | (refine State.canonical_of ?_ rfl rfl)))
theorem execWalkEnd_canonical : ∀ a0 s t, s.canonical → execWalkEnd a0 s = .next t → t.canonical := by
  intro a0 s t hs h; unfold execWalkEnd at h; try dsimp only at h
  repeat' split at h
  all_goals first | (injection h with h; subst h) | (cases h; done)
  all_goals (repeat' (first | with_reducible assumption | (with_reducible exact State.canonical_of hs rfl rfl) | split | (refine foldl_canonical _ _ _ ?_ ?_; rotate_left; (intro _ _ _)) | simp | (refine State.canonical_of ?_ rfl rfl)))
theorem execLateLanding_canonical : ∀ a0 s t, s.canonical → execLateLanding a0 s = .next t → t.canonical := by
  intro a0 s t hs h; unfold execLateLanding at h; try dsimp only at h
  repeat' split at h
  all_goals first | (injection h with h; subst h) | (cases h; done)
  all_goals (repeat' (first | with_reducible assumption | (with_reducible exact State.canonical_of hs rfl rfl) | (with_reducible first | refine State.lateFails_canonical _ _ _ ?_) | split | (refine foldl_canonical _ _ _ ?_ ?_; rotate_left; (intro _ _ _)) | simp | (refine State.canonical_of ?_ rfl rfl)))
theorem execDecodeTrap_canonical : ∀ s t, s.canonical → execDecodeTrap s = .next t → t.canonical := by
  intro s t hs h; unfold execDecodeTrap at h; try dsimp only at h
  repeat' split at h
  all_goals first | (injection h with h; subst h) | (cases h; done)
  all_goals (repeat' (first | with_reducible assumption | (with_reducible exact State.canonical_of hs rfl rfl) | split | (refine foldl_canonical _ _ _ ?_ ?_; rotate_left; (intro _ _ _)) | simp | (refine State.canonical_of ?_ rfl rfl)))
theorem execCheckpoint_canonical : ∀ s t, s.canonical → execCheckpoint s = .next t → t.canonical := by
  intro s t hs h; unfold execCheckpoint at h; try dsimp only at h
  repeat' split at h
  all_goals first | (injection h with h; subst h) | (cases h; done)
  all_goals (repeat' (first | with_reducible assumption | (with_reducible exact State.canonical_of hs rfl rfl) | split | (refine foldl_canonical _ _ _ ?_ ?_; rotate_left; (intro _ _ _)) | simp | (refine State.canonical_of ?_ rfl rfl)))
theorem execYieldPoint_canonical : ∀ s t, s.canonical → execYieldPoint s = .next t → t.canonical := by
  intro s t hs h; unfold execYieldPoint at h; try dsimp only at h
  repeat' split at h
  all_goals first | (injection h with h; subst h) | (cases h; done)
  all_goals (repeat' (first | with_reducible assumption | (with_reducible exact State.canonical_of hs rfl rfl) | split | (refine foldl_canonical _ _ _ ?_ ?_; rotate_left; (intro _ _ _)) | simp | (refine State.canonical_of ?_ rfl rfl)))
theorem execLoopEndCount_canonical : ∀ s t, s.canonical → execLoopEndCount s = .next t → t.canonical := by
  intro s t hs h; unfold execLoopEndCount at h; try dsimp only at h
  repeat' split at h
  all_goals first | (injection h with h; subst h) | (cases h; done)
  all_goals (repeat' (first | with_reducible assumption | (with_reducible exact State.canonical_of hs rfl rfl) | split | (refine foldl_canonical _ _ _ ?_ ?_; rotate_left; (intro _ _ _)) | simp | (refine State.canonical_of ?_ rfl rfl)))
theorem execRollback_canonical (c : CoreId) (k : CtxId) (s t : State) (hs : s.canonical) (h : execRollback c k s = .next t) : t.canonical := by
  unfold execRollback at h
  cases e : (s.core c).trapOf k with
  | none => rw [e] at h; cases h
  | some tr => rw [e] at h; injection h with h; rw [← h]; exact (s.rollBack_canonical c k tr).2 hs
theorem execRollbackComplete_canonical : ∀ a0 a1 s t, s.canonical → execRollbackComplete a0 a1 s = .next t → t.canonical := by
  intro a0 a1 s t hs h; unfold execRollbackComplete at h; try dsimp only at h
  repeat' split at h
  all_goals first | (injection h with h; subst h) | (cases h; done)
  all_goals (repeat' (first | with_reducible assumption | (with_reducible exact State.canonical_of hs rfl rfl) | (with_reducible first | refine State.postRecord_canonical _ _ _ _ _ ?_) | split | (refine foldl_canonical _ _ _ ?_ ?_; rotate_left; (intro _ _ _)) | simp | (refine State.canonical_of ?_ rfl rfl)))
theorem execAbort_canonical (lk : Nat) (s t : State) (hs : s.canonical) (h : execAbort lk s = .next t) : t.canonical := by
  unfold execAbort at h
  cases e : s.abortDue lk with
  | false => rw [e] at h; cases h
  | true =>
    rw [e] at h; injection h with h; rw [← h, State.tellAbort_canonical, State.stopLaunch_canonical]
    exact s.noteStale_canonical lk hs
theorem execTrapcmdResume_canonical : ∀ a0 a1 s t, s.canonical → execTrapcmdResume a0 a1 s = .next t → t.canonical := by
  intro a0 a1 s t hs h; unfold execTrapcmdResume at h; try dsimp only at h
  repeat' split at h
  all_goals first | (injection h with h; subst h) | (cases h; done)
  all_goals (repeat' (first | with_reducible assumption | (with_reducible exact State.canonical_of hs rfl rfl) | split | (refine foldl_canonical _ _ _ ?_ ?_; rotate_left; (intro _ _ _)) | simp | (refine State.canonical_of ?_ rfl rfl)))
theorem execTrapcmdAbort_canonical : ∀ a0 a1 s t, s.canonical → execTrapcmdAbort a0 a1 s = .next t → t.canonical := by
  intro a0 a1 s t hs h; unfold execTrapcmdAbort at h; try dsimp only at h
  repeat' split at h
  all_goals first | (injection h with h; subst h) | (cases h; done)
  all_goals (repeat' (first | with_reducible assumption | (with_reducible exact State.canonical_of hs rfl rfl) | split | (refine foldl_canonical _ _ _ ?_ ?_; rotate_left; (intro _ _ _)) | simp | (refine State.canonical_of ?_ rfl rfl)))
theorem execStartVector_canonical : ∀ a0 a1 a2 s t, s.canonical → execStartVector a0 a1 a2 s = .next t → t.canonical := by
  intro a0 a1 a2 s t hs h; unfold execStartVector at h; try dsimp only at h
  repeat' split at h
  all_goals first | (injection h with h; subst h) | (cases h; done)
  all_goals (repeat' (first | with_reducible assumption | (with_reducible exact State.canonical_of hs rfl rfl) | (with_reducible first | refine State.endLaunch_canonical _ _ _ _ _ ?_) | split | (refine foldl_canonical _ _ _ ?_ ?_; rotate_left; (intro _ _ _)) | simp | (refine State.canonical_of ?_ rfl rfl)))
theorem execLqprio_canonical : ∀ a0 a1 s t, s.canonical → execLqprio a0 a1 s = .next t → t.canonical := by
  intro a0 a1 s t hs h; unfold execLqprio at h; try dsimp only at h
  repeat' split at h
  all_goals first | (injection h with h; subst h) | (cases h; done)
  all_goals (repeat' (first | with_reducible assumption | (with_reducible exact State.canonical_of hs rfl rfl) | split | (refine foldl_canonical _ _ _ ?_ ?_; rotate_left; (intro _ _ _)) | simp | (refine State.canonical_of ?_ rfl rfl)))
theorem execSelectionPass_canonical (s t : State) (hs : s.canonical) (h : execSelectionPass s = .next t) : t.canonical := by
  unfold execSelectionPass at h
  cases e : s.selectDue with
  | false => rw [e] at h; cases h
  | true =>
    rw [e] at h; injection h with h; rw [← h]
    exact foldl_canonical _ _ _ hs fun u n hu => u.select_canonical n hu
theorem execAgingStep_canonical : ∀ a0 a1 s t, s.canonical → execAgingStep a0 a1 s = .next t → t.canonical := by
  intro a0 a1 s t hs h; unfold execAgingStep at h; try dsimp only at h
  repeat' split at h
  all_goals first | (injection h with h; subst h) | (cases h; done)
  all_goals (repeat' (first | with_reducible assumption | (with_reducible exact State.canonical_of hs rfl rfl) | split | (refine foldl_canonical _ _ _ ?_ ?_; rotate_left; (intro _ _ _)) | simp | (refine State.canonical_of ?_ rfl rfl)))
theorem execStartCycle_canonical : ∀ a0 s t, s.canonical → execStartCycle a0 s = .next t → t.canonical := by
  intro a0 s t hs h; unfold execStartCycle at h; try dsimp only at h
  repeat' split at h
  all_goals first | (injection h with h; subst h) | (cases h; done)
  all_goals (repeat' (first | with_reducible assumption | (with_reducible exact State.canonical_of hs rfl rfl) | split | (refine foldl_canonical _ _ _ ?_ ?_; rotate_left; (intro _ _ _)) | simp | (refine State.canonical_of ?_ rfl rfl)))
theorem execRetirementPoint_canonical (lk : Nat) (s t : State) (hs : s.canonical) (h : execRetirementPoint lk s = .next t) : t.canonical := by
  unfold execRetirementPoint at h
  cases e : s.launch lk with
  | none => rw [e] at h; cases h
  | some l =>
    rw [e] at h; dsimp only at h
    split at h
    · injection h with h; rw [← h]
      refine State.parkIfDone_canonical _ _ (State.endLaunch_canonical _ _ _ _ _ ?_)
      rw [State.freeSkips_canonical]
      exact foldl_canonical _ _ _ hs fun u c hu => (u.retireCore_canonical l _ c).2 hu
    · cases h
theorem execYieldSave_canonical (lk : Nat) (s t : State) (hs : s.canonical) (h : execYieldSave lk s = .next t) : t.canonical := by
  unfold execYieldSave at h
  cases e : s.launch lk with
  | none => rw [e] at h; cases h
  | some l =>
    rw [e] at h; dsimp only at h
    split at h
    · injection h with h; rw [← h]
      refine State.parkIfDone_canonical _ _ ?_
      have h1 : (l.coreIds.foldl (fun s c => s.saveCore lk (l.yreq == some .iteration) c) s).canonical :=
        foldl_canonical _ _ _ hs fun u c hu => (u.saveCore_canonical lk _ c).2 hu
      have h2 := (State.modLaunch_canonical _ lk fun x => { x with st := .saved, yreq := none, yieldAt := none }).2 h1
      exact (State.swapResume_canonical _ _).2 ⟨h2.1, h2.2⟩
    · cases h
theorem execPreemptResume_canonical : ∀ a0 s t, s.canonical → execPreemptResume a0 s = .next t → t.canonical := by
  intro a0 s t hs h; unfold execPreemptResume at h; try dsimp only at h
  repeat' split at h
  all_goals first | (injection h with h; subst h) | (cases h; done)
  all_goals (repeat' (first | with_reducible assumption | (with_reducible exact State.canonical_of hs rfl rfl) | (with_reducible first | refine State.unpark_canonical _ _ _ ?_) | split | (refine foldl_canonical _ _ _ ?_ ?_; rotate_left; (intro _ _ _)) | simp | (refine State.canonical_of ?_ rfl rfl)))
theorem execSwapOut_canonical : ∀ a0 a1 s t, s.canonical → execSwapOut a0 a1 s = .next t → t.canonical := by
  intro a0 a1 s t hs h; unfold execSwapOut at h; try dsimp only at h
  repeat' split at h
  all_goals first | (injection h with h; subst h) | (cases h; done)
  all_goals (repeat' (first | with_reducible assumption | (with_reducible exact State.canonical_of hs rfl rfl) | (with_reducible first | refine State.parkIfDone_canonical _ _ ?_) | split | (refine foldl_canonical _ _ _ ?_ ?_; rotate_left; (intro _ _ _)) | simp | (refine State.canonical_of ?_ rfl rfl)))
theorem execSwapIn_canonical : ∀ a0 a1 s t, s.canonical → execSwapIn a0 a1 s = .next t → t.canonical := by
  intro a0 a1 s t hs h; unfold execSwapIn at h; try dsimp only at h
  repeat' split at h
  all_goals first | (injection h with h; subst h) | (cases h; done)
  all_goals (repeat' (first | with_reducible assumption | (with_reducible exact State.canonical_of hs rfl rfl) | split | (refine foldl_canonical _ _ _ ?_ ?_; rotate_left; (intro _ _ _)) | simp | (refine State.canonical_of ?_ rfl rfl)))
theorem execImagePrefixCheck_canonical : ∀ a0 s t, s.canonical → execImagePrefixCheck a0 s = .next t → t.canonical := by
  intro a0 s t hs h; unfold execImagePrefixCheck at h; try dsimp only at h
  repeat' split at h
  all_goals first | (injection h with h; subst h) | (cases h; done)
  all_goals (repeat' (first | with_reducible assumption | (with_reducible exact State.canonical_of hs rfl rfl) | split | (refine foldl_canonical _ _ _ ?_ ?_; rotate_left; (intro _ _ _)) | simp | (refine State.canonical_of ?_ rfl rfl)))
theorem execChunkLands_canonical : ∀ a0 s t, s.canonical → execChunkLands a0 s = .next t → t.canonical := by
  intro a0 s t hs h; unfold execChunkLands at h; try dsimp only at h
  repeat' split at h
  all_goals first | (injection h with h; subst h) | (cases h; done)
  all_goals (repeat' (first | with_reducible assumption | (with_reducible exact State.canonical_of hs rfl rfl) | (with_reducible first | refine State.stopStream_canonical _ _ _ ?_) | split | (refine foldl_canonical _ _ _ ?_ ?_; rotate_left; (intro _ _ _)) | simp | (refine State.canonical_of ?_ rfl rfl)))
theorem execFullDigestDecided_canonical : ∀ a0 s t, s.canonical → execFullDigestDecided a0 s = .next t → t.canonical := by
  intro a0 s t hs h; unfold execFullDigestDecided at h; try dsimp only at h
  repeat' split at h
  all_goals first | (injection h with h; subst h) | (cases h; done)
  all_goals (repeat' (first | with_reducible assumption | (with_reducible exact State.canonical_of hs rfl rfl) | (with_reducible first | refine State.postRecord_canonical _ _ _ _ _ ?_ | refine State.refuseImage_canonical _ _ _ _ _ ?_) | split | (refine foldl_canonical _ _ _ ?_ ?_; rotate_left; (intro _ _ _)) | simp | (refine State.canonical_of ?_ rfl rfl)))
theorem execMgmtClaim_canonical : ∀ a0 s t, s.canonical → execMgmtClaim a0 s = .next t → t.canonical := by
  intro a0 s t hs h; unfold execMgmtClaim at h; try dsimp only at h
  repeat' split at h
  all_goals first | (injection h with h; subst h) | (cases h; done)
  all_goals (repeat' (first | with_reducible assumption | (with_reducible exact State.canonical_of hs rfl rfl) | split | (refine foldl_canonical _ _ _ ?_ ?_; rotate_left; (intro _ _ _)) | simp | (refine State.canonical_of ?_ rfl rfl)))
theorem execMgmtRelease_canonical : ∀ a0 s t, s.canonical → execMgmtRelease a0 s = .next t → t.canonical := by
  intro a0 s t hs h; unfold execMgmtRelease at h; try dsimp only at h
  repeat' split at h
  all_goals first | (injection h with h; subst h) | (cases h; done)
  all_goals (repeat' (first | with_reducible assumption | (with_reducible exact State.canonical_of hs rfl rfl) | split | (refine foldl_canonical _ _ _ ?_ ?_; rotate_left; (intro _ _ _)) | simp | (refine State.canonical_of ?_ rfl rfl)))
theorem execMgmtHandOver_canonical : ∀ a0 a1 s t, s.canonical → execMgmtHandOver a0 a1 s = .next t → t.canonical := by
  intro a0 a1 s t hs h; unfold execMgmtHandOver at h; try dsimp only at h
  repeat' split at h
  all_goals first | (injection h with h; subst h) | (cases h; done)
  all_goals (repeat' (first | with_reducible assumption | (with_reducible exact State.canonical_of hs rfl rfl) | split | (refine foldl_canonical _ _ _ ?_ ?_; rotate_left; (intro _ _ _)) | simp | (refine State.canonical_of ?_ rfl rfl)))
theorem execPartmapWrite_canonical : ∀ a0 a1 s t, s.canonical → execPartmapWrite a0 a1 s = .next t → t.canonical := by
  intro a0 a1 s t hs h; unfold execPartmapWrite at h; try dsimp only at h
  repeat' split at h
  all_goals first | (injection h with h; subst h) | (cases h; done)
  all_goals (repeat' (first | with_reducible assumption | (with_reducible exact State.canonical_of hs rfl rfl) | split | (refine foldl_canonical _ _ _ ?_ ?_; rotate_left; (intro _ _ _)) | simp | (refine State.canonical_of ?_ rfl rfl)))
theorem execHwbaseWrite_canonical : ∀ a0 a1 s t, s.canonical → execHwbaseWrite a0 a1 s = .next t → t.canonical := by
  intro a0 a1 s t hs h; unfold execHwbaseWrite at h; try dsimp only at h
  repeat' split at h
  all_goals first | (injection h with h; subst h) | (cases h; done)
  all_goals (repeat' (first | with_reducible assumption | (with_reducible exact State.canonical_of hs rfl rfl) | split | (refine foldl_canonical _ _ _ ?_ ?_; rotate_left; (intro _ _ _)) | simp | (refine State.canonical_of ?_ rfl rfl)))
theorem execWcinv_canonical : ∀ a0 a1 s t, s.canonical → execWcinv a0 a1 s = .next t → t.canonical := by
  intro a0 a1 s t hs h; unfold execWcinv at h; try dsimp only at h
  repeat' split at h
  all_goals first | (injection h with h; subst h) | (cases h; done)
  all_goals (repeat' (first | with_reducible assumption | (with_reducible exact State.canonical_of hs rfl rfl) | split | (refine foldl_canonical _ _ _ ?_ ?_; rotate_left; (intro _ _ _)) | simp | (refine State.canonical_of ?_ rfl rfl)))
theorem execBsinv_canonical : ∀ a0 a1 s t, s.canonical → execBsinv a0 a1 s = .next t → t.canonical := by
  intro a0 a1 s t hs h; unfold execBsinv at h; try dsimp only at h
  repeat' split at h
  all_goals first | (injection h with h; subst h) | (cases h; done)
  all_goals (repeat' (first | with_reducible assumption | (with_reducible exact State.canonical_of hs rfl rfl) | split | (refine foldl_canonical _ _ _ ?_ ?_; rotate_left; (intro _ _ _)) | simp | (refine State.canonical_of ?_ rfl rfl)))
theorem execRacepolWrite_canonical : ∀ a0 a1 s t, s.canonical → execRacepolWrite a0 a1 s = .next t → t.canonical := by
  intro a0 a1 s t hs h; unfold execRacepolWrite at h; try dsimp only at h
  repeat' split at h
  all_goals first | (injection h with h; subst h) | (cases h; done)
  all_goals (repeat' (first | with_reducible assumption | (with_reducible exact State.canonical_of hs rfl rfl) | split | (refine foldl_canonical _ _ _ ?_ ?_; rotate_left; (intro _ _ _)) | simp | (refine State.canonical_of ?_ rfl rfl)))
theorem execPodcfgWrite_canonical (a : Agent) (v : BitVec 64) (s t : State) (hs : s.canonical) (h : execPodcfgWrite a v s = .next t) : t.canonical := by
  unfold execPodcfgWrite at h
  split at h
  · injection h with h; rw [← h]; exact hs
  · split at h
    · injection h with h; rw [← h]; exact hs
    · dsimp only at h; injection h with h; rw [← h]
      refine foldl_canonical _ _ _ ⟨hs.1, hs.2⟩ fun u p hu => ?_
      split
      · exact (State.queuePacket_canonical _ _ _ _).2 hu
      · exact hu
theorem execLinkcmdRetrain_canonical : ∀ a0 a1 s t, s.canonical → execLinkcmdRetrain a0 a1 s = .next t → t.canonical := by
  intro a0 a1 s t hs h; unfold execLinkcmdRetrain at h; try dsimp only at h
  repeat' split at h
  all_goals first | (injection h with h; subst h) | (cases h; done)
  all_goals (repeat' (first | with_reducible assumption | (with_reducible exact State.canonical_of hs rfl rfl) | split | (refine foldl_canonical _ _ _ ?_ ?_; rotate_left; (intro _ _ _)) | simp | (refine State.canonical_of ?_ rfl rfl)))
theorem execPwrbudWrite_canonical : ∀ a0 a1 s t, s.canonical → execPwrbudWrite a0 a1 s = .next t → t.canonical := by
  intro a0 a1 s t hs h; unfold execPwrbudWrite at h; try dsimp only at h
  repeat' split at h
  all_goals first | (injection h with h; subst h) | (cases h; done)
  all_goals (repeat' (first | with_reducible assumption | (with_reducible exact State.canonical_of hs rfl rfl) | split | (refine foldl_canonical _ _ _ ?_ ?_; rotate_left; (intro _ _ _)) | simp | (refine State.canonical_of ?_ rfl rfl)))
theorem execThermstClear_canonical : ∀ a0 a1 s t, s.canonical → execThermstClear a0 a1 s = .next t → t.canonical := by
  intro a0 a1 s t hs h; unfold execThermstClear at h; try dsimp only at h
  repeat' split at h
  all_goals first | (injection h with h; subst h) | (cases h; done)
  all_goals (repeat' (first | with_reducible assumption | (with_reducible exact State.canonical_of hs rfl rfl) | split | (refine foldl_canonical _ _ _ ?_ ?_; rotate_left; (intro _ _ _)) | simp | (refine State.canonical_of ?_ rfl rfl)))
theorem execRegisterWrite_canonical : ∀ a0 a1 a2 s t, s.canonical → execRegisterWrite a0 a1 a2 s = .next t → t.canonical := by
  intro a0 a1 a2 s t hs h; unfold execRegisterWrite at h; try dsimp only at h
  repeat' split at h
  all_goals first | (injection h with h; subst h) | (cases h; done)
  all_goals (repeat' (first | with_reducible assumption | (with_reducible exact State.canonical_of hs rfl rfl) | split | (refine foldl_canonical _ _ _ ?_ ?_; rotate_left; (intro _ _ _)) | simp | (refine State.canonical_of ?_ rfl rfl)))
theorem execPackageReset_canonical (s t : State) (hs : s.canonical) (h : execPackageReset s = .next t) : t.canonical := by
  unfold execPackageReset at h; injection h with h; rw [← h]; exact ⟨reset_mem_wf, hs.2⟩
theorem execDbgHalt_canonical : ∀ a0 a1 s t, s.canonical → execDbgHalt a0 a1 s = .next t → t.canonical := by
  intro a0 a1 s t hs h; unfold execDbgHalt at h; try dsimp only at h
  repeat' split at h
  all_goals first | (injection h with h; subst h) | (cases h; done)
  all_goals (repeat' (first | with_reducible assumption | (with_reducible exact State.canonical_of hs rfl rfl) | (with_reducible first | refine State.dbgCommand_canonical _ _ _ _ _ ?_) | split | (refine foldl_canonical _ _ _ ?_ ?_; rotate_left; (intro _ _ _)) | simp | (refine State.canonical_of ?_ rfl rfl)))
theorem execDbgResume_canonical : ∀ a0 a1 s t, s.canonical → execDbgResume a0 a1 s = .next t → t.canonical := by
  intro a0 a1 s t hs h; unfold execDbgResume at h; try dsimp only at h
  repeat' split at h
  all_goals first | (injection h with h; subst h) | (cases h; done)
  all_goals (repeat' (first | with_reducible assumption | (with_reducible exact State.canonical_of hs rfl rfl) | (with_reducible first | refine State.dbgCommand_canonical _ _ _ _ _ ?_) | split | (refine foldl_canonical _ _ _ ?_ ?_; rotate_left; (intro _ _ _)) | simp | (refine State.canonical_of ?_ rfl rfl)))
theorem execDbgReadReg_canonical : ∀ a0 a1 s t, s.canonical → execDbgReadReg a0 a1 s = .next t → t.canonical := by
  intro a0 a1 s t hs h; unfold execDbgReadReg at h; try dsimp only at h
  repeat' split at h
  all_goals first | (injection h with h; subst h) | (cases h; done)
  all_goals (repeat' (first | with_reducible assumption | (with_reducible exact State.canonical_of hs rfl rfl) | (with_reducible first | refine State.dbgCommand_canonical _ _ _ _ _ ?_) | split | (refine foldl_canonical _ _ _ ?_ ?_; rotate_left; (intro _ _ _)) | simp | (refine State.canonical_of ?_ rfl rfl)))
theorem execDbgWriteReg_canonical : ∀ a0 a1 s t, s.canonical → execDbgWriteReg a0 a1 s = .next t → t.canonical := by
  intro a0 a1 s t hs h; unfold execDbgWriteReg at h; try dsimp only at h
  repeat' split at h
  all_goals first | (injection h with h; subst h) | (cases h; done)
  all_goals (repeat' (first | with_reducible assumption | (with_reducible exact State.canonical_of hs rfl rfl) | (with_reducible first | refine State.dbgCommand_canonical _ _ _ _ _ ?_) | split | (refine foldl_canonical _ _ _ ?_ ?_; rotate_left; (intro _ _ _)) | simp | (refine State.canonical_of ?_ rfl rfl)))
theorem execDbgReadMem_canonical : ∀ a0 a1 s t, s.canonical → execDbgReadMem a0 a1 s = .next t → t.canonical := by
  intro a0 a1 s t hs h; unfold execDbgReadMem at h; try dsimp only at h
  repeat' split at h
  all_goals first | (injection h with h; subst h) | (cases h; done)
  all_goals (repeat' (first | with_reducible assumption | (with_reducible exact State.canonical_of hs rfl rfl) | (with_reducible first | refine State.dbgCommand_canonical _ _ _ _ _ ?_) | split | (refine foldl_canonical _ _ _ ?_ ?_; rotate_left; (intro _ _ _)) | simp | (refine State.canonical_of ?_ rfl rfl)))
theorem execDbgWriteMem_canonical : ∀ a0 a1 s t, s.canonical → execDbgWriteMem a0 a1 s = .next t → t.canonical := by
  intro a0 a1 s t hs h; unfold execDbgWriteMem at h; try dsimp only at h
  repeat' split at h
  all_goals first | (injection h with h; subst h) | (cases h; done)
  all_goals (repeat' (first | with_reducible assumption | (with_reducible exact State.canonical_of hs rfl rfl) | (with_reducible first | refine State.dbgCommand_canonical _ _ _ _ _ ?_) | split | (refine foldl_canonical _ _ _ ?_ ?_; rotate_left; (intro _ _ _)) | simp | (refine State.canonical_of ?_ rfl rfl)))
theorem execDbgReadDebugReg_canonical : ∀ a0 a1 s t, s.canonical → execDbgReadDebugReg a0 a1 s = .next t → t.canonical := by
  intro a0 a1 s t hs h; unfold execDbgReadDebugReg at h; try dsimp only at h
  repeat' split at h
  all_goals first | (injection h with h; subst h) | (cases h; done)
  all_goals (repeat' (first | with_reducible assumption | (with_reducible exact State.canonical_of hs rfl rfl) | (with_reducible first | refine State.dbgCommand_canonical _ _ _ _ _ ?_) | split | (refine foldl_canonical _ _ _ ?_ ?_; rotate_left; (intro _ _ _)) | simp | (refine State.canonical_of ?_ rfl rfl)))
theorem execDbgWriteDebugReg_canonical : ∀ a0 a1 s t, s.canonical → execDbgWriteDebugReg a0 a1 s = .next t → t.canonical := by
  intro a0 a1 s t hs h; unfold execDbgWriteDebugReg at h; try dsimp only at h
  repeat' split at h
  all_goals first | (injection h with h; subst h) | (cases h; done)
  all_goals (repeat' (first | with_reducible assumption | (with_reducible exact State.canonical_of hs rfl rfl) | (with_reducible first | refine State.dbgCommand_canonical _ _ _ _ _ ?_) | split | (refine foldl_canonical _ _ _ ?_ ?_; rotate_left; (intro _ _ _)) | simp | (refine State.canonical_of ?_ rfl rfl)))
theorem execDbgHaltLaunch_canonical : ∀ a0 a1 s t, s.canonical → execDbgHaltLaunch a0 a1 s = .next t → t.canonical := by
  intro a0 a1 s t hs h; unfold execDbgHaltLaunch at h; try dsimp only at h
  repeat' split at h
  all_goals first | (injection h with h; subst h) | (cases h; done)
  all_goals (repeat' (first | with_reducible assumption | (with_reducible exact State.canonical_of hs rfl rfl) | (with_reducible first | refine State.dbgCommand_canonical _ _ _ _ _ ?_) | split | (refine foldl_canonical _ _ _ ?_ ?_; rotate_left; (intro _ _ _)) | simp | (refine State.canonical_of ?_ rfl rfl)))
theorem execDbgResumeLaunch_canonical : ∀ a0 a1 s t, s.canonical → execDbgResumeLaunch a0 a1 s = .next t → t.canonical := by
  intro a0 a1 s t hs h; unfold execDbgResumeLaunch at h; try dsimp only at h
  repeat' split at h
  all_goals first | (injection h with h; subst h) | (cases h; done)
  all_goals (repeat' (first | with_reducible assumption | (with_reducible exact State.canonical_of hs rfl rfl) | (with_reducible first | refine State.dbgCommand_canonical _ _ _ _ _ ?_) | split | (refine foldl_canonical _ _ _ ?_ ?_; rotate_left; (intro _ _ _)) | simp | (refine State.canonical_of ?_ rfl rfl)))
theorem execProfctlClr_canonical : ∀ a0 a1 s t, s.canonical → execProfctlClr a0 a1 s = .next t → t.canonical := by
  intro a0 a1 s t hs h; unfold execProfctlClr at h; try dsimp only at h
  repeat' split at h
  all_goals first | (injection h with h; subst h) | (cases h; done)
  all_goals (repeat' (first | with_reducible assumption | (with_reducible exact State.canonical_of hs rfl rfl) | (with_reducible first | refine State.dbgCommand_canonical _ _ _ _ _ ?_) | split | (refine foldl_canonical _ _ _ ?_ ?_; rotate_left; (intro _ _ _)) | simp | (refine State.canonical_of ?_ rfl rfl)))
theorem execDbgForwardTimeout_canonical : ∀ a0 s t, s.canonical → execDbgForwardTimeout a0 s = .next t → t.canonical := by
  intro a0 s t hs h; unfold execDbgForwardTimeout at h; try dsimp only at h
  repeat' split at h
  all_goals first | (injection h with h; subst h) | (cases h; done)
  all_goals (repeat' (first | with_reducible assumption | (with_reducible exact State.canonical_of hs rfl rfl) | split | (refine foldl_canonical _ _ _ ?_ ?_; rotate_left; (intro _ _ _)) | simp | (refine State.canonical_of ?_ rfl rfl)))
theorem execWatchReport_canonical : ∀ a0 s t, s.canonical → execWatchReport a0 s = .next t → t.canonical := by
  intro a0 s t hs h; unfold execWatchReport at h; try dsimp only at h
  repeat' split at h
  all_goals first | (injection h with h; subst h) | (cases h; done)
  all_goals (repeat' (first | with_reducible assumption | (with_reducible exact State.canonical_of hs rfl rfl) | split | (refine foldl_canonical _ _ _ ?_ ?_; rotate_left; (intro _ _ _)) | simp | (refine State.canonical_of ?_ rfl rfl)))
theorem execStopall_canonical : ∀ a0 a1 s t, s.canonical → execStopall a0 a1 s = .next t → t.canonical := by
  intro a0 a1 s t hs h; unfold execStopall at h; try dsimp only at h
  repeat' split at h
  all_goals first | (injection h with h; subst h) | (cases h; done)
  all_goals (repeat' (first | with_reducible assumption | (with_reducible exact State.canonical_of hs rfl rfl) | split | (refine foldl_canonical _ _ _ ?_ ?_; rotate_left; (intro _ _ _)) | simp | (refine State.canonical_of ?_ rfl rfl)))
theorem execDbgpolCommit_canonical (n : Fin 9) (s t : State) (hs : s.canonical) (h : execDbgpolCommit n s = .next t) : t.canonical := by
  unfold execDbgpolCommit at h; dsimp only at h; injection h with h
  rw [← h, State.tickFree_canonical]
  split
  · rw [State.closeDebug_canonical, State.modVf_canonical]; exact hs
  · rw [State.modVf_canonical]; exact hs
theorem execProgramStart_canonical : ∀ a0 s t, s.canonical → execProgramStart a0 s = .next t → t.canonical := by
  intro a0 s t hs h; unfold execProgramStart at h; try dsimp only at h
  repeat' split at h
  all_goals first | (injection h with h; subst h) | (cases h; done)
  all_goals (repeat' (first | with_reducible assumption | (with_reducible exact State.canonical_of hs rfl rfl) | split | (refine foldl_canonical _ _ _ ?_ ?_; rotate_left; (intro _ _ _)) | simp | (refine State.canonical_of ?_ rfl rfl)))
theorem execSend_canonical : ∀ a0 a1 s t, s.canonical → execSend a0 a1 s = .next t → t.canonical := by
  intro a0 a1 s t hs h; unfold execSend at h; try dsimp only at h
  repeat' split at h
  all_goals first | (injection h with h; subst h) | (cases h; done)
  all_goals (repeat' (first | with_reducible assumption | (with_reducible exact State.canonical_of hs rfl rfl) | (with_reducible first | refine State.bind_canonical _ _ ?_) | split | (refine foldl_canonical _ _ _ ?_ ?_; rotate_left; (intro _ _ _)) | simp | (refine State.canonical_of ?_ rfl rfl)))
theorem execFwd_canonical : ∀ a0 a1 s t, s.canonical → execFwd a0 a1 s = .next t → t.canonical := by
  intro a0 a1 s t hs h; unfold execFwd at h; try dsimp only at h
  repeat' split at h
  all_goals first | (injection h with h; subst h) | (cases h; done)
  all_goals (repeat' (first | with_reducible assumption | (with_reducible exact State.canonical_of hs rfl rfl) | split | (refine foldl_canonical _ _ _ ?_ ?_; rotate_left; (intro _ _ _)) | simp | (refine State.canonical_of ?_ rfl rfl)))
theorem execRecv_canonical : ∀ a0 a1 s t, s.canonical → execRecv a0 a1 s = .next t → t.canonical := by
  intro a0 a1 s t hs h; unfold execRecv at h; try dsimp only at h
  repeat' split at h
  all_goals first | (injection h with h; subst h) | (cases h; done)
  all_goals (repeat' (first | with_reducible assumption | (with_reducible exact State.canonical_of hs rfl rfl) | (with_reducible first | refine State.bind_canonical _ _ ?_) | split | (refine foldl_canonical _ _ _ ?_ ?_; rotate_left; (intro _ _ _)) | simp | (refine State.canonical_of ?_ rfl rfl)))
theorem execElasticBufferFault_canonical : ∀ a0 s t, s.canonical → execElasticBufferFault a0 s = .next t → t.canonical := by
  intro a0 s t hs h; unfold execElasticBufferFault at h; try dsimp only at h
  repeat' split at h
  all_goals first | (injection h with h; subst h) | (cases h; done)
  all_goals (repeat' (first | with_reducible assumption | (with_reducible exact State.canonical_of hs rfl rfl) | split | (refine foldl_canonical _ _ _ ?_ ?_; rotate_left; (intro _ _ _)) | simp | (refine State.canonical_of ?_ rfl rfl)))
theorem execGuardInterval_canonical : ∀ a0 s t, s.canonical → execGuardInterval a0 s = .next t → t.canonical := by
  intro a0 s t hs h; unfold execGuardInterval at h; try dsimp only at h
  repeat' split at h
  all_goals first | (injection h with h; subst h) | (cases h; done)
  all_goals (repeat' (first | with_reducible assumption | (with_reducible exact State.canonical_of hs rfl rfl) | split | (refine foldl_canonical _ _ _ ?_ ?_; rotate_left; (intro _ _ _)) | simp | (refine State.canonical_of ?_ rfl rfl)))
theorem execRetrainingDone_canonical : ∀ a0 a1 a2 a3 s t, s.canonical → execRetrainingDone a0 a1 a2 a3 s = .next t → t.canonical := by
  intro a0 a1 a2 a3 s t hs h; unfold execRetrainingDone at h; try dsimp only at h
  repeat' split at h
  all_goals first | (injection h with h; subst h) | (cases h; done)
  all_goals (repeat' (first | with_reducible assumption | (with_reducible exact State.canonical_of hs rfl rfl) | split | (refine foldl_canonical _ _ _ ?_ ?_; rotate_left; (intro _ _ _)) | simp | (refine State.canonical_of ?_ rfl rfl)))
theorem execFaultNotice_canonical : ∀ a0 a1 s t, s.canonical → execFaultNotice a0 a1 s = .next t → t.canonical := by
  intro a0 a1 s t hs h; unfold execFaultNotice at h; try dsimp only at h
  repeat' split at h
  all_goals first | (injection h with h; subst h) | (cases h; done)
  all_goals (repeat' (first | with_reducible assumption | (with_reducible exact State.canonical_of hs rfl rfl) | split | (refine foldl_canonical _ _ _ ?_ ?_; rotate_left; (intro _ _ _)) | simp | (refine State.canonical_of ?_ rfl rfl)))
theorem execLinkFault_canonical (lk entry : Nat) (s t : State) (hs : s.canonical) (h : execLinkFault lk entry s = .next t) : t.canonical := by
  unfold execLinkFault at h
  have hl : ∀ l p, (s.linkFault l p).canonical := fun l p => (s.linkFault_canonical l p).2 hs
  split at h
  · split at h
    · unfold State.flowFault at h
      split at h
      · injection h with h; rw [← h]
        exact (State.modFlow_canonical _ _ _ _).2 (hl _ _)
      · cases h
    · split at h
      · split at h
        · injection h with h; rw [← h]
          split
          · exact ⟨(hl _ _).1, (hl _ _).2⟩
          · exact hs
        · cases h
      · cases h
  · cases h
theorem execFlitArrival_canonical : ∀ a0 a1 a2 a3 a4 s t, s.canonical → execFlitArrival a0 a1 a2 a3 a4 s = .next t → t.canonical := by
  intro a0 a1 a2 a3 a4 s t hs h; unfold execFlitArrival at h; try dsimp only at h
  repeat' split at h
  all_goals first | (injection h with h; subst h) | (cases h; done)
  all_goals (repeat' (first | with_reducible assumption | (with_reducible exact State.canonical_of hs rfl rfl) | split | (refine foldl_canonical _ _ _ ?_ ?_; rotate_left; (intro _ _ _)) | simp | (refine State.canonical_of ?_ rfl rfl)))
theorem execOpenPacketArrival_canonical : ∀ a0 a1 a2 s t, s.canonical → execOpenPacketArrival a0 a1 a2 s = .next t → t.canonical := by
  intro a0 a1 a2 s t hs h; unfold execOpenPacketArrival at h; try dsimp only at h
  repeat' split at h
  all_goals first | (injection h with h; subst h) | (cases h; done)
  all_goals (repeat' (first | with_reducible assumption | (with_reducible exact State.canonical_of hs rfl rfl) | (with_reducible first | refine State.openEnd_canonical _ _ _ _ ?_) | split | (refine foldl_canonical _ _ _ ?_ ?_; rotate_left; (intro _ _ _)) | simp | (refine State.canonical_of ?_ rfl rfl)))
theorem execTimeExchange_canonical : ∀ a0 a1 a2 a3 s t, s.canonical → execTimeExchange a0 a1 a2 a3 s = .next t → t.canonical := by
  intro a0 a1 a2 a3 s t hs h; unfold execTimeExchange at h; try dsimp only at h
  repeat' split at h
  all_goals first | (injection h with h; subst h) | (cases h; done)
  all_goals (repeat' (first | with_reducible assumption | (with_reducible exact State.canonical_of hs rfl rfl) | split | (refine foldl_canonical _ _ _ ?_ ?_; rotate_left; (intro _ _ _)) | simp | (refine State.canonical_of ?_ rfl rfl)))
theorem execLockLoss_canonical : ∀ s t, s.canonical → execLockLoss s = .next t → t.canonical := by
  intro s t hs h; unfold execLockLoss at h; try dsimp only at h
  repeat' split at h
  all_goals first | (injection h with h; subst h) | (cases h; done)
  all_goals (repeat' (first | with_reducible assumption | (with_reducible exact State.canonical_of hs rfl rfl) | split | (refine foldl_canonical _ _ _ ?_ ?_; rotate_left; (intro _ _ _)) | simp | (refine State.canonical_of ?_ rfl rfl)))
theorem execPodBarrierSlot_canonical : ∀ a0 s t, s.canonical → execPodBarrierSlot a0 s = .next t → t.canonical := by
  intro a0 s t hs h; unfold execPodBarrierSlot at h; try dsimp only at h
  repeat' split at h
  all_goals first | (injection h with h; subst h) | (cases h; done)
  all_goals (repeat' (first | with_reducible assumption | (with_reducible exact State.canonical_of hs rfl rfl) | split | (refine foldl_canonical _ _ _ ?_ ?_; rotate_left; (intro _ _ _)) | simp | (refine State.canonical_of ?_ rfl rfl)))
theorem execPodBarrierComplete_canonical (lk : Nat) (s t : State) (hs : s.canonical) (h : execPodBarrierComplete lk s = .next t) : t.canonical := by
  unfold execPodBarrierComplete at h
  cases e : s.launch lk with
  | none => rw [e] at h; cases h
  | some l =>
    rw [e] at h; dsimp only at h
    split at h
    · injection h with h; rw [← h]
      refine foldl_canonical _ _ _ hs fun u n hu => ?_
      refine foldl_canonical _ _ _ ((State.modPod_canonical _ _ _).2 hu) fun w c hw => ?_
      rw [State.barWake_canonical, State.modCore_canonical]; exact hw
    · cases h
theorem execContainment_canonical (lk : Nat) (s t : State) (hs : s.canonical) (h : execContainment lk s = .next t) : t.canonical := by
  have hp : ∀ (u : State) (l : Launch) (a b c : Nat), u.canonical → (u.podTraps l a b c).canonical := fun u l a b c hu => u.podTraps_canonical l a b c hu
  have hm : ∀ (u : State) (k : Nat) (f : PodSt → PodSt), u.canonical → (u.modPod k f).canonical := fun u k f hu => (u.modPod_canonical k f).2 hu
  have hd : ∀ (u : State) (k a b c : Nat), u.canonical → (u.decideAbort k a b c).canonical := fun u k a b c hu => (u.decideAbort_canonical k a b c).2 hu
  unfold execContainment at h
  cases e : s.launch lk with
  | none => rw [e] at h; cases h
  | some l =>
    rw [e] at h; dsimp only at h
    split at h
    · split at h
      · split at h
        · injection h with h; rw [← h]
          split
          · exact hm _ _ _ hs
          · exact hd _ _ _ _ _ (hp _ _ _ _ _ (hm _ _ _ hs))
        · injection h with h; rw [← h]
          refine hm _ _ _ (hp _ _ _ _ _ ?_)
          cases vfOf l.part with
          | none => exact hs
          | some n => dsimp only [Option.elim]; rw [State.modVf_canonical]; exact hs
      · injection h with h; rw [← h]
        split
        · exact hm _ _ _ hs
        · exact hd _ _ _ _ _ (hp _ _ _ _ _ (hm _ _ _ hs))
    · cases h
theorem execContainmentResume_canonical : ∀ a0 s t, s.canonical → execContainmentResume a0 s = .next t → t.canonical := by
  intro a0 s t hs h; unfold execContainmentResume at h; try dsimp only at h
  repeat' split at h
  all_goals first | (injection h with h; subst h) | (cases h; done)
  all_goals (repeat' (first | with_reducible assumption | (with_reducible exact State.canonical_of hs rfl rfl) | split | (refine foldl_canonical _ _ _ ?_ ?_; rotate_left; (intro _ _ _)) | simp | (refine State.canonical_of ?_ rfl rfl)))
theorem execGetVersion_canonical : ∀ a0 s t, s.canonical → execGetVersion a0 s = .next t → t.canonical := by
  intro a0 s t hs h; unfold execGetVersion at h; try dsimp only at h
  repeat' split at h
  all_goals first | (injection h with h; subst h) | (cases h; done)
  all_goals (repeat' (first | with_reducible assumption | (with_reducible exact State.canonical_of hs rfl rfl) | split | (refine foldl_canonical _ _ _ ?_ ?_; rotate_left; (intro _ _ _)) | simp | (refine State.canonical_of ?_ rfl rfl)))
theorem execGetCapabilities_canonical : ∀ a0 s t, s.canonical → execGetCapabilities a0 s = .next t → t.canonical := by
  intro a0 s t hs h; unfold execGetCapabilities at h; try dsimp only at h
  repeat' split at h
  all_goals first | (injection h with h; subst h) | (cases h; done)
  all_goals (repeat' (first | with_reducible assumption | (with_reducible exact State.canonical_of hs rfl rfl) | split | (refine foldl_canonical _ _ _ ?_ ?_; rotate_left; (intro _ _ _)) | simp | (refine State.canonical_of ?_ rfl rfl)))
theorem execNegotiateAlgorithms_canonical : ∀ a0 s t, s.canonical → execNegotiateAlgorithms a0 s = .next t → t.canonical := by
  intro a0 s t hs h; unfold execNegotiateAlgorithms at h; try dsimp only at h
  repeat' split at h
  all_goals first | (injection h with h; subst h) | (cases h; done)
  all_goals (repeat' (first | with_reducible assumption | (with_reducible exact State.canonical_of hs rfl rfl) | split | (refine foldl_canonical _ _ _ ?_ ?_; rotate_left; (intro _ _ _)) | simp | (refine State.canonical_of ?_ rfl rfl)))
theorem execGetDigests_canonical : ∀ a0 s t, s.canonical → execGetDigests a0 s = .next t → t.canonical := by
  intro a0 s t hs h; unfold execGetDigests at h; try dsimp only at h
  repeat' split at h
  all_goals first | (injection h with h; subst h) | (cases h; done)
  all_goals (repeat' (first | with_reducible assumption | (with_reducible exact State.canonical_of hs rfl rfl) | split | (refine foldl_canonical _ _ _ ?_ ?_; rotate_left; (intro _ _ _)) | simp | (refine State.canonical_of ?_ rfl rfl)))
theorem execGetCertificate_canonical : ∀ a0 a1 a2 s t, s.canonical → execGetCertificate a0 a1 a2 s = .next t → t.canonical := by
  intro a0 a1 a2 s t hs h; unfold execGetCertificate at h; try dsimp only at h
  repeat' split at h
  all_goals first | (injection h with h; subst h) | (cases h; done)
  all_goals (repeat' (first | with_reducible assumption | (with_reducible exact State.canonical_of hs rfl rfl) | split | (refine foldl_canonical _ _ _ ?_ ?_; rotate_left; (intro _ _ _)) | simp | (refine State.canonical_of ?_ rfl rfl)))
theorem execChallenge_canonical : ∀ a0 a1 s t, s.canonical → execChallenge a0 a1 s = .next t → t.canonical := by
  intro a0 a1 s t hs h; unfold execChallenge at h; try dsimp only at h
  repeat' split at h
  all_goals first | (injection h with h; subst h) | (cases h; done)
  all_goals (repeat' (first | with_reducible assumption | (with_reducible exact State.canonical_of hs rfl rfl) | split | (refine foldl_canonical _ _ _ ?_ ?_; rotate_left; (intro _ _ _)) | simp | (refine State.canonical_of ?_ rfl rfl)))
theorem execKeyExchange_canonical : ∀ a0 a1 s t, s.canonical → execKeyExchange a0 a1 s = .next t → t.canonical := by
  intro a0 a1 s t hs h; unfold execKeyExchange at h; try dsimp only at h
  repeat' split at h
  all_goals first | (injection h with h; subst h) | (cases h; done)
  all_goals (repeat' (first | with_reducible assumption | (with_reducible exact State.canonical_of hs rfl rfl) | split | (refine foldl_canonical _ _ _ ?_ ?_; rotate_left; (intro _ _ _)) | simp | (refine State.canonical_of ?_ rfl rfl)))
theorem execFinish_canonical : ∀ a0 a1 s t, s.canonical → execFinish a0 a1 s = .next t → t.canonical := by
  intro a0 a1 s t hs h; unfold execFinish at h; try dsimp only at h
  repeat' split at h
  all_goals first | (injection h with h; subst h) | (cases h; done)
  all_goals (repeat' (first | with_reducible assumption | (with_reducible exact State.canonical_of hs rfl rfl) | split | (refine foldl_canonical _ _ _ ?_ ?_; rotate_left; (intro _ _ _)) | simp | (refine State.canonical_of ?_ rfl rfl)))
theorem execEndSession_canonical : ∀ a0 s t, s.canonical → execEndSession a0 s = .next t → t.canonical := by
  intro a0 s t hs h; unfold execEndSession at h; try dsimp only at h
  repeat' split at h
  all_goals first | (injection h with h; subst h) | (cases h; done)
  all_goals (repeat' (first | with_reducible assumption | (with_reducible exact State.canonical_of hs rfl rfl) | split | (refine foldl_canonical _ _ _ ?_ ?_; rotate_left; (intro _ _ _)) | simp | (refine State.canonical_of ?_ rfl rfl)))
theorem execUnsupportedRequest_canonical : ∀ a0 a1 s t, s.canonical → execUnsupportedRequest a0 a1 s = .next t → t.canonical := by
  intro a0 a1 s t hs h; unfold execUnsupportedRequest at h; try dsimp only at h
  repeat' split at h
  all_goals first | (injection h with h; subst h) | (cases h; done)
  all_goals (repeat' (first | with_reducible assumption | (with_reducible exact State.canonical_of hs rfl rfl) | split | (refine foldl_canonical _ _ _ ?_ ?_; rotate_left; (intro _ _ _)) | simp | (refine State.canonical_of ?_ rfl rfl)))
theorem execGetMeasurements_canonical : ∀ a0 a1 s t, s.canonical → execGetMeasurements a0 a1 s = .next t → t.canonical := by
  intro a0 a1 s t hs h; unfold execGetMeasurements at h; try dsimp only at h
  repeat' split at h
  all_goals first | (injection h with h; subst h) | (cases h; done)
  all_goals (repeat' (first | with_reducible assumption | (with_reducible exact State.canonical_of hs rfl rfl) | split | (refine foldl_canonical _ _ _ ?_ ?_; rotate_left; (intro _ _ _)) | simp | (refine State.canonical_of ?_ rfl rfl)))
theorem execTdispRequest_canonical : ∀ a0 a1 s t, s.canonical → execTdispRequest a0 a1 s = .next t → t.canonical := by
  intro a0 a1 s t hs h; unfold execTdispRequest at h; try dsimp only at h
  repeat' split at h
  all_goals first | (injection h with h; subst h) | (cases h; done)
  all_goals (repeat' (first | with_reducible assumption | (with_reducible exact State.canonical_of hs rfl rfl) | split | (refine foldl_canonical _ _ _ ?_ ?_; rotate_left; (intro _ _ _)) | simp | (refine State.canonical_of ?_ rfl rfl)))
theorem execTlpOutsideStream_canonical : ∀ a0 s t, s.canonical → execTlpOutsideStream a0 s = .next t → t.canonical := by
  intro a0 s t hs h; unfold execTlpOutsideStream at h; try dsimp only at h
  repeat' split at h
  all_goals first | (injection h with h; subst h) | (cases h; done)
  all_goals (repeat' (first | with_reducible assumption | (with_reducible exact State.canonical_of hs rfl rfl) | split | (refine foldl_canonical _ _ _ ?_ ?_; rotate_left; (intro _ _ _)) | simp | (refine State.canonical_of ?_ rfl rfl)))
theorem execIdeKmRequest_canonical : ∀ a0 a1 s t, s.canonical → execIdeKmRequest a0 a1 s = .next t → t.canonical := by
  intro a0 a1 s t hs h; unfold execIdeKmRequest at h; try dsimp only at h
  repeat' split at h
  all_goals first | (injection h with h; subst h) | (cases h; done)
  all_goals (repeat' (first | with_reducible assumption | (with_reducible exact State.canonical_of hs rfl rfl) | split | (refine foldl_canonical _ _ _ ?_ ?_; rotate_left; (intro _ _ _)) | simp | (refine State.canonical_of ?_ rfl rfl)))
theorem execKeyset_canonical : ∀ a0 a1 a2 s t, s.canonical → execKeyset a0 a1 a2 s = .next t → t.canonical := by
  intro a0 a1 a2 s t hs h; unfold execKeyset at h; try dsimp only at h
  repeat' split at h
  all_goals first | (injection h with h; subst h) | (cases h; done)
  all_goals (repeat' (first | with_reducible assumption | (with_reducible exact State.canonical_of hs rfl rfl) | split | (refine foldl_canonical _ _ _ ?_ ?_; rotate_left; (intro _ _ _)) | simp | (refine State.canonical_of ?_ rfl rfl)))
theorem execTenantPublicKeyDelivery_canonical : ∀ a0 a1 s t, s.canonical → execTenantPublicKeyDelivery a0 a1 s = .next t → t.canonical := by
  intro a0 a1 s t hs h; unfold execTenantPublicKeyDelivery at h; try dsimp only at h
  repeat' split at h
  all_goals first | (injection h with h; subst h) | (cases h; done)
  all_goals (repeat' (first | with_reducible assumption | (with_reducible exact State.canonical_of hs rfl rfl) | split | (refine foldl_canonical _ _ _ ?_ ?_; rotate_left; (intro _ _ _)) | simp | (refine State.canonical_of ?_ rfl rfl)))
theorem execThermalTrip_canonical (d : Fin 9) (s t : State) (hs : s.canonical) (h : execThermalTrip d s = .next t) : t.canonical := by
  unfold execThermalTrip at h
  split at h
  · dsimp only at h; injection h with h; rw [← h]
    refine foldl_canonical _ _ _ ⟨hs.1, hs.2⟩ fun u l hu => ?_
    rw [State.floodLoss_canonical, State.stopLaunch_canonical, State.decideAbort_canonical]; exact hu
  · cases h
theorem execTmaxUpdate_canonical : ∀ s t, s.canonical → execTmaxUpdate s = .next t → t.canonical := by
  intro s t hs h; unfold execTmaxUpdate at h; try dsimp only at h
  repeat' split at h
  all_goals first | (injection h with h; subst h) | (cases h; done)
  all_goals (repeat' (first | with_reducible assumption | (with_reducible exact State.canonical_of hs rfl rfl) | split | (refine foldl_canonical _ _ _ ?_ ?_; rotate_left; (intro _ _ _)) | simp | (refine State.canonical_of ?_ rfl rfl)))
theorem execSoftError_canonical : ∀ a0 a1 s t, s.canonical → execSoftError a0 a1 s = .next t → t.canonical := by
  intro a0 a1 s t hs h; unfold execSoftError at h; try dsimp only at h
  repeat' split at h
  all_goals first | (injection h with h; subst h) | (cases h; done)
  all_goals (repeat' (first | with_reducible assumption | (with_reducible exact State.canonical_of hs rfl rfl) | split | (refine foldl_canonical _ _ _ ?_ ?_; rotate_left; (intro _ _ _)) | simp | (refine State.canonical_of ?_ rfl rfl)))
theorem execBankRetentionEntry_canonical : ∀ a0 a1 s t, s.canonical → execBankRetentionEntry a0 a1 s = .next t → t.canonical := by
  intro a0 a1 s t hs h; unfold execBankRetentionEntry at h; try dsimp only at h
  repeat' split at h
  all_goals first | (injection h with h; subst h) | (cases h; done)
  all_goals (repeat' (first | with_reducible assumption | (with_reducible exact State.canonical_of hs rfl rfl) | split | (refine foldl_canonical _ _ _ ?_ ?_; rotate_left; (intro _ _ _)) | simp | (refine State.canonical_of ?_ rfl rfl)))
theorem execRetentionConversionDone_canonical : ∀ a0 a1 s t, s.canonical → execRetentionConversionDone a0 a1 s = .next t → t.canonical := by
  intro a0 a1 s t hs h; unfold execRetentionConversionDone at h; try dsimp only at h
  repeat' split at h
  all_goals first | (injection h with h; subst h) | (cases h; done)
  all_goals (repeat' (first | with_reducible assumption | (with_reducible exact State.canonical_of hs rfl rfl) | split | (refine foldl_canonical _ _ _ ?_ ?_; rotate_left; (intro _ _ _)) | simp | (refine State.canonical_of ?_ rfl rfl)))
end Sys2Proof.Machine
end

