-- ==== Sys2Proof/Laws/Traps.lean ====
section
/-!
SUPPORT. What taking a trap and completing a rollback do to the contexts of a core (R316, R319, R320).
-/

namespace Sys2Proof.Machine

@[simp] theorem Core.stopForms_ctxs (k : Core) (p : MForm → Bool) : (k.stopForms p).ctxs = k.ctxs := by
  unfold Core.stopForms; dsimp only; split <;> rfl

@[simp] theorem Core.stopForms_ctx (k : Core) (p : MForm → Bool) (j : CtxId) : (k.stopForms p).ctx j = k.ctx j := Core.ctx_of (Core.stopForms_ctxs k p) j

theorem Core.discard_ctx (k : Core) (i : CtxId) (n now : Nat) : (k.discard i n now).ctx i = (k.ctx i).drop := by
  unfold Core.discard
  rw [Core.ctx_modCtx, Core.stopForms_ctx]
  exact congrArg Ctx.drop (Core.ctx_of (k := k) rfl i)

theorem Core.discard_ctx_ne (k : Core) (i j : CtxId) (n now : Nat) (h : j ≠ i) : (k.discard i n now).ctx j = k.ctx j := by
  unfold Core.discard
  rw [Core.ctx_modCtx_ne _ _ _ _ h, Core.stopForms_ctx]
  exact Core.ctx_of (k := k) rfl j

theorem Core.revertOf_ctx (k : Core) (i j : CtxId) : (k.revertOf i).ctx j = k.ctx j := by
  unfold Core.revertOf; split <;> rfl

/-- The context that takes a trap is Trapped with it, and nothing else of it changes at once (R319, R320). -/
theorem Core.beTrapped_ctx (k : Core) (i : CtxId) (t : Trap) :
    (k.beTrapped i t).ctx i = { k.ctx i with st := .trapped, rb := some (t, false), rbAt := k.cyc } := by
  have h : (k.beTrapped i t).ctxs = ((k.revertOf i).modCtx i fun x => { x with st := .trapped, rb := some (t, false), rbAt := k.cyc }).ctxs := rfl
  rw [Core.ctx_of h, Core.ctx_modCtx, Core.revertOf_ctx]

theorem Core.beTrapped_traps (k : Core) (i : CtxId) (t u : Trap) (h : u ∈ (k.beTrapped i t).traps) : u.ctx ≠ i := by
  have := (List.mem_filter.1 (show u ∈ k.traps.filter fun t => t.ctx != i from h)).2
  simpa using this

/-- A completed rollback restores the copy, and leaves the other contexts (R316, R320). -/
theorem Core.restoreCtx_ctx (k : Core) (i : CtxId) (t : Trap) (free : Nat → BitVec 4096) :
    (k.restoreCtx i t free).ctx i = { (k.ctx i).restore (k.ctx i).ck free with rb := some (t, true) } := by
  have e : (k.restoreCtx i t free).ctxs = (k.modCtx i fun x => { x.restore x.ck free with rb := some (t, true) }).ctxs := rfl
  rw [Core.ctx_of e, Core.ctx_modCtx]

theorem Core.restoreCtx_ctx_ne (k : Core) (i j : CtxId) (t : Trap) (free : Nat → BitVec 4096) (h : j ≠ i) : (k.restoreCtx i t free).ctx j = k.ctx j := by
  have e : (k.restoreCtx i t free).ctxs = (k.modCtx i fun x => { x.restore x.ck free with rb := some (t, true) }).ctxs := rfl
  rw [Core.ctx_of e, Core.ctx_modCtx_ne _ _ _ _ h]

theorem State.dropWire_ctx (s : State) (p : Access → Bool) (c : CoreId) (i : CtxId) : (s.dropWire p).ctx c i = s.ctx c i := rfl

/-- Discarded work leaves the context with released entries alone and no wait (R320). -/
theorem State.discard_ctx (s : State) (c : CoreId) (i : CtxId) (n : Nat) : ∃ x : Ctx, (s.discard c i n).ctx c i = x.drop := by
  unfold State.discard
  dsimp only
  rw [State.dropWire_ctx]
  unfold State.ctx
  rw [State.core_modCore, Core.discard_ctx]
  exact ⟨_, rfl⟩

end Sys2Proof.Machine
end

