-- ==== Sys2Proof/Machine/RegRead.lean ====
section
/-!
DEFINITION. Device registers as agents and tenant runtimes read them (R6, R8, R30): every register at a PF 0 or VF offset, its fields in their places, reserved fields zero. A read changes nothing, so it is no row of the table and no step.
-/

namespace Sys2Proof.Machine

/-- LINKSTATn (14_pod_fabric.md). -/
def Port.linkstat (p : Port) : Word :=
  p.incdrop ++ p.opendrop ++ p.flight ++ p.retrain ++ (0 : BitVec 8) ++ p.st ++ BitVec.ofBool p.fault ++ (0 : BitVec 1)

/-- DIEERRn (15_interruption.md). -/
def Die.dieerr (d : Die) : Word := d.uncor ++ d.corr ++ d.drop

/-- PODCFG (14_pod_fabric.md). -/
def Pf0.podcfg (p : Pf0) : Word := (0 : BitVec 4) ++ p.len ++ p.inc ++ p.parent ++ (0 : BitVec 16) ++ p.pkg

/-- TBSTAT (14_pod_fabric.md): ROOT follows its meaning, PARENT is 15, from reset on (DESIGN CHOICE, log entry 118). -/
def Pf0.tbstat (p : Pf0) : Word :=
  BitVec.ofInt 32 p.tbOffset ++ p.tbDelay ++ (0 : BitVec 14) ++ BitVec.ofBool p.lock ++ BitVec.ofBool (p.parent == 15)

/-- A PF 0 register: zero where the spec names none, or a write-only one (R8). -/
def State.readPf (s : State) (off : Nat) : Word :=
  let p := s.pf
  if off = 0x00 then (0 : BitVec 48) ++ p.deny ++ p.pending ++ p.owner
  else if off = 0x40 then BitVec.ofNat 64 (packNat 4 ((List.finRange 9).map fun d => p.partmap[d].toNat))
  else if off = 0x48 then BitVec.ofNat 64 p.busy.toNat
  else if off = 0x400 then p.podcfg
  else if off = 0x408 then p.tbstat
  else if h : 0x480 ≤ off ∧ off < 0x4E0 ∧ off % 8 = 0 then (s.ports[(off - 0x480) / 8]'(by omega)).linkstat
  else if off = 0x508 then
    p.swapCycles ++ (0 : BitVec 17) ++ BitVec.ofNat 7 (packNat 1 ((List.range 7).map fun n => (s.isParked (n + 1)).toNat)) ++ (0 : BitVec 1) ++
      p.swapResult ++ p.swapPart
  else if h : 0x600 ≤ off ∧ off < 0x648 ∧ off % 8 = 0 then (s.dies[(off - 0x600) / 8]'(by omega)).dieerr
  else if off = 0x700 then BitVec.ofNat 64 p.master.toNat
  else if off = 0x800 then BitVec.ofNat 32 s.powerBound ++ (0 : BitVec 20) ++ p.budget
  else if off = 0x808 then (0 : BitVec 48) ++ p.tmax ++ p.tripDie ++ (0 : BitVec 3) ++ BitVec.ofBool p.trip
  else 0

/-- LQSTATn (02_launch.md): HEADEFF is the effective priority of the head. -/
def State.lqstat (s : State) (n : Fin 9) (q : Fin 16) : Word :=
  let v := s.vfs[n]
  (0 : BitVec 32) ++ v.lqdrop[q] ++ BitVec.ofNat 2 (((s.queueHead n q).map fun l => l.effPrio s.now).getD 0) ++ (0 : BitVec 6) ++
    BitVec.ofBool (v.crfail.getLsbD q.val) ++ BitVec.ofNat 7 v.queues[q].length

/-- TRAPSTAT.PEND: contexts of the partition that wait for the host's decision (15_interruption.md). -/
def State.pend (s : State) (part : Nat) : Nat :=
  ((List.finRange 324).map fun c => ((List.finRange 4).filter fun i =>
    (s.ctx c i).awaitsHost && (s.ctx c i).lk.any fun lk => s.partOf lk == part).length).sum

/-- A VF register: zero where the spec names none, or a write-only one (R8). -/
def State.readVf (s : State) (n : Fin 9) (off : Nat) : Word :=
  let v := s.vfs[n]
  if h : 0x100 ≤ off ∧ off < 0x180 ∧ off % 8 = 0 then s.lqstat n ⟨(off - 0x100) / 8, by omega⟩
  else if off = 0x180 then zext64 v.lqirqen
  else if off = 0x200 then v.ptroot
  else if off = 0x210 then BitVec.ofNat 64 v.wcinv.isEmpty.toNat
  else if off = 0x218 then v.hwbase ++ (0 : BitVec 36)
  else if off = 0x228 then BitVec.ofNat 64 (!s.bsinv.any fun q => q.1 == n.val + 1).toNat
  else if off = 0x240 then v.racepol
  else if off = 0x248 then v.raceTotal ++ (0 : BitVec 25) ++ v.raceNext
  else if off = 0x260 then BitVec.ofNat 64 v.lnkshift
  else if off = 0x280 then v.trapbase
  else if off = 0x288 then v.trapTotal ++ (0 : BitVec 15) ++ BitVec.ofBool v.badcmd ++ BitVec.ofNat 8 (min (s.pend (n.val + 1)) 255) ++ (0 : BitVec 1) ++ v.trapNext
  else if off = 0x308 then v.dbgdata
  else if off = 0x310 then (0 : BitVec 60) ++ v.dbgerr ++ BitVec.ofBool v.dbgbusy
  else if off = 0x320 then (0 : BitVec 56) ++ v.open_ ++ v.polst ++ (0 : BitVec 1)
  else if 0x340 ≤ off ∧ off + 8 ≤ 0x360 then BitVec.ofNat 64 (v.nonce.toNat >>> (8 * (off - 0x340)))
  else if off = 0x808 then zext64 v.lqpriost
  else if 0x10000 ≤ off ∧ off + 8 ≤ 0x20000 then BitVec.ofNat 64 (v.window.span (off - 0x10000) 8)
  else 0

end Sys2Proof.Machine
end

