-- ==== Sys2Proof/Tests/Slice0.lean ====
section
/-!
SUPPORT. Tests: words laid out from the spec's encodings decode to their forms, ill-formed terms are refused, the hypotheses of the statements are met by small states, and steps worked out by hand.
-/

namespace Sys2Proof.Tests

open Sys2Proof Sys2Proof.Machine

set_option Elab.async false

/-! ### Decoding: words laid out by hand from R94 to R97, R227, R262 and R270 -/

theorem test_decode_scalar_1 :
    decodeSlot (.s 0b10101011110011011110_00111_0110111) = .form (.lui 7 0xABCDE) ∧
    decodeSlot (.s 0b10101011110011011110_00111_0010111) = .form (.auipc 7 0xABCDE) ∧
    decodeSlot (.s 0b1_1101000101_0_00100100_00001_1101111) = .form (.jal 1 0x92345) ∧
    decodeSlot (.s 0b011111000000_00101_000_00001_1100111) = .form (.jalr 1 5 0x7C0) ∧
    decodeSlot (.s 0b0_011010_00011_00010_000_0011_1_1100011) = .form (.beq 2 3 0x5A3) ∧
    decodeSlot (.s 0b0_011010_00011_00010_001_0011_1_1100011) = .form (.bne 2 3 0x5A3) ∧
    decodeSlot (.s 0b0_011010_00011_00010_100_0011_1_1100011) = .form (.blt 2 3 0x5A3) ∧
    decodeSlot (.s 0b0_011010_00011_00010_101_0011_1_1100011) = .form (.bge 2 3 0x5A3) ∧
    decodeSlot (.s 0b0_011010_00011_00010_110_0011_1_1100011) = .form (.bltu 2 3 0x5A3) ∧
    decodeSlot (.s 0b0_011010_00011_00010_111_0011_1_1100011) = .form (.bgeu 2 3 0x5A3) ∧
    decodeSlot (.s 0b100110100101_00110_000_01001_0000011) = .form (.lb 9 6 0x9A5) ∧
    decodeSlot (.s 0b100110100101_00110_001_01001_0000011) = .form (.lh 9 6 0x9A5) ∧
    decodeSlot (.s 0b100110100101_00110_010_01001_0000011) = .form (.lw 9 6 0x9A5) ∧
    decodeSlot (.s 0b100110100101_00110_011_01001_0000011) = .form (.ldd 9 6 0x9A5) ∧
    decodeSlot (.s 0b100110100101_00110_100_01001_0000011) = .form (.lbu 9 6 0x9A5) ∧
    decodeSlot (.s 0b100110100101_00110_101_01001_0000011) = .form (.lhu 9 6 0x9A5) := by decide +kernel

theorem test_decode_scalar_2 :
    decodeSlot (.s 0b100110100101_00110_110_01001_0000011) = .form (.lwu 9 6 0x9A5) ∧
    decodeSlot (.s 0b1001101_01010_00110_000_00101_0100011) = .form (.sb 6 10 0x9A5) ∧
    decodeSlot (.s 0b1001101_01010_00110_001_00101_0100011) = .form (.shh 6 10 0x9A5) ∧
    decodeSlot (.s 0b1001101_01010_00110_010_00101_0100011) = .form (.sw 6 10 0x9A5) ∧
    decodeSlot (.s 0b1001101_01010_00110_011_00101_0100011) = .form (.sd 6 10 0x9A5) ∧
    decodeSlot (.s 0b100110100101_00110_000_01001_0010011) = .form (.addi 9 6 0x9A5) ∧
    decodeSlot (.s 0b100110100101_00110_010_01001_0010011) = .form (.slti 9 6 0x9A5) ∧
    decodeSlot (.s 0b100110100101_00110_011_01001_0010011) = .form (.sltiu 9 6 0x9A5) ∧
    decodeSlot (.s 0b100110100101_00110_100_01001_0010011) = .form (.xori 9 6 0x9A5) ∧
    decodeSlot (.s 0b100110100101_00110_110_01001_0010011) = .form (.ori 9 6 0x9A5) ∧
    decodeSlot (.s 0b100110100101_00110_111_01001_0010011) = .form (.andi 9 6 0x9A5) ∧
    decodeSlot (.s 0b000000_101010_00110_001_01001_0010011) = .form (.slli 9 6 42) ∧
    decodeSlot (.s 0b000000_101010_00110_101_01001_0010011) = .form (.srli 9 6 42) ∧
    decodeSlot (.s 0b010000_101010_00110_101_01001_0010011) = .form (.srai 9 6 42) ∧
    decodeSlot (.s 0b0000000_01011_00110_000_01001_0110011) = .form (.add 9 6 11) ∧
    decodeSlot (.s 0b0000000_01011_00110_001_01001_0110011) = .form (.sll 9 6 11) := by decide +kernel

theorem test_decode_scalar_3 :
    decodeSlot (.s 0b0000000_01011_00110_010_01001_0110011) = .form (.slt 9 6 11) ∧
    decodeSlot (.s 0b0000000_01011_00110_011_01001_0110011) = .form (.sltu 9 6 11) ∧
    decodeSlot (.s 0b0000000_01011_00110_100_01001_0110011) = .form (.xorR 9 6 11) ∧
    decodeSlot (.s 0b0000000_01011_00110_101_01001_0110011) = .form (.srl 9 6 11) ∧
    decodeSlot (.s 0b0000000_01011_00110_110_01001_0110011) = .form (.orR 9 6 11) ∧
    decodeSlot (.s 0b0000000_01011_00110_111_01001_0110011) = .form (.andR 9 6 11) ∧
    decodeSlot (.s 0b0100000_01011_00110_000_01001_0110011) = .form (.sub 9 6 11) ∧
    decodeSlot (.s 0b0100000_01011_00110_101_01001_0110011) = .form (.sra 9 6 11) ∧
    decodeSlot (.s 0b0000001_01011_00110_000_01001_0110011) = .form (.mul 9 6 11) ∧
    decodeSlot (.s 0b0000001_01011_00110_001_01001_0110011) = .form (.mulh 9 6 11) ∧
    decodeSlot (.s 0b0000001_01011_00110_010_01001_0110011) = .form (.mulhsu 9 6 11) ∧
    decodeSlot (.s 0b0000001_01011_00110_011_01001_0110011) = .form (.mulhu 9 6 11) ∧
    decodeSlot (.s 0b0000001_01011_00110_100_01001_0110011) = .form (.div 9 6 11) ∧
    decodeSlot (.s 0b0000001_01011_00110_101_01001_0110011) = .form (.divu 9 6 11) ∧
    decodeSlot (.s 0b0000001_01011_00110_110_01001_0110011) = .form (.rem 9 6 11) ∧
    decodeSlot (.s 0b0000001_01011_00110_111_01001_0110011) = .form (.remu 9 6 11) := by decide +kernel

theorem test_decode_scalar_4 :
    decodeSlot (.s 0b100110100101_00110_000_01001_0011011) = .form (.addiw 9 6 0x9A5) ∧
    decodeSlot (.s 0b0000000_10101_00110_001_01001_0011011) = .form (.slliw 9 6 21) ∧
    decodeSlot (.s 0b0000000_10101_00110_101_01001_0011011) = .form (.srliw 9 6 21) ∧
    decodeSlot (.s 0b0100000_10101_00110_101_01001_0011011) = .form (.sraiw 9 6 21) ∧
    decodeSlot (.s 0b0000000_01011_00110_000_01001_0111011) = .form (.addw 9 6 11) ∧
    decodeSlot (.s 0b0000000_01011_00110_001_01001_0111011) = .form (.sllw 9 6 11) ∧
    decodeSlot (.s 0b0000000_01011_00110_101_01001_0111011) = .form (.srlw 9 6 11) ∧
    decodeSlot (.s 0b0100000_01011_00110_000_01001_0111011) = .form (.subw 9 6 11) ∧
    decodeSlot (.s 0b0100000_01011_00110_101_01001_0111011) = .form (.sraw 9 6 11) ∧
    decodeSlot (.s 0b0000001_01011_00110_000_01001_0111011) = .form (.mulw 9 6 11) ∧
    decodeSlot (.s 0b0000001_01011_00110_100_01001_0111011) = .form (.divw 9 6 11) ∧
    decodeSlot (.s 0b0000001_01011_00110_101_01001_0111011) = .form (.divuw 9 6 11) ∧
    decodeSlot (.s 0b0000001_01011_00110_110_01001_0111011) = .form (.remw 9 6 11) ∧
    decodeSlot (.s 0b0000001_01011_00110_111_01001_0111011) = .form (.remuw 9 6 11) := by decide +kernel

theorem test_decode_vector_1 :
    decodeSlot (.v0 0b00000001_0000_000001_110000_000000_00100_0_101_011_000000) = .form (.vadd ⟨false, .fp32, .reg 1, .lit 0, .reg 0, 4, false, 5, 3, 0⟩) ∧
    decodeSlot (.v0 0b00000010_0000_000001_110000_000000_00100_0_101_011_000000) = .form (.vsub ⟨false, .fp32, .reg 1, .lit 0, .reg 0, 4, false, 5, 3, 0⟩) ∧
    decodeSlot (.v0 0b00000011_0000_000001_110000_000000_00100_0_101_011_000000) = .form (.vmul ⟨false, .fp32, .reg 1, .lit 0, .reg 0, 4, false, 5, 3, 0⟩) ∧
    decodeSlot (.v1 0b00000100_0001_000001_000010_100101_00100_0_101_100_000000) = .form (.vfma ⟨true, .bf16, .reg 1, .reg 2, .latch 5, 4, false, 5, 4, 0⟩) ∧
    decodeSlot (.v1 0b00000101_0001_000001_000010_100101_00100_0_101_100_000000) = .form (.vfms ⟨true, .bf16, .reg 1, .reg 2, .latch 5, 4, false, 5, 4, 0⟩) ∧
    decodeSlot (.v1 0b00000110_0001_000001_000010_100101_00100_0_101_100_000000) = .form (.vfnma ⟨true, .bf16, .reg 1, .reg 2, .latch 5, 4, false, 5, 4, 0⟩) ∧
    decodeSlot (.v0 0b00000111_0011_000001_000010_000000_00100_0_101_000_000000) = .form (.vmax ⟨false, .e4m3, .reg 1, .reg 2, .reg 0, 4, false, 5, 0, 0⟩) ∧
    decodeSlot (.v0 0b00001000_0011_000001_000010_000000_00100_0_101_000_000000) = .form (.vmin ⟨false, .e4m3, .reg 1, .reg 2, .reg 0, 4, false, 5, 0, 0⟩) ∧
    decodeSlot (.v1 0b00001001_1100_000001_000000_000000_00100_0_101_000_000000) = .form (.vabs ⟨true, .i64p, .reg 1, .reg 0, .reg 0, 4, false, 5, 0, 0⟩) ∧
    decodeSlot (.v1 0b00001010_1100_000001_000000_000000_00100_0_101_000_000000) = .form (.vneg ⟨true, .i64p, .reg 1, .reg 0, .reg 0, 4, false, 5, 0, 0⟩) ∧
    decodeSlot (.v0 0b00001011_1001_000001_000010_000000_00000_1_101_000_000000) = .form (.vaddsat ⟨false, .u8, .reg 1, .reg 2, .reg 0, 0, true, 5, 0, 0⟩) ∧
    decodeSlot (.v0 0b00001100_1001_000001_000010_000000_00000_1_101_000_000000) = .form (.vsubsat ⟨false, .u8, .reg 1, .reg 2, .reg 0, 0, true, 5, 0, 0⟩) ∧
    decodeSlot (.v0 0b00001101_1001_000001_000010_000000_00000_1_101_000_000000) = .form (.vmulhi ⟨false, .u8, .reg 1, .reg 2, .reg 0, 0, true, 5, 0, 0⟩) ∧
    decodeSlot (.v0 0b00010000_0110_111110_111111_000000_00100_0_101_000_000000) = .form (.vand ⟨false, .i32, .zero, .ctx, .reg 0, 4, false, 5, 0, 0⟩) ∧
    decodeSlot (.v0 0b00010001_0110_111110_111111_000000_00100_0_101_000_000000) = .form (.vor ⟨false, .i32, .zero, .ctx, .reg 0, 4, false, 5, 0, 0⟩) := by decide +kernel

theorem test_decode_vector_2 :
    decodeSlot (.v0 0b00010010_0110_111110_111111_000000_00100_0_101_000_000000) = .form (.vxor ⟨false, .i32, .zero, .ctx, .reg 0, 4, false, 5, 0, 0⟩) ∧
    decodeSlot (.v0 0b00010011_0110_000001_000000_000000_00100_0_101_000_000000) = .form (.vnot ⟨false, .i32, .reg 1, .reg 0, .reg 0, 4, false, 5, 0, 0⟩) ∧
    decodeSlot (.v1 0b00010100_1100_000001_000010_000000_00100_0_101_000_000000) = .form (.vshl ⟨true, .i64p, .reg 1, .reg 2, .reg 0, 4, false, 5, 0, 0⟩) ∧
    decodeSlot (.v1 0b00010101_1100_000001_000010_000000_00100_0_101_000_000000) = .form (.vshr ⟨true, .i64p, .reg 1, .reg 2, .reg 0, 4, false, 5, 0, 0⟩) ∧
    decodeSlot (.v0 0b00010110_0111_000001_000010_000000_00100_0_101_000_000000) = .form (.vsra ⟨false, .i16, .reg 1, .reg 2, .reg 0, 4, false, 5, 0, 0⟩) ∧
    decodeSlot (.v0 0b00011000_1000_000001_000010_000000_00111_0_101_011_000101) = .form (.vcmp ⟨false, .i8, .reg 1, .reg 2, .reg 0, 7, false, 5, 3, 5⟩) ∧
    decodeSlot (.v0 0b00011001_0110_101110_111101_000000_00100_0_101_000_000000) = .form (.vsel ⟨false, .i32, .latch 14, .loop 5, .reg 0, 4, false, 5, 0, 0⟩) ∧
    decodeSlot (.v0 0b00011010_0000_000111_110100_000000_00110_0_000_000_000000) = .form (.mand ⟨false, .fp32, .reg 7, .lit 4, .reg 0, 6, false, 0, 0, 0⟩) ∧
    decodeSlot (.v0 0b00011011_0000_000111_110100_000000_00110_0_000_000_000000) = .form (.mor ⟨false, .fp32, .reg 7, .lit 4, .reg 0, 6, false, 0, 0, 0⟩) ∧
    decodeSlot (.v0 0b00011100_0000_000111_110100_000000_00110_0_000_000_000000) = .form (.mxor ⟨false, .fp32, .reg 7, .lit 4, .reg 0, 6, false, 0, 0, 0⟩) ∧
    decodeSlot (.v0 0b00011101_0000_100000_000000_000000_00011_0_000_000_000000) = .form (.mnot ⟨false, .fp32, .latch 0, .reg 0, .reg 0, 3, false, 0, 0, 0⟩) ∧
    decodeSlot (.v0 0b00011110_0110_000101_000000_000000_11111_0_000_000_000000) = .form (.mpop ⟨false, .i32, .reg 5, .reg 0, .reg 0, 31, false, 0, 0, 0⟩) ∧
    decodeSlot (.v0 0b00011111_0110_000101_000000_000000_11111_0_000_000_000000) = .form (.mfirst ⟨false, .i32, .reg 5, .reg 0, .reg 0, 31, false, 0, 0, 0⟩) ∧
    decodeSlot (.v0 0b00100000_0110_000001_000000_000000_00100_0_101_101_000000) = .form (.vcvt ⟨false, .i32, .reg 1, .reg 0, .reg 0, 4, false, 5, 5, 0⟩) ∧
    decodeSlot (.v0 0b00100001_0100_000001_000010_000000_00100_0_101_100_000010) = .form (.vnarrow ⟨false, .e5m2, .reg 1, .reg 2, .reg 0, 4, false, 5, 4, 2⟩) := by decide +kernel

theorem test_decode_vector_3 :
    decodeSlot (.v0 0b00100010_1100_000001_000000_000000_00100_0_000_001_000110) = .form (.vwiden ⟨false, .i64p, .reg 1, .reg 0, .reg 0, 4, false, 0, 1, 6⟩) ∧
    decodeSlot (.v0 0b00100011_0101_000001_000000_000000_00100_0_010_100_000111) = .form (.vmxq ⟨false, .mx4, .reg 1, .reg 0, .reg 0, 4, false, 2, 4, 7⟩) ∧
    decodeSlot (.v0 0b00100100_0011_000001_000010_000000_00100_0_010_000_000011) = .form (.vmxd ⟨false, .e4m3, .reg 1, .reg 2, .reg 0, 4, false, 2, 0, 3⟩) ∧
    decodeSlot (.v0 0b00101000_0111_000001_000010_000000_00100_0_101_000_000000) = .form (.vperm ⟨false, .i16, .reg 1, .reg 2, .reg 0, 4, false, 5, 0, 0⟩) ∧
    decodeSlot (.v0 0b00101001_0111_000001_000010_000000_00100_0_101_000_000000) = .form (.vrot ⟨false, .i16, .reg 1, .reg 2, .reg 0, 4, false, 5, 0, 0⟩) ∧
    decodeSlot (.v0 0b00101010_0111_000001_000010_000000_00100_0_101_000_000000) = .form (.vbcast ⟨false, .i16, .reg 1, .reg 2, .reg 0, 4, false, 5, 0, 0⟩) ∧
    decodeSlot (.v0 0b00101011_1000_000001_000010_000011_00100_0_101_000_000000) = .form (.vslide ⟨false, .i8, .reg 1, .reg 2, .reg 3, 4, false, 5, 0, 0⟩) ∧
    decodeSlot (.v0 0b00101100_0110_000001_000010_000000_00100_0_101_001_000000) = .form (.vzip ⟨false, .i32, .reg 1, .reg 2, .reg 0, 4, false, 5, 1, 0⟩) ∧
    decodeSlot (.v0 0b00101101_0111_000001_000010_000000_00100_0_101_000_000000) = .form (.vunzip ⟨false, .i16, .reg 1, .reg 2, .reg 0, 4, false, 5, 0, 0⟩) ∧
    decodeSlot (.v0 0b00101110_0110_000000_000000_000000_00100_0_101_000_000000) = .form (.viota ⟨false, .i32, .reg 0, .reg 0, .reg 0, 4, false, 5, 0, 0⟩) ∧
    decodeSlot (.v1 0b00110000_0010_000001_000000_000000_00100_0_101_100_000000) = .form (.vredsum ⟨true, .fp16, .reg 1, .reg 0, .reg 0, 4, false, 5, 4, 0⟩) ∧
    decodeSlot (.v0 0b00110001_1100_000001_000000_000000_00100_0_101_000_000000) = .form (.vredmax ⟨false, .i64p, .reg 1, .reg 0, .reg 0, 4, false, 5, 0, 0⟩) ∧
    decodeSlot (.v1 0b00110010_1001_000001_000000_000000_00100_0_101_000_000000) = .form (.vredmin ⟨true, .u8, .reg 1, .reg 0, .reg 0, 4, false, 5, 0, 0⟩) ∧
    decodeSlot (.v0 0b00110011_0110_000001_000000_000000_00100_0_101_001_000000) = .form (.vscan ⟨false, .i32, .reg 1, .reg 0, .reg 0, 4, false, 5, 1, 0⟩) ∧
    decodeSlot (.v1 0b00110100_0100_000001_000000_000000_00100_0_101_000_000000) = .form (.vscanmax ⟨true, .e5m2, .reg 1, .reg 0, .reg 0, 4, false, 5, 0, 0⟩) := by decide +kernel

theorem test_decode_vector_4 :
    decodeSlot (.v0 0b00111000_1000_110011_000000_000000_00100_0_101_000_000000) = .form (.vfill ⟨false, .i8, .lit 3, .reg 0, .reg 0, 4, false, 5, 0, 0⟩) ∧
    decodeSlot (.v0 0b00111001_0000_000001_001001_000000_01011_0_000_000_000000) = .form (.vext ⟨false, .fp32, .reg 1, .reg 9, .reg 0, 11, false, 0, 0, 0⟩) ∧
    decodeSlot (.v0 0b00111010_0000_000001_001001_001010_00100_0_000_000_000000) = .form (.vins ⟨false, .fp32, .reg 1, .reg 9, .reg 10, 4, false, 0, 0, 0⟩) ∧
    decodeSlot (.v0 0b00111011_0110_100001_000000_000000_00100_0_101_000_000000) = .form (.vmov ⟨false, .i32, .latch 1, .reg 0, .reg 0, 4, false, 5, 0, 0⟩) ∧
    decodeSlot (.v1 0b01000000_0000_000001_000000_000000_00100_0_101_000_000000) = .form (.vexp2 ⟨true, .fp32, .reg 1, .reg 0, .reg 0, 4, false, 5, 0, 0⟩) ∧
    decodeSlot (.v1 0b01000001_0000_000001_000000_000000_00100_0_101_000_000000) = .form (.vlog2 ⟨true, .fp32, .reg 1, .reg 0, .reg 0, 4, false, 5, 0, 0⟩) ∧
    decodeSlot (.v1 0b01000010_0000_000001_000000_000000_00100_0_101_000_000000) = .form (.vrcp ⟨true, .fp32, .reg 1, .reg 0, .reg 0, 4, false, 5, 0, 0⟩) ∧
    decodeSlot (.v1 0b01000011_0000_000001_000000_000000_00100_0_101_000_000000) = .form (.vrsqrt ⟨true, .fp32, .reg 1, .reg 0, .reg 0, 4, false, 5, 0, 0⟩) ∧
    decodeSlot (.v1 0b01000100_0001_000001_000000_000000_00100_0_101_000_000000) = .form (.vclass ⟨true, .bf16, .reg 1, .reg 0, .reg 0, 4, false, 5, 0, 0⟩) ∧
    decodeSlot (.v1 0b01000101_0000_000001_000010_000000_00100_0_101_011_101010) = .form (.vrank ⟨true, .fp32, .reg 1, .reg 2, .reg 0, 4, false, 5, 3, 42⟩) ∧
    decodeSlot (.v1 0b01000110_0010_000001_000000_000000_00100_0_000_000_000011) = .form (.vrecon ⟨true, .fp16, .reg 1, .reg 0, .reg 0, 4, false, 0, 0, 3⟩) ∧
    decodeSlot (.v1 0b01000111_0010_000001_000000_000000_00000_0_000_000_000010) = .form (.vrtab ⟨true, .fp16, .reg 1, .reg 0, .reg 0, 0, false, 0, 0, 2⟩) := by decide +kernel

theorem test_decode_matrix :
    decodeSlot (.m 0b00000001_0000_000001_000010_000000_00000_0000_000000100) = .form (.mcfg ⟨.fp32, .reg 1, .reg 2, .reg 0, 0, 0, 4⟩) ∧
    decodeSlot (.m 0b00000010_1011_000001_000010_110001_00000_0001_000111111) = .form (.mwld ⟨.t2, .reg 1, .reg 2, .lit 1, 0, 1, 63⟩) ∧
    decodeSlot (.m 0b00000011_0000_000000_000000_000000_00000_0001_000000000) = .form (.mwbank ⟨.fp32, .reg 0, .reg 0, .reg 0, 0, 1, 0⟩) ∧
    decodeSlot (.m 0b00000100_0000_000001_000010_000011_00000_0000_000101010) = .form (.msc ⟨.fp32, .reg 1, .reg 2, .reg 3, 0, 0, 42⟩) ∧
    decodeSlot (.m 0b00001000_0101_000001_000010_000011_10111_1010_000010101) = .form (.mma ⟨.mx4, .reg 1, .reg 2, .reg 3, 23, 10, 21⟩) ∧
    decodeSlot (.m 0b00001001_1000_000111_000010_000011_00011_1100_111111111) = .form (.mmaR ⟨.i8, .reg 7, .reg 2, .reg 3, 3, 12, 511⟩) ∧
    decodeSlot (.m 0b00001010_0001_000001_000010_000000_01001_1000_000111111) = .form (.mmaT ⟨.bf16, .reg 1, .reg 2, .reg 0, 9, 8, 63⟩) ∧
    decodeSlot (.m 0b00001011_1001_000001_000010_000011_10110_0110_011111111) = .form (.mmr ⟨.u8, .reg 1, .reg 2, .reg 3, 22, 6, 255⟩) ∧
    decodeSlot (.m 0b00001100_0110_000001_000010_000000_00101_1000_000000111) = .form (.mxt ⟨.i32, .reg 1, .reg 2, .reg 0, 5, 8, 7⟩) ∧
    decodeSlot (.m 0b00001101_0001_000001_000010_000011_01001_1010_000011111) = .form (.mdr ⟨.bf16, .reg 1, .reg 2, .reg 3, 9, 10, 31⟩) ∧
    decodeSlot (.m 0b00001110_0000_110000_000000_000000_00000_0000_000000000) = .form (.mrel ⟨.fp32, .lit 0, .reg 0, .reg 0, 0, 0, 0⟩) ∧
    decodeSlot (.m 0b00010000_0000_000001_000000_000000_00000_0000_010000000) = .form (.matt ⟨.fp32, .reg 1, .reg 0, .reg 0, 0, 0, 128⟩) := by decide +kernel

theorem test_decode_load :
    decodeSlot (.ld 0b00001_000001_000111_00011_0_000_1_00_11111111111) = .form (.vld ⟨.reg 1, .reg 7, 3, false, 0, true, 0, 2047⟩) ∧
    decodeSlot (.ld 0b00010_000001_000000_01000_0_000_0_10_00101010101) = .form (.vldb ⟨.reg 1, .reg 0, 8, false, 0, false, 2, 341⟩) ∧
    decodeSlot (.ld 0b00011_000001_000010_00000_1_100_0_00_00000000000) = .form (.vlds ⟨.reg 1, .reg 2, 0, true, 4, false, 0, 0⟩) ∧
    decodeSlot (.ld 0b00100_000001_110010_11111_0_111_0_00_10000000000) = .form (.vldm ⟨.reg 1, .lit 2, 31, false, 7, false, 0, 1024⟩) ∧
    decodeSlot (.ld 0b00101_000001_000000_00101_0_001_0_01_00000000000) = .form (.vldh ⟨.reg 1, .reg 0, 5, false, 1, false, 1, 0⟩) ∧
    decodeSlot (.ld 0b00110_000001_000000_01100_0_000_0_00_00000000001) = .form (.ldtag ⟨.reg 1, .reg 0, 12, false, 0, false, 0, 1⟩) := by decide +kernel

theorem test_decode_store :
    decodeSlot (.st 0b00001_000001_000010_000111_00000_011_1_0_0_000_000) = .form (.vst ⟨.reg 1, .reg 2, .reg 7, 0, 3, true, false, false, 0⟩) ∧
    decodeSlot (.st 0b00010_000001_000010_000000_00000_010_0_1_0_111_000) = .form (.vstm ⟨.reg 1, .reg 2, .reg 0, 0, 2, false, true, false, 7⟩) ∧
    decodeSlot (.st 0b00011_000001_000010_110001_00000_101_0_0_0_000_000) = .form (.vsts ⟨.reg 1, .reg 2, .lit 1, 0, 5, false, false, false, 0⟩) ∧
    decodeSlot (.st 0b00100_000001_000010_000000_00000_001_0_0_0_001_000) = .form (.vsth ⟨.reg 1, .reg 2, .reg 0, 0, 1, false, false, false, 1⟩) ∧
    decodeSlot (.st 0b00101_000001_000000_001001_00000_000_0_0_0_000_000) = .form (.tzero ⟨.reg 1, .reg 0, .reg 9, 0, 0, false, false, false, 0⟩) ∧
    decodeSlot (.st 0b00110_000001_000010_000000_10001_000_0_0_1_101_000) = .form (.amo ⟨.reg 1, .reg 2, .reg 0, 17, 0, false, false, true, 5⟩) ∧
    decodeSlot (.st 0b00111_000001_000010_000011_00010_000_0_0_0_000_000) = .form (.amoCas ⟨.reg 1, .reg 2, .reg 3, 2, 0, false, false, false, 0⟩) := by decide +kernel

theorem test_decode_copy :
    decodeSlot (.c 0b00001_000001_000010_000000_00111_0_0000_1000_0_0000000000) = .form (.cp ⟨.reg 1, .reg 2, .reg 0, 7, false, .fp32, 8, false, 0⟩) ∧
    decodeSlot (.c 0b00010_000001_000010_000000_01001_0_0001_0010_1_0000000000) = .form (.cpRed ⟨.reg 1, .reg 2, .reg 0, 9, false, .bf16, 2, true, 0⟩) ∧
    decodeSlot (.c 0b00011_000001_000111_000011_11110_0_0000_1000_0_0000000000) = .form (.rwr ⟨.reg 1, .reg 7, .reg 3, 30, false, .fp32, 8, false, 0⟩) ∧
    decodeSlot (.c 0b00100_000110_000010_000011_00001_0_0000_0000_0_0000000000) = .form (.rrd ⟨.reg 6, .reg 2, .reg 3, 1, false, .fp32, 0, false, 0⟩) ∧
    decodeSlot (.c 0b00101_000101_000010_000011_00000_0_0110_0100_0_0000000000) = .form (.ramo ⟨.reg 5, .reg 2, .reg 3, 0, false, .i32, 4, false, 0⟩) ∧
    decodeSlot (.c 0b00110_000001_000000_000000_00111_0_0000_0000_0_0000000000) = .form (.xlat ⟨.reg 1, .reg 0, .reg 0, 7, false, .fp32, 0, false, 0⟩) ∧
    decodeSlot (.c 0b00111_000001_000010_110000_00000_0_0000_0000_0_1010101010) = .form (.gld ⟨.reg 1, .reg 2, .lit 0, 0, false, .fp32, 0, false, 682⟩) ∧
    decodeSlot (.c 0b01000_000001_000010_000100_00000_0_0000_0000_0_0101010101) = .form (.gst ⟨.reg 1, .reg 2, .reg 4, 0, false, .fp32, 0, false, 341⟩) ∧
    decodeSlot (.c 0b01001_000010_000010_000100_01101_0_0000_0101_0_1111111000) = .form (.gatom ⟨.reg 2, .reg 2, .reg 4, 13, false, .fp32, 5, false, 1016⟩) ∧
    decodeSlot (.c 0b01010_000001_000010_000100_10101_0_0000_0000_0_1111111111) = .form (.mcast ⟨.reg 1, .reg 2, .reg 4, 21, false, .fp32, 0, false, 1023⟩) ∧
    decodeSlot (.c 0b01011_000001_000010_000000_01001_0_0000_0000_0_0000000000) = .form (.lnkRun ⟨.reg 1, .reg 2, .reg 0, 9, false, .fp32, 0, false, 0⟩) ∧
    decodeSlot (.c 0b01100_000001_000010_000000_00000_1_0000_0000_0_0000000000) = .form (.lnkSel ⟨.reg 1, .reg 2, .reg 0, 0, true, .fp32, 0, false, 0⟩) := by decide +kernel

theorem test_decode_sync_1 :
    decodeSlot (.y 0b000000_000000_000000_00000_0_00000000) = .form (.nopY) ∧
    decodeSlot (.y 0b000001_110010_000000_00000_0_11111111) = .form (.loop (.lit 2) 255) ∧
    decodeSlot (.y 0b000010_000101_000110_00000_0_00000000) = .form (.loopx (.reg 5) (.reg 6)) ∧
    decodeSlot (.y 0b000011_011111_000000_00000_0_00000000) = .form (.lbrk (.reg 31)) ∧
    decodeSlot (.y 0b000011_000000_000000_00000_0_00000001) = .form (.lbrkU) ∧
    decodeSlot (.y 0b001000_000101_000000_00000_0_00000000) = .form (.bankAcq (.reg 5)) ∧
    decodeSlot (.y 0b001001_110000_000000_00000_0_00000000) = .form (.bankRel (.lit 0)) ∧
    decodeSlot (.y 0b001010_000000_000000_00000_0_00000111) = .form (.bar true 3) ∧
    decodeSlot (.y 0b001011_000100_000000_00000_0_00000000) = .form (.guard (.reg 4)) ∧
    decodeSlot (.y 0b001100_000000_000000_00000_0_00010011) = .form (.fence 2 3) ∧
    decodeSlot (.y 0b001101_110000_000000_00110_0_00000000) = .form (.bankTst (.lit 0) 6 false) ∧
    decodeSlot (.y 0b010000_000000_000001_00111_0_00000000) = .form (.haulBoard (.reg 1) 7 false) ∧
    decodeSlot (.y 0b010001_000111_001000_00000_0_00000001) = .form (.haulAlight (.reg 7) (.reg 8) true) ∧
    decodeSlot (.y 0b010010_000111_000000_00000_1_00000000) = .form (.haulLd (.reg 7) 0 true) ∧
    decodeSlot (.y 0b010011_000111_001001_00000_0_00000011) = .form (.haulSt (.reg 7) (.reg 9) false 3) := by decide +kernel

theorem test_decode_sync_2 :
    decodeSlot (.y 0b010100_000111_001001_01100_0_10011010) = .form (.haulOp (.reg 7) (.reg 9) 12 false true 1 10) ∧
    decodeSlot (.y 0b010101_000111_001001_01100_0_00000010) = .form (.haulXchg (.reg 7) (.reg 9) 12 false 2) ∧
    decodeSlot (.y 0b010110_000111_001001_01100_0_00001111) = .form (.haulCas (.reg 7) (.reg 9) 12 false 15) ∧
    decodeSlot (.y 0b010111_000111_001001_01100_0_00000100) = .form (.haulLse (.reg 7) (.reg 9) 12 false 4) ∧
    decodeSlot (.y 0b011000_000111_001010_00000_0_00000001) = .form (.haulBar (.reg 7) (.reg 10) true) ∧
    decodeSlot (.y 0b011001_000111_000000_01101_0_00000000) = .form (.haulPass (.reg 7) 13 false) ∧
    decodeSlot (.y 0b100000_000011_000000_00100_0_00000000) = .form (.codeLock (.reg 3) 4 false) ∧
    decodeSlot (.y 0b100000_000011_000000_00100_0_00000001) = .form (.codeLockW (.reg 3) 4 false) ∧
    decodeSlot (.y 0b100001_000011_000000_00000_0_00000000) = .form (.codeUnlock (.reg 3)) ∧
    decodeSlot (.y 0b101000_000000_000000_00101_0_00011001) = .form (.sysrd 5 false 0x19) ∧
    decodeSlot (.y 0b101001_000010_000000_00000_0_00010000) = .form (.syswr (.reg 2) 0x10) ∧
    decodeSlot (.y 0b110000_001001_000000_00000_0_00000000) = .form (.trap (.reg 9)) ∧
    decodeSlot (.y 0b110001_000000_000000_00000_0_00000000) = .form (.ebrk) ∧
    decodeSlot (.y 0b111111_000000_000000_00000_0_00000000) = .form (.endCtx) := by decide +kernel

/-- The words that R262 and R270 print beside their assembly. -/
theorem test_printed_sync_words :
    decodeSlot (.y 0x28000001) = .form (.bar false 1) ∧ decodeSlot (.y 0x28000007) = .form (.bar true 3) ∧ decodeSlot (.y 0x3000000C) = .form (.fence 1 4) ∧
    decodeSlot (.y 0x30000013) = .form (.fence 2 3) ∧ decodeSlot (.y 0x3000001A) = .form (.fence 3 2) := by decide +kernel

/-- The bundle of the worked example of 04_bundle.md: its header, its scalar word and its vector word. -/
theorem test_worked_bundle :
    decodeSlot (.s 0x00C00293) = .form (.addi 5 0 12) ∧
    decodeSlot (.v0 0x016070006000) = .form (.vadd ⟨false, .i32, .reg 1, .lit 0, .reg 0, 3, false, 0, 0, 0⟩) := by decide +kernel

/-- Unlisted encodings of R94: FENCE, ECALL, a compressed word, slliw with imm[5] = 1, an unlisted funct7; idle words are the NOPs of R94 to R96. -/
theorem test_unlisted_words :
    decodeSlot (.s 0x0000000F) = .illegal ∧ decodeSlot (.s 0x00000073) = .illegal ∧ decodeSlot (.s 0x00000001) = .illegal ∧
    decodeSlot (.s 0b0000001_00001_00001_001_00001_0011011) = .illegal ∧ decodeSlot (.s 0b0100000_00001_00001_111_00001_0110011) = .illegal ∧
    decodeSlot (.v0 0) = .idle ∧ decodeSlot (.v1 0) = .idle ∧ decodeSlot (.m 0) = .idle ∧ decodeSlot (.ld 0) = .idle ∧ decodeSlot (.st 0) = .idle ∧
    decodeSlot (.c 0) = .idle ∧ decodeSlot (.st 1) = .illegal ∧ decodeSlot (.y 0x10000000) = .illegal := by decide +kernel

/-! ### Small states -/

/-- A bundle on core 0, context 0, index 5, that holds the header h and literal words 1 to 5. -/
def demoFocus (h : BitVec 16) : Focus :=
  { State.reset.placeFocus 0 with
    word := h.zeroExtend 512 ||| (0x00000005000000040000000300000002_00000001 : BitVec 160).zeroExtend 512 <<< 352
    idx := 5, done := 0x1FF, part := 1, loops := [] }

/-- A bundle with CK, WT, five literals and at least one slot. -/
def demoF : Focus := demoFocus 0x9A20

/-- Core 0 with one bound launch of partition 1 that owns all of it, a bundle of context 0 in issue; partition 1 holds every die. -/
def demo (f : Focus) (g : Core → Core) : State :=
  { (State.reset.withFetchWord 32 0).modCore 0 g with focus := some f, pf := { State.reset.pf with partmap := Vector.replicate 9 1 } }

/-- The registers that the small states start from: x1 to x7, v1, m1. -/
def seed (x1 x2 x3 x4 : Word) (k : Core) : Core :=
  k.modCtx 0 fun x => ((((((x.setX 1 x1).setX 2 x2).setX 3 x3).setX 4 x4).setX 5 0x5FFE00).setX 6 512).setX 7 64

/-- Does the machine go on? -/
def isNext : Host.Outcome State Fault Refusal → Bool
  | .next _ => true
  | _ => false

/-- A result of context 0 due on cycle 0. -/
def demoResult (d : Dest) : Result := ⟨0, 0, 0, 1, 0, false, d, BitVec.allOnes 4096, allLanes, some 0, 0, false⟩

/-! ### Witnesses: states and operands that meet the hypotheses of the statements -/

theorem wit_SlotDecodeEncode :
    (Instr.addi 31 31 0xFFF).wf = true ∧ partOf (.addi 31 31 0xFFF) ≠ 0 ∧ encode (.addi 31 31 0xFFF) = some (.s 0xFFFF8F93) ∧
    (Instr.vadd ⟨true, .fp32, .reg 31, .ctx, .reg 0, 31, false, 7, 5, 0⟩).wf = true ∧
    (encode (.vadd ⟨true, .fp32, .reg 31, .ctx, .reg 0, 31, false, 7, 5, 0⟩)).isSome = true ∧
    (Instr.mdr ⟨.bf16, .reg 1, .reg 2, .reg 0, 23, 2, 31⟩).wf = true ∧ (encode (.mdr ⟨.bf16, .reg 1, .reg 2, .reg 0, 23, 2, 31⟩)).isSome = true ∧
    (Instr.vld ⟨.reg 1, .reg 0, 31, false, 7, false, 0, 0x7FF⟩).wf = true ∧ (encode (.vld ⟨.reg 1, .reg 0, 31, false, 7, false, 0, 0x7FF⟩)).isSome = true ∧
    (Instr.vst ⟨.reg 1, .reg 0, .reg 31, 0, 7, true, false, false, 0⟩).wf = true ∧ (encode (.vst ⟨.reg 1, .reg 0, .reg 31, 0, 7, true, false, false, 0⟩)).isSome = true ∧
    (Instr.cp ⟨.reg 5, .reg 6, .reg 0, 31, false, .fp32, 8, false, 0⟩).wf = true ∧ (encode (.cp ⟨.reg 5, .reg 6, .reg 0, 31, false, .fp32, 8, false, 0⟩)).isSome = true ∧
    (Instr.haulOp (.reg 7) (.reg 9) 0 true false 4 15).wf = true ∧ (encode (.haulOp (.reg 7) (.reg 9) 0 true false 4 15)).isSome = true := by
  decide +kernel

theorem wit_StepRunsTheDecodedForm :
    let s := State.reset.withFetchWord 32 0x00C00293
    let f := s.placeFocus 0x00C00293
    s.phase = .part 0 ∧ s.focus = some f ∧ f.hdr = 3 ∧ ¬(f.hdr = 0 ∧ f.done = 0 ∧ s.bundleTraps f ≠ []) ∧
      (s.bundleStep f).map Prod.fst = some (.addi 5 0 12) := by
  decide +kernel

/-- A bundle with word w whose checks are still to come. -/
def rawF (w : BundleWord) : Focus := { demoF with word := w, hdr := 0, done := 0 }
def rawS (w : BundleWord) : State := { demo (rawF w) id with phase := .part 0 }

/-- A bundle of idle slots whose slot Y decodes to no form. -/
def badY : BundleWord := (0x130020 : BundleWord) ||| (0xF8000000 : BundleWord) <<< 320

/-- Slot S and slot Y illegal behind a good header and good lower slots; a bad header; a literal past NL. -/
theorem wit_UndecodableSlotTraps :
    (rawS 0x20).phase = .part 0 ∧ (rawS 0x20).focus = some (rawF 0x20) ∧ (rawF 0x20).hdr = 0 ∧ (rawF 0x20).done = 0 ∧ decodeSlot (bundleSlot 0x20 1) = .illegal ∧
      decodeSlot (bundleSlot badY 8) = .illegal ∧ decodeSlot (bundleSlot 0x130020 8) = .form .nopY ∧
      headerBad 0x20 = false ∧ literalsBad 0x20 = false ∧ (rawS 0x20).contextBad (rawF 0x20) = false ∧
      headerBad badY = false ∧ literalsBad badY = false ∧ (rawS badY).contextBad (rawF badY) = false ∧
      headerBad 0x21 = true ∧ decodeSlot (bundleSlot 0x21 1) = .illegal := by
  decide +kernel

theorem wit_UndecodableSlotTraps_lower : ([1, 2, 3, 4, 5, 6, 7].any fun q => (rawS badY).slotBad (rawF badY) q) = false := by
  decide +kernel

theorem wit_StepKeepsCanonical :
    State.reset.canonical ∧ isNext (step State.reset) = true ∧ isNext (step (State.reset.withFetchWord 32 0x00C00293)) = true := by
  unfold State.canonical; decide +kernel

theorem wit_HardwiredRegisters : (31 : BitVec 5) ≠ 0 ∧ (0 : BitVec 5) ≠ 31 ∧ (7 : BitVec 3) ≠ 0 ∧ (0 : BitVec 3) ≠ 7 := by decide

theorem wit_ResultsLand :
    let k (r : Result) : Core := { (demo demoF id).core 0 with results := [r] }
    ({ demoResult (.x 1) with due := 1 } : Result).isDue (k (demoResult (.x 1))).cyc 0 = false ∧ (demoResult (.x 1)).isDue (k (demoResult (.x 1))).cyc 0 = true ∧
      (k (demoResult .fpflags)).results = [demoResult .fpflags] ∧ (demoResult .fpflags).dest = .fpflags ∧ (demoResult (.x 1)).dest ≠ .fpflags ∧
      (k (demoResult (.v 31))).results = [demoResult (.v 31)] ∧ (k (demoResult (.m 7))).results = [demoResult (.m 7)] ∧
      (demoResult (.v 31)).dest = .v 31 ∧ (demoResult (.m 7)).dest = .m 7 ∧ (1 : CtxId) ≠ 0 := by
  decide +kernel

theorem wit_LaterResultKept :
    let p := demoResult (.x 31)
    let q : Result := { p with part := 2 }
    let k := (demo demoF id).core 0
    k.results = [] ∧ p.isDue k.cyc 0 = true ∧ q.isDue k.cyc 0 = true ∧ p.issued = q.issued ∧ p.part < q.part ∧ p.issued < ({ q with issued := 1 } : Result).issued ∧
      p.dest = .x 31 ∧ q.dest = .x 31 ∧ ({ p with dest := .v 0 } : Result).dest = .v 0 ∧ ({ q with dest := .m 7 } : Result).dest = .m 7 ∧ (31 : BitVec 5) ≠ 0 ∧
      (7 : BitVec 3) ≠ 0 ∧ p.wen.getLsbD 127 = true ∧ ({ p with wen := 0 } : Result).wen.getLsbD 127 = false := by
  decide +kernel

theorem wit_LatchesAge : (demoResult (.x 1)).latch = some 0 ∧ ({ demoResult (.x 1) with latch := none } : Result).latch = none ∧ (7 : Fin 8) ≠ 0 := by decide +kernel

theorem wit_LfsrStates : (127 < 128) ∧ (0xFFFF : BitVec 16) ≠ 0 := by decide

theorem wit_ScalarRegisterForms :
    ∀ i ∈ [Instr.add 1 2 3, .sub 0 31 31, .sll 1 2 3, .slt 1 2 3, .sltu 1 2 3, .xorR 1 2 3, .srl 1 2 3, .sra 1 2 3, .orR 1 2 3, .andR 1 2 3],
      (demo demoF id).admits demoF i := by
  unfold State.admits; decide +kernel

theorem wit_ScalarImmediateForms :
    ∀ i ∈ [Instr.addi 0 31 0x800, .slti 1 2 3, .sltiu 1 2 3, .xori 1 2 3, .ori 1 2 3, .andi 1 2 3, .addiw 1 2 3, .slli 1 2 63, .srli 1 2 63, .srai 1 2 63,
        .slliw 1 2 31, .srliw 1 2 31, .sraiw 1 2 31, .lui 1 0xFFFFF, .auipc 1 0xFFFFF],
      (demo demoF id).admits demoF i := by
  unfold State.admits; decide +kernel

theorem wit_ScalarWordAndDivisionForms :
    (∀ i ∈ [Instr.addw 1 2 3, .subw 1 2 3, .sllw 1 2 3, .srlw 1 2 3, .sraw 1 2 3, .mulw 1 2 3, .mul 1 2 3, .mulh 1 2 3, .mulhsu 1 2 3, .mulhu 1 2 3,
        .div 1 2 3, .divu 1 2 3, .rem 1 2 3, .remu 1 2 3, .divw 1 2 3, .divuw 1 2 3, .remw 1 2 3, .remuw 1 2 3],
      (demo demoF id).admits demoF i) ∧
    (0 < 1) ∧ (BitVec.intMin 1 = BitVec.allOnes 1) ∧ (BitVec.intMin 64 : BitVec 64) ≠ BitVec.allOnes 64 := by
  unfold State.admits; decide +kernel

/-- At index 5: a condition that holds and one that does not; targets at 0x3_FFC0, one short of a multiple of 64, and 0x4_0000. -/
theorem wit_BranchesAndJumps :
    let s := demo demoF (seed 0x3FFC0 1 (-1) 0x40000)
    (∀ i ∈ [Instr.beq 2 2 0, .beq 2 3 0, .bne 2 3 1, .bne 2 2 0, .blt 3 2 0, .blt 2 3 0, .bge 2 3 0, .bge 3 2 0, .bltu 2 3 0, .bltu 3 2 0, .bgeu 3 2 0, .bgeu 2 3 0,
        .jal 1 0, .jal 1 1, .jalr 1 1 0, .jalr 1 4 0, .jalr 1 1 0xFFF], s.admits demoF i) ∧
    (s.xs demoF 2).toInt > (s.xs demoF 3).toInt ∧ (s.xs demoF 2).toNat < (s.xs demoF 3).toNat ∧
    (s.xs demoF 1).toNat = 0x3FFC0 ∧ (s.xs demoF 4).toNat = 0x40000 ∧ 64 * demoF.idx.toNat % 64 = 0 := by
  unfold State.admits; decide +kernel

/-- Bytes at the last byte of the scratchpad, one past it, and off their alignment; a buffer with 127 and with 128 entries. -/
theorem wit_ScalarLoadsAndStores :
    let s := demo demoF (seed 0x5FFFFF 0x600000 1 0x5FFFF8)
    let e : WEntry := ⟨0, 1, 0, .tzero 0 0, none⟩
    let full (n : Nat) := demo demoF fun k => k.modCtx 0 fun x => { x with wh := List.replicate n e }
    (∀ i ∈ [Instr.lb 1 1 0, .lh 1 4 0, .lw 1 4 0, .ldd 1 4 0, .lbu 1 1 0, .lhu 1 4 0, .lwu 0 4 0, .sb 1 2 0, .shh 4 2 0, .sw 4 2 0, .sd 4 2 0], s.admits demoF i) ∧
    s.unwatched demoF ∧ (full 127).hasRoom demoF ∧ ¬(full 128).hasRoom demoF ∧ (full 128).admits demoF (.sb 0 2 0) ∧ s.reachesPad demoF 0x5FFFFF 1 [0x5FFFC0] ∧
    s.reachesPad demoF 0x5FFFF8 8 [0x5FFFC0] ∧ accessBad ((s.core 0).lcOf 0) 0x600000 1 [0x600000] = some 0x600000 ∧
    accessBad ((s.core 0).lcOf 0) 1 2 [0] = some 1 := by
  unfold State.admits State.unwatched State.hasRoom State.reachesPad; decide +kernel

/-- The operands of a vector form with two v sources. -/
def vo (f : Fmt) : VOps := ⟨true, f, .reg 1, .reg 31, .reg 0, 31, false, 7, 0, 0⟩
/-- The operands of a vector form with one v source. -/
def vo1 (f : Fmt) : VOps := { vo f with b := .reg 0 }
/-- The operands of a vector form with three v sources. -/
def vo3 (f : Fmt) : VOps := { vo f with c := .reg 2 }
/-- The same in slot V0, without a mask. -/
def v0o (o : VOps) : VOps := { o with v1 := false, mask := 0 }

theorem wit_VectorArithmeticForms :
    ∀ i ∈ [Instr.vadd (vo .i32), .vsub (vo .fp32), .vmul (vo .u8), .vfma (vo3 .fp32), .vfms (vo3 .bf16), .vfnma (vo3 .fp16), .vmax (vo .i64p), .vmin (vo .e4m3),
        .vabs (vo1 .i8), .vneg (vo1 .fp32), .vaddsat (vo .i16), .vsubsat (vo .u8), .vmulhi (vo .i32), .vand (vo .i32), .vor (vo .i32), .vxor (vo .i32),
        .vnot (vo1 .i32), .vshl (vo .i8), .vshr (vo .i64p), .vsra (vo .i16)],
      (demo demoF id).admits demoF i := by
  unfold State.admits; decide +kernel

theorem wit_VectorConversionForms :
    ∀ i ∈ [Instr.vcvt { vo1 .i32 with fn := 0 }, .vnarrow { vo .bf16 with fn := 0 }, .vwiden { vo1 .i16 with fn := 8 }, .vmxq { vo1 .mx4 with fn := 7 },
        .vmxd { vo .e4m3 with fn := 3 }, .vexp2 (vo1 .fp32), .vlog2 (vo1 .fp32), .vrcp (vo1 .fp32), .vrsqrt (vo1 .fp32), .vclass (vo1 .fp16)],
      (demo demoF id).admits demoF i := by
  unfold State.admits; decide +kernel

theorem wit_VectorPermuteForms :
    ∀ i ∈ [Instr.vperm (v0o (vo .i32)), .vrot (v0o (vo .i16)), .vbcast (v0o (vo .i8)), .vslide (v0o (vo3 .i32)), .vzip (v0o (vo .i16)), .vunzip (v0o (vo .i8)),
        .viota (v0o { vo1 .i32 with a := .reg 0 }), .vredsum (vo1 .fp32), .vredmax (vo1 .i64p), .vredmin (vo1 .u8), .vscan (vo1 .i32), .vscanmax (vo1 .e5m2), .vmov (vo1 .i32)],
      (demo demoF id).admits demoF i := by
  unfold State.admits; decide +kernel

/-- The operands of a mask form, sources and destination at the last mask register. -/
def mo (f : Fmt) : VOps := ⟨true, f, .reg 7, .reg 7, .reg 0, 7, false, 0, 0, 0⟩

theorem wit_MaskForms :
    ∀ i ∈ [Instr.mand (mo .fp32), .mor (mo .fp32), .mxor (mo .fp32), .mnot { mo .fp32 with b := .reg 0 }, .mpop { mo .i32 with b := .reg 0 },
        .mfirst { mo .i32 with b := .reg 0 }], (demo demoF id).admits demoF i := by
  unfold State.admits; decide +kernel

/-- A mask whose only bit is 127, and none at all. -/
theorem wit_MaskCounts :
    let s := demo demoF fun k => k.modCtx 0 fun x => x.setM 7 (1 <<< 127)
    (s.readM demoF (.reg 7)).getLsbD 127 = true ∧ (∀ j < 127, (s.readM demoF (.reg 7)).getLsbD j = false) ∧
      ∀ j < 128, ((demo demoF id).readM demoF (.reg 6)).getLsbD j = false := by
  decide +kernel

theorem wit_VectorSelect : (demo demoF id).admits demoF (.vsel (vo .i64p)) ∧ (demo demoF id).admits demoF (.vsel (v0o (vo .i32))) := by
  unfold State.admits; decide +kernel

/-- Loads and stores that reach the last bytes of the scratchpad, that leave it or miss their alignment, with strides of 64 and 63, and a full buffer. -/
theorem wit_VectorLoadsAndStores :
    let s := demo demoF (seed 0x5FFE00 64 63 0x5FF000)
    let l (a b : Src) : LdOps := ⟨a, b, 31, false, 7, false, 0, 0⟩
    let t (a c : Src) : StOps := ⟨a, .reg 1, c, 0, 7, false, false, false, 0⟩
    (∀ i ∈ [Instr.vld (l (.reg 1) (.reg 0)), .vldb { l (.reg 1) (.reg 0) with mask := 0 }, .vlds (l (.reg 1) (.reg 2)), .vlds (l (.reg 1) (.reg 3)),
        .vldm (l (.reg 1) (.reg 2)), .vldh (l (.reg 1) (.reg 0)), .ldtag { l (.reg 1) (.reg 0) with mask := 0 }, .vst { t (.reg 1) (.reg 2) with k := true },
        .vst (t (.reg 1) (.reg 0)), .vstm { t (.reg 1) (.reg 0) with nb := true, fn := 7 }, .vstm { t (.reg 1) (.reg 0) with fn := 3 }, .vsts (t (.reg 1) (.reg 2)),
        .vsts (t (.reg 1) (.reg 3)), .vsth { t (.reg 1) (.reg 0) with fn := 1 }, .tzero ⟨.reg 4, .reg 0, .reg 2, 0, 0, false, false, false, 0⟩,
        .amo ⟨.reg 4, .reg 2, .reg 0, 31, 0, false, false, true, 5⟩, .amoCas ⟨.reg 4, .reg 2, .reg 3, 0, 0, false, false, false, 0⟩], s.admits demoF i) ∧
    s.unwatched demoF ∧ s.hasRoom demoF ∧ (s.readX demoF (.reg 2)).toNat % 64 = 0 ∧ (s.readX demoF (.reg 3)).toNat % 64 ≠ 0 ∧
    s.reachesPad demoF 0x5FFE00 512 [0x5FFE00, 0x5FFFC0] ∧ s.reachesPad demoF 0x5FF000 4096 [0x5FF000] ∧
    accessBad ((s.core 0).lcOf 0) 0x5FFE40 512 [0x5FFE40] = some 0x5FFE40 ∧ accessBad ((s.core 0).lcOf 0) 0x600000 512 [0x600000] = some 0x600000 := by
  unfold State.admits State.unwatched State.hasRoom State.reachesPad; decide +kernel

theorem wit_VectorCompareMoveAndRankForms :
    ∀ i ∈ [Instr.vcmp { vo .i8 with d := 7, md := 3, fn := 5 }, .vfill (vo1 .e4m3), .vext (v0o (vo .fp32)), .vins (v0o (vo3 .fp32)), .vrank { vo .fp32 with md := 3, fn := 63 },
        .vrecon { vo1 .fp16 with mask := 0, fn := 3 }, .vrtab { vo1 .fp16 with mask := 0, fn := 3, d := 0 }], (demo demoF id).admits demoF i := by
  unfold State.admits; decide +kernel

/-- A core whose face holds rows of format ff with K = KV = 32 in arrangement 0. -/
def faced (ff : Fmt) (k : Core) : Core := { seed 0 512 0 0x600000 k with face := { k.face with arr := 0, k := 32, kv := 32, ffmt := some ff } }

/-- The operands of a matrix form: base x1, pitch x2, aux x3. -/
def ma (f : Fmt) (acc : BitVec 5) (fl : BitVec 4) (imm : BitVec 9) : MOps := ⟨f, .reg 1, .reg 2, .reg 3, acc, fl, imm⟩
/-- The same without an aux operand. -/
def ma2 (f : Fmt) (acc : BitVec 5) (fl : BitVec 4) (imm : BitVec 9) : MOps := { ma f acc fl imm with c := .reg 0 }

/-- The state with free paths, and with every path held. -/
def matS : State := demo demoF (faced .i8)
def matBusy : State := demo demoF fun k => { faced .i8 k with faceFree := 9, drainFree := 9, bgFree := 9 }

/-- A form whose plan enters in one state and fails in the other. -/
def MatWit (i : Instr) (p : State → MatPlan) : Prop :=
  (matS.admits demoF i ∧ matS.matBad demoF i = false ∧ matS.planFails demoF (p matS) = none) ∧
  matBusy.admits demoF i ∧ matBusy.matBad demoF i = false ∧ (matBusy.planFails demoF (p matBusy)).isSome = true

theorem wit_MatrixForms :
    MatWit (.mcfg { ma2 .fp32 0 0 0 with a := .reg 7, b := .reg 7 }) (fun s => s.cfgPlan demoF { ma2 .fp32 0 0 0 with a := .reg 7, b := .reg 7 }) ∧
    MatWit (.mwbank { ma2 .fp32 0 1 0 with a := .reg 0, b := .reg 0 }) (fun s => s.cfgPlan demoF { ma2 .fp32 0 1 0 with a := .reg 0, b := .reg 0 }) ∧
    MatWit (.mwld (ma .i8 0 0 0)) (fun s => s.mwldPlan demoF (ma .i8 0 0 0)) ∧ MatWit (.msc (ma .fp32 0 0 0)) (fun s => s.mscPlan demoF (ma .fp32 0 0 0)) ∧
    MatWit (.mma (ma2 .i8 23 8 63)) (fun s => s.mmaPlan demoF (ma2 .i8 23 8 63)) ∧ MatWit (.mmaT (ma2 .i8 23 8 63)) (fun s => s.mmaTPlan demoF (ma2 .i8 23 8 63)) ∧
    MatWit (.mmr (ma .u8 23 8 0)) (fun s => s.mmrPlan demoF (ma .u8 23 8 0)) ∧
    MatWit (.matt { ma2 .fp32 0 0 0xC0 with b := .reg 0 }) (fun s => s.mattPlan demoF { ma2 .fp32 0 0 0xC0 with b := .reg 0 }) ∧
    MatWit (.mxt (ma2 .i32 23 8 0)) (fun s => s.mxtPlan demoF (ma2 .i32 23 8 0)) := by
  refine ⟨?_, ?_, ?_, ?_, ?_, ?_, ?_, ?_, ?_⟩ <;> unfold MatWit State.admits <;> decide +kernel

/-- mdr with pitch x2 into rows that do not straddle, and with an odd base. -/
theorem wit_MatrixForms_mdr :
    MatWit (.mdr (ma2 .i32 23 0 0x80)) (fun s => s.mdrPlan demoF (ma2 .i32 23 0 0x80)) ∧
    (let s := demo demoF (seed 8 512 0 0); s.admits demoF (.mdr (ma2 .i32 23 0 0x80)) ∧ s.matBad demoF (.mdr (ma2 .i32 23 0 0x80)) = false ∧
      (s.planFails demoF (s.mdrPlan demoF (ma2 .i32 23 0 0x80))).map Prod.fst = some 3) := by
  unfold MatWit State.admits; decide +kernel

/-- A handle of 64 KiB of the pad of core 1, for reading and writing. -/
def padHandle (cls : AddrClass) (pa : Nat) : Handle := ⟨0, 0x10000, pa, none, true, true, cls⟩

/-- mma.r through a handle of rows that stand, and through a handle that is not set. -/
theorem wit_MatrixForms_mmaR :
    let s := demo demoF fun k => (faced .i8 k).modCtx 0 fun x => { x with th := x.th.set 1 (some (padHandle .timed (0xC000800000))) }
    let o : MOps := ⟨.i8, .reg 1, .reg 7, .reg 2, 23, 8, 0⟩
    s.planFails demoF (s.mmaRPlan demoF o) = none ∧ (matS.planFails demoF (matS.mmaRPlan demoF o)).isSome = true ∧
      (s.admits demoF (.mmaR o) ∧ s.matBad demoF (.mmaR o) = false) ∧ matS.admits demoF (.mmaR o) ∧ matS.matBad demoF (.mmaR o) = false := by
  unfold State.admits; decide +kernel

/-- mrel of names 0 and 23 with no row to land, and with one. -/
theorem wit_MatrixRelease :
    let s (g : Core → Core) := demo demoF fun k => seed 0x800001 0 0 0 (g k)
    let busy (k : Core) : Core := { k with mforms := [{ matS.mform demoF (ma .i8 23 8 0) .mma with names := 1, rows := 1 }] }
    let o : MOps := ⟨.fp32, .reg 1, .reg 0, .reg 0, 0, 0, 0⟩
    (s id).admits demoF (.mrel o) ∧ (((s id).core 0).lcOf 0).isSome = true ∧ (((s id).core 0).lcOf 0).any (fun l => decide (23 < l.accs) && !l.heldByOther 0 23) = true ∧
    ((List.range 24).filter fun n => ((s id).readX demoF o.a).getLsbD n) = [0, 23] ∧ ((s id).core 0).toLand ((s id).focusLk demoF) 23 = false ∧
    ((s busy).core 0).toLand ((s busy).focusLk demoF) 23 = true := by
  unfold State.admits; decide +kernel

/-- The operands of a copy form: a = x1, b = x2, c = x3, shape x4. -/
def co (b c : Src) (d : BitVec 5) (fn : BitVec 4) (ip : Bool) : COps := ⟨.reg 1, b, c, d, false, .fp32, fn, ip, 0⟩

/-- A core with x1 to x3 as given, a one-row shape in x4, handle th1 on the pad of core 1 and th2 on HBM. -/
def copies (x1 x2 x3 : Word) (k : Core) : Core :=
  (seed x1 x2 x3 0 k).modCtx 0 fun x => { x with th := (x.th.set 1 (some (padHandle .timed 0xC000800000))).set 2 (some (padHandle .untimed 0)) }

/-- Operands that pass; a queue with 15 commands and with 16; a source that is the destination; an address past the scratchpad. -/
theorem wit_EngineCommands :
    let s := demo demoF (copies 0 0x8000 0x40000)
    let full (n : Nat) := demo demoF fun k => let m := (s.cpPlan demoF (co (.reg 2) (.reg 0) 4 0 false)).2; { copies 0 0x8000 0x40000 k with cmds := List.replicate n m }
    let rw : COps := { co (.reg 1) (.reg 2) 4 0 false with a := .reg 1 }
    let bad := demo demoF (copies 0x600000 0x600000 0x600000)
    (∀ i ∈ [Instr.cp (co (.reg 2) (.reg 0) 4 0 false), .cpRed (co (.reg 2) (.reg 3) 4 0 false), .cpRed (co (.reg 2) (.reg 0) 4 0 true), .rwr rw, .rrd rw,
        .mcast (co (.reg 2) (.reg 3) 9 0 false)], s.admits demoF i) ∧
    lowest (s.cpPlan demoF (co (.reg 2) (.reg 0) 4 0 false)).1 = none ∧ lowest (s.redPlan demoF (co (.reg 2) (.reg 3) 4 0 false)).1 = none ∧
    lowest (s.rwrPlan demoF rw).1 = none ∧ lowest (s.rrdPlan demoF rw).1 = none ∧ lowest (s.mcastFails demoF (co (.reg 2) (.reg 3) 9 0 false)) = none ∧
    lowest ((s.redPlan demoF (co (.reg 2) (.reg 0) 4 0 true)).1 ++ s.whFull demoF) = none ∧ s.copyBad demoF (.cpRed (co (.reg 2) (.reg 3) 4 0 false)) = false ∧
    ((full 15).core 0).cmds.length < 16 ∧ ((full 16).core 0).cmds.length ≥ 16 ∧ s.readX demoF (.reg 2) = s.readX demoF (co (.reg 2) (.reg 2) 4 0 false).c ∧
    (lowest (bad.cpPlan demoF (co (.reg 2) (.reg 0) 4 0 false)).1).isSome = true ∧ (lowest ((bad.redPlan demoF (co (.reg 2) (.reg 0) 4 0 true)).1 ++ bad.whFull demoF)).isSome = true ∧
    (lowest (bad.mcastFails demoF (co (.reg 2) (.reg 3) 9 0 false))).isSome = true := by
  unfold State.admits; decide +kernel

/-- Requests through a handle that reaches and through none; a walk under way for the handle; the launch of the bundle. -/
theorem wit_UntimedRemoteAndLinkForms :
    let s := demo demoF (copies 0 0x40 0x2000)
    let busy := demo demoF fun k => { copies 0 0x40 0x2000 k with walks := [⟨0, 0, 0, 0, 7, 0, 9, none⟩] }
    let u (a : Src) : COps := { co (.reg 2) (.reg 3) 0 0 false with a := a }
    let xl : COps := { co (.reg 0) (.reg 0) 7 0 false with a := .reg 1 }
    (∀ i ∈ [Instr.ramo (u (.reg 1)), .gld (u (.reg 2)), .gst (u (.reg 2)), .gatom (u (.reg 2)), .gld (u (.reg 0)), .gst (u (.reg 0)), .gatom (u (.reg 0)),
        .ramo (u (.reg 0)), .xlat xl], s.admits demoF i) ∧
    lowest (s.ramoFails demoF (u (.reg 1))) = none ∧ (lowest (s.ramoFails demoF (u (.reg 0)))).isSome = true ∧ (s.core 0).freeEntry = some 0 ∧
    lowest (s.blockFails demoF (u (.reg 2)) true false) = none ∧ lowest (s.blockFails demoF (u (.reg 2)) false true) = none ∧ lowest (s.gatomFails demoF (u (.reg 2))) = none ∧
    (lowest (s.blockFails demoF (u (.reg 0)) true false)).isSome = true ∧ (lowest (s.gatomFails demoF (u (.reg 0)))).isSome = true ∧
    (busy.core 0).walks.any (fun w => w.ctx == 0 && w.d == 7) = true ∧ (s.core 0).walks.any (fun w => w.ctx == 0 && w.d == 7) = false := by
  unfold State.admits; decide +kernel

/-- An image with a communication plan of one program on one package. -/
def planImage : LoadedImage := ⟨0, 1, ⟨0, [⟨3, [1]⟩]⟩, 1, true, none, false, true⟩

/-- The launch asks for program 0 at tick 4,097 with the time base locked and at 4,096; for program 1, which does not exist; for the start that is already pending; for its only variant. -/
theorem wit_UntimedRemoteAndLinkForms_link :
    let s := { demo demoF (copies 0 4097 0) with images := [planImage], pf := { State.reset.pf with lock := true } }
    let pend := s.modPod 1 fun p => { p with pendRun := some (0, 4097) }
    let o : COps := { co (.reg 2) (.reg 0) 9 0 false with a := .reg 1 }
    (s.launch (s.focusLk demoF)).isSome = true ∧ s.admits demoF (.lnkRun o) ∧ s.admits demoF (.lnkSel o) ∧
    (s.launch 1).any (fun l => s.runStatus l 0 4097 == 0 && !l.pod.startIs s.now 0 4097 && s.runStatus l 0 4096 == 3 && s.runStatus l 1 4097 == 2 &&
      s.selStatus l 0 4097 == 0 && s.selStatus l 1 4097 == 2) = true ∧
    (pend.launch 1).any (fun l => pend.runStatus l 0 4097 == 0 && l.pod.startIs pend.now 0 4097 && pend.runStatus l 0 4098 == 1) = true := by
  unfold State.admits; decide +kernel

/-- A stack of n entries. -/
def loopsOf (n : Nat) : List LoopEntry := List.replicate n ⟨6, 9, 2, 0⟩

/-- Counts 0 and 1, stacks of 0, 5 and 6 entries, a header with LE, bodies of 0, 1, 4,096 and 4,097 bundles. -/
theorem wit_LoopForms :
    let s := demo demoF (seed 1 4096 4097 0)
    let le := demoFocus 0xBA20
    let deep (n : Nat) : Focus := { demoF with loops := loopsOf n }
    (∀ i ∈ [Instr.nopY, .loop (.reg 1) 0, .loop .zero 255, .loopx (.reg 1) (.reg 2), .loopx (.reg 1) (.reg 3), .loopx (.reg 1) .zero, .lbrk (.reg 1), .lbrk .zero, .lbrkU],
      s.admits demoF i ∧ ∀ f ∈ [deep 5, deep 6, le], (demo f (seed 1 4096 4097 0)).admits f i) ∧
    hdrLE demoF.word = false ∧ hdrLE le.word = true ∧ (deep 5).loops.length < 6 ∧ 6 ≤ (deep 6).loops.length ∧ (s.readX demoF (.reg 2)).toNat = 4096 ∧
    (s.readX demoF (.reg 3)).toNat = 4097 ∧ s.readX demoF .zero = 0 ∧ s.readX demoF (.reg 1) ≠ 0 := by
  unfold State.admits; decide +kernel

/-- guard at DEBT = n and n + 1; bar with and without WT, with the phase of its count and the other; fences of scope 1 and 2. -/
theorem wit_GuardBarrierAndFence :
    let s := demo demoF fun k => (seed 4 0 0 0 k).modCtx 0 fun x => { x with debt := 4 }
    let t := demo (demoFocus 0x8A20) id
    (∀ i ∈ [Instr.guard (.reg 1), .guard .zero, .bar false 0, .bar true 3, .fence 1 1, .fence 3 2, .fence 2 4], s.admits demoF i) ∧
    t.admits (demoFocus 0x8A20) (.bar false 0) ∧ (s.ctx 0 0).debt = 4 ∧ (s.readX demoF (.reg 1)).extractLsb' 0 32 = 4#32 ∧ (s.readX demoF .zero).extractLsb' 0 32 = 0#32 ∧
    ((s.core 0).lc (s.focusLk demoF)).isSome = true ∧ hdrWT demoF.word = true ∧ hdrWT (demoFocus 0x8A20).word = false ∧
    (s.ctx 0 0).barcnt[0].getLsbD 0 = false ∧ (s.ctx 0 0).barcnt[3].getLsbD 0 ≠ true := by
  unfold State.admits; decide +kernel

/-- A core whose launch owns banks 0 to 44 and has bank 45 Released, 46 Lost and 47 outside BANKS. -/
def banked (x1 : Word) (k : Core) : Core :=
  (seed x1 0 0 0 k).modLc 1 fun l => { l with bst := ((l.bst.set 45 .released).set 46 .lost).set 47 .foreign, locks := 3 }

/-- Masks of Owned, Released, Lost and foreign banks; a window that is covered by no chunk and one already held. -/
theorem wit_BankAndCodeLockForms :
    let s (x : Word) := demo demoF (banked x)
    (∀ i ∈ [Instr.bankAcq (.reg 1), .bankRel (.reg 1), .bankTst (.reg 1) 31 false, .codeLock (.reg 1) 31 false, .codeLockW (.reg 1) 0 true, .codeUnlock (.reg 1)],
      (s 1).admits demoF i) ∧ hdrWT demoF.word = true ∧ hdrCK demoF.word = true ∧
    ((s 1).core 0).lcOf 0 = (((s 1).core 0).lc ((s 1).focusLk demoF)) ∧ (((s 1).core 0).lcOf 0).any (fun l => l.lk == (s 1).focusLk demoF && l.bank 0 == .owned &&
      l.bank 45 == .released && l.bank 46 == .lost && l.bank 47 == .foreign && l.locks == 3) = true ∧
    ((s 1).readX demoF (.reg 1)).extractLsb' 0 48 = 1#48 ∧ ((s (0x200000000000)).readX demoF (.reg 1)).getLsbD 45 = true ∧ ((s 47).readX demoF (.reg 1)).extractLsb' 0 6 = 47#6 ∧
    ((s 1).tryLock 0 1 3).1 = 0 ∧ ((s 1).tryLock 0 1 4).1 = 2 ∧ (3 : BitVec 16) &&& 1 ≠ 0 ∧ (3 : BitVec 16) &&& 4 = 0 := by
  unfold State.admits; dsimp only
  exact ⟨by decide +kernel, by decide +kernel, by decide +kernel, rfl, by decide +kernel⟩

/-- An entry with a release cycle: the second of two, the last. -/
theorem wit_BankAndCodeLockForms_released :
    let s := demo demoF fun k => k.modCtx 0 fun x => { x with wh := [⟨0, 1, 0, .tzero 0 0, none⟩, ⟨0, 1, 0, .tzero 0 0, some 2⟩] }
    (s.ctx 0 0).wh[1]? = some ⟨0, 1, 0, .tzero 0 0, some 2⟩ ∧ (s.ctx 0 0).wh[2]? = none := by
  decide +kernel

/-- A launch whose chunk of windows 0 to 8 is covered and which holds eight locks: a ninth waits. -/
theorem wit_BankAndCodeLockForms_wait :
    let s := { demo demoF (fun k => (seed 0x100 0 0 0 k).modLc 1 fun l => { l with locks := 0xFF }) with
      images := [⟨0, 1, ⟨0, [⟨6, List.replicate 2304 0⟩]⟩, 1, true, none, false, true⟩] }
    s.admits demoF (.codeLockW (.reg 1) 31 false) ∧ (s.readX demoF (.reg 1)).extractLsb' 0 16 = 0x100#16 ∧ (s.tryLock 0 (s.focusLk demoF) 0x100).1 = 1 := by
  unfold State.admits; decide +kernel

/-- Ring operands at skip 8 and 359, bad ones at 7 and 360; a fallback operand; members 0 of 1 and 511 of 512, 1 of 1 and 0 of 513; a board with and without room; a bitmap at the last 64 bytes and one past them; a full buffer. -/
theorem wit_HaulForms :
    let s := demo demoF (seed 8 359 0x8000000000000000 0x1FF01FF)
    let t := demo demoF (seed 7 360 0x8000000000000001 0x40)
    let room : State := { s with launches := s.launches.map fun (l : Launch) => { l with skips := 1 } }
    let w := demo demoF fun k => (seed 0x2000000 1 0x600000 0x5FFFC0 k).modCtx 0 fun x => { x with wh := List.replicate 128 ⟨0, 1, 0, .tzero 0 0, none⟩ }
    ¬w.hasRoom demoF ∧ 512 < ((w.readX demoF (.reg 1)).extractLsb' 16 10).toNat + 1 ∧ ((w.readX demoF (.reg 2)).extractLsb' 0 9).toNat = 1 ∧
    (w.ctx 0 0).holdsUpdate 8 = false ∧ localOk ((w.core 0).lcOf 0) (w.readX demoF (.reg 3)).toNat 64 = false ∧ localOk ((w.core 0).lcOf 0) (w.readX demoF (.reg 4)).toNat 64 = true ∧
    (∀ i ∈ [Instr.haulLd (.reg 1) 31 false, .haulPass (.reg 2) 31 false, .haulBar (.reg 1) (.reg 4) true, .haulBar (.reg 3) .zero false, .haulBoard (.reg 1) 31 false,
        .haulSt (.reg 1) (.reg 2) true 0, .haulSt (.reg 1) (.reg 2) false 15, .haulOp (.reg 1) (.reg 2) 0 true true 1 15, .haulXchg (.reg 1) (.reg 2) 31 false 15,
        .haulCas (.reg 1) (.reg 2) 31 false 15, .haulLse (.reg 1) (.reg 2) 31 false 14, .haulAlight (.reg 1) (.reg 0) false, .haulAlight (.reg 1) (.reg 7) true],
      s.admits demoF i ∧ t.admits demoF i) ∧ hdrWT demoF.word = true ∧ s.hasRoom demoF ∧
    skipBad (s.readX demoF (.reg 1)) = false ∧ skipBad (s.readX demoF (.reg 2)) = false ∧ skipBad (s.readX demoF (.reg 3)) = false ∧ isRing (s.readX demoF (.reg 3)) = false ∧
    isRing (s.readX demoF (.reg 1)) = true ∧ skipBad (t.readX demoF (.reg 1)) = true ∧ skipBad (t.readX demoF (.reg 2)) = true ∧ skipBad (t.readX demoF (.reg 3)) = true ∧
    ((s.readX demoF (.reg 4)).extractLsb' 16 10).toNat + 1 = 512 ∧ ((s.readX demoF (.reg 4)).extractLsb' 0 9).toNat = 511 ∧
    (((s.launch (s.focusLk demoF)).map Launch.skips).getD 0 ≤ s.skipsHeld (s.focusLk demoF)) ∧
    room.skipsHeld (room.focusLk demoF) < ((room.launch (room.focusLk demoF)).map Launch.skips).getD 0 ∧
    localOk ((s.core 0).lcOf 0) (s.readX demoF (.reg 7)).toNat 64 = true := by
  unfold State.admits State.hasRoom; decide +kernel

theorem wit_SystemRegisters :
    (∀ n ∈ [0x01, 0x02, 0x03, 0x04, 0x05, 0x06, 0x07, 0x08, 0x09, 0x0C, 0x0D, 0x0E, 0x0F, 0x10, 0x11, 0x18, 0x19, 0x1A, 0x1B],
      (demo demoF id).admits demoF (.sysrd 31 false n)) ∧ (demo demoF id).admits demoF (.syswr (.reg 1) 0x10) ∧ (demo demoF id).admits demoF (.syswr (.reg 1) 0x11) := by
  unfold State.admits; decide +kernel

/-- Halts closed and opened by the policy of partition 1; end with and without CK. -/
theorem wit_TrapBreakEnd :
    let s := demo demoF id
    let opened := s.modVf 0 fun v => { v with open_ := 1 }
    (∀ i ∈ [Instr.trap (.reg 31), .ebrk, .endCtx], s.admits demoF i ∧ opened.admits demoF i) ∧ (demo (demoFocus 0x1A20) id).admits (demoFocus 0x1A20) .endCtx ∧
    s.isOpen (s.partOf (s.focusLk demoF)) 0 = false ∧ opened.isOpen (opened.partOf (opened.focusLk demoF)) 0 = true ∧ hdrCK demoF.word = true ∧
    hdrCK (demoFocus 0x1A20).word = false := by
  unfold State.admits; decide +kernel

/-- A bundle whose header is still to be performed. -/
def headF (h : BitVec 16) (hdr : Nat) : Focus := { demoFocus h with hdr := hdr, done := 0, part := 0, word := h.zeroExtend 512 ||| (0x13 : BundleWord) <<< 16 }

/-- The launch of the small states with a yield request. -/
def asked (s : State) : State := s.modLaunch 1 fun l => { l with yreq := some .iteration }

/-- A header with a field outside R67, a scalar word outside R94; CK alone, with YP and a walk under way, with YP and a yield request; LE at the end of a loop. -/
theorem wit_IssueRows :
    let ck := headF 0x8020 0
    let yp := headF 0xC020 0
    let owed := demo yp fun k => { k with walks := [⟨0, 1, 0, 0, 7, 0, 9, none⟩] }
    let le := headF 0xA020 1
    let v31 : Focus := { headF 0x20 0 with word := 0x130020 ||| (match encode (.vmov { vo1 .i32 with a := .reg 31 }) with
      | some (.v1 w) => w.zeroExtend 512 <<< 96
      | _ => 0) }
    let few := demo v31 fun k => k.modLc 1 fun l => { l with vregs := 16 }
    few.bundleBad v31 = none ∧ few.bundleTraps v31 ≠ [] ∧ (asked owed).yields yp = true ∧ (asked owed).yieldFails yp = true ∧
    (demo { ck with word := 0x20 } id).bundleBad { ck with word := 0x20 } = some 1 ∧ (demo { ck with word := 1 } id).bundleBad { ck with word := 1 } = some 0 ∧
    (demo ck id).bundleBad ck = none ∧ ck.hdr = 0 ∧ hdrCK ck.word = true ∧ (demo ck id).yieldFails ck = false ∧ owed.yieldFails yp = true ∧
    (asked (demo yp id)).yields yp = true ∧ (asked (demo yp id)).yieldFails yp = false ∧ le.hdr = 1 ∧ (demo le id).counts le = true ∧ (asked (demo yp id)).focus = some yp := by
  decide +kernel

theorem wit_LoopEndsCountFromTheInside :
    (∀ e ∈ [(⟨1, 9, 1, 0⟩ : LoopEntry), ⟨0, 9, 0xFFFFFFFF, 0xFFFFFFFE⟩], e.stop = 9 ∧ e.count.toNat ≤ (e.idx + 1).toNat) ∧
    (⟨0, 9, 2, 0⟩ : LoopEntry).stop = 9 ∧ ((0 : BitVec 32) + 1).toNat < (2 : BitVec 32).toNat ∧ ∀ e ∈ [(⟨0, 8, 2, 0⟩ : LoopEntry)].head?, e.stop ≠ 9 := by
  decide

theorem wit_LoopIndices :
    let s := demo demoF fun k => (seed 1 0 0 0 k).modCtx 0 fun x => { x with loops := loopsOf 6 }
    (s.ctx 0 0).loops[(5 : BitVec 3).toNat]? = some ⟨6, 9, 2, 0⟩ ∧ ((demo demoF id).ctx 0 0).loops.length ≤ (0 : BitVec 3).toNat ∧
    isLoopForm (.loop (.reg 1) 0) = true ∧ isNext (exec (.loop (.reg 1) 0) (demo demoF (seed 1 0 0 0))) = true ∧
    isNext (exec .loopEndCount (demo (headF 0xA020 1) id)) = true := by
  decide +kernel

theorem wit_SequentialFetchAndDelay :
    let x := (demo demoF id).ctx 0 0
    x.pending = none ∧ demoF.lr = none ∧ ({ demoF with jump := some 0xFFF } : Focus).jump = some 0xFFF ∧ ({ demoF with idx := 0xFFF } : Focus).idx.toNat = 4095 ∧
    (0x3FFC0 : Word).toNat ≤ 0x3FFC0 ∧ (0x3FFC0 : Word).toNat % 64 = 0 ∧ 0x3FFC0 < (0x40000 : Word).toNat ∧ (0x3FFC1 : Word).toNat % 64 ≠ 0 := by
  decide +kernel

/-- A trap of context 0. -/
def demoTrap (cause origin : Nat) : Trap := ⟨0, 1, cause, 1, 0, 0, 5, origin, 0, 0, false⟩

/-- A context whose trap is taken, its rollback reported or not. -/
def rolled (done : Bool) (k : Core) : Core :=
  { k with cyc := 9 }.modCtx 0 fun x => { x with st := .trapped, rb := some (demoTrap 3 0, done), rbAt := 8 }

/-- A pending trap; a rollback whose work is over; an abort that is due; TRAPCMD words that hit a context awaiting the host, that name another ACTION, and that miss. -/
theorem wit_TrapRows :
    let s := demo demoF fun k => { k with traps := [demoTrap 0x7F 0, demoTrap 2 0] }
    let r := demo demoF (rolled false)
    let h := demo demoF (rolled true)
    let ab := h.modLaunch 1 fun l => { l with abort := some (9, 3, 0) }
    (s.core 0).trapOf 0 = some (demoTrap 2 0) ∧ r.rolledBack 0 0 = true ∧ ((r.ctx 0 0).rb.map Prod.snd) = some false ∧ ab.abortDue 1 = true ∧
    (0x1000000 : BitVec 64).extractLsb' 24 2 = 1#2 ∧ (0x2000000 : BitVec 64).extractLsb' 24 2 = 2#2 ∧ (0x3000000 : BitVec 64).extractLsb' 24 2 ≠ 1#2 ∧
    (h.trapTarget 0 0x1000000).map (fun t => (t.1, t.2.1)) = some (0, 0) ∧ (h.ctx 0 0).rolledBack = true ∧ (r.trapTarget 0 0x1000000).isSome = true ∧
    (r.ctx 0 0).rolledBack = false ∧ (r.ctx 0 0).wait ≠ .yield ∧
    ((h.modCtx 0 0 fun x => { x with st := .waiting, wait := .yield }).trapTarget 0 0x2000000).isSome = true ∧ h.trapTarget 8 0x1000000 = none ∧ h.trapTarget 0 0x1000510 = none := by
  decide +kernel

/-- A trap on a context to which no result was owed, an ordinary one and one of a containment. -/
theorem wit_RollbackRestoresTheCheckpoint :
    let r := demo demoF (rolled false)
    let p := demo demoF fun k => (rolled false k).modCtx 0 fun x => { x with rb := some ({ demoTrap 3 0 with pod := true }, false) }
    r.rolledBack 0 0 = true ∧ (r.ctx 0 0).rb = some (demoTrap 3 0, false) ∧ (r.ctx 0 0).ck.open_ = [] ∧ (1 : CtxId) ≠ 0 ∧
    p.rolledBack 0 0 = true ∧ (p.ctx 0 0).rb = some ({ demoTrap 3 0 with pod := true }, false) ∧ (p.ctx 0 0).ck.open_ = [] := by
  decide +kernel

/-- Traps younger than the checkpoint, one older, and the abort that follows. -/
theorem wit_TrapsTaken :
    let k := (demo demoF fun (k : Core) => ({ k with traps := [demoTrap 5 3, demoTrap 4 3] } : Core).modCtx 0 fun x => { x with ck := { x.ck with issued := 3 } }).core 0
    let o : Core := { k with traps := [demoTrap 5 3, demoTrap 6 2] }
    k.trapOf 0 = some (demoTrap 4 3) ∧ o.trapOf 0 = none ∧ o.staleTrap 1 = some (demoTrap 6 2) ∧ k.stale (demoTrap 4 3) = false ∧ o.stale (demoTrap 6 2) = true := by
  decide +kernel

/-- A core with one of each thing that is due: a released entry, a piece of the queue, an in-place cp.red, a settled mcast. -/
theorem wit_EngineWithholdAndHaulRows :
    let m := ((demo demoF (copies 0 0x8000 0x40000)).cpPlan demoF (co (.reg 2) (.reg 0) 4 0 false)).2
    let s := demo demoF fun k => { (k.modCtx 0 fun x => { x with wh := [⟨0, 6, 5, .tzero 0 0, some 0⟩] }) with
      cmds := [m], cmdWait := [m], mcasts := [{ m with kind := .mcast, due := 0, tabled := true }] }
    let full := demo demoF fun k => { k with cmds := List.replicate 15 m }
    let rrd := demo demoF fun k => { k with cmds := [{ m with kind := .rrd }] }
    (((s.ctx 0 0).wh.filter (fun e => e.rel.any fun r => decide (r ≤ (s.core 0).cyc))).length = 1) ∧
    ((s.core 0).cmds.find? (fun m => decide (m.next < m.pieces) && decide (m.slot + m.next ≤ (s.core 0).cyc)) = some m) ∧ m.kind ≠ .rrd ∧
    (((rrd.core 0).cmds.find? (fun m => decide (m.next < m.pieces) && decide (m.slot + m.next ≤ (rrd.core 0).cyc))).map EngCmd.kind = some .rrd) ∧
    ((s.core 0).cmdWait.find? (fun m => decide (m.slot ≤ (s.core 0).cyc)) = some m) ∧ (full.core 0).cmds.length < 16 ∧
    (((s.core 0).mcasts.find? (fun m => decide (m.due ≤ (s.core 0).cyc) && m.settled)).isSome = true) := by
  decide +kernel

/-- An access of another core that reaches a bank of core 0. -/
def demoAccess (due : Nat) (rd : List Nat) : Access :=
  ⟨due, true, .remote 0 1, false, 0, 0, 1, 0, 7, 0, 5, rd, [], none, [], [], none, .write, []⟩

/-- A remote access to a bank its partition owns and to one it does not; a report that is due; passages of skip 0 and of skip 20; a board without a skip; a fallback check. -/
theorem wit_EngineWithholdAndHaulRows_station :
    let s := { demo demoF id with wire := [⟨0, demoAccess 0 [0], 1⟩] }
    let h (u : HaulOp) (t : Nat) := { demo demoF (fun k => { k with haul := [u] }) with now := t }
    let u (kind : HaulKind) (skip : Nat) : HaulOp := ⟨0, 1, 0, 5, kind, skip, true, 0, 0, 1, false, 0⟩
    (s.wire.find? (fun w => w.target == 0 && decide (w.acc.due ≤ s.now))).isSome = true ∧ (∀ b ∈ (demoAccess 0 [0]).banks, s.ownedBy 0 1 b = true) ∧
    (∃ b ∈ (demoAccess 0 [0]).banks, s.ownedBy 0 2 b = false) ∧
    ((demo demoF fun k => { k with reports := [⟨0, demoTrap 0x21 0, none, ⟨0, 1, 0, 1, 0, 5, 7, 1, 0, 0, 0⟩⟩] }).core 0).reportDue 0 ≠ none ∧
    s.passageDue 0 = true ∧ skipAt (stageOf 0) 0 = 0 ∧ skipAt (stageOf 0) 340 = 20 ∧ (h (u .ld 20) 340).passageDue 0 = true ∧
    (((h (u .board 0) 361).core 0).exhausted 361).isSome = true ∧ (((h { u (.barCheck 2 true) 0 with ring := false } 0).core 0).fbCheck).isSome = true := by
  decide +kernel

/-- A landing entry with a request and its reply, late by n periods. -/
def landed (kind : UKind) (p : Option Reply) (late : Nat) (k : Core) : Core :=
  { k with land := k.land.set 63 ⟨0, some ⟨kind, 0, 1, 0, 5, 0, [0], 0, if p.isSome then some 0 else none, 40, 1, false, 0, false, 0, 0, true, none, p, late⟩, none⟩ }

/-- Replies with and without a race mark, for x1 and x0; a request that timed out and one that is a period short of it; a reply that fits no request, at the head and behind one that fits. -/
theorem wit_LandingRows :
    let p (a : Option Word) : Option Reply := some ⟨[(0, 0)], 0, a⟩
    let e (kind : UKind) (a : Option Word) := ((demo demoF (landed kind (p a) 0)).core 0).land[63]
    let late (n : Nat) := ((demo demoF (landed .gld none n)).core 0).land[63]
    let m : ReplyMsg := ⟨0, 0, 0, 0, ⟨[], 0, none⟩, []⟩
    let g : ReplyMsg := ⟨0, 63, 0, 0, ⟨[], 0, none⟩, []⟩
    let s (l : List ReplyMsg) : State := { demo demoF (landed .gld none 0) with replies := l }
    ([UKind.gld, .gst, .gatom].all fun kind => [none, some (0 : Word)].all fun a => (e kind a).freeAt.isNone &&
      (e kind a).req.any fun r => r.kind == kind && r.due == some 0 && r.reply == p a && r.d == 1 && !r.nw) = true ∧
    (late 0x100000).req.any (fun r => r.reply.isNone && decide (0x100000 ≤ r.late)) = true ∧ (late 0x100000).freeAt = none ∧
    (late 0xFFFFF).req.any (fun r => decide (0x100000 ≤ r.late)) = false ∧
    m.at_ ≤ (s [m]).now ∧ m.core = (0 : CoreId).val ∧ (s [m]).replyFits m = false ∧ (s [g, m]).replyFits g = true ∧
    (s [g, m]).replies.find? (fun r => decide (r.at_ ≤ (s [g, m]).now) && r.core == (0 : CoreId).val && !(s [g, m]).replyFits r) = some m := by
  decide +kernel

/-- A small state in whose partition the race detector of die 0 runs in mode n, with another context's write on record in sector 0. -/
def racy (n : Nat) : State :=
  let s := demo demoF id
  { s with shadows := [(0, ⟨false, 1, 9, 5⟩)], vfs := s.vfs.set 0 { s.vfs[0] with racepol := BitVec.ofNat 64 n } }

/-- A gld, a gst and a gatom of one chunk at the start of HBM stack 0, and at its last chunk, with no race and with one of mode 1. -/
theorem wit_HomeRows :
    let q (kind : UKind) (a : Nat) : HomeReq := ⟨kind, 1, false, 0, 0, 0, 0, [(a, 0, 0xFF)], 0, false, 0, none, none, 0, ⟨0, 0, #v[0, 0, 0]⟩, 1, true⟩
    let s (r : HomeReq) := { demo demoF id with homeQ := [r] }
    let z (r : HomeReq) := { racy 1 with homeQ := [r] }
    (∀ kind ∈ [UKind.gld, .gst, .gatom], ∀ a ∈ [0, 0xFFFFFFFC0],
      (s (q kind a)).homeQ[0]? = some (q kind a) ∧ (s (q kind a)).homeMay (q kind a) = true ∧ (s (q kind a)).races (q kind a) = [] ∧
      (q kind a).chunks = [(a, 0, 0xFF)] ∧ (q kind a).pkg = (s (q kind a)).pf.pkg.toNat) ∧
    (∀ kind ∈ [UKind.gld, .gst, .gatom], (z (q kind 0)).homeMay (q kind 0) = true ∧ raceMark (z (q kind 0)).pf.pkg.toNat ((z (q kind 0)).races (q kind 0)) = some 0) ∧
    regionOf (podLoc 0) = .hbm (stackDie 0) ∧ regionOf (podLoc 0xFFFFFFFC0) = .hbm (stackDie 0) ∧ podLoc 0xFFFFFFFC0 % 64 = 0 := by
  decide +kernel

/-- A row that is due, alone and with an older form of the same slot; a walk that is over; a refetch that has come; a reusing chunk. -/
theorem wit_MatrixAndWalkRows :
    let m : MForm := { matS.mform demoF (ma .i8 23 8 0) .mma with names := 1, rows := 1, lands := [⟨0, 0, [], 0⟩] }
    let g : MForm := { m with id := 0, lands := [], done := 1 }
    let s := demo demoF fun k => { k with mforms := [{ m with id := 1 }], walks := [⟨0, 1, 0, 5, 7, 0, 0, some (some (padHandle .timed 0), 0)⟩], refetch := some (0, 0, 0), cyc := 160 }
    let t := demo demoF fun k => { k with mforms := [g, { m with id := 1 }] }
    let u := demo demoF fun k => { k with walks := [⟨0, 1, 0, 5, 7, 0, 0, some (none, 0x20)⟩], cyc := 160 }
    let c : Chunk := ⟨6, [0]⟩
    let r := { demo demoF (fun k => { k.modLc 1 (fun l => { l with fchunk := 1 }) with refetch := some (1, 0, 0) }) with images := [⟨0, 1, ⟨0, [c, c]⟩, 2, true, none, false, true⟩] }
    ((s.core 0).rowDue).isSome = true ∧ (s.core 0).slotTaken { m with id := 1 } = false ∧ (t.core 0).slotTaken { m with id := 1 } = true ∧ (s.walkDue 0).isSome = true ∧
    ((s.walkDue 0).any fun w => w.res.any fun q => q.1.isSome) = true ∧ ((u.walkDue 0).any fun w => w.res == some (none, 0x20)) = true ∧
    (s.core 0).mforms.head? = some { m with id := 1 } ∧ m.lands = [⟨0, 0, [], 0⟩] ∧ (s.core 0).refetch = some (0, 0, 0) ∧
    (r.core 0).refetch = some (1, 0, 0) ∧ ((r.core 0).lc 1).any (fun l => r.expected 0 l 0 == some (0, c)) = true ∧ (r.stream 0 1)[1]? = some (1, c) ∧ reusing (r.stream 0 1) 1 = true ∧
    ((r.core 0).lc 1).any (fun l => r.fetchMay [] l 1 c true) = true := by
  decide +kernel

/-- A bundle that nothing brings, for 2^20 periods. -/
theorem wit_MatrixAndWalkRows_late :
    let s := { demo demoF (fun k => { k with lateSince := some 0, refetch := none }) with now := 2 ^ 20 }
    (s.core 0).refetch = none ∧ (s.lateNow 0).isSome = true ∧ s.lateOut 0 = true ∧ { s with now := 2 ^ 20 - 1 }.lateOut 0 = false := by
  decide +kernel

/-- The image of the small states as the loader holds it: n of its chunks have landed. -/
def img (hdr : BitVec 1024) (cs : List Chunk) (n : Nat) (checked : Bool) : LoadedImage := ⟨0, 1, ⟨hdr, cs⟩, n, checked, none, false, checked⟩

/-- An image that waits for its prefix check; chunks that end at bundle 4,096 and 4,097; an in-place cp.red in a preemptible image; a digest that disagrees. -/
theorem wit_LoaderAndLaunchRows_loader :
    let ok : Chunk := ⟨6 ||| 4095 <<< 128, [0]⟩
    let bad : Chunk := ⟨6 ||| 4096 <<< 128, [0]⟩
    let red : Chunk := ⟨6, [(0b00010_000101_000110_000000_00111_0_0000_0000_1_0000000000 : BundleWord) <<< 272]⟩
    (img 0 [ok] 0 false).checked = false ∧ (img 0 [ok] 0 true).refused = none ∧ chunkBreaks ⟨0, [ok]⟩ ok = false ∧ chunkBreaks ⟨0, [bad]⟩ bad = true ∧ red.kind = 6 ∧
    imagePre ⟨1 <<< 48, [red]⟩ = true ∧ red.payload.any bundleInplace = true ∧ chunkBreaks ⟨1 <<< 48, [red]⟩ red = false ∧ imagePre ⟨0, [red]⟩ = false ∧
    (img 0 [ok] 1 true).digestDue = true ∧ digestOk ⟨0, []⟩ = false ∧ ({ demo demoF id with images := [img 0 [ok] 0 true] } : State).loaded 0 = some (img 0 [ok] 0 true) ∧
    (img 0 [ok] 0 true).img.chunks[0]? = some ok := by
  decide +kernel

/-- The digest of a header of 128 zero bytes, computed outside the model from FIPS 202: an image that agrees with its DIGEST. -/
theorem wit_LoaderAndLaunchRows_digest :
    digestOk ⟨(0xca9704ef07c523a2b02eea849254736dcb29706843e4378f140ca597db33e8c1bacbf3d203748741c896aaf12d12c1f9d248e574457eaae1567c48d3964b8622 : BitVec 512).zeroExtend 1024 <<< 384, []⟩ = true := by decide +kernel

/-- A start vector for launch 7, image 0, with CADDR 32. -/
def vec : List (BitVec 8) := (List.range 64).map fun i => if i = 0 then 7 else if i = 40 then 32 else 0

/-- Partition 1 with its VF running and an image that the loader accepted. -/
def served : State :=
  let s := demo demoF id
  { (s.modVf 0 fun v => { v with tdisp := .run }) with images := [{ img (1 <<< 128) [] 0 true with handle := 0 }] }

/-- A vector that is heard, at the first and the last queue, and one with CADDR 0; one that acceptance refuses and one it takes. -/
theorem wit_LoaderAndLaunchRows_vector :
    let v : StartVec := BitVec.ofNat 512 (packNat 8 (vec.map BitVec.toNat))
    vec.length = 64 ∧ (0x1000 - 0x1000) / 64 = (0 : Fin 16).val ∧ (0x13C0 - 0x1000) / 64 = (15 : Fin 16).val ∧ (∃ d < 9, served.holdsDie 1 d = true) ∧
    served.vfs[0].tdisp = .run ∧ svCaddr v ≠ 0 ∧ svCaddr v % 32 = 0 ∧ served.acceptFault 1 [] v = none ∧ ({ served with images := [] } : State).acceptFault 1 [] v = some 12 ∧
    served.acceptFault 1 (List.replicate 64 0) v = some 11 ∧ served.acceptFault 1 (List.replicate 63 0) v = none ∧ (demo demoF id).vfs[0].tdisp ≠ .run := by
  decide +kernel

/-- LQPRIO for no launch, for a launch that is not queued and for one that is; a selection that is due; an aging head; a start cycle. -/
theorem wit_LoaderAndLaunchRows_launch :
    let s := demo demoF id
    let q := (s.modLaunch 1 fun l => { l with st := .queued }).modVf 0 fun v => { v with queues := v.queues.set 15 [1] }
    let st (b : Bool) := demo demoF fun k => k.modLc 1 fun l => { l with started := b }
    ((s.launchesOf 1).filter fun l => l.id == (5 : BitVec 64).extractLsb' 0 16) = [] ∧ ((s.launchesOf 1).filter fun l => l.id == (0 : BitVec 64).extractLsb' 0 16) ≠ [] ∧
    (∀ l ∈ s.launchesOf 1, l.st ≠ .queued) ∧ (((q.launchesOf 1).filter fun l => l.id == (0 : BitVec 64).extractLsb' 0 16).find? fun l => l.st == .queued).isSome = true ∧
    { s with selectDue := true }.selectDue = true ∧ (q.queueHead 0 15).any (fun h => decide (h.aged < (agingTicks - h.headSince) / agingTicks)) = true ∧
    (q.queueHead 0 15).any (fun h => decide (h.aged < (agingTicks - 1 - h.headSince) / agingTicks)) = false ∧
    (((st false).launch 1).any fun l => (st false).startDue l) = true ∧ (((st true).launch 1).any fun l => (st true).startDue l) = false ∧
    (∃ r ∈ [placeRec], coreOf r.core = some 0 ∧ (3 : CtxId) ∈ r.ctxs) := by
  decide +kernel

/-- A core whose launch has ended every context, and the package with that core everywhere. -/
def overCore : Core := { (demo demoF id).core 0 with ctxs := ((demo demoF id).core 0).ctxs.map fun x => { x with st := .ended } }
def overS : State := { demo demoF id with cores := Vector.replicate 324 overCore }

/-- A retirement point that has come. -/
theorem wit_LoaderAndLaunchRows_retire : ∃ l, overS.launch 1 = some l ∧ overS.retires l = true := by
  have hc : ∀ c, overS.core c = overCore := by intro c; simp [overS, State.core]
  refine ⟨(overS.launch 1).getD State.reset.placeLaunch, by decide +kernel, ?_⟩
  have hw : (List.finRange 324).any (fun c => (overS.core c).working ((overS.launch 1).getD State.reset.placeLaunch).key) = false := by
    have h1 : overCore.working ((overS.launch 1).getD State.reset.placeLaunch).key = false := by decide +kernel
    simp only [hc, h1, List.any_eq_false]; simp
  rw [State.retires, State.inFlight, hw]
  simp only [hc]
  decide +kernel

/-- A launch that has yielded and whose Ys has come; one due back; agent 1 the owner; partitions outside 1 to 9; a swap under way; partitions parked, not parked and not swappable. -/
theorem wit_PreemptionAndSwapRows :
    let y := (demo demoF fun k => { k with ctxs := (k.ctxs.map fun x => { x with st := .ended }).set 0 { k.ctxs[0] with st := .waiting, wait := .yield } }).modLaunch 1 fun l => { l with yreq := some .iteration, ys := some 0 }
    let b := (demo demoF id).modLaunch 1 fun l => { l with st := .saved, yr := some 0 }
    let s := { demo demoF id with pf := { (demo demoF id).pf with owner := 1 } }
    let idle := { s with launches := [] }
    let parked := { idle with parked := [⟨9, [], 0, [], []⟩] }
    let full := { idle with dies := idle.dies.set 0 { idle.dies[0] with parked := some 9 } }
    full.swappable 1 = true ∧ (∃ d : Fin 9, d.val ∈ full.diesOf 1 ∧ (full.die d).parked ≠ none) ∧
    ((y.launch 1).any fun l => y.yielded l && l.ys == some 0) = true ∧ ((b.launch 1).any fun l => b.resumeDue l && !l.parked) = true ∧ s.owns .pf0 = true ∧
    9 < (10 : BitVec 4).toNat ∧ (1 : BitVec 4).toNat ≤ 9 ∧ s.pf.swap = none ∧ { s.pf with swap := some (1, true, 0, none) }.swap.isSome = true ∧ s.isParked 9 = false ∧
    s.swappable 1 = false ∧ idle.swappable 1 = true ∧ (∀ d : Fin 9, d.val ∈ idle.diesOf 1 → (idle.die d).parked = none) ∧ parked.isParked 9 = true ∧
    parked.parked.find? (fun q => q.part == 9) = some ⟨9, [], 0, [], []⟩ ∧ parked.diesOf 9 = [] := by
  decide +kernel

/-- OWNER 0, 1 and 2 and PENDING 1 before a claim, a hand-over and a release by agents 1 and 2. -/
theorem wit_OwnershipRules :
    let o (a p : BitVec 4) : State := { State.reset with pf := { State.reset.pf with owner := a, pending := p } }
    State.reset.pf.owner = 0 ∧ (o 2 1).pf.owner ≠ 0 ∧ (o 2 1).pf.pending = BitVec.ofNat 4 Agent.pf0.num ∧ (o 2 1).pf.pending ≠ BitVec.ofNat 4 Agent.mctp.num ∧
    (o 2 1).pf.owner = BitVec.ofNat 4 Agent.mctp.num ∧ (o 2 1).pf.owner ≠ BitVec.ofNat 4 Agent.pf0.num ∧ (15 : BitVec 4) ≠ 1 ∧ (15 : BitVec 4) ≠ 2 := by
  decide +kernel

theorem wit_OwnerOnlyWrites : State.reset.owns .pf0 = false ∧ State.reset.owns .mctp = false ∧ (0x10 : Nat) ≠ 8 := by decide +kernel

/-- PARTMAP words that every die may take and that a bound launch stops; a live launch and none; ports 0 and 11; sensors at 84 and 85; a bound partition and a free one; RACEPOL modes 0 to 3. -/
theorem wit_HostRegisterWrites :
    let s := { demo demoF id with pf := { (demo demoF id).pf with owner := 1 } }
    let idle : State := { State.reset with pf := s.pf }
    s.owns .pf0 = true ∧ (∀ d : Fin 9, s.dieMoves d (partField 0x111111111 d.val) = true) ∧ (∃ d : Fin 9, s.dieMoves d (partField 0x222222222 d.val) = false) ∧
    s.launches.any Launch.live = true ∧ idle.launches.any Launch.live = false ∧ (0x1B : BitVec 64).extractLsb' 0 4 = BitVec.ofNat 4 (11 : Fin 12).val ∧
    (0x1B : BitVec 64).getLsbD 4 = true ∧ (0x0B : BitVec 64).getLsbD 4 = false ∧ (∀ t ∈ State.reset.sensors.toList, t < 85) ∧
    (∃ t ∈ (State.reset.sensors.set 35 85).toList, 85 ≤ t) ∧ s.partBound 1 = true ∧ s.partBound 2 = false ∧ (3 : BitVec 64).extractLsb' 0 2 = 3#2 := by
  decide +kernel

/-- A DBGCMD that names core 0: local and forwarded, under a closed and an open policy, for a core of another partition; a forward that is late; a watch record that is due. -/
theorem wit_DebugCommandsAndRows :
    let s := demo demoF id
    let o := s.modVf 0 fun v => { v with open_ := 0b01011 }
    let late := { (s.modVf 0 fun v => { v with dbgbusy := true, dbgfwd := some (0, 0, 0) }) with now := 2 ^ 20 }
    s.vfs[0].dbgbusy = false ∧ late.vfs[0].dbgbusy = true ∧ (0 : BitVec 64).getLsbD 51 = false ∧ (1 <<< 51 : BitVec 64).getLsbD 51 = true ∧ s.pf.stopped = false ∧
    s.dbgAllowed 1 8 0 = false ∧ o.dbgAllowed 1 8 0 = true ∧ o.isOpen 1 0 = true ∧ o.isOpen 1 1 = true ∧ o.isOpen 1 3 = true ∧ o.dbgCoreOf 1 0 = some 0 ∧
    o.dbgCoreOf 1 (324 <<< 42) = none ∧ late.dbgLate 0 = true ∧
    ((demo demoF fun k => { k with dbg := { k.dbg with pend := [⟨0, #v[0, 0, 0, 0], true⟩, ⟨1, #v[0, 0, 0, 0], false⟩] } }).core 0).watchDue 0 = true ∧
    (s.modVf 0 fun v => { v with open_ := 0b00101 }).isOpen (s.partOfCore 0) 2 = true ∧ (s.modVf 0 fun v => { v with open_ := 0b00101 }).isOpen (s.partOfCore 0) 0 = true ∧
    s.isOpen (s.partOfCore 0) 2 = false := by
  decide +kernel

/-- A launch whose running program holds the entry e, its flow in the state w. -/
def podS (e : BitVec 128) (g : Flow → Flow) (h : PodSt → PodSt) (t : Nat) : State :=
  { (demo demoF id).modLaunch 1 fun l => { l with pod := h { l.pod with running := some ⟨0, 0, 0, [g ⟨0, e, 0, 0, 0, 0, 0, 0, []⟩]⟩ } } with now := t }

/-- A pending start that is due; SEND and FWD slots that are due, a RECV with its flit, a flit that is missing; a barrier slot; a completed barrier; a containment; a resume. -/
theorem wit_PodAndLinkRows_launch :
    let any (s : State) (p : Launch → Bool) : Bool := (s.launch 1).any p
    let flow (s : State) (p : Run → Flow → Bool) : Bool := any s fun l => (l.flow 0).any fun q => p q.1 q.2
    let start := podS 0 id (fun p => { p with running := none, pendRun := some (0, 5) }) 5
    let n : Notice := ⟨1, 0, none, 1, 0⟩
    let bar := { podS 0 id (fun p => { p with fo := some 0, part := #v[some 0, none] }) 64 with
      images := [⟨0, 1, ⟨0, [⟨3, [1 ||| 64 <<< 32]⟩]⟩, 1, true, none, false, true⟩] }
    let held := ({ demo demoF (fun k => { k with ctxs := k.ctxs.map fun x => { x with st := .trapped, rb := some ({ demoTrap 3 0 with pod := true }, true) } }) with now := 9 } : State).modLaunch 1
      fun l => { l with pod := { l.pod with res := some 10 } }
    any start (fun l => start.programDue l && (start.nextRun l).isSome) = true ∧
    flow (podS 0 id id 1000) (fun r w => peKind w.entry == 0 && (podS 0 id id 1000).sendDue r w) = true ∧
    flow (podS 1 id id 1000) (fun r w => peKind w.entry == 1 && (podS 1 id id 1000).sendDue r w && (podS 1 id id 1000).missingFlit r w) = true ∧
    flow (podS 2 (fun w => { w with buf := [⟨0, 0, none, none⟩] }) id 128) (fun _ w => ((podS 0 id id 128).recvDue w).isSome) = true ∧
    any bar (fun l => bar.barSlotDue l) = true ∧
    any (podS 0 id (fun p => { p with due := #v[some 0, none] }) 0) (fun l => (podS 0 id id 0).barOverDue l && (l.barOver 0).contains 3) = true ∧
    any (podS 0 id (fun p => { p with notices := [n] }) 16384) (fun l => (podS 0 id id 16384).containDue l && l.pod.firstNotice == some 0) = true ∧
    any held (fun l => held.podResumeDue l) = true := by
  decide +kernel

/-- A RECV of one flit on port 0 into the pad of core 1, the program of the far package that feeds it, and a flit for each kind of entry that is held with its link up. -/
theorem wit_PodAndLinkRows_flits :
    let recv : BitVec 128 := 2 ||| (0xC000800000 : BitVec 128) <<< 64
    let feeds : BitVec 512 := (80 ||| 1 <<< 32) <<< 64 ||| (1 : BitVec 512) <<< (128 + 36)
    let data : Option (BitVec 1024 × BitVec 16) := some (5, 3)
    let pod (e : BitVec 128) (w : Flow → Flow) : State :=
      let s := (podS e w id 1000).modLaunch 1 fun l => { l with podmap := [0, 1] }
      { s with pf := { s.pf with len := 1 }, ports := s.ports.set 0 { s.ports[0] with st := 2 },
               images := [⟨0, 1, ⟨0, [⟨3, [1 ||| 64 <<< 128, feeds]⟩]⟩, 1, true, none, false, true⟩] }
    let flow (s : State) (p : Launch → Run → Flow → Bool) : Bool := (s.launch 1).any fun l => (l.flow 0).any fun q => p l q.1 q.2
    let hold (h : HeldFlit) (w : Flow) : Flow := { w with buf := [h] }
    let snd := pod 0 (hold ⟨0, 0, none, data⟩)
    let later : BitVec 128 := 1 ||| (100 : BitVec 128) <<< 104
    let fwd := pod later (hold ⟨0, 0, some 7, data⟩)
    let rcv := pod recv (hold ⟨0, 0, none, data⟩)
    flow snd (fun _ r w => peKind w.entry == 0 && snd.sendDue r w && (w.held w.sent).any fun x => x.data == data) = true ∧
    flow fwd (fun _ r w => peKind w.entry == 1 && fwd.sendDue r w && (w.held w.sent).any fun x => x.hdr == some 7 && x.data == data &&
      decide (x.at_ + 64 ≤ w.outTick r.b w.sent)) = true ∧
    flow (pod 1 id) (fun _ r w => peKind w.entry == 1 && (pod 1 id).sendDue r w && (w.held w.sent).isNone) = true ∧ peOport 0 = 0 ∧ peOport later = 0 ∧
    snd.ports[0].st = 2 ∧ regionOf (peLaddr recv + 128 * 0) = .pad 1 0 ∧
    flow rcv (fun l r w => (rcv.recvDue w).any (fun h => h.data == data && h.n == 0) &&
      (rcv.sourceOf l r.variant r.prog (l.podmap.length + 1) l.lpkg w.entry).any fun q => q.1 == 1) = true := by
  decide +kernel

/-- A header: kind, destination, partition, DINC. -/
def pktHdr (kind dst part dinc : BitVec 128) : BitVec 128 := kind <<< 12 ||| dst <<< 16 ||| part <<< 28 ||| dinc <<< 48

/-- Elastic buffers of 3 and 29; a guard that is due; LOCK with an offset of 33 sixteenths; ports in states 1, 2 and 3; kinds 2, 3, 5 and 6; a wrong incarnation; a packet for package 1 of two; partition 0. -/
theorem wit_PodAndLinkRows_port :
    let port (g : Port → Port) (t : Nat) : State := { demo demoF id with ports := (demo demoF id).ports.set 11 (g (demo demoF id).ports[11]), now := t }
    let up := port (fun p => { p with st := 2 }) 0
    let pod := { up with pf := { up.pf with len := 1 } }
    (port (fun p => { p with elastic := 3 }) 0).ports[11].elastic < 4 ∧ 28 < (port (fun p => { p with elastic := 29 }) 0).ports[11].elastic ∧
    (port (fun p => { p with elastic := 17 }) 512).guardDue 11 = true ∧ 32 < (33 : Int).natAbs ∧ 32 < (-33 : Int).natAbs ∧ up.ports[11].st = 2 ∧ up.ports[0].st ≠ 2 ∧
    (port (fun p => { p with st := 1 }) 0).ports[11].st = 1 ∧ up.ports[11].st ≠ 1 ∧ 5 < hdrKind (pktHdr 6 0 0 0) ∧ hdrKind (pktHdr 5 0 0 0) = 5 ∧ hdrKind (pktHdr 2 0 0 0) < 3 ∧
    up.incBad (pktHdr 3 0 0 0) = false ∧ up.incBad (pktHdr 3 0 0 1) = true ∧ isAnnounce (.sealed 0 []) = false ∧ hdrDst (pktHdr 3 1 0 0) ≠ pod.pf.pkg.toNat ∧ pod.incBad (pktHdr 3 1 0 0) = false ∧
    (pod.openPort 1).isSome = true ∧ hdrDst (pktHdr 3 0 0 0) = up.pf.pkg.toNat ∧ hdrPart (pktHdr 3 0 0 0) = 0 := by
  decide +kernel

/-- A packet of partition 1 for this package, sealed under its key, whose tag agrees and which opens to its contents. -/
theorem wit_PodAndLinkRows_sealed : ∃ (h : BitVec 128) (iv : BitVec 96) (text : List Nat) (d : PacketBody),
    hdrKind h = 3 ∧ State.reset.incBad h = false ∧ hdrDst h = State.reset.pf.pkg.toNat ∧ vfOf (hdrPart h) = some 0 ∧
    Config.openTag State.reset.vfs[0].keys[3] iv text = hdrTag h ∧ packetOfWords (padWords State.reset.vfs[0].keys[3] iv 0 text) = some d := by
  let k := State.reset.vfs[0].keys[3]
  let text := padWords k 0 0 (packetWords (.announce 1))
  refine ⟨mkHdr 0 3 0 1 0 0 (Config.openTag k 0 text), 0, text, .announce 1, ?_⟩
  have hf := mkHdr_fields 0 3 0 1 0 0 (Config.openTag k 0 text)
  dsimp only at hf
  generalize mkHdr 0 3 0 1 0 0 (Config.openTag k 0 text) = h at hf ⊢
  obtain ⟨h1, h2, h3, h4, h5, h6⟩ := hf
  refine ⟨h1, ?_, h2, by rw [h3]; rfl, h6.symm, wireBody_sealBody k 0 (.announce 1)⟩
  have e : ∀ n, State.reset.incOf n = 0 := fun _ => rfl
  have e' : State.reset.pf.inc = 0 := by decide +kernel
  unfold State.incBad; rw [h4, h5, e, e']; simp

/-- Sessions in states 0, 1 and 2 with a bound and a free partition; the TDISP states; a sensor at 105 and at 104. -/
theorem wit_TrustRows :
    let s (n : Nat) : State := { State.reset with pf := { State.reset.pf with session := State.reset.pf.session.set 9 n } }
    let vf (d : Tdisp) : State := State.reset.modVf 8 fun v => { v with tdisp := d }
    let hot (t : Nat) : State := { State.reset with sensors := State.reset.sensors.set 35 t }
    (9 : Fin 10).val = (8 : Fin 9).val + 1 ∧ (4 : BitVec 8).toNat = (3 : Fin 4).val + 1 ∧ (s 2).session 9 = 2 ∧ (s 1).session 9 ≠ 2 ∧ (s 2).partBound 9 = false ∧
    (s 2).vfs[8].tdisp = .unlocked ∧ (vf .locked).vfs[8].tdisp = .locked ∧ (vf .run).vfs[8].tdisp = .run ∧ (hot 105).tripDue 8 = true ∧ (hot 104).tripDue 8 = false := by
  decide +kernel

/-- The last byte of a scratchpad, the first past it, the first and last byte of HBM; a bank idle for 2^20 cycles; a conversion that is over. -/
theorem wit_SoftErrorRows :
    let kept := State.reset.modCore 323 fun k => k.modBank 47 fun b => { b with ret := .retained }
    (kept.core 323).bankRet (bankOf 0x5FFFFF) = .retained ∧ localPa 323 0x5FFFFF / 8 ∉ State.reset.weak ∧
    localPa 323 0x5FFFFF / 8 ∈ ({ kept with weak := [localPa 323 0x5FFFFF / 8] } : State).weak ∧
    0x5FFFFF < 0x600000 ∧ ((State.reset.core 323).bankRet (bankOf 0x5FFFFF)) ≠ .retained ∧ regionOf 0 = .hbm (stackDie 0) ∧ regionOf 0xBFFFFFFFFF = .hbm (stackDie 11) ∧
    0x600000 ≤ 0x600000 ∧ ({ State.reset.core 0 with cyc := 2 ^ 20 } : Core).retentionDue 47 = true ∧
    ((State.reset.core 0).modBank 47 fun b => { b with ret := .leaving 0 }).conversionDue 47 = true := by
  decide +kernel

/-- A form of every slot that answers a next state. -/
theorem wit_SlotFormsKeepMemory :
    (∀ i ∈ [Instr.sd 1 2 0, .vadd (v0o (vo .i32)), .mpop { mo .i32 with b := .reg 0 }, .mma (ma2 .i8 23 8 0), .vld ⟨.reg 1, .reg 0, 31, false, 7, false, 0, 0⟩,
        .vst ⟨.reg 1, .reg 0, .reg 31, 0, 7, true, false, false, 0⟩, .cp (co (.reg 1) (.reg 0) 4 0 false), .fence 1 2],
      partOf i ≠ 0 ∧ isNext (exec i matS) = true) ∧ matS.focus = some demoF := by
  decide +kernel

theorem wit_RegisterFormsFrame :
    partOf (.sd 1 2 0) = 1 ∧ partOf (.vadd (v0o (vo .i32))) = 2 ∧ partOf (.vadd (vo .i32)) = 3 ∧ partOf (.mma (ma2 .i8 23 8 0)) = 4 ∧
    partOf (.vld ⟨.reg 1, .reg 0, 31, false, 7, false, 0, 0⟩) = 5 ∧ partOf (.vst ⟨.reg 1, .reg 0, .reg 31, 0, 7, true, false, false, 0⟩) = 6 ∧
    partOf (.cp (co (.reg 1) (.reg 0) 4 0 false)) = 7 ∧ partOf (.fence 1 2) = 8 ∧ matS.focus = some demoF := by
  decide +kernel

/-- The last store of the scratchpad, of 512 bytes under a mask that allows every other byte, and the last byte. -/
theorem wit_LoadsAndStoresPerform :
    0x5FFE00 + 512 ≤ 0x600000 ∧ (∃ i < 512, decide (i % 2 = 0) = true) ∧ 0x5FFFFF + 1 ≤ 0x600000 ∧ ∃ p, ∀ i < 512, decide (i % 2 = 0) = true → p ≠ localPa 323 (0x5FFE00 + i) :=
  ⟨by decide, ⟨0, by decide, by decide⟩, by decide, 0, by intro i _ _; unfold localPa; omega⟩

/-- A state of a core on cycle 1 with these accesses alone, byte 0x81 in memory at local address 0x100, and a store of 0x55 to it in the buffer of context 0, issued on cycle n. -/
def loadS (n : Nat) (as : List Access) : State :=
  { demo demoF (fun k => ({ k with cyc := 1, acc := as } : Core).modCtx 0 fun x => { x with wh := [⟨n, 1, 0, .store (chunksFor 0x100 1 0x55 (fun _ => true)) none, none⟩] }) with
    mem := [⟨localPa 0 0x100, 0x81⟩] }

/-- The access of a load issued on cycle 2. -/
def loadA (p : Party) (l : LdRec) : Access := ⟨1, false, p, false, 0, 0, 1, 2, 1, 0, 5, l.chunks, [], none, [], [], none, .load l, []⟩

/-- lb at 0x100 and vld at 0. -/
def lb100 : LdRec := ⟨.scal 1 true, 0x100, .x 7, allLanes, none, some 0⟩
def vld0 : LdRec := ⟨.vld, 0, .v 31, allLanes, none, some 3⟩

/-- One load that is due, DEBT 0, no poison; two loads that need one port. -/
theorem wit_LoadsAndStoresPerform_loads :
    let s := loadS 0 [loadA .scalar lb100]
    (s.core 0).acc = [loadA .scalar lb100] ∧ (loadA .scalar lb100).due ≤ (s.core 0).cyc ∧ (s.core 0).frozen = false ∧ (∀ i, (s.ctx 0 i).debt = 0) ∧
    lb100.ea % 1 = 0 ∧ vld0.ea % 512 = 0 ∧ (∀ x ∈ lb100.bytes, s.poisoned (localPa 0 x) = false) ∧ (∃ x ∈ lb100.chunks, ∃ y ∈ vld0.chunks, rdPort x = rdPort y) ∧
    (∃ x ∈ lb100.bytes, ({ s with poison := [localPa 0 0x100 / 8] } : State).poisoned (localPa 0 x) = true) := by
  decide +kernel

/-! ### Well-formedness: one ill-formed term for each check -/

/-- Fields that a form does not use, literals and loop indices that do not exist, class m and th numbers above 7, NW beside a register (R69, R70, R93). -/
theorem test_wf_operands :
    (Instr.vmov { vo1 .i32 with b := .reg 1 }).wf = false ∧ (Instr.vmov { vo1 .i32 with c := .reg 1 }).wf = false ∧ (Instr.vmov { vo1 .i32 with a := .lit 5 }).wf = false ∧
    (Instr.vmov { vo1 .i32 with a := .loop 6 }).wf = false ∧ (Instr.vmov { vo1 .i32 with nw := true }).wf = false ∧ (Instr.mand { mo .fp32 with a := .reg 8 }).wf = false ∧
    (Instr.mand { mo .fp32 with d := 8 }).wf = false ∧ (Instr.vrtab { vo1 .fp16 with mask := 0 }).wf = false ∧ (Instr.rwr (co (.reg 8) (.reg 3) 0 0 false)).wf = false ∧
    (Instr.rwr (co (.lit 0) (.reg 3) 0 0 false)).wf = false ∧ (Instr.vmov (vo1 .i32)).wf = true := by decide +kernel

/-- Formats, rounding codes, functions and slots of the vector forms (R122, R142, R143, R151, R155, R157, R158, R160). -/
theorem test_wf_vector :
    (Instr.vadd (vo .e4m3)).wf = false ∧ (Instr.vadd { vo .fp32 with md := 6 }).wf = false ∧ (Instr.vadd { vo .i32 with md := 1 }).wf = false ∧
    (Instr.vadd { vo .i32 with fn := 1 }).wf = false ∧ (Instr.vmul (vo .i64p)).wf = false ∧ (Instr.vfma (vo3 .i32)).wf = false ∧ (Instr.vmax (vo .mx4)).wf = false ∧
    (Instr.vaddsat (vo .fp32)).wf = false ∧ (Instr.vand (vo .i16)).wf = false ∧ (Instr.vshl (vo .fp32)).wf = false ∧ (Instr.vsra (vo .u8)).wf = false ∧
    (Instr.vcmp { vo .i32 with d := 7, fn := 6 }).wf = false ∧ (Instr.vcmp { vo .i16 with d := 7, md := 2 }).wf = false ∧ (Instr.vsel (vo .i8)).wf = false ∧
    (Instr.mand { mo .fp32 with mask := 1 }).wf = false ∧ (Instr.mpop { mo .fp32 with b := .reg 0 }).wf = false ∧ (Instr.vcvt { vo1 .i16 with fn := 0 }).wf = false ∧
    (Instr.vcvt { vo1 .i32 with fn := 16 }).wf = false ∧ (Instr.vnarrow { vo .i16 with fn := 6, md := 1 }).wf = false ∧ (Instr.vwiden { vo1 .i16 with fn := 8, md := 2 }).wf = false ∧
    (Instr.vmxq { vo1 .e4m3 with fn := 4 }).wf = false ∧ (Instr.vmxd { vo .mx4 with md := 1 }).wf = false ∧ (Instr.vperm (vo .i32)).wf = false ∧
    (Instr.vzip { v0o (vo .i32) with md := 2 }).wf = false ∧ (Instr.vredsum { vo1 .i32 with md := 2 }).wf = false ∧ (Instr.vext { vo .i32 with mask := 1 }).wf = false ∧
    (Instr.vexp2 (v0o (vo1 .fp32))).wf = false ∧ (Instr.vclass (vo1 .i32)).wf = false ∧ (Instr.vrank { vo .fp32 with md := 4 }).wf = false ∧
    (Instr.vrecon { vo1 .fp16 with mask := 0, fn := 4 }).wf = false ∧ (Instr.vrtab { vo1 .fp32 with mask := 0, d := 0 }).wf = false := by decide +kernel

/-- Accumulator names, flags, immediates and formats of the matrix forms (R194, R202, R204 to R213). -/
theorem test_wf_matrix :
    (Instr.mcfg (ma2 .fp32 0 0 5)).wf = false ∧ (Instr.mcfg (ma2 .fp32 1 0 0)).wf = false ∧ (Instr.mwld (ma .i16 0 0 0)).wf = false ∧ (Instr.mwld (ma .i8 0 1 0)).wf = false ∧
    (Instr.mwld (ma .i8 0 0 64)).wf = false ∧ (Instr.mwbank { ma2 .fp32 0 2 0 with a := .reg 0, b := .reg 0 }).wf = false ∧ (Instr.msc (ma .i8 0 0 0)).wf = false ∧
    (Instr.mma (ma2 .i8 24 8 0)).wf = false ∧ (Instr.mma (ma2 .i8 0 1 0)).wf = false ∧ (Instr.mma (ma2 .i8 0 2 0)).wf = false ∧ (Instr.mma (ma2 .mx4 0 0 0)).wf = false ∧
    (Instr.mma (ma .i8 0 0 0)).wf = false ∧ (Instr.mma (ma2 .fp32 0 0 0)).wf = false ∧ (Instr.mmaR (ma .mx4 0 2 0)).wf = false ∧ (Instr.mmaT (ma2 .i32 0 0 0)).wf = false ∧
    (Instr.mmr (ma .i8 0 0 0)).wf = false ∧ (Instr.mmr (ma .u8 0 0 0x100)).wf = false ∧ (Instr.matt { ma2 .fp32 0 0 1 with b := .reg 0 }).wf = false ∧
    (Instr.mxt (ma2 .i8 0 0 0)).wf = false ∧ (Instr.mxt (ma2 .i32 0 0 8)).wf = false ∧ (Instr.mdr (ma2 .u8 0 0 0)).wf = false ∧ (Instr.mdr (ma2 .fp32 0 1 0)).wf = false ∧
    (Instr.mdr (ma2 .fp32 0 0 64)).wf = false ∧ (Instr.mrel { ma2 .fp32 0 0 1 with b := .reg 0 }).wf = false := by decide +kernel

/-- Fixed fields of the load and store forms (R179, R182, R184, R186). -/
theorem test_wf_memory :
    (Instr.vld ⟨.reg 1, .reg 2, 3, false, 0, false, 0, 0⟩).wf = false ∧ (Instr.vld ⟨.reg 1, .reg 0, 3, false, 0, false, 1, 0⟩).wf = false ∧
    (Instr.vldb ⟨.reg 1, .reg 0, 3, false, 1, false, 0, 0⟩).wf = false ∧ (Instr.vlds ⟨.reg 1, .reg 2, 3, false, 0, true, 0, 0⟩).wf = false ∧
    (Instr.vldm ⟨.reg 1, .reg 2, 3, false, 0, false, 2, 0⟩).wf = false ∧ (Instr.vldh ⟨.reg 1, .reg 0, 3, false, 0, false, 2, 0⟩).wf = false ∧
    (Instr.ldtag ⟨.reg 1, .reg 0, 3, false, 1, false, 0, 0⟩).wf = false ∧ (Instr.vst ⟨.reg 1, .reg 2, .reg 3, 0, 0, false, false, false, 0⟩).wf = false ∧
    (Instr.vst ⟨.reg 1, .reg 2, .reg 0, 1, 0, false, false, false, 0⟩).wf = false ∧ (Instr.vstm ⟨.reg 1, .reg 2, .reg 0, 0, 0, false, false, false, 4⟩).wf = false ∧
    (Instr.vsts ⟨.reg 1, .reg 2, .reg 3, 0, 0, false, true, false, 0⟩).wf = false ∧ (Instr.vsth ⟨.reg 1, .reg 2, .reg 0, 0, 0, false, false, false, 2⟩).wf = false ∧
    (Instr.tzero ⟨.reg 1, .reg 0, .reg 3, 0, 1, false, false, false, 0⟩).wf = false ∧ (Instr.amo ⟨.reg 1, .reg 2, .reg 0, 3, 0, false, false, true, 3⟩).wf = false ∧
    (Instr.amo ⟨.reg 1, .reg 2, .reg 0, 3, 0, false, false, false, 6⟩).wf = false ∧ (Instr.amoCas ⟨.reg 1, .reg 2, .reg 3, 3, 0, false, false, true, 0⟩).wf = false := by
  decide +kernel

/-- Fixed fields of the copy forms and of the sync forms (R227, R262, R270, R290). -/
theorem test_wf_copy_and_sync :
    (Instr.cp (co (.reg 2) (.reg 3) 4 0 false)).wf = false ∧ (Instr.cp (co (.reg 2) (.reg 0) 4 1 false)).wf = false ∧ (Instr.cp (co (.reg 2) (.reg 0) 4 0 true)).wf = false ∧
    (Instr.cpRed (co (.reg 2) (.reg 3) 4 3 false)).wf = false ∧ (Instr.cpRed { co (.reg 2) (.reg 3) 4 0 false with fmt := .e4m3 }).wf = false ∧
    (Instr.rrd { co (.reg 2) (.reg 3) 4 0 false with a := .reg 8 }).wf = false ∧ (Instr.ramo (co (.reg 2) (.reg 3) 4 0 false)).wf = false ∧
    (Instr.ramo { co (.reg 2) (.reg 3) 0 3 false with fmt := .fp32 }).wf = false ∧ (Instr.xlat (co (.reg 0) (.reg 0) 8 0 false)).wf = false ∧
    (Instr.gld (co (.reg 2) (.reg 3) 1 0 false)).wf = false ∧ (Instr.gst (co (.reg 2) (.reg 3) 0 1 false)).wf = false ∧
    (Instr.gatom { co (.reg 2) (.reg 3) 1 0 false with imm := 1 }).wf = false ∧ (Instr.mcast (co (.reg 2) (.reg 3) 1 1 false)).wf = false ∧
    (Instr.lnkRun { co (.reg 2) (.reg 0) 1 0 false with imm := 1 }).wf = false ∧ (Instr.lnkSel (co (.reg 2) (.reg 3) 1 0 false)).wf = false ∧
    (Instr.fence 0 0).wf = false ∧ (Instr.fence 1 5).wf = false ∧ (Instr.haulSt (.reg 1) (.reg 2) true 1).wf = false ∧ (Instr.haulOp (.reg 1) (.reg 2) 0 false false 5 0).wf = false ∧
    (Instr.haulOp (.reg 1) (.reg 2) 0 false true 4 0).wf = false ∧ (Instr.haulLse (.reg 1) (.reg 2) 0 false 15).wf = false ∧ (Instr.haulAlight (.reg 1) (.reg 2) false).wf = false ∧
    (Instr.haulLd (.reg 1) 2 true).wf = false ∧ (Instr.sysrd 1 false 0x0A).wf = false ∧ (Instr.syswr (.reg 1) 0x19).wf = false ∧ (Instr.loopx (.reg 1) (.lit 7)).wf = false := by
  decide +kernel

/-! ### Steps worked out by hand, and the worked examples of spec/ -/

/-- Words printed in the worked examples of 05_scalar_slot.md, 07_vector_slots.md, 09_matrix_unit.md, 10_rank_coded.md and 13_sync_slot.md. -/
theorem test_words_of_worked_examples :
    decodeSlot (.s 0x00000313) = .form (.addi 6 0 0) ∧ decodeSlot (.y 0x07000001) = .form (.loop (.lit 0) 1) ∧ decodeSlot (.y 0x07000000) = .form (.loop (.lit 0) 0) ∧
    decodeSlot (.v0 0x235040004000) = .form (.vmxq ⟨false, .mx4, .reg 1, .reg 0, .reg 0, 2, false, 0, 0, 0⟩) ∧
    decodeSlot (.v1 0x235040006020) = .form (.vmxq ⟨true, .mx4, .reg 1, .reg 0, .reg 0, 3, false, 0, 0, 32⟩) ∧
    decodeSlot (.v0 0x245083008000) = .form (.vmxd ⟨false, .mx4, .reg 2, .reg 3, .reg 0, 4, false, 0, 0, 0⟩) ∧
    decodeSlot (.v1 0x45007E006043) = .form (.vrank ⟨true, .fp32, .reg 1, .zero, .reg 0, 3, false, 0, 1, 3⟩) ∧
    decodeSlot (.m 0x0B91C0001000) = .form (.mmr ⟨.u8, .reg 7, .reg 0, .reg 0, 0, 8, 0⟩) ∧
    decodeSlot (.y 0x53019800) = .form (.haulOp (.lit 0) (.reg 6) 12 false false 0 0) ∧ decodeSlot (.y 0x4B000400) = .form (.haulLd (.lit 0) 2 false) := by decide +kernel

/-- The results on their way after a step. -/
def resultsOf : Host.Outcome State Fault Refusal → List (Nat × Dest × Nat)
  | .next t => (t.core 0).results.map fun r => (r.due, r.dest, r.val.toNat)
  | _ => []

/-- The traps raised after a step: cause, part, ADDR. -/
def trapsOf : Host.Outcome State Fault Refusal → List (Nat × Nat × Nat)
  | .next t => (t.core 0).traps.map fun r => (r.cause, r.part, r.addr.toNat)
  | _ => []

/-- addi x5, x0, 12 through the step: 12 for x5 at issue + 1 (worked example of 04_bundle.md). -/
theorem test_step_addi : resultsOf (step (State.reset.withFetchWord 32 0x00C00293)) = [(1, .x 5, 12)] := by decide +kernel

/-- trap x0 through the step: trap 0x50 in part 8. -/
theorem test_step_trap : trapsOf (step (State.reset.withFetchWord 32 0xC0000000)) = [(0x50, 8, 0)] := by decide +kernel

/-- −7 and 2: quotient −3, remainder −1 at issue + 20; a high product of −1; an addw that wraps; a shift by 65 that shifts by 1 (R99 to R101). -/
theorem test_alu :
    let s := demo demoF (seed (-7) 2 0x7FFFFFFF 65)
    resultsOf (exec (.div 8 1 2) s) = [(20, .x 8, 0xFFFFFFFFFFFFFFFD)] ∧ resultsOf (exec (.rem 8 1 2) s) = [(20, .x 8, 0xFFFFFFFFFFFFFFFF)] ∧
    resultsOf (exec (.mulh 8 1 2) s) = [(3, .x 8, 0xFFFFFFFFFFFFFFFF)] ∧ resultsOf (exec (.mulhu 8 1 2) s) = [(3, .x 8, 1)] ∧
    resultsOf (exec (.mulhsu 8 1 2) s) = [(3, .x 8, 0xFFFFFFFFFFFFFFFF)] ∧ resultsOf (exec (.addw 8 3 2) s) = [(1, .x 8, 0xFFFFFFFF80000001)] ∧
    resultsOf (exec (.divu 8 1 0) s) = [(20, .x 8, 0xFFFFFFFFFFFFFFFF)] ∧ resultsOf (exec (.remw 8 1 0) s) = [(20, .x 8, 0xFFFFFFFFFFFFFFF9)] := by decide +kernel

/-- The same operands shifted and compared; lui and auipc at index 5 (R99). -/
theorem test_shifts_and_compares :
    let s := demo demoF (seed (-7) 2 0x7FFFFFFF 65)
    resultsOf (exec (.sll 8 2 4) s) = [(1, .x 8, 4)] ∧ resultsOf (exec (.sra 8 1 2) s) = [(1, .x 8, 0xFFFFFFFFFFFFFFFE)] ∧
    resultsOf (exec (.srlw 8 1 2) s) = [(1, .x 8, 0x3FFFFFFE)] ∧ resultsOf (exec (.sltu 8 2 1) s) = [(1, .x 8, 1)] ∧ resultsOf (exec (.slt 8 2 1) s) = [(1, .x 8, 0)] ∧
    resultsOf (exec (.lui 8 0x80000) s) = [(1, .x 8, 0xFFFFFFFF80000000)] ∧ resultsOf (exec (.auipc 8 1) s) = [(1, .x 8, 0x1140)] := by decide +kernel

/-- jal at index 5 links to index 7; a jump to 0x4_0000 and a misaligned store and load trap (R102, R103, R104, R170). -/
theorem test_jumps_and_traps :
    let s := demo demoF (seed 1 0x40000 0x600000 0)
    resultsOf (exec (.jal 8 0) s) = [(1, .x 8, 448)] ∧ trapsOf (exec (.jalr 8 2 0) s) = [(2, 1, 0x40000)] ∧ trapsOf (exec (.lw 8 1 0) s) = [(3, 1, 1)] ∧
    trapsOf (exec (.sb 3 0 0) s) = [(3, 1, 0x600000)] ∧ trapsOf (exec (.loopx (.reg 2) (.reg 3)) s) = [(1, 8, 0)] ∧ trapsOf (exec (.guard (.reg 1)) s) = [] := by decide +kernel

/-- The operands of a vector function on two registers under a full mask. -/
def vi (f : Fmt) (md : BitVec 3) (fn : BitVec 6) (a b : Nat) : VIn := ⟨f, md, fn, allLanes, BitVec.ofNat 4096 a, BitVec.ofNat 4096 b, 0, lfsrSeed 1⟩

/-- The low 128 bits of a result. -/
def low (o : VOut) : Nat := o.val.toNat % 2 ^ 128

/-- Three stochastic roundings of 1 + 2^-8 to BF16 in lane 0 (worked example of 06_number_formats.md): 1.0, 1.0078125, 1.0, each with NX. -/
theorem test_stochastic_rounding :
    let x : Machine.Num := fp32F.value 0x3F808000
    let a := FpEnv.round ⟨lfsrSeed 1, 0⟩ bf16F .sr 0 x
    let b := a.2.round bf16F .sr 0 x
    let c := b.2.round bf16F .sr 0 x
    (a.1, b.1, c.1) = (0x3F80, 0x3F81, 0x3F80) ∧ lfsrGet a.2.lfsr 0 = 0x8000 ∧ lfsrGet b.2.lfsr 0 = 0x4000 ∧ lfsrGet c.2.lfsr 0 = 0x2000 ∧ c.2.fl = flNX := by decide +kernel

/-- The block 5.0, −0.7, 13.0, 0.2 quantised to MXFP4 and restored (worked example of 07_vector_slots.md). -/
theorem test_mx_block :
    let v := 0x3E4CCCCD_41500000_BF333333_40A00000
    (low (vMxq (vi .mx4 0 0 v 0)) % 2 ^ 32, (vMxq (vi .mx4 0 0 v 0)).env.fl) = (0x00000794, flNX ||| flUF) ∧ low (vMxq (vi .mx4 0 32 v 0)) % 2 ^ 32 = 0x7F7F7F80 ∧
    (low (vMxd (vi .mx4 0 0 0x794 0x7F7F7F80)), (vMxd (vi .mx4 0 0 0x794 0x7F7F7F80)).env.fl) = (0x00000000_41400000_BF800000_40800000, 0) := by decide +kernel

/-- The eight values ranked, and the table rebuilt at their places (worked example of 10_rank_coded.md). -/
theorem test_rank_and_rebuild :
    let v := packNat 32 ([0x3F000000, 0x40400000, 0x7FC00000, 0x40400000, 0, 0x40E80000, 0x80000000, 0x3F800000] ++ List.replicate 120 0xBF800000)
    let r := vRank (vi .fp32 1 3 v 0)
    let w := (vRecon ⟨.fp32, 0, 0, allLanes, r, 0, 0, lfsrSeed 1⟩ (BitVec.ofNat 2048 0x3800_3C00_4000_4400)).val
    r.toNat % 2 ^ 64 = 0x00000007_03010504 ∧ w.extractLsb' 32 32 = 0x40000000#32 ∧ w.extractLsb' 96 32 = 0x3F800000#32 ∧ w.extractLsb' 160 32 = 0x40800000#32 ∧
    w.extractLsb' 224 32 = 0x3F000000#32 ∧ w.extractLsb' 0 32 = 0#32 := by decide +kernel

/-- Wrapping and saturating INT8, −0 against +0, a NaN operand, ∞ − ∞, and a widened T2 pattern 0b10 (R116, R117, R119, R120). -/
theorem test_vector_arithmetic :
    low (vAdd (vi .i8 0 0 0x7F 1)) = 0x80 ∧ low (vAddSat (vi .i8 0 0 0x7F 1)) = 0x7F ∧ low (vSubSat (vi .u8 0 0 1 2)) = 0 ∧
    low (vAdd (vi .fp32 0 0 0x3F800000 0x40000000)) % 2 ^ 32 = 0x40400000 ∧ (low (vAdd (vi .fp32 0 0 0x7F800000 0xFF800000)) % 2 ^ 32, (vAdd (vi .fp32 0 0 0x7F800000 0xFF800000)).env.fl) = (0x7FC00000, flNV) ∧
    (low (vMul (vi .fp32 0 0 0x7F800001 0x40000000)) % 2 ^ 32, (vMul (vi .fp32 0 0 0x7F800001 0x40000000)).env.fl) = (0x7FC00000, 0) ∧
    low (vMulHi (vi .i16 0 0 0x4000 0x4000)) = 0x1000 ∧ low (vSra (vi .i16 0 0 0x8000 1)) = 0xC000 ∧ low (vNeg (vi .fp32 0 0 0 0)) % 2 ^ 32 = 0x80000000 ∧
    (low (vWiden (vi .i4 0 11 0b10_11_01 0)), (vWiden (vi .i4 0 11 0b10_11_01 0)).env.fl) = (0x0F1, flFMTERR) := by decide +kernel

/-- Stages of cores 2, 40 and 160, and skip 40 at stage 44 on tick 4 (worked example of 13_sync_slot.md). -/
theorem test_haul_ring : stageOf 2 = 2 ∧ stageOf 40 = 44 ∧ stageOf 160 = 176 ∧ skipAt 44 4 = 40 ∧ skipAt 176 136 = 40 ∧ skipAt 2 322 = 40 := by decide +kernel

/-- A claim of a free OWNER, a hand-over that the other agent then claims, and a denied write (R30, R31). -/
theorem test_ownership :
    let owner (o : Host.Outcome State Fault Refusal) : Option (BitVec 4 × BitVec 4 × BitVec 8) := match o with
      | .next t => some (t.pf.owner, t.pf.pending, t.pf.deny)
      | _ => none
    owner (exec (.mgmtClaim .mctp) State.reset) = some (2, 0, 0) ∧ owner (exec (.stopall .pf0 1) State.reset) = some (0, 0, 1) := by decide +kernel

/-- Bytes of a store and of its neighbours (R105, R167). -/
theorem test_store_bytes :
    let s := State.reset.writeLocal 323 ⟨0x5FFFC0, BitVec.ofNat 512 (0xAB <<< 504), 3 <<< 126, 0⟩
    s.mem.byte (localPa 323 0x5FFFFF) = 0xAB ∧ s.mem.byte (localPa 323 0x5FFFFE) = 0 ∧ s.mem.length = 1 ∧ s.mem.wf := by decide +kernel

/-- A load issued two cycles after a store reads its byte, one issued a cycle after it the byte in memory, with its sign; two loads at one port trap 0x11 (R167, R168, R176, R180). -/
theorem test_loads_perform :
    let out (t : State) := ((t.core 0).results.map fun r => (r.due, r.val.toNat % 2 ^ 64), (t.core 0).traps.map fun r => (r.cause, r.part))
    out ((loadS 0 [loadA .scalar lb100]).performAll 0) = ([(6, 0x55)], []) ∧ out ((loadS 1 [loadA .scalar lb100]).performAll 0) = ([(6, 0xFFFFFFFFFFFFFF81)], []) ∧
    out ((loadS 0 [loadA .load vld0, loadA .scalar lb100]).performAll 0) = ([], [(0x11, 1), (0x11, 1)]) := by decide +kernel

end Sys2Proof.Tests
end

section
/-!
PROOFS. The state after package reset: what each core, context and skip of it is (R7, R80, R281), and the reset values.
-/

namespace Sys2Proof.Machine

/-! ### The parts of the reset state -/

@[simp] theorem State.reset_core (c : CoreId) : State.reset.core c = Core.reset :=
  Vector.getElem_replicate c.isLt

@[simp] theorem Core.reset_ctx (k : CtxId) : Core.reset.ctx k = Ctx.reset :=
  Vector.getElem_replicate k.isLt

@[simp] theorem State.reset_ctx (c : CoreId) (k : CtxId) : State.reset.ctx c k = Ctx.reset := by
  rw [State.ctx, State.reset_core, Core.reset_ctx]

@[simp] theorem State.reset_skips (n : Fin 360) : State.reset.skips[n] = Skip.reset n.val :=
  Vector.getElem_ofFn n.isLt

/-! ### What each of them holds -/

theorem State.reset_ctx_free (c : CoreId) (k : CtxId) :
    (State.reset.ctx c k).st = .free ∧ (State.reset.ctx c k).debt = 0 ∧ (State.reset.ctx c k).fpflags = 0 := by
  rw [State.reset_ctx]
  exact ⟨rfl, rfl, rfl⟩

theorem State.reset_core_counters (c : CoreId) :
    (State.reset.core c).frzcnt = 0 ∧ (State.reset.core c).paidcnt = 0 ∧ (State.reset.core c).spoil = 0 := by
  rw [State.reset_core]
  exact ⟨rfl, rfl, rfl⟩

/-- The system skips are 0 to 7 (R281). -/
theorem State.reset_skip_kind (n : Fin 360) : State.reset.skips[n].kind = if n.val < 8 then 2 else 0 := by
  rw [State.reset_skips, Skip.reset]

end Sys2Proof.Machine

open Sys2Proof.Machine in
/-- Settles O5: the package-wide fields are those of `Pf0.reset` and the empty launch and image lists; every core is `Core.reset`, every context `Ctx.reset` and skip n `Skip.reset n`. -/
theorem resetValues : Obligations.ResetValues :=
  ⟨rfl, rfl, rfl, rfl, rfl, rfl, rfl, rfl, rfl, rfl,
    State.reset_ctx_free, State.reset_core_counters, State.reset_skip_kind⟩

end

section
/-!
PROOFS. The aging step of a queue's head (R36), and a state in which two launches bear one key.
-/

namespace Sys2Proof.Machine

/-- A due aging step writes to every launch of the head's key the steps of that launch's own wait, and asks for a selection (R36). -/
theorem exec_agingStep_of_due {s : State} {n : Fin 9} {q : Fin 16} {h : Launch} (hh : s.queueHead n q = some h)
    (hd : h.aged < (s.now - h.headSince) / agingTicks) :
    exec (.agingStep n q) s =
      .next { s.modLaunch h.key (fun l => { l with aged := (s.now - l.headSince) / agingTicks }) with selectDue := true } := by
  have due : s.ages n q = true := by
    rw [State.ages, hh]
    exact decide_eq_true hd
  change execAgingStep n q s = _
  rw [execAgingStep, if_pos due, hh]

/-- A queued launch of partition 1 whose wait began at tick 0. -/
def earlyHead : Launch := State.reset.newLaunch 1 0 0

/-- A launch of the same key whose wait begins one aging step later. -/
def lateTwin : Launch := { earlyHead with headSince := agingTicks }

/-- Both launches at the tick of the first aging step of the earlier one, which heads queue 0 of partition 1. -/
def sharedKey : State :=
  { State.reset.modVf 0 (fun v => { v with queues := v.queues.set 0 [earlyHead.key] }) with launches := [earlyHead, lateTwin], now := agingTicks }

theorem sharedKey_queueHead : sharedKey.queueHead 0 0 = some earlyHead := rfl

theorem sharedKey_due : earlyHead.aged < (sharedKey.now - earlyHead.headSince) / agingTicks := by decide

/-- The later launch has waited no aging step. -/
theorem sharedKey_aged_own :
    (sharedKey.modLaunch earlyHead.key (fun l => { l with aged := (sharedKey.now - l.headSince) / agingTicks })).launches.map Launch.aged = [1, 0] := by
  decide

/-- By the wait of the head, both launches have waited one aging step. -/
theorem sharedKey_aged_head :
    (sharedKey.modLaunch earlyHead.key (fun l => { l with aged := (sharedKey.now - earlyHead.headSince) / agingTicks })).launches.map Launch.aged = [1, 1] := by
  decide

end Sys2Proof.Machine

open Sys2Proof Sys2Proof.Machine in
/-- Refutes O49, by its aging clause: it gives every launch of the head's key the steps of the head's wait, where the model counts each by its own `headSince`. In `sharedKey` a second launch bears that key and began to wait later, so the two differ. Start vectors bring no such pair, since `State.nextKey` grows with each launch; the statement is over every state and asks for no distinct keys. -/
theorem not_loaderAndLaunchRows : ¬ Obligations.LoaderAndLaunchRows := by
  intro h
  obtain ⟨-, rows⟩ := h
  obtain ⟨-, -, -, -, aging, -⟩ := rows sharedKey 0 0 [] 0 0 0
  have stated := aging earlyHead sharedKey_queueHead sharedKey_due
  rw [exec_agingStep_of_due sharedKey_queueHead sharedKey_due] at stated
  injection stated with same
  have aged := congrArg (fun t : State => t.launches.map Launch.aged) same
  have : ([1, 0] : List Nat) = [1, 1] := sharedKey_aged_own.symm.trans (aged.trans sharedKey_aged_head)
  exact absurd this (by decide)

end

section
/-!
PROOFS. Writes of the agents to PF 0: the ownership commands (R30, R31), and the writes that an agent other than the owner makes (R30).
-/

namespace Sys2Proof.Machine

/-! ### The owner -/

/-- Agent numbers fit the four bits of OWNER, PENDING and TARGET. -/
theorem agentNum_lt (a : Agent) : a.num < 2 ^ 4 := by
  cases a <;> decide

theorem State.owns_iff {s : State} {a : Agent} : s.owns a = true ↔ s.pf.owner = BitVec.ofNat 4 a.num := by
  rw [State.owns, beq_iff_eq, ← BitVec.toNat_inj, BitVec.toNat_ofNat, Nat.mod_eq_of_lt (agentNum_lt a)]

/-! ### The ownership commands -/

theorem exec_mgmtClaim (s : State) (a : Agent) :
    exec (.mgmtClaim a) s =
      if s.pf.owner = 0 then .next { s with pf := { s.pf with owner := BitVec.ofNat 4 a.num } }
      else if s.pf.pending = BitVec.ofNat 4 a.num then .next { s with pf := { s.pf with owner := BitVec.ofNat 4 a.num, pending := 0 } }
      else .next s := rfl

theorem exec_mgmtHandOver (s : State) (a : Agent) (g : BitVec 4) :
    exec (.mgmtHandOver a g) s =
      if s.pf.owner = BitVec.ofNat 4 a.num ∧ (g = 1 ∨ g = 2) then .next { s with pf := { s.pf with pending := g } } else .next s := by
  change execMgmtHandOver a g s = _
  simp only [execMgmtHandOver, Bool.and_eq_true, Bool.or_eq_true, beq_iff_eq, State.owns_iff]

theorem exec_mgmtRelease (s : State) (a : Agent) :
    exec (.mgmtRelease a) s =
      if s.pf.owner = BitVec.ofNat 4 a.num then .next { s with pf := { s.pf with owner := 0, pending := 0 } } else .next s := by
  change execMgmtRelease a s = _
  simp only [execMgmtRelease, State.owns_iff]

/-! ### Writes of an agent that is not the owner -/

/-- A counter goes up by one and stays at its top. -/
theorem satAdd_one {w : Nat} (a : BitVec w) : satAdd a 1 = if a = BitVec.allOnes w then BitVec.allOnes w else a + 1 := by
  have top : a = BitVec.allOnes w ↔ a.toNat = 2 ^ w - 1 := by rw [← BitVec.toNat_inj, BitVec.toNat_allOnes]
  have below := a.isLt
  by_cases h : a = BitVec.allOnes w
  · have full : 2 ^ w - 1 ≤ a.toNat + 1 := by rw [top.mp h]; exact Nat.le_succ _
    rw [if_pos h, satAdd, Nat.min_eq_right full, BitVec.allOnes, BitVec.ofNatLT_eq_ofNat]
  · have room : a.toNat + 1 ≤ 2 ^ w - 1 := by have := mt top.mpr h; omega
    rw [if_neg h, satAdd, Nat.min_eq_left room, BitVec.ofNat_add, BitVec.ofNat_toNat, BitVec.setWidth_eq]
    rfl

theorem State.denied_eq (s : State) :
    s.denied = { s with pf := { s.pf with deny := if s.pf.deny = 255 then 255 else s.pf.deny + 1 } } := by
  rw [State.denied, satAdd_one]
  rfl

/-- The test that every owner-only row begins with, when it fails. -/
theorem ownerOnly_denied {s : State} {a : Agent} (ho : s.owns a = false) (row : Out) :
    (if !s.owns a then .next s.denied else row) = .next s.denied := by
  rw [ho]
  rfl

theorem exec_registerWrite_pf_denied {s : State} {a : Agent} {off : Nat} (ho : s.owns a = false) (hoff : off ≠ 8) (v : BitVec 64) :
    exec (.registerWrite (.pf a) off v) s = .next s.denied := by
  change execRegisterWrite (.pf a) off v s = _
  simp only [execRegisterWrite, if_neg hoff, ho, Bool.false_eq_true, if_false]

end Sys2Proof.Machine

open Sys2Proof.Machine in
/-- Settles O52: the nine rows test the owner before anything else, and where the test fails each is `State.denied`, which counts in MGMTDENY up to its top. -/
theorem ownerOnlyWrites : Obligations.OwnerOnlyWrites := by
  intro s a v p off ho hoff t
  have counted : s.denied = t := s.denied_eq
  rw [← counted]
  exact ⟨ownerOnly_denied ho _, ownerOnly_denied ho _, ownerOnly_denied ho _, ownerOnly_denied ho _, ownerOnly_denied ho _,
    ownerOnly_denied ho _, ownerOnly_denied ho _, ownerOnly_denied ho _, exec_registerWrite_pf_denied ho hoff v⟩

open Sys2Proof.Machine in
/-- Settles O51, by the cases of the three ownership commands. -/
theorem ownershipRules : Obligations.OwnershipRules := by
  intro s a g n own
  rw [exec_mgmtClaim, exec_mgmtHandOver, exec_mgmtRelease]
  refine ⟨fun free => ?_, fun taken named => ?_, fun taken other => ?_, fun owner target => ?_, fun other => ?_, fun owner => ?_,
    fun other => ?_, rfl⟩
  · rw [if_pos free]
  · rw [if_neg taken, if_pos named]
  · rw [if_neg taken, if_neg other]
  · rw [if_pos ⟨owner, target⟩]
  · rw [if_neg fun ⟨owner, target⟩ => other.elim (fun h => h owner) fun ⟨h1, h2⟩ => target.elim h1 h2]
  · rw [if_pos owner]
  · rw [if_neg other]

end

section
/-!
PROOFS. A PARTMAP write that brings a die under other HBM keys (R32, R359), and a state in which it does.
-/

namespace Sys2Proof.Machine

/-- A PARTMAP write that every die may follow first gives each die's stacks to its new partition's keys. -/
theorem exec_partmapWrite_of_moves {s : State} {a : Agent} {v : BitVec 64} (ho : s.owns a = true)
    (hm : ∀ d : Fin 9, s.dieMoves d (partField v d.val) = true) :
    exec (.partmapWrite a v) s =
      .next { (List.finRange 9).foldl (fun s d => s.rekeyDie d (partField v d.val).toNat) s with
        pf := { ((List.finRange 9).foldl (fun s d => s.rekeyDie d (partField v d.val).toNat) s).pf with
          partmap := Vector.ofFn fun d : Fin 9 => partField v d.val } } := by
  have all : ((List.finRange 9).all fun d => s.dieMoves d (partField v d.val)) = true := List.all_eq_true.mpr fun d _ => hm d
  change execPartmapWrite a v s = _
  rw [execPartmapWrite, ho, all]
  rfl

/-- After reset, owned by agent 1, with a key in slot 1 of partition 1, whose VF is still in CONFIG_UNLOCKED. -/
def keyedPartition : State :=
  { State.reset.modVf 0 (fun x => { x with keys := x.keys.set 0 (some 0) }) with pf := { State.reset.pf with owner := 1 } }

theorem keyedPartition_owns : keyedPartition.owns .pf0 = true := rfl

/-- Die 0 may leave partition 0 for partition 1, and the other dies stay. -/
theorem keyedPartition_dieMoves : ∀ d : Fin 9, keyedPartition.dieMoves d (partField 1 d.val) = true := by
  decide +kernel

/-- The move of die 0 takes a new HBM key number. -/
theorem keyedPartition_rekeyed :
    ((List.finRange 9).foldl (fun s d => s.rekeyDie d (partField 1 d.val).toNat) keyedPartition).vfs[0].keyGen = 1 := by
  decide +kernel

end Sys2Proof.Machine

open Sys2Proof Sys2Proof.Machine in
/-- Refutes O53, by its first clause: it lets a PARTMAP write that every die may follow change PARTMAP alone, where the model also brings the stacks of each die that moves under the HBM keys of its new partition (R359, log entry 7). In `keyedPartition` the move of die 0 to partition 1 advances that partition's `keyGen`, which the stated state leaves at 0. KEYSET asks for no TDISP state (R358), so a partition may hold a key while dies still move to it. This says nothing about the other clauses. -/
theorem not_hostRegisterWrites : ¬ Obligations.HostRegisterWrites := by
  intro h
  obtain ⟨owners, -⟩ := h keyedPartition .pf0 0 1 0
  obtain ⟨moves, -⟩ := owners keyedPartition_owns
  have stated := moves keyedPartition_dieMoves
  rw [exec_partmapWrite_of_moves keyedPartition_owns keyedPartition_dieMoves] at stated
  injection stated with same
  have gen := congrArg (fun t : State => t.vfs[0].keyGen) same
  exact Nat.one_ne_zero (keyedPartition_rekeyed.symm.trans gen)

end

section
/-!
PROOFS. Both memories keep their canonical form: every row of the table keeps it, and so does every move of the sequencing (R53, R54, R167).
-/

namespace Sys2Proof.Machine

/-! ### Every row of the table -/

/-- A slot form changes no byte, tag or poison mark when it issues (R174). -/
theorem exec_slot_memEq {i : Instr} {s t : State} (slot : partOf i ≠ 0) (h : exec i s = .next t) : s.memEq t := by
  cases i with
  | lui => exact execLui_memEq _ _ s t h
  | auipc => exact execAuipc_memEq _ _ s t h
  | jal => exact execJal_memEq _ _ s t h
  | jalr => exact execJalr_memEq _ _ _ s t h
  | beq => exact execBeq_memEq _ _ _ s t h
  | bne => exact execBne_memEq _ _ _ s t h
  | blt => exact execBlt_memEq _ _ _ s t h
  | bge => exact execBge_memEq _ _ _ s t h
  | bltu => exact execBltu_memEq _ _ _ s t h
  | bgeu => exact execBgeu_memEq _ _ _ s t h
  | lb => exact execLb_memEq _ _ _ s t h
  | lh => exact execLh_memEq _ _ _ s t h
  | lw => exact execLw_memEq _ _ _ s t h
  | ldd => exact execLdd_memEq _ _ _ s t h
  | lbu => exact execLbu_memEq _ _ _ s t h
  | lhu => exact execLhu_memEq _ _ _ s t h
  | lwu => exact execLwu_memEq _ _ _ s t h
  | sb => exact execSb_memEq _ _ _ s t h
  | shh => exact execShh_memEq _ _ _ s t h
  | sw => exact execSw_memEq _ _ _ s t h
  | sd => exact execSd_memEq _ _ _ s t h
  | addi => exact execAddi_memEq _ _ _ s t h
  | slti => exact execSlti_memEq _ _ _ s t h
  | sltiu => exact execSltiu_memEq _ _ _ s t h
  | xori => exact execXori_memEq _ _ _ s t h
  | ori => exact execOri_memEq _ _ _ s t h
  | andi => exact execAndi_memEq _ _ _ s t h
  | slli => exact execSlli_memEq _ _ _ s t h
  | srli => exact execSrli_memEq _ _ _ s t h
  | srai => exact execSrai_memEq _ _ _ s t h
  | add => exact execAdd_memEq _ _ _ s t h
  | sub => exact execSub_memEq _ _ _ s t h
  | sll => exact execSll_memEq _ _ _ s t h
  | slt => exact execSlt_memEq _ _ _ s t h
  | sltu => exact execSltu_memEq _ _ _ s t h
  | xorR => exact execXorR_memEq _ _ _ s t h
  | srl => exact execSrl_memEq _ _ _ s t h
  | sra => exact execSra_memEq _ _ _ s t h
  | orR => exact execOrR_memEq _ _ _ s t h
  | andR => exact execAndR_memEq _ _ _ s t h
  | mul => exact execMul_memEq _ _ _ s t h
  | mulh => exact execMulh_memEq _ _ _ s t h
  | mulhsu => exact execMulhsu_memEq _ _ _ s t h
  | mulhu => exact execMulhu_memEq _ _ _ s t h
  | div => exact execDiv_memEq _ _ _ s t h
  | divu => exact execDivu_memEq _ _ _ s t h
  | rem => exact execRem_memEq _ _ _ s t h
  | remu => exact execRemu_memEq _ _ _ s t h
  | addiw => exact execAddiw_memEq _ _ _ s t h
  | slliw => exact execSlliw_memEq _ _ _ s t h
  | srliw => exact execSrliw_memEq _ _ _ s t h
  | sraiw => exact execSraiw_memEq _ _ _ s t h
  | addw => exact execAddw_memEq _ _ _ s t h
  | subw => exact execSubw_memEq _ _ _ s t h
  | sllw => exact execSllw_memEq _ _ _ s t h
  | srlw => exact execSrlw_memEq _ _ _ s t h
  | sraw => exact execSraw_memEq _ _ _ s t h
  | mulw => exact execMulw_memEq _ _ _ s t h
  | divw => exact execDivw_memEq _ _ _ s t h
  | divuw => exact execDivuw_memEq _ _ _ s t h
  | remw => exact execRemw_memEq _ _ _ s t h
  | remuw => exact execRemuw_memEq _ _ _ s t h
  | nopY => exact execNopY_memEq s t h
  | loop => exact execLoop_memEq _ _ s t h
  | loopx => exact execLoopx_memEq _ _ s t h
  | lbrk => exact execLbrk_memEq _ s t h
  | lbrkU => exact execLbrkU_memEq s t h
  | bankAcq => exact execBankAcq_memEq _ s t h
  | bankRel => exact execBankRel_memEq _ s t h
  | bar => exact execBar_memEq _ _ s t h
  | guard => exact execGuard_memEq _ s t h
  | fence => exact execFence_memEq _ _ s t h
  | bankTst => exact execBankTst_memEq _ _ _ s t h
  | haulBoard => exact execHaulBoard_memEq _ _ _ s t h
  | haulAlight => exact execHaulAlight_memEq _ _ _ s t h
  | haulLd => exact execHaulLd_memEq _ _ _ s t h
  | haulSt => exact execHaulSt_memEq _ _ _ _ s t h
  | haulOp => exact execHaulOp_memEq _ _ _ _ _ _ _ s t h
  | haulXchg => exact execHaulXchg_memEq _ _ _ _ _ s t h
  | haulCas => exact execHaulCas_memEq _ _ _ _ _ s t h
  | haulLse => exact execHaulLse_memEq _ _ _ _ _ s t h
  | haulBar => exact execHaulBar_memEq _ _ _ s t h
  | haulPass => exact execHaulPass_memEq _ _ _ s t h
  | codeLock => exact execCodeLock_memEq _ _ _ s t h
  | codeLockW => exact execCodeLockW_memEq _ _ _ s t h
  | codeUnlock => exact execCodeUnlock_memEq _ s t h
  | sysrd => exact execSysrd_memEq _ _ _ s t h
  | syswr => exact execSyswr_memEq _ _ s t h
  | trap => exact execTrap_memEq _ s t h
  | ebrk => exact execEbrk_memEq s t h
  | endCtx => exact execEndCtx_memEq s t h
  | vadd => exact execVadd_memEq _ s t h
  | vsub => exact execVsub_memEq _ s t h
  | vmul => exact execVmul_memEq _ s t h
  | vfma => exact execVfma_memEq _ s t h
  | vfms => exact execVfms_memEq _ s t h
  | vfnma => exact execVfnma_memEq _ s t h
  | vmax => exact execVmax_memEq _ s t h
  | vmin => exact execVmin_memEq _ s t h
  | vabs => exact execVabs_memEq _ s t h
  | vneg => exact execVneg_memEq _ s t h
  | vaddsat => exact execVaddsat_memEq _ s t h
  | vsubsat => exact execVsubsat_memEq _ s t h
  | vmulhi => exact execVmulhi_memEq _ s t h
  | vand => exact execVand_memEq _ s t h
  | vor => exact execVor_memEq _ s t h
  | vxor => exact execVxor_memEq _ s t h
  | vnot => exact execVnot_memEq _ s t h
  | vshl => exact execVshl_memEq _ s t h
  | vshr => exact execVshr_memEq _ s t h
  | vsra => exact execVsra_memEq _ s t h
  | vcmp => exact execVcmp_memEq _ s t h
  | vsel => exact execVsel_memEq _ s t h
  | mand => exact execMand_memEq _ s t h
  | mor => exact execMor_memEq _ s t h
  | mxor => exact execMxor_memEq _ s t h
  | mnot => exact execMnot_memEq _ s t h
  | mpop => exact execMpop_memEq _ s t h
  | mfirst => exact execMfirst_memEq _ s t h
  | vcvt => exact execVcvt_memEq _ s t h
  | vnarrow => exact execVnarrow_memEq _ s t h
  | vwiden => exact execVwiden_memEq _ s t h
  | vmxq => exact execVmxq_memEq _ s t h
  | vmxd => exact execVmxd_memEq _ s t h
  | vperm => exact execVperm_memEq _ s t h
  | vrot => exact execVrot_memEq _ s t h
  | vbcast => exact execVbcast_memEq _ s t h
  | vslide => exact execVslide_memEq _ s t h
  | vzip => exact execVzip_memEq _ s t h
  | vunzip => exact execVunzip_memEq _ s t h
  | viota => exact execViota_memEq _ s t h
  | vredsum => exact execVredsum_memEq _ s t h
  | vredmax => exact execVredmax_memEq _ s t h
  | vredmin => exact execVredmin_memEq _ s t h
  | vscan => exact execVscan_memEq _ s t h
  | vscanmax => exact execVscanmax_memEq _ s t h
  | vfill => exact execVfill_memEq _ s t h
  | vext => exact execVext_memEq _ s t h
  | vins => exact execVins_memEq _ s t h
  | vmov => exact execVmov_memEq _ s t h
  | vexp2 => exact execVexp2_memEq _ s t h
  | vlog2 => exact execVlog2_memEq _ s t h
  | vrcp => exact execVrcp_memEq _ s t h
  | vrsqrt => exact execVrsqrt_memEq _ s t h
  | vclass => exact execVclass_memEq _ s t h
  | vrank => exact execVrank_memEq _ s t h
  | vrecon => exact execVrecon_memEq _ s t h
  | vrtab => exact execVrtab_memEq _ s t h
  | mcfg => exact execMcfg_memEq _ s t h
  | mwld => exact execMwld_memEq _ s t h
  | mwbank => exact execMwbank_memEq _ s t h
  | msc => exact execMsc_memEq _ s t h
  | mma => exact execMma_memEq _ s t h
  | mmaR => exact execMmaR_memEq _ s t h
  | mmaT => exact execMmaT_memEq _ s t h
  | mmr => exact execMmr_memEq _ s t h
  | matt => exact execMatt_memEq _ s t h
  | mxt => exact execMxt_memEq _ s t h
  | mdr => exact execMdr_memEq _ s t h
  | mrel => exact execMrel_memEq _ s t h
  | vld => exact execVld_memEq _ s t h
  | vldb => exact execVldb_memEq _ s t h
  | vlds => exact execVlds_memEq _ s t h
  | vldm => exact execVldm_memEq _ s t h
  | vldh => exact execVldh_memEq _ s t h
  | ldtag => exact execLdtag_memEq _ s t h
  | vst => exact execVst_memEq _ s t h
  | vstm => exact execVstm_memEq _ s t h
  | vsts => exact execVsts_memEq _ s t h
  | vsth => exact execVsth_memEq _ s t h
  | tzero => exact execTzero_memEq _ s t h
  | amo => exact execAmo_memEq _ s t h
  | amoCas => exact execAmoCas_memEq _ s t h
  | cp => exact execCp_memEq _ s t h
  | cpRed => exact execCpRed_memEq _ s t h
  | rwr => exact execRwr_memEq _ s t h
  | rrd => exact execRrd_memEq _ s t h
  | ramo => exact execRamo_memEq _ s t h
  | xlat => exact execXlat_memEq _ s t h
  | gld => exact execGld_memEq _ s t h
  | gst => exact execGst_memEq _ s t h
  | gatom => exact execGatom_memEq _ s t h
  | mcast => exact execMcast_memEq _ s t h
  | lnkRun => exact execLnkRun_memEq _ s t h
  | lnkSel => exact execLnkSel_memEq _ s t h
  | _ => exact absurd rfl slot

/-- An event is a form of no slot (R92). -/
theorem partOf_eq_zero {i : Instr} (event : partOf i = 0) :
    wfV i = none ∧ wfM i = none ∧ wfL i = none ∧ wfS i = none ∧ wfC i = none ∧ wfY i = none ∧ encodeS i = none := by
  unfold partOf at event
  split at event
  · split at event <;> contradiction
  · repeat' (split at event; contradiction)
    simp_all

/-- An event row keeps both memories in canonical form. -/
theorem exec_event_canonical {i : Instr} {s t : State} (event : partOf i = 0) (hs : s.canonical) (h : exec i s = .next t) : t.canonical := by
  obtain ⟨v, m, ld, st, c, y, sc⟩ := partOf_eq_zero event
  cases i with
  | matrixRowLand => exact execMatrixRowLand_canonical _ s t hs h
  | withholdRelease => exact execWithholdRelease_canonical _ _ s t hs h
  | enginePiece => exact execEnginePiece_canonical _ s t hs h
  | cpRedInplaceEnqueue => exact execCpRedInplaceEnqueue_canonical _ s t hs h
  | timedRemoteArrival => exact execTimedRemoteArrival_canonical _ s t hs h
  | remoteFailureReport => exact execRemoteFailureReport_canonical _ s t hs h
  | gldLanding => exact execGldLanding_canonical _ _ s t hs h
  | gstAck => exact execGstAck_canonical _ _ s t hs h
  | gatomValue => exact execGatomValue_canonical _ _ s t hs h
  | mcastOutcome => exact execMcastOutcome_canonical _ s t hs h
  | walkEnd => exact execWalkEnd_canonical _ s t hs h
  | landingTimeout => exact execLandingTimeout_canonical _ _ s t hs h
  | spoil => exact execSpoil_canonical _ s t hs h
  | homeApplyWrite => exact execHomeApplyWrite_canonical _ s t hs h
  | homeServeRead => exact execHomeServeRead_canonical _ s t hs h
  | haulPassage => exact execHaulPassage_canonical _ s t hs h
  | boardExhausted => exact execBoardExhausted_canonical _ s t hs h
  | fallbackCheck => exact execFallbackCheck_canonical _ s t hs h
  | podBarrierSlot => exact execPodBarrierSlot_canonical _ s t hs h
  | podBarrierComplete => exact execPodBarrierComplete_canonical _ s t hs h
  | rollback => exact execRollback_canonical _ _ s t hs h
  | rollbackComplete => exact execRollbackComplete_canonical _ _ s t hs h
  | abort => exact execAbort_canonical _ s t hs h
  | retirementPoint => exact execRetirementPoint_canonical _ s t hs h
  | startVector => exact execStartVector_canonical _ _ _ s t hs h
  | agingStep => exact execAgingStep_canonical _ _ s t hs h
  | startCycle => exact execStartCycle_canonical _ s t hs h
  | yieldSave => exact execYieldSave_canonical _ s t hs h
  | preemptResume => exact execPreemptResume_canonical _ s t hs h
  | imagePrefixCheck => exact execImagePrefixCheck_canonical _ s t hs h
  | chunkLands => exact execChunkLands_canonical _ s t hs h
  | fullDigestDecided => exact execFullDigestDecided_canonical _ s t hs h
  | reusingChunkWrite => exact execReusingChunkWrite_canonical _ _ s t hs h
  | lateLanding => exact execLateLanding_canonical _ s t hs h
  | watchReport => exact execWatchReport_canonical _ s t hs h
  | thermalTrip => exact execThermalTrip_canonical _ s t hs h
  | registerWrite => exact execRegisterWrite_canonical _ _ _ s t hs h
  | bankRetentionEntry => exact execBankRetentionEntry_canonical _ _ s t hs h
  | retentionConversionDone => exact execRetentionConversionDone_canonical _ _ s t hs h
  | timeExchange => exact execTimeExchange_canonical _ _ _ _ s t hs h
  | programStart => exact execProgramStart_canonical _ s t hs h
  | send => exact execSend_canonical _ _ s t hs h
  | fwd => exact execFwd_canonical _ _ s t hs h
  | recv => exact execRecv_canonical _ _ s t hs h
  | linkFault => exact execLinkFault_canonical _ _ s t hs h
  | elasticBufferFault => exact execElasticBufferFault_canonical _ s t hs h
  | faultNotice => exact execFaultNotice_canonical _ _ s t hs h
  | containment => exact execContainment_canonical _ s t hs h
  | containmentResume => exact execContainmentResume_canonical _ s t hs h
  | guardInterval => exact execGuardInterval_canonical _ s t hs h
  | dbgForwardTimeout => exact execDbgForwardTimeout_canonical _ s t hs h
  | mgmtClaim => exact execMgmtClaim_canonical _ s t hs h
  | partmapWrite => exact execPartmapWrite_canonical _ _ s t hs h
  | flitArrival => exact execFlitArrival_canonical _ _ _ _ _ s t hs h
  | openPacketArrival => exact execOpenPacketArrival_canonical _ _ _ s t hs h
  | retrainingDone => exact execRetrainingDone_canonical _ _ _ _ s t hs h
  | tdispRequest => exact execTdispRequest_canonical _ _ s t hs h
  | lqprio => exact execLqprio_canonical _ _ s t hs h
  | mgmtRelease => exact execMgmtRelease_canonical _ s t hs h
  | mgmtHandOver => exact execMgmtHandOver_canonical _ _ s t hs h
  | hwbaseWrite => exact execHwbaseWrite_canonical _ _ s t hs h
  | wcinv => exact execWcinv_canonical _ _ s t hs h
  | bsinv => exact execBsinv_canonical _ _ s t hs h
  | racepolWrite => exact execRacepolWrite_canonical _ _ s t hs h
  | podcfgWrite => exact execPodcfgWrite_canonical _ _ s t hs h
  | linkcmdRetrain => exact execLinkcmdRetrain_canonical _ _ s t hs h
  | trapcmdResume => exact execTrapcmdResume_canonical _ _ s t hs h
  | trapcmdAbort => exact execTrapcmdAbort_canonical _ _ s t hs h
  | swapOut => exact execSwapOut_canonical _ _ s t hs h
  | swapIn => exact execSwapIn_canonical _ _ s t hs h
  | dbgHalt => exact execDbgHalt_canonical _ _ s t hs h
  | dbgResume => exact execDbgResume_canonical _ _ s t hs h
  | dbgReadReg => exact execDbgReadReg_canonical _ _ s t hs h
  | dbgWriteReg => exact execDbgWriteReg_canonical _ _ s t hs h
  | dbgReadMem => exact execDbgReadMem_canonical _ _ s t hs h
  | dbgWriteMem => exact execDbgWriteMem_canonical _ _ s t hs h
  | dbgReadDebugReg => exact execDbgReadDebugReg_canonical _ _ s t hs h
  | dbgWriteDebugReg => exact execDbgWriteDebugReg_canonical _ _ s t hs h
  | dbgHaltLaunch => exact execDbgHaltLaunch_canonical _ _ s t hs h
  | dbgResumeLaunch => exact execDbgResumeLaunch_canonical _ _ s t hs h
  | dbgpolCommit => exact execDbgpolCommit_canonical _ s t hs h
  | stopall => exact execStopall_canonical _ _ s t hs h
  | profctlClr => exact execProfctlClr_canonical _ _ s t hs h
  | pwrbudWrite => exact execPwrbudWrite_canonical _ _ s t hs h
  | thermstClear => exact execThermstClear_canonical _ _ s t hs h
  | getVersion => exact execGetVersion_canonical _ s t hs h
  | getCapabilities => exact execGetCapabilities_canonical _ s t hs h
  | negotiateAlgorithms => exact execNegotiateAlgorithms_canonical _ s t hs h
  | getDigests => exact execGetDigests_canonical _ s t hs h
  | getCertificate => exact execGetCertificate_canonical _ _ _ s t hs h
  | challenge => exact execChallenge_canonical _ _ s t hs h
  | getMeasurements => exact execGetMeasurements_canonical _ _ s t hs h
  | keyExchange => exact execKeyExchange_canonical _ _ s t hs h
  | finish => exact execFinish_canonical _ _ s t hs h
  | endSession => exact execEndSession_canonical _ s t hs h
  | keyset => exact execKeyset_canonical _ _ _ s t hs h
  | unsupportedRequest => exact execUnsupportedRequest_canonical _ _ s t hs h
  | tlpOutsideStream => exact execTlpOutsideStream_canonical _ s t hs h
  | ideKmRequest => exact execIdeKmRequest_canonical _ _ s t hs h
  | tenantPublicKeyDelivery => exact execTenantPublicKeyDelivery_canonical _ _ s t hs h
  | softError => exact execSoftError_canonical _ _ s t hs h
  | packageReset => exact execPackageReset_canonical s t hs h
  | checkpoint => exact execCheckpoint_canonical s t hs h
  | yieldPoint => exact execYieldPoint_canonical s t hs h
  | loopEndCount => exact execLoopEndCount_canonical s t hs h
  | decodeTrap => exact execDecodeTrap_canonical s t hs h
  | selectionPass => exact execSelectionPass_canonical s t hs h
  | lockLoss => exact execLockLoss_canonical s t hs h
  | tmaxUpdate => exact execTmaxUpdate_canonical s t hs h
  | _ => contradiction

theorem exec_canonical {i : Instr} {s t : State} (hs : s.canonical) (h : exec i s = .next t) : t.canonical := by
  by_cases event : partOf i = 0
  · exact exec_event_canonical event hs h
  · exact (exec_slot_memEq event h).canonical hs

/-! ### What comes next -/

/-- The state that a move hands on: to the row it runs, or to the next step. -/
def Move.state : Move → State
  | .row _ s => s
  | .silent s => s

/-- A step is a silent move to the next state, or a row that answers it. -/
theorem step_cases {s t : State} (h : step s = .next t) : s.sched = .silent t ∨ ∃ i u, s.sched = .row i u ∧ exec i u = .next t := by
  unfold step at h
  cases hm : s.sched with
  | row i u => rw [hm] at h; exact .inr ⟨i, u, rfl, h⟩
  | silent u => rw [hm] at h; injection h with h; exact .inl (congrArg Move.silent h)

theorem Move.of_canonical {i : Option Instr} {s next : State} (hs : s.canonical) (hn : next.canonical) : (Move.of i s next).state.canonical := by
  cases i with
  | none => exact hn
  | some i => exact hs

theorem ite_canonical {p : Prop} [Decidable p] {s t : State} (hs : s.canonical) (ht : t.canonical) : (if p then s else t).canonical := by
  split
  · exact hs
  · exact ht

theorem State.with_phase_canonical (s : State) (p : Phase) : State.canonical { s with phase := p } ↔ s.canonical := Iff.rfl

theorem State.with_inputs_canonical (s : State) (l : List (Nat × Input)) : State.canonical { s with inputs := l } ↔ s.canonical := Iff.rfl

/-! ### Each phase's move -/

section
variable {s : State} (hs : s.canonical)
include hs

theorem State.takeInput_canonical (i : Input) : (s.takeInput i).state.canonical := by
  cases i with
  | ev i => simp only [State.takeInput]; split <;> exact hs
  | hostWrite host addr data => exact s.hostPut_canonical host addr data hs
  | image h part img => exact (s.takeImage_canonical h part img).2 hs
  | chunk h => simp only [State.takeInput]; split <;> exact hs
  | sensor d n t => exact (s.senseHeat_canonical d n t).2 hs
  | remote w => exact hs
  | answer c a data fail => exact (s.takeAnswer_canonical c a data fail).2 hs
  | elastic p n => simp only [State.takeInput]; split <;> exact hs
  | link p st => exact (s.setLink_canonical p st).2 hs

theorem State.stoppedMove_canonical : s.stoppedMove.state.canonical := by
  unfold State.stoppedMove
  split
  · exact hs
  · dsimp only
    split
    · exact State.takeInput_canonical ((s.with_inputs_canonical _).2 hs) _
    · exact hs

theorem State.inputsMove_canonical : s.inputsMove.state.canonical := by
  unfold State.inputsMove
  split
  · exact State.stoppedMove_canonical hs
  · split
    · exact hs
    · split
      · exact hs
      · split
        · exact State.takeInput_canonical ((s.with_inputs_canonical _).2 hs) _
        · exact s.enterPackage_canonical.2 hs

theorem State.replyMove_canonical {next : Move} (hn : next.state.canonical) : (s.replyMove next).state.canonical := by
  unfold State.replyMove
  split
  · exact hn
  · split
    · exact (State.takeReply_canonical _ _).2 hs
    · split <;> exact hs

theorem State.packageMove_canonical : s.packageMove.state.canonical := by
  unfold State.packageMove
  split
  · exact hs
  · split
    · exact hs
    · exact State.replyMove_canonical hs hs

theorem State.haulMove_canonical (n : Nat) : (s.haulMove n).state.canonical := by
  unfold State.haulMove
  split
  · exact hs
  · split <;> exact hs

theorem State.beginMove_canonical (n : Nat) : (s.beginMove n).state.canonical := by
  unfold State.beginMove
  split
  · exact hs
  · next c _ =>
    have purged := (s.purgeTraps_canonical c).2 hs
    refine Move.of_canonical ((State.with_phase_canonical _ _).2 ?_)
      ((State.with_phase_canonical _ _).2 ((State.beginPeriod_canonical _ c).2 ?_)) <;>
    exact ite_canonical ((State.modCore_canonical _ c _).2 purged) purged

theorem State.rowsMove_canonical (c : CoreId) : (s.rowsMove c).state.canonical := by
  unfold State.rowsMove
  split
  · exact Move.of_canonical hs hs
  · split
    · exact hs
    · split
      · exact (s.modCore_canonical c fun k => k.landResults s.now).2 hs
      · exact Move.of_canonical hs hs

theorem State.portsMove_canonical (c : CoreId) : (s.portsMove c).state.canonical := by
  have performed := (State.with_phase_canonical _ (.issue c.val)).2 (State.performAll_canonical _ c (State.fetchInitials_canonical s c hs))
  unfold State.portsMove
  dsimp only
  split
  · exact performed
  · exact performed
  · exact State.fetchWrite_canonical _ _ _ _ _ performed

theorem State.issueMove_canonical (c : CoreId) : (s.issueMove c).state.canonical := by
  unfold State.issueMove
  split
  · exact hs
  · exact (State.with_phase_canonical _ _).2 ((s.openIssue_canonical c).2 hs)

theorem State.partMove_canonical (c : CoreId) : (s.partMove c).state.canonical := by
  unfold State.partMove
  split
  · exact hs
  · split
    · exact hs
    · split
      · exact State.canonical_of ((s.noteRegs_canonical _ _).2 hs) rfl rfl
      · exact (State.with_phase_canonical _ _).2 ((s.endBundle_canonical _).2 hs)

theorem State.finishMove_canonical (c : CoreId) : (s.finishMove c).state.canonical := by
  have purged := (s.purgeTraps_canonical c).2 hs
  exact Move.of_canonical purged ((State.with_phase_canonical _ _).2 (ite_canonical purged ((State.closeCycle_canonical _ c).2 purged)))

theorem State.tickEndMove_canonical : s.tickEndMove.state.canonical :=
  Move.of_canonical hs (s.endTick_canonical.2 hs)

theorem onCore_canonical (n : Nat) {f : CoreId → Move} (hf : ∀ c, (f c).state.canonical) : (onCore s n f).state.canonical := by
  unfold onCore
  split
  · exact hf _
  · exact hs

/-- What a move hands on is canonical, phase by phase. -/
theorem State.sched_canonical : s.sched.state.canonical := by
  unfold State.sched
  cases s.phase with
  | inputs => exact State.inputsMove_canonical hs
  | package => exact State.packageMove_canonical hs
  | haul n => exact State.haulMove_canonical hs n
  | begin n => exact State.beginMove_canonical hs n
  | rows n => exact onCore_canonical hs n (State.rowsMove_canonical hs)
  | ports n => exact onCore_canonical hs n (State.portsMove_canonical hs)
  | issue n => exact onCore_canonical hs n (State.issueMove_canonical hs)
  | part n => exact onCore_canonical hs n (State.partMove_canonical hs)
  | finish n => exact onCore_canonical hs n (State.finishMove_canonical hs)
  | tickEnd => exact State.tickEndMove_canonical hs

end

end Sys2Proof.Machine

open Sys2Proof.Machine in
/-- Settles O6: both memories of the reset state are empty. -/
theorem resetIsCanonical : Obligations.ResetIsCanonical :=
  ⟨Memory.nil_wf, Memory.nil_wf⟩

open Sys2Proof.Machine in
/-- Settles O7: the move of the sequencing hands on a canonical state, and a row that it runs there keeps both memories canonical. -/
theorem stepKeepsCanonical : Obligations.StepKeepsCanonical := by
  intro s t hs h
  have handed := State.sched_canonical hs
  obtain silent | ⟨i, u, row, ran⟩ := step_cases h
  · rw [silent] at handed
    exact handed
  · rw [row] at handed
    exact exec_canonical handed ran

end

section
/-!
PROOFS. Every well-formed slot form is read back from its word (R92 to R98): first the fields of each layout, then the opcodes, then the slots.
-/

namespace Sys2Proof

/-! ### Fields of a word -/

/-- A field that lies in the lower of two joined parts. -/
theorem bits_append_low {m n : Nat} (x : BitVec m) (y : BitVec n) {lo w : Nat} (h : lo + w ≤ n) : bits (x ++ y) lo w = bits y lo w :=
  BitVec.extractLsb'_append_eq_of_add_le h

/-- A field that lies in the higher of two joined parts. -/
theorem bits_append_high {m n : Nat} (x : BitVec m) (y : BitVec n) {lo w : Nat} (h : n ≤ lo) : bits (x ++ y) lo w = bits x (lo - n) w :=
  BitVec.extractLsb'_append_eq_of_le h

theorem bits_self {w : Nat} (v : BitVec w) : bits v 0 w = v := BitVec.extractLsb'_eq_self

/-- Two fields that meet are one field. -/
theorem bits_append_bits {n : Nat} (v : BitVec n) {hi lo a b : Nat} (h : hi = lo + b) : bits v hi a ++ bits v lo b = bits v lo (a + b) :=
  BitVec.extractLsb'_append_extractLsb'_eq_extractLsb' h

theorem bits_zero {n lo w : Nat} : bits (0#n) lo w = 0#w := BitVec.extractLsb'_zero

theorem getLsbD_append_low {m n : Nat} (x : BitVec m) (y : BitVec n) {i : Nat} (h : i < n) : (x ++ y).getLsbD i = y.getLsbD i := by
  rw [BitVec.getLsbD_append, if_pos h]

theorem getLsbD_append_high {m n : Nat} (x : BitVec m) (y : BitVec n) {i : Nat} (h : n ≤ i) : (x ++ y).getLsbD i = x.getLsbD (i - n) := by
  rw [BitVec.getLsbD_append, if_neg (Nat.not_lt.mpr h)]

theorem bit1_getLsbD (b : Bool) : (bit1 b).getLsbD 0 = b := by cases b <;> rfl

theorem decodeFmt_code (f : Fmt) : decodeFmt f.code = some f := by cases f <;> rfl

/-- A word with a field that is not zero is not zero. -/
theorem ne_zero_of_bits {n : Nat} {v : BitVec n} {lo w : Nat} (h : bits v lo w ≠ 0) : v ≠ 0 := by
  rintro rfl
  exact h bits_zero

/-- Loop indices 6 and 7 have the fields of `zero` and `ctx`; every other source is read back (R69). -/
theorem decodeSrc_encodeSrc {s : Src} (h : s.exists_ = true) : decodeSrc (encodeSrc s) = s := by
  have reg : ∀ n : BitVec 5, decodeSrc (encodeSrc (.reg n)) = .reg n := by decide
  have latch : ∀ n : BitVec 4, decodeSrc (encodeSrc (.latch n)) = .latch n := by decide
  have lit : ∀ n : BitVec 3, decodeSrc (encodeSrc (.lit n)) = .lit n := by decide
  have loop : ∀ n : BitVec 3, (Src.loop n).exists_ = true → decodeSrc (encodeSrc (.loop n)) = .loop n := by decide
  cases s with
  | reg n => exact reg n
  | latch n => exact latch n
  | lit n => exact lit n
  | loop n => exact loop n h
  | zero => rfl
  | ctx => rfl

theorem Src.exists_of_unused {s : Src} (h : s.unused = true) : s.exists_ = true := by
  rw [beq_iff_eq.mp h]
  rfl

theorem Src.exists_of_okM {s : Src} (h : s.okM = true) : s.exists_ = true := by
  cases s with
  | reg => rfl
  | _ => exact h

theorem Src.exists_of_okTh {s : Src} (h : s.okTh = true) : s.exists_ = true := by
  cases s with
  | reg => rfl
  | _ => contradiction

/-! ### Vector slots (R95) -/

theorem bits_packV_op (op : BitVec 8) (o : VOps) : bits (packV op o) 40 8 = op := by
  simp -index (disch := decide) only [packV, bits_append_high, bits_self]

theorem bits_packV_fmt (op : BitVec 8) (o : VOps) : bits (packV op o) 36 4 = o.fmt.code := by
  simp -index (disch := decide) only [packV, bits_append_low, bits_append_high, bits_self]

theorem fieldsV_packV (op : BitVec 8) {o : VOps} (ha : o.a.exists_ = true) (hb : o.b.exists_ = true) (hc : o.c.exists_ = true) :
    fieldsV o.v1 o.fmt (packV op o) = o := by
  simp -index (disch := decide) only [fieldsV, packV, bits_append_low, bits_append_high, bits_self, getLsbD_append_low, getLsbD_append_high, bit1_getLsbD]
  rw [decodeSrc_encodeSrc ha, decodeSrc_encodeSrc hb, decodeSrc_encodeSrc hc]

theorem opcodeV_fields (i : Instr) : (opcodeV i).map Prod.snd = (wfV i).map Prod.fst := by
  cases i <;> rfl

theorem wf_of_wfV {i : Instr} {o : VOps} {b : Bool} (h : wfV i = some (o, b)) : i.wf = b := by
  rw [Instr.wf, h]

theorem consV_opcodeV {i : Instr} {op : BitVec 8} {o : VOps} (h : opcodeV i = some (op, o)) : op ≠ 0 ∧ ∃ k, consV op.toNat = some k ∧ k o = i := by
  cases i <;> cases h <;> exact ⟨by decide, _, rfl, rfl⟩

theorem sources_of_wfV {i : Instr} {o : VOps} {b : Bool} (h : wfV i = some (o, b)) (hb : b = true) :
    o.a.exists_ = true ∧ o.b.exists_ = true ∧ o.c.exists_ = true := by
  cases i <;> cases h <;> simp_all [VOps.vv, VOps.v1s, VOps.vvv, Src.okX, Src.exists_of_unused, Src.exists_of_okM]

theorem decodeV_packV {i : Instr} {op : BitVec 8} {o : VOps} (h : opcodeV i = some (op, o)) (hw : i.wf = true) : decodeV o.v1 (packV op o) = .form i := by
  obtain ⟨hop, k, hk, hi⟩ := consV_opcodeV h
  obtain ⟨⟨o', b⟩, hwf, rfl : o' = o⟩ := Option.map_eq_some_iff.mp ((opcodeV_fields i).symm.trans (congrArg (Option.map Prod.snd) h))
  obtain ⟨ha, hb, hc⟩ := sources_of_wfV hwf ((wf_of_wfV hwf).symm.trans hw)
  have word : packV op o' ≠ 0 := ne_zero_of_bits (lo := 40) (by rw [bits_packV_op]; exact hop)
  simp only [decodeV, if_neg word, bits_packV_op, hk, bits_packV_fmt, decodeFmt_code, fieldsV_packV op ha hb hc, checked, hi, hw, if_true]

/-! ### Matrix slot (R96) -/

theorem bits_packM_op (op : BitVec 8) (o : MOps) : bits (packM op o) 40 8 = op := by
  simp -index (disch := decide) only [packM, bits_append_high, bits_self]

theorem bits_packM_fmt (op : BitVec 8) (o : MOps) : bits (packM op o) 36 4 = o.fmt.code := by
  simp -index (disch := decide) only [packM, bits_append_low, bits_append_high, bits_self]

theorem fieldsM_packM (op : BitVec 8) {o : MOps} (ha : o.a.exists_ = true) (hb : o.b.exists_ = true) (hc : o.c.exists_ = true) :
    fieldsM o.fmt (packM op o) = o := by
  simp -index (disch := decide) only [fieldsM, packM, bits_append_low, bits_append_high, bits_self]
  rw [decodeSrc_encodeSrc ha, decodeSrc_encodeSrc hb, decodeSrc_encodeSrc hc]

theorem opcodeM_fields (i : Instr) : (opcodeM i).map Prod.snd = (wfM i).map Prod.fst := by
  cases i <;> rfl

theorem consM_opcodeM {i : Instr} {op : BitVec 8} {o : MOps} (h : opcodeM i = some (op, o)) : op ≠ 0 ∧ ∃ k, consM op.toNat = some k ∧ k o = i := by
  cases i <;> cases h <;> exact ⟨by decide, _, rfl, rfl⟩

theorem wf_of_wfM {i : Instr} {o : MOps} {b : Bool} (h : wfM i = some (o, b)) : i.wf = b := by
  cases i <;> cases h <;> rfl

theorem sources_of_wfM {i : Instr} {o : MOps} {b : Bool} (h : wfM i = some (o, b)) (hb : b = true) :
    o.a.exists_ = true ∧ o.b.exists_ = true ∧ o.c.exists_ = true := by
  cases i <;> cases h <;> simp_all [Src.okX, Src.exists_of_unused, Src.exists_of_okTh]
  case mma | mmaT | mdr => split at hb <;> simp_all [Src.exists_of_unused]

theorem decodeM_packM {i : Instr} {op : BitVec 8} {o : MOps} (h : opcodeM i = some (op, o)) (hw : i.wf = true) : decodeM (packM op o) = .form i := by
  obtain ⟨hop, k, hk, hi⟩ := consM_opcodeM h
  obtain ⟨⟨o', b⟩, hwf, rfl : o' = o⟩ := Option.map_eq_some_iff.mp ((opcodeM_fields i).symm.trans (congrArg (Option.map Prod.snd) h))
  obtain ⟨ha, hb, hc⟩ := sources_of_wfM hwf ((wf_of_wfM hwf).symm.trans hw)
  have word : packM op o' ≠ 0 := ne_zero_of_bits (lo := 40) (by rw [bits_packM_op]; exact hop)
  simp only [decodeM, if_neg word, bits_packM_op, hk, bits_packM_fmt, decodeFmt_code, fieldsM_packM op ha hb hc, checked, hi, hw, if_true]

/-! ### Load slot (R96) -/

theorem bits_packL_op (op : BitVec 5) (o : LdOps) : bits (packL op o) 35 5 = op := by
  simp -index (disch := decide) only [packL, bits_append_high, bits_self]

theorem fieldsL_packL (op : BitVec 5) {o : LdOps} (ha : o.a.exists_ = true) (hb : o.b.exists_ = true) : fieldsL (packL op o) = o := by
  simp -index (disch := decide) only [fieldsL, packL, bits_append_low, bits_append_high, bits_self, getLsbD_append_low, getLsbD_append_high, bit1_getLsbD]
  rw [decodeSrc_encodeSrc ha, decodeSrc_encodeSrc hb]

theorem opcodeL_fields (i : Instr) : (opcodeL i).map Prod.snd = (wfL i).map Prod.fst := by
  cases i <;> rfl

theorem consL_opcodeL {i : Instr} {op : BitVec 5} {o : LdOps} (h : opcodeL i = some (op, o)) : op ≠ 0 ∧ ∃ k, consL op.toNat = some k ∧ k o = i := by
  cases i <;> cases h <;> exact ⟨by decide, _, rfl, rfl⟩

theorem wf_of_wfL {i : Instr} {o : LdOps} {b : Bool} (h : wfL i = some (o, b)) : i.wf = b := by
  cases i <;> cases h <;> rfl

theorem sources_of_wfL {i : Instr} {o : LdOps} {b : Bool} (h : wfL i = some (o, b)) (hb : b = true) :
    o.a.exists_ = true ∧ o.b.exists_ = true := by
  cases i <;> cases h <;> simp_all [Src.okX, Src.exists_of_unused]
  case vld => split at hb <;> simp_all [Src.exists_of_unused]

theorem decodeL_packL {i : Instr} {op : BitVec 5} {o : LdOps} (h : opcodeL i = some (op, o)) (hw : i.wf = true) : decodeL (packL op o) = .form i := by
  obtain ⟨hop, k, hk, hi⟩ := consL_opcodeL h
  obtain ⟨⟨o', b⟩, hwf, rfl : o' = o⟩ := Option.map_eq_some_iff.mp ((opcodeL_fields i).symm.trans (congrArg (Option.map Prod.snd) h))
  obtain ⟨ha, hb⟩ := sources_of_wfL hwf ((wf_of_wfL hwf).symm.trans hw)
  have word : packL op o' ≠ 0 := ne_zero_of_bits (lo := 35) (by rw [bits_packL_op]; exact hop)
  simp only [decodeL, if_neg word, bits_packL_op, hk, fieldsL_packL op ha hb, checked, hi, hw, if_true]

/-! ### Store slot (R96) -/

theorem bits_packT_op (op : BitVec 5) (o : StOps) : bits (packT op o) 35 5 = op := by
  simp -index (disch := decide) only [packT, bits_append_high, bits_self]

/-- The reserved bits of a store word are zero. -/
theorem bits_packT_reserved (op : BitVec 5) (o : StOps) : bits (packT op o) 0 3 = 0 := by
  simp -index (disch := decide) only [packT, bits_append_low, bits_self]
  rfl

theorem fieldsT_packT (op : BitVec 5) {o : StOps} (ha : o.a.exists_ = true) (hb : o.b.exists_ = true) (hc : o.c.exists_ = true) :
    fieldsT (packT op o) = o := by
  simp -index (disch := decide) only [fieldsT, packT, bits_append_low, bits_append_high, bits_self, getLsbD_append_low, getLsbD_append_high, bit1_getLsbD]
  rw [decodeSrc_encodeSrc ha, decodeSrc_encodeSrc hb, decodeSrc_encodeSrc hc]

theorem opcodeT_fields (i : Instr) : (opcodeT i).map Prod.snd = (wfS i).map Prod.fst := by
  cases i <;> rfl

theorem consT_opcodeT {i : Instr} {op : BitVec 5} {o : StOps} (h : opcodeT i = some (op, o)) : op ≠ 0 ∧ ∃ k, consT op.toNat = some k ∧ k o = i := by
  cases i <;> cases h <;> exact ⟨by decide, _, rfl, rfl⟩

theorem wf_of_wfS {i : Instr} {o : StOps} {b : Bool} (h : wfS i = some (o, b)) : i.wf = b := by
  cases i <;> cases h <;> rfl

theorem sources_of_wfS {i : Instr} {o : StOps} {b : Bool} (h : wfS i = some (o, b)) (hb : b = true) :
    o.a.exists_ = true ∧ o.b.exists_ = true ∧ o.c.exists_ = true := by
  cases i <;> cases h <;> simp_all [Src.okX, Src.exists_of_unused]
  case vst => split at hb <;> simp_all [Src.exists_of_unused]

theorem decodeT_packT {i : Instr} {op : BitVec 5} {o : StOps} (h : opcodeT i = some (op, o)) (hw : i.wf = true) : decodeT (packT op o) = .form i := by
  obtain ⟨hop, k, hk, hi⟩ := consT_opcodeT h
  obtain ⟨⟨o', b⟩, hwf, rfl : o' = o⟩ := Option.map_eq_some_iff.mp ((opcodeT_fields i).symm.trans (congrArg (Option.map Prod.snd) h))
  obtain ⟨ha, hb, hc⟩ := sources_of_wfS hwf ((wf_of_wfS hwf).symm.trans hw)
  have word : packT op o' ≠ 0 := ne_zero_of_bits (lo := 35) (by rw [bits_packT_op]; exact hop)
  simp only [decodeT, if_neg word, bits_packT_op, hk, if_pos (bits_packT_reserved op o'), fieldsT_packT op ha hb hc, checked, hi, hw, if_true]

/-! ### Copy slot (R96) -/

theorem bits_packC_op (op : BitVec 5) (o : COps) : bits (packC op o) 43 5 = op := by
  simp -index (disch := decide) only [packC, bits_append_high, bits_self]

theorem bits_packC_fmt (op : BitVec 5) (o : COps) : bits (packC op o) 15 4 = o.fmt.code := by
  simp -index (disch := decide) only [packC, bits_append_low, bits_append_high, bits_self]

theorem fieldsC_packC (op : BitVec 5) {o : COps} (ha : o.a.exists_ = true) (hb : o.b.exists_ = true) (hc : o.c.exists_ = true) :
    fieldsC o.fmt (packC op o) = o := by
  simp -index (disch := decide) only [fieldsC, packC, bits_append_low, bits_append_high, bits_self, getLsbD_append_low, getLsbD_append_high, bit1_getLsbD]
  rw [decodeSrc_encodeSrc ha, decodeSrc_encodeSrc hb, decodeSrc_encodeSrc hc]

theorem opcodeC_fields (i : Instr) : (opcodeC i).map Prod.snd = (wfC i).map Prod.fst := by
  cases i <;> rfl

theorem consC_opcodeC {i : Instr} {op : BitVec 5} {o : COps} (h : opcodeC i = some (op, o)) : op ≠ 0 ∧ ∃ k, consC op.toNat = some k ∧ k o = i := by
  cases i <;> cases h <;> exact ⟨by decide, _, rfl, rfl⟩

theorem wf_of_wfC {i : Instr} {o : COps} {b : Bool} (h : wfC i = some (o, b)) : i.wf = b := by
  cases i <;> cases h <;> rfl

theorem sources_of_wfC {i : Instr} {o : COps} {b : Bool} (h : wfC i = some (o, b)) (hb : b = true) :
    o.a.exists_ = true ∧ o.b.exists_ = true ∧ o.c.exists_ = true := by
  cases i <;> cases h <;> simp_all [Src.okX, Src.exists_of_unused, Src.exists_of_okTh]
  case cpRed => split at hb <;> simp_all [Src.exists_of_unused]

theorem decodeC_packC {i : Instr} {op : BitVec 5} {o : COps} (h : opcodeC i = some (op, o)) (hw : i.wf = true) : decodeC (packC op o) = .form i := by
  obtain ⟨hop, k, hk, hi⟩ := consC_opcodeC h
  obtain ⟨⟨o', b⟩, hwf, rfl : o' = o⟩ := Option.map_eq_some_iff.mp ((opcodeC_fields i).symm.trans (congrArg (Option.map Prod.snd) h))
  obtain ⟨ha, hb, hc⟩ := sources_of_wfC hwf ((wf_of_wfC hwf).symm.trans hw)
  have word : packC op o' ≠ 0 := ne_zero_of_bits (lo := 43) (by rw [bits_packC_op]; exact hop)
  simp only [decodeC, if_neg word, bits_packC_op, hk, bits_packC_fmt, decodeFmt_code, fieldsC_packC op ha hb hc, checked, hi, hw, if_true]

/-! ### Sync slot (R96) -/

theorem wf_of_wfY {i : Instr} {b : Bool} (h : wfY i = some b) : i.wf = b := by
  cases i <;> cases h <;> rfl

theorem encodeY_isSome (i : Instr) : (encodeY i).isSome = (wfY i).isSome := by
  cases i <;> rfl

section
variable (op a b : BitVec 6) (d : BitVec 5) (nw : Bool) (imm : BitVec 8)

theorem bits_packY_op : bits (packY op a b d nw imm) 26 6 = op := by
  simp -index (disch := decide) only [packY, bits_append_high, bits_self]

theorem bits_packY_a : bits (packY op a b d nw imm) 20 6 = a := by
  simp -index (disch := decide) only [packY, bits_append_low, bits_append_high, bits_self]

theorem bits_packY_b : bits (packY op a b d nw imm) 14 6 = b := by
  simp -index (disch := decide) only [packY, bits_append_low, bits_append_high, bits_self]

theorem bits_packY_d : bits (packY op a b d nw imm) 9 5 = d := by
  simp -index (disch := decide) only [packY, bits_append_low, bits_append_high, bits_self]

theorem packY_nw : (packY op a b d nw imm).getLsbD 8 = nw := by
  simp -index (disch := decide) only [packY, getLsbD_append_low, getLsbD_append_high, bit1_getLsbD]

theorem bits_packY_imm : bits (packY op a b d nw imm) 0 8 = imm := by
  simp -index (disch := decide) only [packY, bits_append_low, bits_self]

theorem bits_packY_lane : bits (packY op a b d nw imm) 0 4 = bits imm 0 4 := by
  simp -index (disch := decide) only [packY, bits_append_low]

end

/-- A sync form whose fields are legal is the one its word fits. -/
theorem formY_encodeY {i : Instr} {w : BitVec 32} {b : Bool} (h : encodeY i = some w) (hw : wfY i = some b) (hb : b = true) : formY w = some i := by
  cases i <;> cases h <;> cases hw <;>
    simp_all [formY, bits_packY_op, bits_packY_a, bits_packY_b, bits_packY_d, bits_packY_imm, bits_packY_lane, Src.okX, decodeSrc_encodeSrc]
  case nopY => rfl
  case haulAlight a b sv =>
    have read : decodeSrc (encodeSrc b) = b := by
      split at hb
      · exact decodeSrc_encodeSrc hb.2
      · exact decodeSrc_encodeSrc (Src.exists_of_unused hb.2)
    simp -index (disch := decide) only [← BitVec.getLsbD_eq_getElem, packY_nw, bits_append_high, bits_self, getLsbD_append_low, bit1_getLsbD, and_self, read]
  all_goals
    simp -index (disch := decide) only [← BitVec.getLsbD_eq_getElem, packY_nw, bits_append_low, bits_append_high, bits_self, getLsbD_append_low,
      getLsbD_append_high, bit1_getLsbD, and_self]

theorem decodeY_encodeY {i : Instr} {w : BitVec 32} (h : encodeY i = some w) (hw : i.wf = true) : decodeY w = some i := by
  obtain ⟨b, hb⟩ := Option.isSome_iff_exists.mp ((encodeY_isSome i).symm.trans (congrArg Option.isSome h))
  simp only [decodeY, formY_encodeY h hb ((wf_of_wfY hb).symm.trans hw), hw, if_true]

/-! ### Scalar slot (R98) -/

section
variable (op : BitVec 7) (f3 : BitVec 3) (rd rs1 rs2 : BitVec 5)

theorem encR_fields (f7 : BitVec 7) :
    bits (encR op f3 f7 rd rs1 rs2) 0 7 = op ∧ bits (encR op f3 f7 rd rs1 rs2) 12 3 = f3 ∧ bits (encR op f3 f7 rd rs1 rs2) 25 7 = f7 ∧ bits (encR op f3 f7 rd rs1 rs2) 7 5 = rd ∧
      bits (encR op f3 f7 rd rs1 rs2) 15 5 = rs1 ∧ bits (encR op f3 f7 rd rs1 rs2) 20 5 = rs2 := by
  simp -index (disch := decide) only [encR, bits_append_low, bits_append_high, bits_self, and_self]

theorem encI_fields (imm : BitVec 12) :
    bits (encI op f3 rd rs1 imm) 0 7 = op ∧ bits (encI op f3 rd rs1 imm) 12 3 = f3 ∧ bits (encI op f3 rd rs1 imm) 7 5 = rd ∧ bits (encI op f3 rd rs1 imm) 15 5 = rs1 ∧
      bits (encI op f3 rd rs1 imm) 20 12 = imm := by
  simp -index (disch := decide) only [encI, bits_append_low, bits_append_high, bits_self, and_self]

theorem encSh_fields (f6 : BitVec 6) (sh : BitVec 6) :
    bits (encSh f3 f6 rd rs1 sh) 0 7 = 0x13#7 ∧ bits (encSh f3 f6 rd rs1 sh) 12 3 = f3 ∧ bits (encSh f3 f6 rd rs1 sh) 26 6 = f6 ∧ bits (encSh f3 f6 rd rs1 sh) 7 5 = rd ∧
      bits (encSh f3 f6 rd rs1 sh) 15 5 = rs1 ∧ bits (encSh f3 f6 rd rs1 sh) 20 6 = sh := by
  simp -index (disch := decide) only [encSh, bits_append_low, bits_append_high, bits_self, and_self]

theorem encS_fields (imm : BitVec 12) :
    bits (encS f3 rs1 rs2 imm) 0 7 = 0x23#7 ∧ bits (encS f3 rs1 rs2 imm) 12 3 = f3 ∧ bits (encS f3 rs1 rs2 imm) 15 5 = rs1 ∧ bits (encS f3 rs1 rs2 imm) 20 5 = rs2 ∧
      ((bits (encS f3 rs1 rs2 imm) 25 7 : BitVec 7) ++ (bits (encS f3 rs1 rs2 imm) 7 5 : BitVec 5)) = imm := by
  simp -index (disch := decide) only [encS, bits_append_low, bits_append_high, bits_self, bits_append_bits, and_self]

theorem encB_fields (imm : BitVec 12) :
    bits (encB f3 rs1 rs2 imm) 0 7 = 0x63#7 ∧ bits (encB f3 rs1 rs2 imm) 12 3 = f3 ∧ bits (encB f3 rs1 rs2 imm) 15 5 = rs1 ∧ bits (encB f3 rs1 rs2 imm) 20 5 = rs2 ∧
      ((bits (encB f3 rs1 rs2 imm) 31 1 : BitVec 1) ++ (bits (encB f3 rs1 rs2 imm) 7 1 : BitVec 1) ++ (bits (encB f3 rs1 rs2 imm) 25 6 : BitVec 6) ++ (bits (encB f3 rs1 rs2 imm) 8 4 : BitVec 4)) = imm := by
  simp -index (disch := decide) only [encB, bits_append_low, bits_append_high, bits_self, bits_append_bits, and_self]

theorem encU_fields (imm : BitVec 20) :
    bits (encU op rd imm) 0 7 = op ∧ bits (encU op rd imm) 7 5 = rd ∧ bits (encU op rd imm) 12 20 = imm := by
  simp -index (disch := decide) only [encU, bits_append_low, bits_append_high, bits_self, and_self]

theorem encJ_fields (imm : BitVec 20) :
    bits (encJ rd imm) 0 7 = 0x6F#7 ∧ bits (encJ rd imm) 7 5 = rd ∧
      ((bits (encJ rd imm) 31 1 : BitVec 1) ++ (bits (encJ rd imm) 12 8 : BitVec 8) ++ (bits (encJ rd imm) 20 1 : BitVec 1) ++ (bits (encJ rd imm) 21 10 : BitVec 10)) = imm := by
  simp -index (disch := decide) only [encJ, bits_append_low, bits_append_high, bits_self, bits_append_bits, and_self]

end

/-- The upper six bits of a seven-bit field. -/
theorem bits_seven_half (w : BitVec 32) : (bits w 25 7 : BitVec 7).toNat / 2 = (bits w 26 6 : BitVec 6).toNat := by
  simp only [bits, BitVec.extractLsb'_toNat, Nat.shiftRight_eq_div_pow]
  omega

theorem decodeS_encodeS {i : Instr} {w : BitVec 32} (h : encodeS i = some w) : decodeS w = some i := by
  cases i <;> cases h <;> simp [decodeS, encR_fields, encI_fields, encSh_fields, encS_fields, encB_fields, encU_fields, encJ_fields, bits_seven_half]

/-! ### All slots -/

theorem encode_cases {i : Instr} {w : SlotWord} (h : encode i = some w) :
    (∃ u, encodeS i = some u ∧ w = .s u) ∨
    (∃ op o, opcodeV i = some (op, o) ∧ w = if o.v1 then .v1 (packV op o) else .v0 (packV op o)) ∨
    (∃ op o, opcodeM i = some (op, o) ∧ w = .m (packM op o)) ∨
    (∃ op o, opcodeL i = some (op, o) ∧ w = .ld (packL op o)) ∨
    (∃ op o, opcodeT i = some (op, o) ∧ w = .st (packT op o)) ∨
    (∃ op o, opcodeC i = some (op, o) ∧ w = .c (packC op o)) ∨
    ∃ u, encodeY i = some u ∧ w = .y u := by
  unfold encode at h
  split at h
  · cases h
    exact .inl ⟨_, ‹encodeS i = some _›, rfl⟩
  · cases h
    exact .inr (.inl ⟨_, _, ‹opcodeV i = some _›, rfl⟩)
  · cases h
    exact .inr (.inr (.inl ⟨_, _, ‹opcodeM i = some _›, rfl⟩))
  · cases h
    exact .inr (.inr (.inr (.inl ⟨_, _, ‹opcodeL i = some _›, rfl⟩)))
  · cases h
    exact .inr (.inr (.inr (.inr (.inl ⟨_, _, ‹opcodeT i = some _›, rfl⟩))))
  · cases h
    exact .inr (.inr (.inr (.inr (.inr (.inl ⟨_, _, ‹opcodeC i = some _›, rfl⟩)))))
  · cases h
    exact .inr (.inr (.inr (.inr (.inr (.inr ⟨_, ‹encodeY i = some _›, rfl⟩)))))
  · cases h

theorem encode_eq_none {i : Instr} (h : encode i = none) :
    encodeS i = none ∧ opcodeV i = none ∧ opcodeM i = none ∧ opcodeL i = none ∧ opcodeT i = none ∧ opcodeC i = none ∧ encodeY i = none := by
  unfold encode at h
  split at h <;> simp_all [Option.eq_none_iff_forall_ne_some]

/-- A form of a slot has a word there (R92). -/
theorem encode_isSome {i : Instr} (slot : Machine.partOf i ≠ 0) : (encode i).isSome = true := by
  rw [Option.isSome_iff_ne_none]
  intro wordless
  obtain ⟨s, v, m, l, t, c, y⟩ := encode_eq_none wordless
  have hv : wfV i = none := by simpa [v] using (opcodeV_fields i).symm
  have hm : wfM i = none := by simpa [m] using (opcodeM_fields i).symm
  have hl : wfL i = none := by simpa [l] using (opcodeL_fields i).symm
  have ht : wfS i = none := by simpa [t] using (opcodeT_fields i).symm
  have hc : wfC i = none := by simpa [c] using (opcodeC_fields i).symm
  have hy : wfY i = none := by simpa [y] using encodeY_isSome i
  exact slot (by simp only [Machine.partOf, hv, hm, hl, ht, hc, hy, s, Option.isSome_none, Bool.false_eq_true, if_false])

/-- Every well-formed form is read back from its word, slot by slot. -/
theorem decodeSlot_encode {i : Instr} {w : SlotWord} (hw : i.wf = true) (h : encode i = some w) : decodeSlot w = .form i := by
  obtain ⟨u, hu, rfl⟩ | ⟨op, o, hv, rfl⟩ | ⟨op, o, hm, rfl⟩ | ⟨op, o, hl, rfl⟩ | ⟨op, o, ht, rfl⟩ | ⟨op, o, hc, rfl⟩ | ⟨u, hu, rfl⟩ := encode_cases h
  · rw [decodeSlot, decodeS_encodeS hu, Option.elim]
  · have read := decodeV_packV hv hw
    cases side : o.v1 with
    | false => rwa [side] at read
    | true => rwa [side] at read
  · exact decodeM_packM hm hw
  · exact decodeL_packL hl hw
  · exact decodeT_packT ht hw
  · exact decodeC_packC hc hw
  · rw [decodeSlot, decodeY_encodeY hu hw, Option.elim]

end Sys2Proof
open Sys2Proof in
/-- Settles O2: the word of a form is that of its slot, whose decoder reads the opcode and every field back. -/
theorem slotDecodeEncode : Obligations.SlotDecodeEncode :=
  ⟨fun _ _ wf h => decodeSlot_encode wf h, fun _ _ slot => encode_isSome slot⟩

end

section
/-!
PROOFS. Registers and latches: the hardwired registers (R69, R70), and how results that are due reach registers, latches and FPFLAGS (R72, R74, R76, R129, R130, R144).
-/

namespace Sys2Proof.Machine

/-! ### The hardwired registers -/

theorem Ctx.xr_zero (k : Ctx) : k.xr 0 = 0 := if_pos rfl

theorem Ctx.mr_zero (k : Ctx) : k.mr 0 = BitVec.allOnes 128 := if_pos rfl

theorem Ctx.setX_zero (k : Ctx) (x : Word) : k.setX 0 x = k := if_pos rfl

theorem Ctx.setM_zero (k : Ctx) (x : MaskReg) : k.setM 0 x = k := if_pos rfl

/-! ### A result reaches its register -/

theorem Ctx.landDest_fpflags (k : Ctx) (d : Dest) (v : VReg) (wen : MaskReg) :
    (k.landDest d v wen).fpflags = if d = .fpflags then bits v 0 9 &&& flAll else k.fpflags := by
  cases d with
  | x n => simp only [Ctx.landDest, Ctx.setX, reduceCtorEq, if_false]; split <;> rfl
  | m n => simp only [Ctx.landDest, Ctx.setM, reduceCtorEq, if_false]; split <;> rfl
  | rtab t => simp only [Ctx.landDest, reduceCtorEq, if_false]; split <;> rfl
  | _ => simp [Ctx.landDest, Ctx.setV]

/-- Lane by lane, the later of two values that reach one v register is kept where it is written (R76, R144). -/
theorem mergeLanes_twice_lane (w1 w2 : MaskReg) (v1 v2 old : VReg) {l : Nat} (h : l < 128) :
    (mergeLanes w2 v2 (mergeLanes w1 v1 old)).extractLsb' (32 * l) 32 =
      if w2.getLsbD l then v2.extractLsb' (32 * l) 32 else if w1.getLsbD l then v1.extractLsb' (32 * l) 32 else old.extractLsb' (32 * l) 32 := by
  rw [mergeLanes_lane _ _ _ _ h, mergeLanes_lane _ _ _ _ h]

/-- What a result that lands makes of its context: the register, and the checkpoint copy of a returned value (R74, R177). -/
def Ctx.take (x : Ctx) (r : Result) : Ctx :=
  match r.toCk, r.dest with
  | true, .x n => { x.landDest r.dest r.val r.wen with ck := (x.landDest r.dest r.val r.wen).ck.landX n (bits r.val 0 64) }
  | _, _ => x.landDest r.dest r.val r.wen

/-- A landing changes no context but its own. -/
theorem Core.landOne_ctxs (k : Core) (r : Result) : (k.landOne r).ctxs = (k.modCtx r.ctx fun x => x.take r).ctxs := by
  unfold Core.landOne
  dsimp only
  split <;> rfl

theorem Ctx.take_eq (x : Ctx) (r : Result) : ∃ ck, x.take r = { x.landDest r.dest r.val r.wen with ck := ck } := by
  unfold Ctx.take
  split
  · exact ⟨_, rfl⟩
  · exact ⟨_, rfl⟩

theorem Core.landOne_ctx (k : Core) (r : Result) :
    ∃ ck, (k.landOne r).ctx r.ctx = { (k.ctx r.ctx).landDest r.dest r.val r.wen with ck := ck } := by
  rw [Core.ctx_of (k.landOne_ctxs r), Core.ctx_modCtx]
  exact Ctx.take_eq _ r

theorem Core.landOne_ctx_ne (k : Core) (r : Result) {c : CtxId} (h : c ≠ r.ctx) : (k.landOne r).ctx c = k.ctx c := by
  rw [Core.ctx_of (k.landOne_ctxs r), Core.ctx_modCtx_ne _ _ _ _ h]

theorem Core.landOne_results (k : Core) (r : Result) : (k.landOne r).results = k.results := by
  unfold Core.landOne
  dsimp only
  split <;> rfl

/-! ### Its latch (R72) -/

theorem Core.landOne_latches_of_none (k : Core) {r : Result} (h : r.latch = none) : (k.landOne r).latches = k.latches := by
  unfold Core.landOne
  rw [h]
  rfl

theorem Core.landOne_latches_of_some (k : Core) {r : Result} {u : Fin 8} (h : r.latch = some u) :
    (k.landOne r).latches = k.latches.set u ⟨some (mergeLanes r.wen r.val 0, k.cyc), k.latches[u].a0⟩ := by
  unfold Core.landOne
  rw [h]
  rfl

/-! ### Its flags (R130, R131) -/

theorem Ctx.lateFlags_eq (k : Ctx) (issued : Nat) (f : Flags) :
    ∃ late, k.lateFlags issued f = { k with fpflags := k.fpflags ||| (f &&& flAll), lateFl := late } := by
  unfold Ctx.lateFlags
  dsimp only
  split
  · exact ⟨_, rfl⟩
  · exact ⟨_, rfl⟩

/-- The flags of landed results change FPFLAGS and what a rollback keeps of it, and no other register. -/
theorem Core.foldl_lateFlags_ctx (due : List Result) (k : Core) (c : CtxId) :
    ∃ fp late, (due.foldl (fun k r => k.modCtx r.ctx fun c => c.lateFlags r.issued r.fl) k).ctx c = { k.ctx c with fpflags := fp, lateFl := late } := by
  induction due generalizing k with
  | nil => exact ⟨_, _, rfl⟩
  | cons r due ih =>
    obtain ⟨fp, late, h⟩ := ih (k.modCtx r.ctx fun c => c.lateFlags r.issued r.fl)
    refine ⟨fp, late, h.trans ?_⟩
    by_cases e : c = r.ctx
    · subst e
      obtain ⟨late', flags⟩ := (k.ctx r.ctx).lateFlags_eq r.issued r.fl
      rw [Core.ctx_modCtx, flags]
    · rw [Core.ctx_modCtx_ne _ _ _ _ e]

/-! ### The results of a cycle (R76) -/

theorem Core.landResults_eq_self {k : Core} {now : Nat} {r : Result} (h : k.results = [r]) (hd : r.isDue k.cyc now = false) :
    k.landResults now = k := by
  have none_due : k.results.filter (fun r => r.isDue k.cyc now) = [] := by simp [h, hd]
  have all_stay : k.results.filter (fun r => !r.isDue k.cyc now) = k.results := by simp [h, hd]
  rw [Core.landResults, none_due, all_stay]
  rfl

/-- The one result of a core lands, and then its flags are set. -/
theorem Core.landResults_one {k : Core} {now : Nat} {r : Result} (h : k.results = [r]) (hd : r.isDue k.cyc now = true) :
    k.landResults now = (({ k with results := [] } : Core).landOne r).modCtx r.ctx fun c => c.lateFlags r.issued r.fl := by
  simp [Core.landResults, h, hd]

theorem Core.landResults_one_ctx {k : Core} {now : Nat} {r : Result} (h : k.results = [r]) (hd : r.isDue k.cyc now = true) :
    ∃ ck late, (k.landResults now).ctx r.ctx =
      { (k.ctx r.ctx).landDest r.dest r.val r.wen with
        ck := ck, fpflags := ((k.ctx r.ctx).landDest r.dest r.val r.wen).fpflags ||| (r.fl &&& flAll), lateFl := late } := by
  obtain ⟨ck, landed⟩ := ({ k with results := [] } : Core).landOne_ctx r
  obtain ⟨late, flags⟩ := Ctx.lateFlags_eq ((({ k with results := [] } : Core).landOne r).ctx r.ctx) r.issued r.fl
  refine ⟨ck, late, ?_⟩
  rw [Core.landResults_one h hd, Core.ctx_modCtx, flags, landed]
  rfl

section
variable {k : Core} {now : Nat} {p q : Result} (h : k.results = [p, q]) (hp : p.isDue k.cyc now = true) (hq : q.isDue k.cyc now = true)
include h hp hq

/-- Of two results the one that stands first lands first. -/
theorem Core.landResults_two :
    k.landResults now = [p, q].foldl (fun k r => k.modCtx r.ctx fun c => c.lateFlags r.issued r.fl)
      ((({ k with results := [] } : Core).landOne p).landOne q) := by
  simp [Core.landResults, h, hp, hq]

variable (hc : p.ctx = q.ctx)
include hc

theorem Core.landResults_two_ctx :
    ∃ ck1 ck2 fp late, (k.landResults now).ctx q.ctx =
      { Ctx.landDest { (k.ctx q.ctx).landDest p.dest p.val p.wen with ck := ck1 } q.dest q.val q.wen with ck := ck2, fpflags := fp, lateFl := late } := by
  obtain ⟨ck1, first⟩ := ({ k with results := [] } : Core).landOne_ctx p
  obtain ⟨ck2, second⟩ := (({ k with results := [] } : Core).landOne p).landOne_ctx q
  obtain ⟨fp, late, flags⟩ := Core.foldl_lateFlags_ctx [p, q] ((({ k with results := [] } : Core).landOne p).landOne q) q.ctx
  rw [hc] at first
  refine ⟨ck1, ck2, fp, late, ?_⟩
  rw [Core.landResults_two h hp hq, flags, second, first]
  rfl

theorem Core.landResults_two_xr {n : BitVec 5} (hn : n ≠ 0) (dq : q.dest = .x n) :
    ((k.landResults now).ctx q.ctx).xr n = q.val.extractLsb' 0 64 := by
  obtain ⟨_, _, _, _, landed⟩ := Core.landResults_two_ctx h hp hq hc
  rw [landed, dq]
  exact (Ctx.xr_setX _ n n _).trans (if_pos ⟨rfl, hn⟩)

theorem Core.landResults_two_vr_lane {n : BitVec 5} (dp : p.dest = .v n) (dq : q.dest = .v n) {l : Nat} (hl : l < 128) :
    (((k.landResults now).ctx q.ctx).vr n).extractLsb' (32 * l) 32 =
      if q.wen.getLsbD l then q.val.extractLsb' (32 * l) 32 else if p.wen.getLsbD l then p.val.extractLsb' (32 * l) 32
      else ((k.ctx q.ctx).vr n).extractLsb' (32 * l) 32 := by
  obtain ⟨ck1, _, _, _, landed⟩ := Core.landResults_two_ctx h hp hq hc
  have first : ({ (k.ctx q.ctx).landDest p.dest p.val p.wen with ck := ck1 } : Ctx).vr n = mergeLanes p.wen p.val ((k.ctx q.ctx).vr n) := by
    rw [dp]
    exact (Ctx.vr_setV _ n n _).trans (if_pos rfl)
  have second : ((k.landResults now).ctx q.ctx).vr n = mergeLanes q.wen q.val (mergeLanes p.wen p.val ((k.ctx q.ctx).vr n)) := by
    rw [landed, dq, ← first]
    exact (Ctx.vr_setV _ n n _).trans (if_pos rfl)
  rw [second]
  exact mergeLanes_twice_lane _ _ _ _ _ hl

theorem Core.landResults_two_mr {i : BitVec 3} (hi : i ≠ 0) (dq : q.dest = .m i) :
    ((k.landResults now).ctx q.ctx).mr i = q.val.extractLsb' 0 128 := by
  obtain ⟨_, _, _, _, landed⟩ := Core.landResults_two_ctx h hp hq hc
  rw [landed, dq]
  exact (Ctx.mr_setM _ i i _).trans (if_pos ⟨rfl, hi⟩)

end

/-- Results stand in order of issue and part, in whichever order they were noted. -/
theorem insertResult_order {p q : Result} (h : p.issued < q.issued ∨ (p.issued = q.issued ∧ p.part < q.part)) :
    insertResult q [p] = [p, q] ∧ insertResult p [q] = [p, q] := by
  constructor
  · have : ¬(q.issued < p.issued ∨ q.issued = p.issued ∧ q.part < p.part) := by omega
    simp [insertResult, this]
  · simp [insertResult, h]

end Sys2Proof.Machine

open Sys2Proof.Machine in
/-- Settles O8, by what a read gives after a write. -/
theorem hardwiredRegisters : Obligations.HardwiredRegisters := by
  intro k n p i j x v m
  refine ⟨k.xr_zero, k.mr_zero, k.setX_zero x, k.setM_zero m, fun hn => ?_, fun hp => ?_, k.setX_v n x, k.setX_m n x,
    ?_, fun hp => ?_, k.setV_x n v, k.setV_m n v, fun hi => ?_, fun hj => ?_, k.setM_x i m, k.setM_v i m⟩
  · rw [Ctx.xr_setX, if_pos ⟨rfl, hn⟩]
  · rw [Ctx.xr_setX, if_neg fun h => hp h.1]
  · rw [Ctx.vr_setV, if_pos rfl]
  · rw [Ctx.vr_setV, if_neg hp]
  · rw [Ctx.mr_setM, if_pos ⟨rfl, hi⟩]
  · rw [Ctx.mr_setM, if_neg fun h => hj h.1]

open Sys2Proof.Machine in
/-- Settles O9: the one result that is due lands as its destination says, and its flags are set after that. -/
theorem resultsLand : Obligations.ResultsLand := by
  intro k now r h
  refine ⟨Core.landResults_eq_self h, fun due => ?_⟩
  obtain ⟨ck, late, landed⟩ := Core.landResults_one_ctx h due
  refine ⟨?_, fun c hc => ?_, fun n hn p => ?_, fun n hn => ⟨fun l hl => ?_, fun p hp => ?_⟩, fun n hn n0 => ?_, ?_⟩
  · rw [Core.landResults_one h due]
    exact Core.landOne_results _ r
  · rw [Core.landResults_one h due, Core.ctx_modCtx_ne _ _ _ _ hc, Core.landOne_ctx_ne _ _ hc]
    rfl
  · rw [landed, hn]
    exact Ctx.xr_setX _ n p _
  · rw [landed, hn]
    exact (congrArg (BitVec.extractLsb' (32 * l) 32) ((Ctx.vr_setV _ n n _).trans (if_pos rfl))).trans (mergeLanes_lane _ _ _ _ hl)
  · rw [landed, hn]
    exact (Ctx.vr_setV _ n p _).trans (if_neg hp)
  · rw [landed, hn]
    exact (Ctx.mr_setM _ n n _).trans (if_pos ⟨rfl, n0⟩)
  · rw [landed]
    exact congrArg (· ||| (r.fl &&& flAll)) (Ctx.landDest_fpflags _ r.dest r.val r.wen)

open Sys2Proof.Machine in
/-- Settles O10: in either order of noting, the earlier result lands first, so that the later one stands over it. -/
theorem laterResultKept : Obligations.LaterResultKept := by
  intro k now n i p q none hc hp hq order both
  obtain ⟨inOrder, swapped⟩ := insertResult_order order
  have noted : ((k.addResult p).addResult q).results = [p, q] := by rw [← inOrder]; simp only [Core.addResult, none, insertResult]
  have noted' : ((k.addResult q).addResult p).results = [p, q] := by rw [← swapped]; simp only [Core.addResult, none, insertResult]
  exact ⟨fun n0 _ dq => ⟨Core.landResults_two_xr noted hp hq hc n0 dq, Core.landResults_two_xr noted' hp hq hc n0 dq⟩,
    fun dp dq => ⟨fun l hl => Core.landResults_two_vr_lane noted hp hq hc dp dq hl, fun l hl => Core.landResults_two_vr_lane noted' hp hq hc dp dq hl⟩,
    fun i0 _ dq => ⟨Core.landResults_two_mr noted hp hq hc i0 dq, Core.landResults_two_mr noted' hp hq hc i0 dq⟩⟩

open Sys2Proof.Machine in
/-- Settles O11, by whether the result has a latch. -/
theorem latchesAge : Obligations.LatchesAge := by
  intro k r u w
  refine ⟨fun h => ⟨?_, ?_, fun hw => ?_⟩, k.landOne_latches_of_none⟩
  · simp only [k.landOne_latches_of_some h, Fin.getElem_fin, Vector.getElem_set_self]
  · simp only [k.landOne_latches_of_some h, Fin.getElem_fin, Vector.getElem_set_self]
  · have apart : u.val ≠ w.val := fun e => hw (Fin.ext e.symm)
    simp only [k.landOne_latches_of_some h, Fin.getElem_fin, Vector.getElem_set_ne _ _ apart]

end

section
/-!
PROOFS. The bundle in issue: the checks before it performs (R79, R92, R93), its parts in order (R347), its header rows (R109, R199, R251, R316, R332), and the index that follows it (R77, R83, R109).
-/

namespace Sys2Proof.Machine

/-! ### The next index (R77, R83) -/

theorem Ctx.nextIndex_pc_of_none {x : Ctx} (f : Focus) (h : x.pending = none) :
    (x.nextIndex f).pc = (match f.lr with | some r => r | none => f.idx + 1) := by
  unfold Ctx.nextIndex
  rw [h]
  cases f.lr <;> rfl

theorem Ctx.nextIndex_pc_of_some {x : Ctx} (f : Focus) {t : BitVec 12} (h : x.pending = some t) : (x.nextIndex f).pc = t := by
  unfold Ctx.nextIndex
  rw [h]

theorem Ctx.nextIndex_pending (x : Ctx) (f : Focus) : (x.nextIndex f).pending = f.jump := rfl

/-- The six lowest bits of a target are the remainder by the 64 bytes of a bundle. -/
theorem bits_low_six_eq_zero (v : Word) : (bits v 0 6 : BitVec 6) = 0 ↔ v.toNat % 64 = 0 := by
  rw [← BitVec.toNat_inj, bits, BitVec.extractLsb'_toNat]
  rfl

theorem bits_index (v : Word) : (bits v 6 12 : BitVec 12) = BitVec.ofNat 12 (v.toNat / 64) := by
  rw [← BitVec.toNat_inj, bits, BitVec.extractLsb'_toNat, BitVec.toNat_ofNat, Nat.shiftRight_eq_div_pow]

theorem State.jumpTo_good (s : State) (f : Focus) {v : Word} (low : v.toNat ≤ 0x3FFC0) (whole : v.toNat % 64 = 0) :
    s.jumpTo f v = { s with focus := some { f with jump := some (BitVec.ofNat 12 (v.toNat / 64)) } } := by
  have good : ¬((bits v 0 6 : BitVec 6) ≠ 0 ∨ v.toNat > 0x3FFC0) := by
    rw [ne_eq, bits_low_six_eq_zero]
    omega
  rw [State.jumpTo, if_neg good, bits_index]

theorem State.jumpTo_bad (s : State) (f : Focus) {v : Word} (bad : 0x3FFC0 < v.toNat ∨ v.toNat % 64 ≠ 0) :
    s.jumpTo f v = s.raise f 1 0x02 v := by
  rw [State.jumpTo, if_pos]
  rw [ne_eq, bits_low_six_eq_zero]
  exact bad.symm

/-! ### The step of a bundle's part (R347) -/

theorem coreOf_val (c : CoreId) : coreOf c.val = some c := dif_pos c.isLt

theorem State.sched_part {s : State} {c : CoreId} (h : s.phase = .part c.val) : s.sched = s.partMove c := by
  rw [State.sched, h]
  simp only [onCore, coreOf_val]

theorem step_decodeTrap {s : State} {f : Focus} {c : CoreId} (h : s.phase = .part c.val) (hf : s.focus = some f) (h0 : f.hdr = 0) (hd : f.done = 0)
    (ht : s.bundleTraps f ≠ []) : step s = exec .decodeTrap s := by
  have checks : f.hdr = 0 ∧ f.done = 0 ∧ !(s.bundleTraps f).isEmpty := ⟨h0, hd, by simpa using ht⟩
  have move : s.partMove c = .row .decodeTrap s := by
    simp only [State.partMove, hf, if_pos checks]
  rw [step, State.sched_part h, move]

theorem step_bundleStep {s : State} {f g : Focus} {i : Instr} {c : CoreId} (h : s.phase = .part c.val) (hf : s.focus = some f)
    (hc : ¬(f.hdr = 0 ∧ f.done = 0 ∧ s.bundleTraps f ≠ [])) (hb : s.bundleStep f = some (i, g)) :
    step s = exec i { s.noteRegs f i with focus := some g } := by
  have checks : ¬(f.hdr = 0 ∧ f.done = 0 ∧ !(s.bundleTraps f).isEmpty) := by simpa using hc
  have move : s.partMove c = .row i { s.noteRegs f i with focus := some g } := by
    simp only [State.partMove, hf, if_neg checks, hb]
  rw [step, State.sched_part h, move]

/-- Does a part of a bundle hold a form that is not done? -/
def Focus.owes (f : Focus) (p : Nat) : Bool :=
  !f.done.getLsbD p && match bundleOp f.word p with
    | .form _ => true
    | _ => false

theorem Focus.owes_iff {f : Focus} {p : Nat} : f.owes p = true ↔ f.done.getLsbD p = false ∧ ∃ i, bundleOp f.word p = .form i := by
  unfold Focus.owes
  cases bundleOp f.word p <;> simp

theorem Focus.not_owes_iff {f : Focus} {p : Nat} : f.owes p = false ↔ f.done.getLsbD p = true ∨ ∀ i, bundleOp f.word p ≠ .form i := by
  unfold Focus.owes
  cases bundleOp f.word p <;> simp

/-- The lowest part of a bundle that holds a form which is not done. -/
theorem Focus.find_owes {f : Focus} {p : Nat} (h : ([1, 2, 3, 4, 5, 6, 7, 8] : List Nat).find? f.owes = some p) :
    f.owes p = true ∧ ∀ q, 1 ≤ q → q < p → f.owes q = false := by
  obtain ⟨found, -, lower⟩ := (List.find?_range'_eq_some (s := 1) (n := 8)).mp h
  exact ⟨found, fun q h1 h2 => by simpa using lower q h1 h2⟩

/-- Past its header a bundle steps to its lowest part that is not done and holds a form. -/
theorem State.bundleStep_of_hdr {s : State} {f g : Focus} {i : Instr} (h : f.hdr = 3) (hb : s.bundleStep f = some (i, g)) :
    bundleOp f.word g.part = .form i ∧ f.done.getLsbD g.part = false ∧
      (∀ p, 1 ≤ p → p < g.part → f.done.getLsbD p = true ∨ ∀ j, bundleOp f.word p ≠ .form j) ∧
      g = { f with part := g.part, exempt := (if g.part = f.part then f.exempt else 0), done := g.done } := by
  have step : s.bundleStep f = (([1, 2, 3, 4, 5, 6, 7, 8] : List Nat).find? f.owes).bind fun p =>
      match bundleOp f.word p with
      | .form i => some (i, { f with hdr := 3, part := p, exempt := if p = f.part then f.exempt else 0, done := (f.done ||| 1) ||| BitVec.ofNat 9 (2 ^ (p + 1) - 1) })
      | _ => none := by
    cases f
    cases h
    rfl
  rw [step, Option.bind_eq_some_iff] at hb
  obtain ⟨p, found, at_p⟩ := hb
  obtain ⟨owed, lower⟩ := Focus.find_owes found
  obtain ⟨open_, j, hj⟩ := Focus.owes_iff.mp owed
  rw [hj] at at_p
  injection at_p with at_p
  injection at_p with hi hg
  subst hi hg
  exact ⟨hj, open_, fun q h1 h2 => Focus.not_owes_iff.mp (lower q h1 h2), by rw [h]⟩

/-! ### The checks of a bundle (R92) -/

theorem State.bundleTraps_of_bad {s : State} {f : Focus} {p : Nat} (h : s.bundleBad f = some p) : s.bundleTraps f = [(p, 0x01, 0)] := by
  rw [State.bundleTraps, h]

theorem State.bundleBad_of_header {s : State} {f : Focus} (h : headerBad f.word = true ∨ literalsBad f.word = true ∨ s.contextBad f = true) :
    s.bundleBad f = some 0 := by
  rw [State.bundleBad, if_pos]
  simpa [or_assoc] using h

/-- Where header and literals pass, the lowest part that fails its check is named. -/
theorem State.bundleBad_of_slot {s : State} {f : Focus} {p : Nat} (hh : headerBad f.word = false) (hl : literalsBad f.word = false)
    (hc : s.contextBad f = false) (h1 : 1 ≤ p) (h8 : p ≤ 8) (bad : s.slotBad f p = true) (lower : ∀ q, 1 ≤ q → q < p → s.slotBad f q = false) :
    s.bundleBad f = some p := by
  have found : ([1, 2, 3, 4, 5, 6, 7, 8] : List Nat).find? (fun p => s.slotBad f p) = some p :=
    (List.find?_range'_eq_some (s := 1) (n := 8)).mpr
      ⟨bad, List.mem_range'_1.mpr ⟨h1, by omega⟩, fun q hq hqp => by rw [lower q hq hqp]; rfl⟩
  rw [State.bundleBad, hh, hl, hc]
  exact found

/-- A part that fails its check is named, or one before it. -/
theorem State.bundleBad_le {s : State} {f : Focus} {p : Nat} (h1 : 1 ≤ p) (h8 : p ≤ 8) (bad : s.slotBad f p = true) :
    ∃ q ≤ p, s.bundleBad f = some q := by
  by_cases header : headerBad f.word = true ∨ literalsBad f.word = true ∨ s.contextBad f = true
  · exact ⟨0, Nat.zero_le p, State.bundleBad_of_header header⟩
  · simp only [not_or, Bool.not_eq_true] at header
    obtain ⟨hh, hl, hc⟩ := header
    induction p using Nat.strongRecOn with
    | ind p ih =>
      by_cases lower : ∃ q, q < p ∧ 1 ≤ q ∧ s.slotBad f q = true
      · obtain ⟨q, below, q1, q_bad⟩ := lower
        obtain ⟨r, r_le, named⟩ := ih q below q1 (by omega) q_bad
        exact ⟨r, by omega, named⟩
      · have sound : ∀ q, 1 ≤ q → q < p → s.slotBad f q = false := fun q q1 below => Bool.eq_false_iff.mpr fun q_bad => lower ⟨q, below, q1, q_bad⟩
        exact ⟨p, Nat.le_refl p, State.bundleBad_of_slot hh hl hc h1 h8 bad sound⟩

theorem exec_decodeTrap {s : State} {f : Focus} (hf : s.focus = some f) (h : s.bundleTraps f ≠ []) :
    exec .decodeTrap s = .next { (s.bundleTraps f).foldl (fun s x => s.raise f x.1 x.2.1 x.2.2) s with focus := none } := by
  change execDecodeTrap s = _
  simp only [execDecodeTrap, hf]
  rw [if_neg]
  simpa using h

theorem exec_decodeTrap_of_bad {s : State} {f : Focus} {p : Nat} (hf : s.focus = some f) (h : s.bundleBad f = some p) :
    exec .decodeTrap s = .next { s.raise f p 0x01 0 with focus := none } := by
  have traps := State.bundleTraps_of_bad h
  rw [exec_decodeTrap hf (by simp [traps]), traps]
  rfl

/-- A bundle that fails its checks raises trap 0x01 with the part that they name. -/
theorem step_of_bundleBad {s : State} {f : Focus} {c : CoreId} {p : Nat} (h : s.phase = .part c.val) (hf : s.focus = some f) (h0 : f.hdr = 0)
    (hd : f.done = 0) (bad : s.bundleBad f = some p) : step s = .next { s.raise f p 0x01 0 with focus := none } := by
  rw [step_decodeTrap h hf h0 hd (by simp [State.bundleTraps_of_bad bad]), exec_decodeTrap_of_bad hf bad]

theorem State.slotBad_of_illegal {s : State} {f : Focus} {p : Nat} (h : decodeSlot (bundleSlot f.word p) = .illegal) : s.slotBad f p = true := by
  have op : bundleOp f.word p = .illegal := h
  rw [State.slotBad, op]

/-! ### The header rows (R109, R251, R316, R332) -/

/-- What a checkpoint makes of its context (R175, R316). -/
def Ctx.checkpointed (x : Ctx) (cyc now : Nat) (idx : BitVec 12) (opens : List Dest) : Ctx :=
  { x with
    ck := x.copy cyc now idx opens
    lastCk := some cyc
    lateFl := 0
    wh := x.wh.map fun e => if e.rel.isNone then { e with rel := some (cyc + 2) } else e }

theorem Core.checkpoint_ctx (k : Core) (now : Nat) (i : CtxId) (idx : BitVec 12) (opens : List Dest) :
    (k.checkpoint now i idx opens).ctx i = (k.ctx i).checkpointed k.cyc now idx opens := by
  have ctxs : (k.checkpoint now i idx opens).ctxs = (k.modCtx i fun x => x.checkpointed k.cyc now idx opens).ctxs := by
    unfold Core.checkpoint
    dsimp only
    split <;> rfl
  rw [Core.ctx_of ctxs, Core.ctx_modCtx]

theorem Core.checkpoint_mforms (k : Core) (now : Nat) (i : CtxId) (idx : BitVec 12) (opens : List Dest) :
    (k.checkpoint now i idx opens).mforms = k.mforms := by
  unfold Core.checkpoint
  dsimp only
  split <;> rfl

/-- A change that keeps the launch key changes the record that the key names. -/
theorem Core.lc_modLc (k : Core) (lk : Nat) {g : LaunchCore → LaunchCore} (hg : ∀ l, (g l).lk = l.lk) : (k.modLc lk g).lc lk = (k.lc lk).map g := by
  have keys : (fun l : LaunchCore => l.lk == lk) ∘ (fun l => if l.lk = lk then g l else l) = fun l => l.lk == lk := by
    funext l
    simp only [Function.comp]
    split <;> simp [hg]
  rw [Core.lc, Core.lc, Core.modLc, List.find?_map, keys]
  cases found : k.lcs.find? fun l => l.lk == lk with
  | none => rfl
  | some l =>
    have key : l.lk = lk := by simpa using List.find?_some found
    simp [key]

theorem Core.lcOf_modLc {k : Core} {i : CtxId} {lk : Nat} (h : (k.ctx i).lk = some lk) {g : LaunchCore → LaunchCore} (hg : ∀ l, (g l).lk = l.lk) :
    (k.modLc lk g).lcOf i = (k.lcOf i).map g := by
  rw [Core.lcOf, Core.lcOf, Core.modLc_ctx, h]
  exact Core.lc_modLc k lk hg

theorem Core.lcOf_key {k : Core} {i : CtxId} {l : LaunchCore} (h : k.lcOf i = some l) : (k.ctx i).lk = some l.lk := by
  unfold Core.lcOf at h
  obtain ⟨lk, hlk, found⟩ := Option.bind_eq_some_iff.mp h
  have key : l.lk = lk := by simpa using List.find?_some found
  rw [hlk, key]

/-- The record of a context's launch depends on the contexts and the records alone. -/
theorem Core.lcOf_of {k l : Core} {i : CtxId} (hc : (l.ctx i).lk = (k.ctx i).lk) (hl : l.lcs = k.lcs) : l.lcOf i = k.lcOf i := by
  unfold Core.lcOf Core.lc
  rw [hc, hl]

theorem Core.checkpoint_lcOf (k : Core) (now : Nat) (i : CtxId) (idx : BitVec 12) (opens : List Dest) :
    (k.checkpoint now i idx opens).lcOf i = (k.lcOf i).map fun l => l.commit i := by
  have committed : ∀ k' : Core, k'.lcs = k.lcs → (k'.ctx i).lk = (k.ctx i).lk →
      (match (k'.ctx i).lk with | some lk => k'.modLc lk fun l => l.commit i | none => k').lcOf i = (k.lcOf i).map fun l => l.commit i := by
    intro k' records key
    rw [← Core.lcOf_of key records]
    split
    · next lk h => exact Core.lcOf_modLc h fun _ => rfl
    · next h => simp [Core.lcOf, h]
  have key := congrArg Ctx.lk (Core.ctx_modCtx k i fun x => x.checkpointed k.cyc now idx opens)
  exact committed _ rfl key

/-- A commit moves no name to or from those that a yield point releases (R197, R199). -/
theorem LaunchCore.commit_ypNames (l : LaunchCore) (c : CtxId) : (l.commit c).ypNames c = l.ypNames c := by
  unfold LaunchCore.ypNames
  congr 1
  funext n
  split
  · next h =>
    by_cases held : l.holder[n] = some c <;> simp [LaunchCore.commit, held]
  · rfl

theorem LaunchCore.foldl_lk {g : LaunchCore → Nat → LaunchCore} (hg : ∀ l n, (g l n).lk = l.lk) (ns : List Nat) (l : LaunchCore) :
    (ns.foldl g l).lk = l.lk := by
  induction ns generalizing l with
  | nil => rfl
  | cons n ns ih => exact (ih _).trans (hg l n)

theorem LaunchCore.relNames_lk (l : LaunchCore) (c : CtxId) (ns : List Nat) : (l.relNames c ns).lk = l.lk := by
  refine (LaunchCore.foldl_lk (fun l n => ?_) ns _).trans (LaunchCore.foldl_lk (fun l n => ?_) ns l)
  · split <;> rfl
  · rfl

theorem Core.checkpoint_rowsOwed (k : Core) (now : Nat) (i : CtxId) (idx : BitVec 12) (opens : List Dest) :
    (k.checkpoint now i idx opens).rowsOwed i = k.rowsOwed i := by
  unfold Core.rowsOwed
  rw [Core.checkpoint_lcOf]
  cases k.lcOf i with
  | none => rfl
  | some l =>
    simp only [Option.map_some, Option.any_some, LaunchCore.commit_ypNames, Core.toLand, Core.checkpoint_mforms]
    rfl

section
variable {s : State} {f : Focus} (hf : s.focus = some f)
include hf

theorem exec_loopEndCount (h1 : f.hdr = 1) (counts : s.counts f = true) :
    exec .loopEndCount s = .next ((s.modCtx f.core f.ctx fun x => { x with loops := (countAt f.idx (s.ctx f.core f.ctx).loops).1 }).modFocus fun g =>
      { g with lr := (countAt f.idx (s.ctx f.core f.ctx).loops).2, hdr := 2 }) := by
  change execLoopEndCount s = _
  simp [execLoopEndCount, hf, h1, counts]

theorem State.takeCheckpoint_focus : (s.takeCheckpoint f).focus = some { f with hdr := 1, done := f.done ||| 1 } := by
  change s.focus.map _ = _
  rw [hf]
  rfl

theorem exec_checkpoint (h0 : f.hdr = 0) (hck : hdrCK f.word = true) :
    exec .checkpoint s = .next (if s.yieldFails f then s.yieldTrap f else s.takeCheckpoint f) := by
  change execCheckpoint s = _
  simp [execCheckpoint, hf, h0, hck]

theorem exec_yieldPoint_of_fails (h0 : f.hdr = 0) (hy : s.yields f = true) (fails : s.yieldFails f = true) :
    exec .yieldPoint s = .next (s.yieldTrap f) := by
  change execYieldPoint s = _
  simp [execYieldPoint, hf, h0, hy, fails]

/-- A yield point whose bundle meets nothing outstanding releases the names and waits (R332). -/
theorem exec_yieldPoint (h0 : f.hdr = 0) (hy : s.yields f = true) (fails : s.yieldFails f = false) :
    ∃ u : State, u.cores = (((s.takeCheckpoint f).yieldRelease f).modCtx f.core f.ctx fun x => { x with st := .waiting, wait := .yield }).cores ∧
      u.skips = ((s.takeCheckpoint f).yieldRelease f).skips ∧ u.focus = ((s.takeCheckpoint f).yieldRelease f).focus ∧
      exec .yieldPoint s = .next (u.modFocus fun g => { g with yield := true, hdr := 3, done := 0x1FF, part := 9 }) := by
  refine ⟨_, ?_, ?_, ?_, (show execYieldPoint s = _ by simp only [execYieldPoint, hf, h0, hy, fails]; rfl)⟩
  · rfl
  · rfl
  · rfl

end

/-- A yield point that meets nothing outstanding has no row owed (R199, R251). -/
theorem State.rowsOwed_of_yields {s : State} {f : Focus} (hy : s.yields f = true) (fails : s.yieldFails f = false) :
    (s.core f.core).rowsOwed f.ctx = false := by
  have yp : hdrYP f.word = true := by
    simp only [State.yields, Bool.and_eq_true] at hy
    exact hy.1.1
  simp only [State.yieldFails, yp, Bool.true_and, Bool.or_eq_false_iff] at fails
  exact fails.2

theorem State.settleClaims_core (s : State) (c d : CoreId) (i : CtxId) : (s.settleClaims c i).core d = s.core d := rfl

theorem State.takeCheckpoint_core (s : State) (f : Focus) :
    (s.takeCheckpoint f).core f.core = (s.core f.core).checkpoint s.now f.ctx f.idx (s.openDests f.core f.ctx) := by
  rw [State.takeCheckpoint, State.modFocus_core, State.core_modCore, State.settleClaims_core]

/-- What a yield point gives up of a launch: the names that its context holds; face and tables are to be loaded again (R190, R199, R222). -/
def LaunchCore.yielded (l : LaunchCore) (i : CtxId) : LaunchCore := { l.relNames i (l.ypNames i) with stale := true, tblStale := 15 }

theorem LaunchCore.yielded_lk (l : LaunchCore) (i : CtxId) : (l.yielded i).lk = l.lk := LaunchCore.relNames_lk l _ _

theorem State.yieldRelease_of_none {s : State} {f : Focus} (h : (s.core f.core).lcOf f.ctx = none) : s.yieldRelease f = s := by
  simp only [State.yieldRelease, h]

theorem State.yieldRelease_of_some {s : State} {f : Focus} {l : LaunchCore} (h : (s.core f.core).lcOf f.ctx = some l)
    (owed : (s.core f.core).rowsOwed f.ctx = false) : s.yieldRelease f = s.modCore f.core fun k => k.modLc l.lk fun l => l.yielded f.ctx := by
  simp only [State.yieldRelease, h, owed]
  rfl

section
variable {s : State} {f : Focus} (owed : (s.core f.core).rowsOwed f.ctx = false)
include owed

theorem State.yieldRelease_ctx : (s.yieldRelease f).ctx f.core f.ctx = s.ctx f.core f.ctx := by
  cases h : (s.core f.core).lcOf f.ctx with
  | none => rw [State.yieldRelease_of_none h]
  | some l => simp [State.yieldRelease_of_some h owed, State.ctx]

theorem State.yieldRelease_skips : (s.yieldRelease f).skips = s.skips := by
  cases h : (s.core f.core).lcOf f.ctx with
  | none => rw [State.yieldRelease_of_none h]
  | some l => rw [State.yieldRelease_of_some h owed, State.modCore_skips]

theorem State.yieldRelease_focus : (s.yieldRelease f).focus = s.focus := by
  cases h : (s.core f.core).lcOf f.ctx with
  | none => rw [State.yieldRelease_of_none h]
  | some l => rw [State.yieldRelease_of_some h owed, State.modCore_focus]

theorem State.yieldRelease_lcOf : ((s.yieldRelease f).core f.core).lcOf f.ctx = ((s.core f.core).lcOf f.ctx).map fun l => l.yielded f.ctx := by
  cases h : (s.core f.core).lcOf f.ctx with
  | none => rw [State.yieldRelease_of_none h, h]; rfl
  | some l =>
    rw [State.yieldRelease_of_some h owed, State.core_modCore, Core.lcOf_modLc (Core.lcOf_key h) fun l => l.yielded_lk _, h]

end

end Sys2Proof.Machine

open Sys2Proof Sys2Proof.Machine in
/-- Settles O3: the move of the bundle in issue runs the row that `bundleStep` names, which past the header is the form of the lowest part not done. -/
theorem stepRunsTheDecodedForm : Obligations.StepRunsTheDecodedForm :=
  fun _ _ _ _ _ phase focus checked next => ⟨step_bundleStep phase focus checked next, fun hdr => State.bundleStep_of_hdr hdr next⟩

open Sys2Proof Sys2Proof.Machine in
/-- Settles O4: a slot without a form fails its check, so the checks name it or what fails before it. -/
theorem undecodableSlotTraps : Obligations.UndecodableSlotTraps := by
  intro s f c p phase focus hdr done h1 h8 illegal
  have bad : s.slotBad f p = true := State.slotBad_of_illegal illegal
  refine ⟨fun hh hl hc lower => ?_, fun header => ?_, ?_⟩
  · exact step_of_bundleBad phase focus hdr done (State.bundleBad_of_slot hh hl hc h1 h8 bad lower)
  · exact step_of_bundleBad phase focus hdr done (State.bundleBad_of_header header)
  · obtain ⟨q, hq, named⟩ := State.bundleBad_le h1 h8 bad
    exact ⟨q, hq, named, step_of_bundleBad phase focus hdr done named⟩

open Sys2Proof Sys2Proof.Machine in
/-- Settles O37, row by row. At a yield point the commit of its checkpoint changes no name that it releases, so no row is owed there. -/
theorem issueRows : Obligations.IssueRows := by
  intro s f hf k
  have taken := s.takeCheckpoint_core f
  refine ⟨fun p bad => exec_decodeTrap_of_bad hf bad, fun _ traps => exec_decodeTrap hf traps, fun h0 hck fails => ?_, fun h0 hck fails => ?_,
    fun h0 hy fails => ?_, fun h0 hy fails => ?_, fun h1 counts => ?_⟩
  · have ctx : (s.takeCheckpoint f).ctx f.core f.ctx = (s.ctx f.core f.ctx).checkpointed (s.core f.core).cyc s.now f.idx (s.openDests f.core f.ctx) := by
      rw [State.ctx, taken, Core.checkpoint_ctx]
      rfl
    refine ⟨s.takeCheckpoint f, by rw [exec_checkpoint hf h0 hck, if_neg (by simp [fails])], taken, rfl, by rw [ctx]; rfl, ?_, State.takeCheckpoint_focus hf⟩
    rw [ctx]
    simp only [Ctx.checkpointed, Option.isNone_iff_eq_none]
  · rw [exec_checkpoint hf h0 hck, if_pos fails]
    rfl
  · exact exec_yieldPoint_of_fails hf h0 hy fails
  · obtain ⟨u, cores, skips, focus, ran⟩ := exec_yieldPoint hf h0 hy fails
    have owed : ((s.takeCheckpoint f).core f.core).rowsOwed f.ctx = false := by
      rw [taken, Core.checkpoint_rowsOwed]
      exact State.rowsOwed_of_yields hy fails
    refine ⟨_, ran, ?_, ?_, ?_, ?_⟩
    · rw [State.modFocus_ctx, State.ctx_of cores, State.ctx_modCtx, State.yieldRelease_ctx owed, State.ctx, taken]
    · have waits : (u.core f.core).lcOf f.ctx = (((s.takeCheckpoint f).yieldRelease f).core f.core).lcOf f.ctx := by
        rw [State.core_of cores, State.modCtx, State.core_modCore]
        have key := congrArg Ctx.lk (Core.ctx_modCtx (((s.takeCheckpoint f).yieldRelease f).core f.core) f.ctx fun x => { x with st := .waiting, wait := .yield })
        exact Core.lcOf_of key rfl
      rw [State.modFocus_core, waits, State.yieldRelease_lcOf owed, taken]
      rfl
    · exact skips.trans (State.yieldRelease_skips owed)
    · change u.focus.map _ = _
      rw [focus, State.yieldRelease_focus owed, State.takeCheckpoint_focus hf]
      rfl
  · refine ⟨_, exec_loopEndCount hf h1 counts, ?_, ?_⟩
    · rw [State.modFocus_ctx, State.ctx_modCtx]
    · change s.focus.map _ = _
      rw [hf]
      rfl

open Sys2Proof Sys2Proof.Machine in
/-- Settles O40: the index after a bundle counts modulo 4,096, and a target is good when it is the byte value of an index. -/
theorem sequentialFetchAndTargets : Obligations.SequentialFetchAndTargets := by
  refine ⟨fun x f hp hl => ?_, fun s f v => ⟨s.jumpTo_good f, s.jumpTo_bad f⟩⟩
  rw [Ctx.nextIndex_pc_of_none f hp, hl, BitVec.toNat_add]
  rfl

open Sys2Proof Sys2Proof.Machine in
/-- Settles O41: the target is pending while the delay bundle performs, and a pending target goes before any loop redirect. -/
theorem delayBundle : Obligations.DelayBundle := by
  intro x f g t hp hj
  have pending : (x.nextIndex f).pending = some t := hj
  exact ⟨Ctx.nextIndex_pc_of_none f hp, pending, Ctx.nextIndex_pc_of_some g pending, Ctx.nextIndex_pending _ g⟩

end

section
/-!
PROOFS. What a slot form keeps of the registers when it issues (R74).
-/

namespace Sys2Proof.Machine

/-- What the form of a part keeps at issue: all registers of every context, but for the draws of its own context in the vector and matrix slots and the loop stack and DEBT of its own context in the sync slot (R74, R109, R120, R246). -/
def State.keepsByPart (f : Focus) (s t : State) : Nat → Prop
  | 2 | 3 | 4 => s.drawsOnly f t
  | 8 => s.loopsOnly f t
  | _ => s.sameRegs t

theorem State.keepsByPart.of_drawsOnly {f : Focus} {s t : State} {v1 : Bool} (h : s.drawsOnly f t) : s.keepsByPart f t (if v1 then 3 else 2) := by
  cases v1 <;> exact h

/-- A slot form keeps what its part says. -/
theorem exec_slot_keepsByPart {i : Instr} {s t : State} {f : Focus} (slot : partOf i ≠ 0) (hf : s.focus = some f) (h : exec i s = .next t) : s.keepsByPart f t (partOf i) := by
  cases i with
  | lui => exact execLui_regs _ _ s t f hf h
  | auipc => exact execAuipc_regs _ _ s t f hf h
  | jal => exact execJal_regs _ _ s t f hf h
  | jalr => exact execJalr_regs _ _ _ s t f hf h
  | beq => exact execBeq_regs _ _ _ s t f hf h
  | bne => exact execBne_regs _ _ _ s t f hf h
  | blt => exact execBlt_regs _ _ _ s t f hf h
  | bge => exact execBge_regs _ _ _ s t f hf h
  | bltu => exact execBltu_regs _ _ _ s t f hf h
  | bgeu => exact execBgeu_regs _ _ _ s t f hf h
  | lb => exact execLb_regs _ _ _ s t f hf h
  | lh => exact execLh_regs _ _ _ s t f hf h
  | lw => exact execLw_regs _ _ _ s t f hf h
  | ldd => exact execLdd_regs _ _ _ s t f hf h
  | lbu => exact execLbu_regs _ _ _ s t f hf h
  | lhu => exact execLhu_regs _ _ _ s t f hf h
  | lwu => exact execLwu_regs _ _ _ s t f hf h
  | sb => exact execSb_regs _ _ _ s t f hf h
  | shh => exact execShh_regs _ _ _ s t f hf h
  | sw => exact execSw_regs _ _ _ s t f hf h
  | sd => exact execSd_regs _ _ _ s t f hf h
  | addi => exact execAddi_regs _ _ _ s t f hf h
  | slti => exact execSlti_regs _ _ _ s t f hf h
  | sltiu => exact execSltiu_regs _ _ _ s t f hf h
  | xori => exact execXori_regs _ _ _ s t f hf h
  | ori => exact execOri_regs _ _ _ s t f hf h
  | andi => exact execAndi_regs _ _ _ s t f hf h
  | slli => exact execSlli_regs _ _ _ s t f hf h
  | srli => exact execSrli_regs _ _ _ s t f hf h
  | srai => exact execSrai_regs _ _ _ s t f hf h
  | add => exact execAdd_regs _ _ _ s t f hf h
  | sub => exact execSub_regs _ _ _ s t f hf h
  | sll => exact execSll_regs _ _ _ s t f hf h
  | slt => exact execSlt_regs _ _ _ s t f hf h
  | sltu => exact execSltu_regs _ _ _ s t f hf h
  | xorR => exact execXorR_regs _ _ _ s t f hf h
  | srl => exact execSrl_regs _ _ _ s t f hf h
  | sra => exact execSra_regs _ _ _ s t f hf h
  | orR => exact execOrR_regs _ _ _ s t f hf h
  | andR => exact execAndR_regs _ _ _ s t f hf h
  | mul => exact execMul_regs _ _ _ s t f hf h
  | mulh => exact execMulh_regs _ _ _ s t f hf h
  | mulhsu => exact execMulhsu_regs _ _ _ s t f hf h
  | mulhu => exact execMulhu_regs _ _ _ s t f hf h
  | div => exact execDiv_regs _ _ _ s t f hf h
  | divu => exact execDivu_regs _ _ _ s t f hf h
  | rem => exact execRem_regs _ _ _ s t f hf h
  | remu => exact execRemu_regs _ _ _ s t f hf h
  | addiw => exact execAddiw_regs _ _ _ s t f hf h
  | slliw => exact execSlliw_regs _ _ _ s t f hf h
  | srliw => exact execSrliw_regs _ _ _ s t f hf h
  | sraiw => exact execSraiw_regs _ _ _ s t f hf h
  | addw => exact execAddw_regs _ _ _ s t f hf h
  | subw => exact execSubw_regs _ _ _ s t f hf h
  | sllw => exact execSllw_regs _ _ _ s t f hf h
  | srlw => exact execSrlw_regs _ _ _ s t f hf h
  | sraw => exact execSraw_regs _ _ _ s t f hf h
  | mulw => exact execMulw_regs _ _ _ s t f hf h
  | divw => exact execDivw_regs _ _ _ s t f hf h
  | divuw => exact execDivuw_regs _ _ _ s t f hf h
  | remw => exact execRemw_regs _ _ _ s t f hf h
  | remuw => exact execRemuw_regs _ _ _ s t f hf h
  | nopY => exact execNopY_regs s t f hf h
  | loop => exact execLoop_regs _ _ s t f hf h
  | loopx => exact execLoopx_regs _ _ s t f hf h
  | lbrk => exact execLbrk_regs _ s t f hf h
  | lbrkU => exact execLbrkU_regs s t f hf h
  | bankAcq => exact execBankAcq_regs _ s t f hf h
  | bankRel => exact execBankRel_regs _ s t f hf h
  | bar => exact execBar_regs _ _ s t f hf h
  | guard => exact execGuard_regs _ s t f hf h
  | fence => exact execFence_regs _ _ s t f hf h
  | bankTst => exact execBankTst_regs _ _ _ s t f hf h
  | haulBoard => exact execHaulBoard_regs _ _ _ s t f hf h
  | haulAlight => exact execHaulAlight_regs _ _ _ s t f hf h
  | haulLd => exact execHaulLd_regs _ _ _ s t f hf h
  | haulSt => exact execHaulSt_regs _ _ _ _ s t f hf h
  | haulOp => exact execHaulOp_regs _ _ _ _ _ _ _ s t f hf h
  | haulXchg => exact execHaulXchg_regs _ _ _ _ _ s t f hf h
  | haulCas => exact execHaulCas_regs _ _ _ _ _ s t f hf h
  | haulLse => exact execHaulLse_regs _ _ _ _ _ s t f hf h
  | haulBar => exact execHaulBar_regs _ _ _ s t f hf h
  | haulPass => exact execHaulPass_regs _ _ _ s t f hf h
  | codeLock => exact execCodeLock_regs _ _ _ s t f hf h
  | codeLockW => exact execCodeLockW_regs _ _ _ s t f hf h
  | codeUnlock => exact execCodeUnlock_regs _ s t f hf h
  | sysrd => exact execSysrd_regs _ _ _ s t f hf h
  | syswr => exact execSyswr_regs _ _ s t f hf h
  | trap => exact execTrap_regs _ s t f hf h
  | ebrk => exact execEbrk_regs s t f hf h
  | endCtx => exact execEndCtx_regs s t f hf h
  | vadd => exact .of_drawsOnly (execVadd_regs _ s t f hf h)
  | vsub => exact .of_drawsOnly (execVsub_regs _ s t f hf h)
  | vmul => exact .of_drawsOnly (execVmul_regs _ s t f hf h)
  | vfma => exact .of_drawsOnly (execVfma_regs _ s t f hf h)
  | vfms => exact .of_drawsOnly (execVfms_regs _ s t f hf h)
  | vfnma => exact .of_drawsOnly (execVfnma_regs _ s t f hf h)
  | vmax => exact .of_drawsOnly (execVmax_regs _ s t f hf h)
  | vmin => exact .of_drawsOnly (execVmin_regs _ s t f hf h)
  | vabs => exact .of_drawsOnly (execVabs_regs _ s t f hf h)
  | vneg => exact .of_drawsOnly (execVneg_regs _ s t f hf h)
  | vaddsat => exact .of_drawsOnly (execVaddsat_regs _ s t f hf h)
  | vsubsat => exact .of_drawsOnly (execVsubsat_regs _ s t f hf h)
  | vmulhi => exact .of_drawsOnly (execVmulhi_regs _ s t f hf h)
  | vand => exact .of_drawsOnly (execVand_regs _ s t f hf h)
  | vor => exact .of_drawsOnly (execVor_regs _ s t f hf h)
  | vxor => exact .of_drawsOnly (execVxor_regs _ s t f hf h)
  | vnot => exact .of_drawsOnly (execVnot_regs _ s t f hf h)
  | vshl => exact .of_drawsOnly (execVshl_regs _ s t f hf h)
  | vshr => exact .of_drawsOnly (execVshr_regs _ s t f hf h)
  | vsra => exact .of_drawsOnly (execVsra_regs _ s t f hf h)
  | vcmp => exact .of_drawsOnly (execVcmp_regs _ s t f hf h)
  | vsel => exact .of_drawsOnly (execVsel_regs _ s t f hf h)
  | mand => exact .of_drawsOnly (execMand_regs _ s t f hf h)
  | mor => exact .of_drawsOnly (execMor_regs _ s t f hf h)
  | mxor => exact .of_drawsOnly (execMxor_regs _ s t f hf h)
  | mnot => exact .of_drawsOnly (execMnot_regs _ s t f hf h)
  | mpop => exact .of_drawsOnly (execMpop_regs _ s t f hf h)
  | mfirst => exact .of_drawsOnly (execMfirst_regs _ s t f hf h)
  | vcvt => exact .of_drawsOnly (execVcvt_regs _ s t f hf h)
  | vnarrow => exact .of_drawsOnly (execVnarrow_regs _ s t f hf h)
  | vwiden => exact .of_drawsOnly (execVwiden_regs _ s t f hf h)
  | vmxq => exact .of_drawsOnly (execVmxq_regs _ s t f hf h)
  | vmxd => exact .of_drawsOnly (execVmxd_regs _ s t f hf h)
  | vperm => exact .of_drawsOnly (execVperm_regs _ s t f hf h)
  | vrot => exact .of_drawsOnly (execVrot_regs _ s t f hf h)
  | vbcast => exact .of_drawsOnly (execVbcast_regs _ s t f hf h)
  | vslide => exact .of_drawsOnly (execVslide_regs _ s t f hf h)
  | vzip => exact .of_drawsOnly (execVzip_regs _ s t f hf h)
  | vunzip => exact .of_drawsOnly (execVunzip_regs _ s t f hf h)
  | viota => exact .of_drawsOnly (execViota_regs _ s t f hf h)
  | vredsum => exact .of_drawsOnly (execVredsum_regs _ s t f hf h)
  | vredmax => exact .of_drawsOnly (execVredmax_regs _ s t f hf h)
  | vredmin => exact .of_drawsOnly (execVredmin_regs _ s t f hf h)
  | vscan => exact .of_drawsOnly (execVscan_regs _ s t f hf h)
  | vscanmax => exact .of_drawsOnly (execVscanmax_regs _ s t f hf h)
  | vfill => exact .of_drawsOnly (execVfill_regs _ s t f hf h)
  | vext => exact .of_drawsOnly (execVext_regs _ s t f hf h)
  | vins => exact .of_drawsOnly (execVins_regs _ s t f hf h)
  | vmov => exact .of_drawsOnly (execVmov_regs _ s t f hf h)
  | vexp2 => exact .of_drawsOnly (execVexp2_regs _ s t f hf h)
  | vlog2 => exact .of_drawsOnly (execVlog2_regs _ s t f hf h)
  | vrcp => exact .of_drawsOnly (execVrcp_regs _ s t f hf h)
  | vrsqrt => exact .of_drawsOnly (execVrsqrt_regs _ s t f hf h)
  | vclass => exact .of_drawsOnly (execVclass_regs _ s t f hf h)
  | vrank => exact .of_drawsOnly (execVrank_regs _ s t f hf h)
  | vrecon => exact .of_drawsOnly (execVrecon_regs _ s t f hf h)
  | vrtab => exact .of_drawsOnly (execVrtab_regs _ s t f hf h)
  | mcfg => exact execMcfg_regs _ s t f hf h
  | mwld => exact execMwld_regs _ s t f hf h
  | mwbank => exact execMwbank_regs _ s t f hf h
  | msc => exact execMsc_regs _ s t f hf h
  | mma => exact execMma_regs _ s t f hf h
  | mmaR => exact execMmaR_regs _ s t f hf h
  | mmaT => exact execMmaT_regs _ s t f hf h
  | mmr => exact execMmr_regs _ s t f hf h
  | matt => exact execMatt_regs _ s t f hf h
  | mxt => exact execMxt_regs _ s t f hf h
  | mdr => exact execMdr_regs _ s t f hf h
  | mrel => exact execMrel_regs _ s t f hf h
  | vld => exact execVld_regs _ s t f hf h
  | vldb => exact execVldb_regs _ s t f hf h
  | vlds => exact execVlds_regs _ s t f hf h
  | vldm => exact execVldm_regs _ s t f hf h
  | vldh => exact execVldh_regs _ s t f hf h
  | ldtag => exact execLdtag_regs _ s t f hf h
  | vst => exact execVst_regs _ s t f hf h
  | vstm => exact execVstm_regs _ s t f hf h
  | vsts => exact execVsts_regs _ s t f hf h
  | vsth => exact execVsth_regs _ s t f hf h
  | tzero => exact execTzero_regs _ s t f hf h
  | amo => exact execAmo_regs _ s t f hf h
  | amoCas => exact execAmoCas_regs _ s t f hf h
  | cp => exact execCp_regs _ s t f hf h
  | cpRed => exact execCpRed_regs _ s t f hf h
  | rwr => exact execRwr_regs _ s t f hf h
  | rrd => exact execRrd_regs _ s t f hf h
  | ramo => exact execRamo_regs _ s t f hf h
  | xlat => exact execXlat_regs _ s t f hf h
  | gld => exact execGld_regs _ s t f hf h
  | gst => exact execGst_regs _ s t f hf h
  | gatom => exact execGatom_regs _ s t f hf h
  | mcast => exact execMcast_regs _ s t f hf h
  | lnkRun => exact execLnkRun_regs _ s t f hf h
  | lnkSel => exact execLnkSel_regs _ s t f hf h
  | _ => exact absurd rfl slot

end Sys2Proof.Machine

open Sys2Proof Sys2Proof.Machine in
/-- Settles O59: each part has its own exceptions, and every form keeps to those of its part. -/
theorem registerFormsFrame : Obligations.RegisterFormsFrame := by
  intro s t f i hf h
  have keeps : ∀ {p}, partOf i = p → p ≠ 0 → s.keepsByPart f t p := fun hp h0 => hp ▸ exec_slot_keepsByPart (hp ▸ h0) hf h
  refine ⟨?_, ?_, fun hp => keeps hp (by decide)⟩
  · rintro (hp | hp | hp | hp) <;> exact keeps hp (by decide)
  · rintro (hp | hp | hp) <;> exact keeps hp (by decide)

end

section
/-!
PROOFS. Vector forms of the element, conversion and permute tables (R147 to R165).
-/

namespace Sys2Proof.Machine

/-- An admitted vector form with a v result performs: its result is on its way after its latency (R144). -/
theorem vecForm_go {i : Instr} {name : String} {o : VOps} {lat : Nat} {run : VIn → VOut} {s : State} {f : Focus} (h : s.admits f i) :
    vecForm i name o lat run s = .next (s.resultV f o lat (vUnit o) (run (s.vin f o))) :=
  slotGo_go name _ h

end Sys2Proof.Machine

open Sys2Proof Sys2Proof.Machine in
/-- Settles O19: each form is the vector form of its function and latency. -/
theorem vectorArithmeticForms : Obligations.VectorArithmeticForms := fun _ _ _ =>
  ⟨vecForm_go, vecForm_go, vecForm_go, vecForm_go, vecForm_go, vecForm_go, vecForm_go, vecForm_go, vecForm_go, vecForm_go,
    vecForm_go, vecForm_go, vecForm_go, vecForm_go, vecForm_go, vecForm_go, vecForm_go, vecForm_go, vecForm_go, vecForm_go⟩

open Sys2Proof Sys2Proof.Machine in
/-- Settles O20: each form is the vector form of its function and latency. -/
theorem vectorConversionForms : Obligations.VectorConversionForms := fun _ _ _ =>
  ⟨vecForm_go, vecForm_go, vecForm_go, vecForm_go, vecForm_go, vecForm_go, vecForm_go, vecForm_go, vecForm_go, vecForm_go⟩

open Sys2Proof Sys2Proof.Machine in
/-- Settles O21: each form is the vector form of its function and latency. -/
theorem vectorPermuteForms : Obligations.VectorPermuteForms := fun _ _ _ =>
  ⟨vecForm_go, vecForm_go, vecForm_go, vecForm_go, vecForm_go, vecForm_go, vecForm_go, vecForm_go, vecForm_go, vecForm_go,
    vecForm_go, vecForm_go, vecForm_go⟩

end

section
/-!
PROOFS. Words written out from the slot layouts (R93 to R98).
-/

open Sys2Proof Sys2Proof.Machine in
/-- Settles O1: the decoder is run on each word. -/
theorem decodedWords : Obligations.DecodedWords :=
  ⟨rfl, rfl, rfl, rfl, rfl, rfl, rfl, rfl, rfl, rfl, rfl, rfl, rfl, rfl, rfl, rfl, rfl, rfl⟩

end

section
/-!
PROOFS. Bank forms and code locks (R84, R89, R275, R276).
-/

namespace Sys2Proof.Machine

/-! ### Their checks (R82, R276) -/

section
variable (s : State) (f : Focus) (a : Src) (d : BitVec 5) (nw : Bool)

@[simp] theorem State.syncBad_bankAcq : s.syncBad f (.bankAcq a) = !hdrWT f.word := by
  simp [State.syncBad, waitCapable, State.loopBad, isLoop, State.breaks]

@[simp] theorem State.syncBad_bankRel : s.syncBad f (.bankRel a) = !hdrCK f.word := by
  simp [State.syncBad, waitCapable, State.loopBad, isLoop, State.breaks]

@[simp] theorem State.syncBad_codeLockW : s.syncBad f (.codeLockW a d nw) = !hdrWT f.word := by
  simp [State.syncBad, waitCapable, State.loopBad, isLoop, State.breaks]

theorem State.syncBad_bankTst : s.syncBad f (.bankTst a d nw) = false := rfl

theorem State.syncBad_codeLock : s.syncBad f (.codeLock a d nw) = false := rfl

theorem State.syncBad_codeUnlock : s.syncBad f (.codeUnlock a) = false := rfl

end

/-! ### Bank forms (R276) -/

theorem LaunchCore.anyBank_iff {l : LaunchCore} {m : BitVec 48} {st : BankSt} : l.anyBank m st = true ↔ ∃ b ∈ bankList m, l.bank b = st := by
  simp [LaunchCore.anyBank]

theorem LaunchCore.allOwned_iff {l : LaunchCore} {m : BitVec 48} : l.allOwned m = true ↔ ∀ b ∈ bankList m, l.bank b = .owned := by
  simp [LaunchCore.allOwned]

section
variable {s : State} {f : Focus} {a : Src} {d : BitVec 5} {nw : Bool} {l : LaunchCore}

/-- The Released banks of a mask that no earlier form has asked for are given at the next cycle (R276). -/
def State.askBanks (s : State) (f : Focus) (l : LaunchCore) (m : BitVec 48) : State :=
  (s.block f (.bankAcq m (s.cycle f) f.idx)).modCore f.core fun k =>
    ((bankList m).filter fun b => l.bank b == .released && !l.own.any (fun o => o.1 == b)).foldl (fun k b => k.giveBank l.lk b (s.cycle f + 1)) k

/-- What bank.acq of a mask does: the trap, nothing, or the wait (R276). -/
def State.acquireBanks (s : State) (f : Focus) (l : LaunchCore) (m : BitVec 48) : State :=
  if l.anyBank m .foreign || l.anyBank m .lost then s.raise f 8 0x03 (m.zeroExtend 64) else if l.allOwned m then s else s.askBanks f l m

theorem exec_bankAcq (hl : (s.core f.core).lcOf f.ctx = some l) (h : s.admits f (.bankAcq a)) (wt : hdrWT f.word = true) :
    exec (.bankAcq a) s = .next (s.acquireBanks f l (bankMask (s.readX f a))) := by
  change syncSlot (.bankAcq a) "BANK_ACQ" s _ = _
  rw [syncSlot_go _ _ h (by simp [wt]), hl]
  rfl

theorem State.acquireBanks_of_fails {m : BitVec 48} (fails : (∃ b ∈ bankList m, l.bank b = .foreign) ∨ ∃ b ∈ bankList m, l.bank b = .lost) :
    s.acquireBanks f l m = s.raise f 8 0x03 (m.zeroExtend 64) :=
  if_pos (by simpa only [Bool.or_eq_true, LaunchCore.anyBank_iff] using fails)

theorem State.acquireBanks_of_owned {m : BitVec 48} (owned : ∀ b ∈ bankList m, l.bank b = .owned) : s.acquireBanks f l m = s := by
  have none {st : BankSt} (other : st ≠ .owned) : l.anyBank m st = false := by
    rw [Bool.eq_false_iff, ne_eq, LaunchCore.anyBank_iff]
    rintro ⟨b, hb, is⟩
    exact other (is.symm.trans (owned b hb))
  rw [State.acquireBanks, none (by decide), none (by decide), if_neg (by decide), if_pos (LaunchCore.allOwned_iff.mpr owned)]

theorem State.acquireBanks_of_missing {m : BitVec 48} (inside : ¬∃ b ∈ bankList m, l.bank b = .foreign) (here : ¬∃ b ∈ bankList m, l.bank b = .lost)
    (missing : ¬∀ b ∈ bankList m, l.bank b = .owned) : s.acquireBanks f l m = s.askBanks f l m := by
  rw [State.acquireBanks, if_neg (by simpa only [Bool.or_eq_true, LaunchCore.anyBank_iff, not_or] using ⟨inside, here⟩),
    if_neg (mt LaunchCore.allOwned_iff.mp missing)]

/-- The named Owned banks become Released at issue + 3, and what unreleased entries write there is undefined (R178, R276). -/
def State.releaseBanks (s : State) (f : Focus) (l : LaunchCore) (m : BitVec 48) : State :=
  let bs := (bankList m).filter fun b => l.bank b == .owned
  (s.modCtx f.core f.ctx fun x => x.breach bs s.freeV).modCore f.core fun k =>
    k.modLc l.lk fun l' => { l' with rel := l'.rel ++ bs.map fun b => (b, s.cycle f + 3) }

theorem exec_bankRel (hl : (s.core f.core).lcOf f.ctx = some l) (h : s.admits f (.bankRel a)) (ck : hdrCK f.word = true) :
    exec (.bankRel a) s = .next
      (if l.anyBank (bankMask (s.readX f a)) .foreign then s.raise f 8 0x03 ((bankMask (s.readX f a)).zeroExtend 64)
      else s.releaseBanks f l (bankMask (s.readX f a))) := by
  change syncSlot (.bankRel a) "BANK_REL" s _ = _
  rw [syncSlot_go _ _ h (by simp [ck]), hl]
  rfl

/-- What an entry that is released already writes is not touched when banks are released (R178). -/
theorem Ctx.breach_of_released {x : Ctx} {bs : List Nat} {free : Nat → BitVec 4096} {n : Nat} {e : WEntry} (at_n : x.wh[n]? = some e)
    (released : e.rel.isSome = true) : (x.breach bs free).wh[n]? = some e := by
  have kept : e.rel ≠ none := Option.isSome_iff_ne_none.mp released
  have inside : n < x.wh.length := (List.getElem?_eq_some_iff.mp at_n).1
  have is : x.wh[n] = e := (List.getElem_eq_iff inside).mpr at_n
  simp [Ctx.breach, inside, kept, is]

theorem exec_bankTst (hl : (s.core f.core).lcOf f.ctx = some l) (h : s.admits f (.bankTst a d nw)) :
    exec (.bankTst a d nw) s = .next
      (match l.bank (bits (s.readX f a) 0 6 : BitVec 6).toNat with
      | .foreign => s.raise f 8 0x03 (bits (s.freeV 244) 0 64)
      | st => s.resultY f d nw
        (BitVec.ofNat 64 (st.code + if (s.core f.core).bankRet (bits (s.readX f a) 0 6 : BitVec 6).toNat = .active then 0 else 4))) := by
  change syncSlot (.bankTst a d nw) "BANK_TST" s _ = _
  rw [syncSlot_go _ _ h (State.syncBad_bankTst ..), hl]
  rfl

/-! ### Code locks (R89) -/

theorem exec_codeLock (h : s.admits f (.codeLock a d nw)) :
    exec (.codeLock a d nw) s = .next ((s.tryLock f.core (s.focusLk f) (bits (s.readX f a) 0 16)).2.resultY f d nw
      (BitVec.ofNat 64 (s.tryLock f.core (s.focusLk f) (bits (s.readX f a) 0 16)).1)) :=
  syncSlot_go "CODE_LOCK" _ h (State.syncBad_codeLock ..)

theorem exec_codeLockW (h : s.admits f (.codeLockW a d nw)) (wt : hdrWT f.word = true) :
    exec (.codeLockW a d nw) s =
      let m : BitVec 16 := bits (s.readX f a) 0 16
      let r := s.tryLock f.core (s.focusLk f) m
      .next (if r.1 = 1 then r.2.block f (.lock m d nw (r.2.cycle f)) else r.2.resultY f d nw (BitVec.ofNat 64 r.1)) :=
  syncSlot_go "CODE_LOCK_W" _ h (by simp [wt])

theorem exec_codeUnlock (hl : (s.core f.core).lcOf f.ctx = some l) (h : s.admits f (.codeUnlock a)) :
    exec (.codeUnlock a) s =
      let m : BitVec 16 := bits (s.readX f a) 0 16
      .next (if l.locks &&& m = 0 then s
        else (s.modCore f.core fun k => k.modLc (s.focusLk f) fun l' => { l' with locks := l'.locks &&& ~~~m }).retryLocks f.core) := by
  change syncSlot (.codeUnlock a) "CODE_UNLOCK" s _ = _
  rw [syncSlot_go _ _ h (State.syncBad_codeUnlock ..), hl]
  rfl

end

end Sys2Proof.Machine

open Sys2Proof Sys2Proof.Machine in
/-- Settles O33, form by form. -/
theorem bankAndCodeLockForms : Obligations.BankAndCodeLockForms := by
  refine ⟨fun s f a d nw l hl => ⟨fun h wt => ?_, fun h ck => ?_, fun x bs n e => Ctx.breach_of_released, fun h => ?_⟩,
    fun s f a d nw l hl _ => ⟨fun h => exec_codeLock h, fun h wt => ?_, fun h => ?_⟩⟩
  · have ran := exec_bankAcq hl h wt
    exact ⟨fun fails => ran.trans (congrArg _ (State.acquireBanks_of_fails fails)),
      fun owned => ran.trans (congrArg _ (State.acquireBanks_of_owned owned)),
      fun inside here missing => ran.trans (congrArg _ (State.acquireBanks_of_missing inside here missing))⟩
  · have ran := exec_bankRel hl h ck
    exact ⟨fun fails => ran.trans (congrArg _ (if_pos (LaunchCore.anyBank_iff.mpr fails))),
      fun inside => ran.trans (congrArg _ (if_neg (mt LaunchCore.anyBank_iff.mp inside)))⟩
  · have ran := exec_bankTst hl h
    simp only [bits] at ran
    refine ⟨fun own => ?_, fun foreign => ⟨_, by rw [ran, foreign]⟩⟩
    rw [ran]
    cases st : l.bank ((s.readX f a).extractLsb' 0 6).toNat with
    | foreign => exact absurd st own
    | _ => rfl
  · exact ⟨fun other => (exec_codeLockW h wt).trans (congrArg _ (if_neg other)), fun waits => (exec_codeLockW h wt).trans (congrArg _ (if_pos waits))⟩
  · exact ⟨fun free => (exec_codeUnlock hl h).trans (congrArg _ (if_pos free)), fun held => (exec_codeUnlock hl h).trans (congrArg _ (if_neg held))⟩

end

section
/-!
PROOFS. The haul forms at their issue (R282 to R288).
-/

namespace Sys2Proof.Machine

/-- A sync form whose operand values or header bits are illegal raises trap 0x01 (R82, R92). -/
theorem syncSlot_bad {s : State} {f : Focus} {i : Instr} (name : String) (go : Focus → State) (h : s.focus = some f) (hb : s.syncBad f i = true) :
    syncSlot i name s go = .next (s.raise f (partOf i) 0x01 0) := by
  unfold syncSlot slotRun State.formCheck
  rw [h]
  simp [hb]

/-! ### Their checks (R82, R287) -/

section
variable {s : State} {f : Focus} {a b : Src} {d : BitVec 5} {nw fp all v sv : Bool} {op : BitVec 3} {lane : BitVec 4}

@[simp] theorem State.syncBad_haulLd : s.syncBad f (.haulLd a d nw) = !hdrWT f.word := by
  simp [State.syncBad, waitCapable, State.loopBad, isLoop, State.breaks]

@[simp] theorem State.syncBad_haulPass : s.syncBad f (.haulPass a d nw) = !hdrWT f.word := by
  simp [State.syncBad, waitCapable, State.loopBad, isLoop, State.breaks]

@[simp] theorem State.syncBad_haulBoard : s.syncBad f (.haulBoard a d nw) = !hdrWT f.word := by
  simp [State.syncBad, waitCapable, State.loopBad, isLoop, State.breaks]

@[simp] theorem State.syncBad_haulAlight : s.syncBad f (.haulAlight a b sv) = !hdrWT f.word := by
  simp [State.syncBad, waitCapable, State.loopBad, isLoop, State.breaks]

/-- Members of a haul.bar, less one in the operand (R287). -/
def State.haulMembers (s : State) (f : Focus) (b : Src) : Nat := (bits (s.readX f b) 16 10 : BitVec 10).toNat + 1

/-- The index of a haul.bar among its members (R287). -/
def State.haulIndex (s : State) (f : Focus) (b : Src) : Nat := (bits (s.readX f b) 0 9 : BitVec 9).toNat

theorem State.syncBad_haulBar : s.syncBad f (.haulBar a b v) = (!hdrWT f.word || (decide (512 < s.haulMembers f b) || decide (s.haulMembers f b ≤ s.haulIndex f b))) := by
  exact congrArg (· || _) (Bool.or_false (!hdrWT f.word))

/-! ### A skip operand is checked first (R284) -/

theorem State.badSkip_or {k : Word} {t : State} {i : Instr} (ran : exec i s = .next (if skipBad k then s.badSkip f k else t)) :
    (skipBad k = false → exec i s = .next t) ∧ (skipBad k = true → exec i s = .next (s.raise f 8 0x03 k)) :=
  ⟨fun good => by rw [ran, good, if_neg Bool.false_ne_true], fun bad => by rw [ran, if_pos bad]; rfl⟩

/-! ### Withheld updates (R174, R282) -/

/-- The state with one more entry of part 8 in the withhold buffer of the bundle's context. -/
def State.withheld (s : State) (f : Focus) (e : WKind) : State :=
  s.modCtx f.core f.ctx fun x => { x with wh := x.wh ++ [⟨s.cycle f, 8, f.idx, e, none⟩] }

theorem State.withhold_of_room {e : WKind} (room : s.hasRoom f) : s.withhold f 8 e = s.withheld f e :=
  if_neg (Nat.not_le.mpr room)

theorem State.withhold_of_full {e : WKind} (full : ¬s.hasRoom f) : s.withhold f 8 e = s.raise f 8 0x12 0 :=
  if_pos (Nat.not_lt.mp full)

/-- A withheld haul update takes an entry while the buffer has room, and else traps. -/
theorem State.haulUpdate_cases {i : Instr} {kind : HaulKind} {k : Word} {x : BitVec 512} (ran : exec i s = .next (s.haulUpdate f kind k lane.toNat x d nw)) :
    (skipBad k = false → s.hasRoom f → ∃ t, exec i s = .next t ∧ t = s.withheld f (.haul (s.haulOp f kind k lane.toNat x d nw))) ∧
    (skipBad k = false → ¬s.hasRoom f → exec i s = .next (s.raise f 8 0x12 0)) ∧ (skipBad k = true → exec i s = .next (s.raise f 8 0x03 k)) := by
  obtain ⟨good, bad⟩ := State.badSkip_or ran
  exact ⟨fun legal room => ⟨_, good legal, State.withhold_of_room room⟩, fun legal full => (good legal).trans (congrArg _ (State.withhold_of_full full)), bad⟩

/-! ### The forms -/

theorem exec_haulBar (h : s.admits f (.haulBar a b v)) (wt : hdrWT f.word = true) (few : s.haulMembers f b ≤ 512) (inside : s.haulIndex f b < s.haulMembers f b) :
    let k := s.readX f a
    let u := s.haulOp f (.barArrive (s.haulIndex f b) (s.haulMembers f b) v) k 0 (s.barBitOf f k v) 0 false
    exec (.haulBar a b v) s = .next (if skipBad k then s.badSkip f k else if isRing k then s.haulWait f u
      else ((s.block f .haul).addHaul f.core { u with kind := .barCheck (s.haulMembers f b) v, after := s.cycle f + 4 }).fbUpdate f.core u 1 0 false) :=
  syncSlot_go "HAUL_BAR" _ h (by simp [State.syncBad_haulBar, wt, few, inside])

theorem exec_haulBar_of_bad (h : s.admits f (.haulBar a b v)) (bad : 512 < s.haulMembers f b ∨ s.haulMembers f b ≤ s.haulIndex f b) :
    exec (.haulBar a b v) s = .next (s.raise f 8 0x01 0) :=
  syncSlot_bad "HAUL_BAR" _ h.1 (by rw [State.syncBad_haulBar]; simp [bad])

/-- With no update of the skip withheld, the bit that a haul.bar sets is its own flag (R287). -/
theorem State.barBitOf_of_free {k : Word} (free : (s.ctx f.core f.ctx).holdsUpdate k = false) : s.barBitOf f k v = BitVec.ofNat 512 v.toNat :=
  if_neg (by simp [free])

theorem exec_haulBoard (h : s.admits f (.haulBoard b d nw)) (wt : hdrWT f.word = true) :
    exec (.haulBoard b d nw) s = .next
      (if s.skipsHeld (s.focusLk f) ≥ ((s.launch (s.focusLk f)).map Launch.skips).getD 0 then s.resultY f d nw 0x20000
      else s.haulWait f { s.haulOp f .board 0 0 (bits (s.readV f b) 0 512) d nw with ring := true }) :=
  syncSlot_go "HAUL_BOARD" _ h (by simp [wt])

/-- What haul.alight does with a legal skip operand: the check of its 64 bytes, the entry, the wait for the capture (R286). -/
def State.alight (s : State) (f : Focus) (u : HaulOp) (dst : Nat) (sv : Bool) : State :=
  if sv && !localOk ((s.core f.core).lcOf f.ctx) dst 64 then s.raise f 8 0x03 (BitVec.ofNat 64 dst)
  else if (s.ctx f.core f.ctx).wh.length ≥ 128 then s.raise f 8 0x12 0
  else
    let t := s.withhold f 8 (.alight u (if sv then some dst else none) none)
    if sv then t.haulWait f { u with kind := .capture dst } else t

theorem exec_haulAlight (h : s.admits f (.haulAlight a b sv)) (wt : hdrWT f.word = true) :
    let k := s.readX f a
    exec (.haulAlight a b sv) s = .next
      (if skipBad k then s.badSkip f k else s.alight f (s.haulOp f .free k 0 0 0 false) (s.readX f b).toNat sv) :=
  syncSlot_go "HAUL_ALIGHT" _ h (by simp [wt])

section
variable {u : HaulOp} {dst : Nat}

/-- The 64 bytes of a bitmap pass the checks of R170; without a bitmap there is nothing to check. -/
def State.bitmapReach (s : State) (f : Focus) (dst : Nat) (sv : Bool) : Prop := sv = true → localOk ((s.core f.core).lcOf f.ctx) dst 64 = true

theorem State.bitmapReach_iff : s.bitmapReach f dst sv ↔ ¬(sv && !localOk ((s.core f.core).lcOf f.ctx) dst 64) = true := by
  cases sv <;> simp [State.bitmapReach]

theorem State.alight_of_unreached (bad : ¬s.bitmapReach f dst sv) : s.alight f u dst sv = s.raise f 8 0x03 (BitVec.ofNat 64 dst) :=
  if_pos (Decidable.not_not.mp (mt State.bitmapReach_iff.mpr bad))

theorem State.alight_of_full (reach : s.bitmapReach f dst sv) (full : ¬s.hasRoom f) : s.alight f u dst sv = s.raise f 8 0x12 0 :=
  (if_neg (State.bitmapReach_iff.mp reach)).trans (if_pos (Nat.not_lt.mp full))

theorem State.alight_of_room (reach : s.bitmapReach f dst sv) (room : s.hasRoom f) : s.alight f u dst sv =
    let t := s.withheld f (.alight u (if sv then some dst else none) none)
    if sv then t.haulWait f { u with kind := .capture dst } else t := by
  rw [State.alight, if_neg (State.bitmapReach_iff.mp reach), if_neg (Nat.not_le.mpr room), State.withhold_of_room room]

end

end

end Sys2Proof.Machine

open Sys2Proof Sys2Proof.Machine in
/-- Settles O34, form by form. -/
theorem haulForms : Obligations.HaulForms := by
  intro s f a b d nw fp all v sv op lane
  refine ⟨fun h wt => State.badSkip_or (syncSlot_go "HAUL_LD" _ h (by simp [wt])), fun h wt => State.badSkip_or (syncSlot_go "HAUL_PASS" _ h (by simp [wt])),
    fun few inside ring h wt => ?_, fun few inside far legal h wt => ?_, fun bad h => exec_haulBar_of_bad h bad, fun few inside bad h wt => ?_,
    State.barBitOf_of_free, fun h wt => ⟨fun most => ?_, fun more => ?_⟩,
    fun h => State.haulUpdate_cases (syncSlot_go "HAUL_ST" _ h rfl), fun h => State.haulUpdate_cases (syncSlot_go "HAUL_OP" _ h rfl),
    fun h => State.haulUpdate_cases (syncSlot_go "HAUL_XCHG" _ h rfl), fun h => State.haulUpdate_cases (syncSlot_go "HAUL_CAS" _ h rfl),
    fun h => State.haulUpdate_cases (syncSlot_go "HAUL_LSE" _ h rfl), fun h wt => ?_⟩
  · obtain ⟨good, bad⟩ := State.badSkip_or (exec_haulBar h wt few inside)
    exact ⟨fun legal => (good legal).trans (congrArg _ (if_pos ring)), bad⟩
  · exact ((State.badSkip_or (exec_haulBar h wt few inside)).1 legal).trans (congrArg _ (if_neg (by simp [far])))
  · exact (State.badSkip_or (exec_haulBar h wt few inside)).2 bad
  · exact (exec_haulBoard h wt).trans (congrArg _ (if_pos most))
  · exact (exec_haulBoard h wt).trans (congrArg _ (if_neg (Nat.not_le.mpr more)))
  · obtain ⟨good, bad⟩ := State.badSkip_or (exec_haulAlight h wt)
    refine ⟨bad, fun legal out => ?_, fun legal reach full => ?_, fun legal reach room => ⟨_, rfl, ?_⟩⟩
    · rw [good legal, State.alight_of_unreached out, BitVec.ofNat_toNat, BitVec.setWidth_eq]
    · rw [good legal, State.alight_of_full reach full]
    · exact (good legal).trans (congrArg _ (State.alight_of_room reach room))

end

section
/-!
PROOFS. Matrix rows, walks, late landings and reusing chunks (R86, R87, R208, R238).
-/

namespace Sys2Proof.Machine

variable {s : State} {c : CoreId}

/-! ### Matrix rows (R191, R208) -/

theorem exec_matrixRowLand {m : MForm} {r : RowLand} (due : (s.core c).rowDue = some (m, r)) :
    exec (.matrixRowLand c) s = .next
      (if (s.core c).slotTaken m then (s.matTrap c m 0x11 0 0 0).modCore c fun k => k.stopForms fun q => q.id == m.id
      else (s.modCore c fun k => k.modForm m.id fun m => { m with lands := m.lands.filter fun q => q.i != r.i }).landRow c m r) := by
  change execMatrixRowLand c s = _
  unfold execMatrixRowLand
  rw [due]
  cases h : (s.core c).slotTaken m <;> simp only [h] <;> rfl

/-- The first form's first row is due when its cycle has come. -/
theorem Core.rowDue_of_first {k : Core} {m : MForm} {r : RowLand} {rest : List MForm} {lands : List RowLand} (forms : k.mforms = m :: rest)
    (rows : m.lands = r :: lands) (due : r.at_ ≤ k.cyc) : k.rowDue = some (m, r) := by
  unfold Core.rowDue
  rw [forms, List.findSome?_cons, rows, List.find?_cons_of_pos (by simpa using due)]
  rfl

/-! ### Walks (R238) -/

section
variable {w : Walk} {x : Nat}

/-- A walk that lands leaves the core's list of walks, however it ended. -/
theorem State.landWalk_walks : ((s.landWalk c w).core c).walks = (s.core c).walks.filter fun q => !(q.ctx == w.ctx && q.d == w.d) := by
  unfold State.landWalk
  split <;> simp [Core.heal]

theorem State.landWalk_th {h : Handle} (done : w.res = some (some h, x)) : ((s.landWalk c w).ctx c w.ctx).th[w.d.toNat]? = some (some h) := by
  have written : (s.landWalk c w).ctx c w.ctx =
      { (s.core c).ctx w.ctx with th := ((s.core c).ctx w.ctx).th.set w.d.toNat (some h) } := by
    unfold State.landWalk
    simp only [done, State.ctx, State.core_modCore]
    exact Core.ctx_modCtx _ w.ctx fun x => { x with th := x.th.set w.d.toNat (some h) }
  rw [written]
  exact Vector.getElem?_set_self w.d.isLt

theorem State.landWalk_traps_of_handle {h : Handle} (done : w.res = some (some h, x)) : ((s.landWalk c w).core c).traps = (s.core c).traps := by
  unfold State.landWalk
  simp only [done, State.core_modCore]
  rfl

/-- The trap of a walk that fails: part 7, the cause found, the address asked for (R238). -/
def Walk.trap (w : Walk) (cause : Nat) : Trap :=
  { ctx := w.ctx, lk := w.lk, cause := cause, part := 7, eng := 0, addr := BitVec.ofNat 64 w.va, bundle := w.bundle, origin := w.issued,
    pslot := 0, frow := 0, pod := false }

theorem State.landWalk_of_failed (failed : w.res = some (none, x)) :
    s.landWalk c w = (s.modCore c fun k => { k with walks := k.walks.filter fun q => !(q.ctx == w.ctx && q.d == w.d) }).modCore c fun k => k.addTrap (w.trap x) := by
  unfold State.landWalk
  rw [failed]
  rfl

end

/-! ### Late landings (R86) -/

section
variable {lk t0 : Nat} {idx : BitVec 12}

/-- The content expected at an index hangs on no core. -/
theorem State.expected_modCore {d : CoreId} {g : Core → Core} {l : LaunchCore} {n : Nat} : (s.modCore c g).expected d l n = s.expected d l n := rfl

/-- The refetch that has come is over. -/
def State.refetched (s : State) (c : CoreId) : State := s.modCore c fun k => { k with refetch := none }

/-- The slot of an index is rewritten with the bundle of a chunk. -/
def State.rewriteSlot (s : State) (c : CoreId) (l : LaunchCore) (idx : BitVec 12) (no : Nat) : State :=
  s.modCore c fun k => { k.storeSlot l idx no with rewrote := some s.now }

theorem State.rewriteSlot_refetch {l : LaunchCore} {no : Nat} : ((s.rewriteSlot c l idx no).core c).refetch = (s.core c).refetch := by
  rw [State.rewriteSlot, State.core_modCore]
  rfl

/-- What a refetch that has come leaves: the slot of its index rewritten where a chunk is expected there. -/
def State.relandSlot (s : State) (c : CoreId) (lk : Nat) (idx : BitVec 12) : State :=
  match (s.core c).lc lk with
  | some l =>
    match s.expected c l idx.toNat with
    | some (no, _) => (s.refetched c).rewriteSlot c l idx no
    | none => s.refetched c
  | none => s.refetched c

theorem exec_lateLanding (again : (s.core c).refetch = some (lk, idx, t0)) (come : t0 ≤ s.now) :
    exec (.lateLanding c) s = .next (s.relandSlot c lk idx) := by
  change execLateLanding c s = _
  unfold execLateLanding State.relandSlot
  simp only [again, if_pos come]
  cases (s.core c).lc lk with
  | none => rfl
  | some l =>
    rcases h : s.expected c l idx.toNat with _ | ⟨no, ch⟩ <;> simp only [State.expected_modCore, h] <;> rfl

theorem State.relandSlot_of_expected {l : LaunchCore} {no : Nat} {ch : Chunk} (hl : (s.core c).lc lk = some l)
    (expected : s.expected c l idx.toNat = some (no, ch)) : s.relandSlot c lk idx = (s.refetched c).rewriteSlot c l idx no := by
  simp only [State.relandSlot, hl, expected]

theorem State.relandSlot_refetch : ((s.relandSlot c lk idx).core c).refetch = none := by
  have gone : ((s.refetched c).core c).refetch = none := by rw [State.refetched, State.core_modCore]
  unfold State.relandSlot
  split
  · split
    · exact State.rewriteSlot_refetch.trans gone
    · exact gone
  · exact gone

theorem exec_lateLanding_trap {tr : Trap} (rest : (s.core c).refetch = none) (late : s.lateNow c = some tr) (out : s.lateOut c = true) :
    exec (.lateLanding c) s = .next (s.modCore c fun k => { k with lateSince := none, timeout := satAdd k.timeout 1 }.addTrap tr) := by
  change execLateLanding c s = _
  unfold execLateLanding
  simp only [rest, late, if_pos out]

end

/-! ### Reusing chunks (R87) -/

theorem exec_reusingChunkWrite {lk no : Nat} {l : LaunchCore} {w : Chunk} (hl : (s.core c).lc lk = some l)
    (next : (s.stream c lk)[l.fchunk]? = some (no, w)) (again : reusing (s.stream c lk) l.fchunk = true) (may : s.fetchMay [] l no w true = true) :
    exec (.reusingChunkWrite c lk) s = .next (s.fetchWrite c l no w) := by
  change execReusingChunkWrite c lk s = _
  unfold execReusingChunkWrite
  simp only [hl, next, again, may, Bool.and_self, if_true]

end Sys2Proof.Machine

open Sys2Proof Sys2Proof.Machine in
/-- Settles O48, row by row. -/
theorem matrixAndWalkRows : Obligations.MatrixAndWalkRows := by
  intro s c lk
  refine ⟨fun m r due => ⟨fun taken => ?_, fun free => ?_⟩, fun m r rest lands forms rows due => ?_, fun w due => ?_, fun k idx t0 again come => ?_,
    fun tr => exec_lateLanding_trap, fun l no w => exec_reusingChunkWrite⟩
  · rw [exec_matrixRowLand due, if_pos taken]
  · rw [exec_matrixRowLand due, if_neg (by simp [free])]
  · exact ⟨_, exec_matrixRowLand (Core.rowDue_of_first forms rows due)⟩
  · have ran : exec (.walkEnd c) s = .next (s.landWalk c w) := by
      change execWalkEnd c s = _
      unfold execWalkEnd
      rw [due]
    refine ⟨_, ran, rfl, State.landWalk_walks, fun h x done => ⟨State.landWalk_th done, State.landWalk_traps_of_handle done⟩, fun x failed => ?_⟩
    rw [State.landWalk_of_failed failed]
    simp only [State.ctx, State.core_modCore]
    exact ⟨rfl, w.trap x, rfl, rfl, rfl, rfl, rfl⟩
  · have ran := exec_lateLanding again come
    exact ⟨⟨_, ran, State.relandSlot_refetch⟩, fun l no ch hl expected => ran.trans (congrArg _ (State.relandSlot_of_expected hl expected))⟩

end

section
/-!
PROOFS. The scalar forms that compute: their results (R99 to R101) and the state in which each is on its way (R74, R100).
-/

namespace Sys2Proof.Machine

/-! ### Quotients and remainders (R101) -/

section
variable {w : Nat} (a : BitVec w) {b : BitVec w}

theorem divS_zero : divS a 0 = BitVec.allOnes w := if_pos rfl
theorem divU_zero : divU a 0 = BitVec.allOnes w := if_pos rfl
theorem remS_zero : remS a 0 = a := if_pos rfl
theorem remU_zero : remU a 0 = a := if_pos rfl

theorem divS_eq_sdiv (h : b ≠ 0) : divS a b = a.sdiv b := by
  rw [divS, if_neg h, ← BitVec.toInt_inj, BitVec.toInt_ofInt, BitVec.toInt_sdiv]

theorem remS_eq_srem (h : b ≠ 0) : remS a b = a.srem b := by
  rw [remS, if_neg h, ← BitVec.toInt_srem, BitVec.ofInt_toInt]

theorem divU_eq_udiv (h : b ≠ 0) : divU a b = a / b := by
  rw [divU, if_neg h, BitVec.udiv_def]

theorem remU_eq_umod (h : b ≠ 0) : remU a b = a % b := by
  rw [remU, if_neg h, ← BitVec.toNat_umod, BitVec.ofNat_toNat, BitVec.setWidth_eq]

end

theorem allOnes_ne_zero {w : Nat} (pos : 0 < w) : BitVec.allOnes w ≠ 0 :=
  mt BitVec.allOnes_eq_zero_iff.mp (Nat.ne_of_gt pos)

/-- The quotient that a width does not hold is the dividend again. -/
theorem divS_intMin_allOnes {w : Nat} (pos : 0 < w) : divS (BitVec.intMin w) (BitVec.allOnes w) = BitVec.intMin w := by
  rw [divS_eq_sdiv _ (allOnes_ne_zero pos), ← BitVec.neg_one_eq_allOnes, BitVec.intMin_sdiv_neg_one]

/-- Division by -1 leaves no remainder. -/
theorem remS_allOnes {w : Nat} (pos : 0 < w) (a : BitVec w) : remS a (BitVec.allOnes w) = 0 := by
  rw [remS_eq_srem _ (allOnes_ne_zero pos), ← BitVec.toInt_inj, BitVec.toInt_srem, BitVec.toInt_allOnes, if_pos pos, Int.tmod_neg, Int.tmod_one]
  exact BitVec.toInt_zero.symm

/-! ### The other results (R99) -/

theorem flag01_decide (p : Prop) [Decidable p] : flag01 (decide p) = if p then 1 else 0 := by
  by_cases h : p <;> simp [flag01, h]

/-- A signed comparison with a sign-extended immediate is one with the immediate itself. -/
theorem flag01_slt_immI (v : Word) (i : BitVec 12) : flag01 (v.slt (immI i)) = if v.toInt < i.toInt then 1 else 0 := by
  rw [BitVec.slt_eq_decide, flag01_decide, immI, sext64, BitVec.toInt_signExtend_of_le (by decide)]

/-- The low word of a difference is that of the low words. -/
theorem lo32_sub (v w : Word) : lo32 (v - w) = lo32 v - lo32 w := by
  simp only [lo32, bits, ← BitVec.setWidth_eq_extractLsb' (show 32 ≤ 64 by decide)]
  rw [BitVec.sub_eq_add_neg, BitVec.setWidth_add _ _ (by decide), BitVec.setWidth_neg_of_le (by decide), ← BitVec.sub_eq_add_neg]

theorem w32_add (v w : Word) : w32 (v + w) = sext64 (lo32 v + lo32 w) :=
  congrArg sext64 (BitVec.extractLsb'_add (by decide))

theorem w32_sub (v w : Word) : w32 (v - w) = sext64 (lo32 v - lo32 w) := congrArg sext64 (lo32_sub v w)

theorem w32_mul (v w : Word) : w32 (v * w) = sext64 (lo32 v * lo32 w) :=
  congrArg sext64 (BitVec.extractLsb'_mul (by decide))

/-- The high word of an unsigned product. -/
theorem mulHi_natCast (m n : Nat) : mulHi (m * n) = BitVec.ofNat 64 (m * n / 2 ^ 64) :=
  BitVec.ofInt_natCast 64 (m * n / 2 ^ 64)

/-! ### Their completion (R74, R100) -/

/-- An admitted form whose effect is a scalar result answers the state in which that result is on its way. -/
theorem slotGo_result {s : State} {f : Focus} {i : Instr} (name : String) {lat : Nat} {rd : BitVec 5} {result : Focus → Word} {v : Word}
    (value : result f = v) (h : s.admits f i) :
    slotGo i name s (fun f => s.resultS f lat rd (result f)) = .next (s.resultS f lat rd v) := by
  rw [slotGo_go name _ h, value]

end Sys2Proof.Machine

open Sys2Proof Sys2Proof.Machine in
/-- Settles O16: where the divisor is not zero the model divides as `BitVec` does, and each form's result is the one of its division. -/
theorem divisionForms : Obligations.DivisionForms := by
  refine ⟨fun w a b pos => ⟨?_, ?_, fun b0 => ?_, fun ⟨b0, fits⟩ => ?_⟩, fun s f rd a b =>
    ⟨slotGo_go "DIV" _, slotGo_go "DIVU" _, slotGo_go "REM" _, slotGo_go "REMU" _,
      slotGo_go "DIVW" _, slotGo_go "DIVUW" _, slotGo_go "REMW" _, slotGo_go "REMUW" _⟩⟩
  · rintro rfl
    exact ⟨divS_zero a, divU_zero a, remS_zero a, remU_zero a⟩
  · rintro ⟨rfl, rfl⟩
    exact ⟨divS_intMin_allOnes pos, remS_allOnes pos _⟩
  · rw [divU_eq_udiv a b0, remU_eq_umod a b0]
    exact ⟨BitVec.toNat_udiv, BitVec.toNat_umod⟩
  · rw [divS_eq_sdiv a b0, remS_eq_srem a b0]
    refine ⟨BitVec.toInt_sdiv_of_ne_or_ne a b ?_, BitVec.toInt_srem a b⟩
    rw [BitVec.neg_one_eq_allOnes]
    exact Decidable.not_and_iff_not_or_not.mp fits

open Sys2Proof Sys2Proof.Machine in
/-- Settles O13, form by form. -/
theorem scalarRegisterForms : Obligations.ScalarRegisterForms := fun _ _ _ _ _ =>
  ⟨slotGo_go "ADD" _, slotGo_go "SUB" _, slotGo_go "SLL" _, slotGo_result "SLT" (flag01_decide _), slotGo_result "SLTU" (flag01_decide _),
    slotGo_go "XOR" _, slotGo_go "SRL" _, slotGo_go "SRA" _, slotGo_go "OR" _, slotGo_go "AND" _⟩

open Sys2Proof Sys2Proof.Machine in
/-- Settles O14, form by form. -/
theorem scalarImmediateForms : Obligations.ScalarImmediateForms := fun _ _ _ _ _ _ _ _ =>
  ⟨slotGo_go "ADDI" _, slotGo_result "SLTI" (flag01_slt_immI _ _), slotGo_result "SLTIU" (flag01_decide _), slotGo_go "XORI" _,
    slotGo_go "ORI" _, slotGo_go "ANDI" _, slotGo_go "ADDIW" _, slotGo_go "SLLI" _, slotGo_go "SRLI" _, slotGo_go "SRAI" _,
    slotGo_go "SLLIW" _, slotGo_go "SRLIW" _, slotGo_go "SRAIW" _, slotGo_go "LUI" _, slotGo_go "AUIPC" _⟩

open Sys2Proof Sys2Proof.Machine in
/-- Settles O15: the low word of a sum, difference or product is that of the low words, and a product of 64-bit words is exact before its half is taken. -/
theorem scalarWordForms : Obligations.ScalarWordForms := fun _ _ _ _ _ =>
  ⟨slotGo_result "ADDW" (w32_add _ _), slotGo_result "SUBW" (w32_sub _ _), slotGo_go "SLLW" _, slotGo_go "SRLW" _, slotGo_go "SRAW" _,
    slotGo_result "MULW" (w32_mul _ _), slotGo_go "MUL" _, slotGo_go "MULH" _, slotGo_go "MULHSU" _,
    slotGo_result "MULHU" (mulHi_natCast _ _)⟩

end

section
/-!
PROOFS. Branches and jumps (R99, R102, R103), and the scalar loads and stores at their issue (R104, R105, R170, R174).
-/

namespace Sys2Proof.Machine

/-! ### Branches and jumps (R83, R102) -/

/-- A target that is the byte value of a bundle index (R83). -/
def goodTarget (v : Word) : Prop := v.toNat % 64 = 0 ∧ v.toNat ≤ 0x3FFC0

/-- The state with its redirect set to a target (R77). -/
def State.redirected (s : State) (f : Focus) (v : Word) : State :=
  { s with focus := some { f with jump := some (BitVec.ofNat 12 (v.toNat / 64)) } }

section
variable {s : State} {f : Focus}

theorem State.jumpTo_of_good {v : Word} (good : goodTarget v) : s.jumpTo f v = s.redirected f v :=
  s.jumpTo_good f good.2 good.1

theorem State.jumpTo_of_not_good {v : Word} (bad : ¬goodTarget v) : s.jumpTo f v = s.raise f 1 0x02 v := by
  refine s.jumpTo_bad f ?_
  rw [goodTarget] at bad
  omega

/-- A form that jumps redirects to a good target and traps on any other. -/
theorem exec_jump {i : Instr} {u : State} {v : Word} (ran : exec i s = .next (u.jumpTo f v)) :
    (goodTarget v → exec i s = .next (u.redirected f v)) ∧ (¬goodTarget v → exec i s = .next (u.raise f 1 0x02 v)) :=
  ⟨fun good => by rw [ran, State.jumpTo_of_good good], fun bad => by rw [ran, State.jumpTo_of_not_good bad]⟩

/-- A form that branches on a condition. -/
theorem exec_branch {i : Instr} {imm : BitVec 12} {taken : Bool} {cond : Prop} (ran : exec i s = .next (s.branch f imm taken)) (h : taken = true ↔ cond) :
    let target := f.pcb + immB imm
    (¬cond → exec i s = .next s) ∧ (cond → goodTarget target → exec i s = .next (s.redirected f target)) ∧
      (cond → ¬goodTarget target → exec i s = .next (s.raise f 1 0x02 target)) := by
  have jumps (holds : cond) : exec i s = .next (s.jumpTo f (f.pcb + immB imm)) := by rw [ran, State.branch, if_pos (h.mpr holds)]
  exact ⟨fun fails => by rw [ran, State.branch, if_neg (mt h.mp fails)], fun holds => (exec_jump (jumps holds)).1, fun holds => (exec_jump (jumps holds)).2⟩

end

theorem not_slt_iff_toInt_le {w : Nat} {x y : BitVec w} : (!x.slt y) = true ↔ y.toInt ≤ x.toInt := by
  rw [BitVec.slt_eq_decide, Bool.not_eq_true', decide_eq_false_iff_not, Int.not_lt]

theorem not_ult_iff_toNat_le {w : Nat} {x y : BitVec w} : (!x.ult y) = true ↔ y.toNat ≤ x.toNat := by
  rw [BitVec.ult_eq_decide, Bool.not_eq_true', decide_eq_false_iff_not, Nat.not_lt]

/-! ### Loads (R104, R167, R170) -/

section
variable {s : State} {f : Focus} {part align : Nat}

section
variable {party : Party} {l : LdRec}

theorem State.load_of_reaches (closed : s.unwatched f) (reach : s.reachesPad f l.ea align l.touched) :
    s.load f part align party l = s.addAccess f.core (s.loadAccess f part party l) := by
  unfold State.load
  rw [show accessBad _ _ _ _ = none from reach]
  exact State.watched_closed part false _ _ closed

theorem State.load_of_bad {bad : Nat} (fails : accessBad ((s.core f.core).lcOf f.ctx) l.ea align l.touched = some bad) :
    s.load f part align party l = s.raise f part 0x03 (BitVec.ofNat 64 bad) := by
  unfold State.load
  rw [fails]

end

/-- An admitted scalar load reads at issue + 1, or traps. -/
theorem scalarLoad_cases {i : Instr} {name : String} {rd a : BitVec 5} {imm : BitVec 12} {w : Nat} {signed : Bool} (closed : s.unwatched f)
    (h : s.admits f i) :
    let l : LdRec := { kind := .scal w signed, ea := (s.xs f a + immI imm).toNat, dest := if rd = 0 then .none else .x rd, wen := allLanes,
                       tagWant := none, unit := if rd = 0 then none else some 0 }
    (s.reachesPad f l.ea w l.touched → scalarLoad i name rd a imm w signed s = .next (s.addAccess f.core (s.loadAccess f 1 .scalar l))) ∧
      ∀ bad, accessBad ((s.core f.core).lcOf f.ctx) l.ea w l.touched = some bad →
        scalarLoad i name rd a imm w signed s = .next (s.raise f 1 0x03 (BitVec.ofNat 64 bad)) :=
  ⟨fun reach => (slotGo_go name _ h).trans (congrArg _ (State.load_of_reaches closed reach)),
    fun _ fails => (slotGo_go name _ h).trans (congrArg _ (State.load_of_bad fails))⟩

/-! ### Stores (R105, R170, R174) -/

section
variable {ea : Nat} {touched : List Nat} {touch : Nat → Bool} {w : WKind}

theorem State.storeAt_of_room (closed : s.unwatched f) (reach : s.reachesPad f ea align touched) (room : s.hasRoom f) :
    s.storeAt f part ea align touched touch w = s.withhold f part w := by
  unfold State.storeAt
  rw [show accessBad _ _ _ _ = none from reach]
  exact (if_neg (Nat.not_le.mpr room)).trans (State.watched_closed part true touch _ closed)

theorem State.storeAt_of_full (reach : s.reachesPad f ea align touched) (full : ¬s.hasRoom f) :
    s.storeAt f part ea align touched touch w = s.raise f part 0x12 0 := by
  unfold State.storeAt
  rw [show accessBad _ _ _ _ = none from reach]
  exact if_pos (Nat.not_lt.mp full)

theorem State.storeAt_of_bad {bad : Nat} (fails : accessBad ((s.core f.core).lcOf f.ctx) ea align touched = some bad) :
    s.storeAt f part ea align touched touch w = s.raise f part 0x03 (BitVec.ofNat 64 bad) := by
  unfold State.storeAt
  rw [fails]

end

/-- A store without a tag touches the chunks it writes. -/
theorem State.storeW_untagged {ea : Nat} {wr : List ChunkW} :
    s.storeW f part ea align wr none = s.storeAt f part ea align (wr.map ChunkW.addr) (touches wr) (.store wr none) := by
  rw [State.storeW]
  simp

/-- An admitted scalar store takes an entry, or traps. -/
theorem scalarStore_cases {i : Instr} {name : String} {a b : BitVec 5} {imm : BitVec 12} {w : Nat} (closed : s.unwatched f) (h : s.admits f i) :
    let ea := (s.xs f a + immI imm).toNat
    let wr := chunksFor ea w ((s.xs f b).toNat % 2 ^ (8 * w)) (fun _ => true)
    (s.reachesPad f ea w (wr.map ChunkW.addr) → s.hasRoom f → scalarStore i name a b imm w s = .next (s.withhold f 1 (.store wr none))) ∧
    (s.reachesPad f ea w (wr.map ChunkW.addr) → ¬s.hasRoom f → scalarStore i name a b imm w s = .next (s.raise f 1 0x12 0)) ∧
      ∀ bad, accessBad ((s.core f.core).lcOf f.ctx) ea w (wr.map ChunkW.addr) = some bad →
        scalarStore i name a b imm w s = .next (s.raise f 1 0x03 (BitVec.ofNat 64 bad)) := by
  intro ea wr
  have ran : scalarStore i name a b imm w s = .next (s.storeAt f 1 ea w (wr.map ChunkW.addr) (touches wr) (.store wr none)) :=
    (slotGo_go name _ h).trans (congrArg _ State.storeW_untagged)
  exact ⟨fun reach room => ran.trans (congrArg _ (State.storeAt_of_room closed reach room)),
    fun reach full => ran.trans (congrArg _ (State.storeAt_of_full reach full)), fun _ fails => ran.trans (congrArg _ (State.storeAt_of_bad fails))⟩

end

end Sys2Proof.Machine

open Sys2Proof Sys2Proof.Machine in
/-- Settles O17: each branch with its condition, and both jumps on the state that holds the link. -/
theorem branchesAndJumps : Obligations.BranchesAndJumps := by
  intro s f rd a b i j pcb link bt jt rt good go
  exact ⟨fun h => exec_branch (slotGo_go "BEQ" _ h) beq_iff_eq, fun h => exec_branch (slotGo_go "BNE" _ h) bne_iff_ne,
    fun h => exec_branch (slotGo_go "BLT" _ h) BitVec.slt_iff_toInt_lt, fun h => exec_branch (slotGo_go "BGE" _ h) not_slt_iff_toInt_le,
    fun h => exec_branch (slotGo_go "BLTU" _ h) BitVec.ult_iff_toNat_lt, fun h => exec_branch (slotGo_go "BGEU" _ h) not_ult_iff_toNat_le,
    fun h => exec_jump (slotGo_go "JAL" _ h), fun h => exec_jump (slotGo_go "JALR" _ h)⟩

open Sys2Proof Sys2Proof.Machine in
/-- Settles O18: every load is the scalar load of its width and sign, every store the scalar store of its width. -/
theorem scalarLoadsAndStores : Obligations.ScalarLoadsAndStores :=
  ⟨fun _ _ _ _ _ closed => ⟨scalarLoad_cases closed, scalarLoad_cases closed, scalarLoad_cases closed, scalarLoad_cases closed,
      scalarLoad_cases closed, scalarLoad_cases closed, scalarLoad_cases closed⟩,
    fun _ _ _ _ _ closed => ⟨scalarStore_cases closed, scalarStore_cases closed, scalarStore_cases closed, scalarStore_cases closed⟩⟩

end

section
/-!
PROOFS. Hardware loops: the loop forms (R108, R109), the count at a loop's end (R109), and the loop indices (R107).
-/

namespace Sys2Proof.Machine

/-! ### The loop forms (R108, R109) -/

section
variable {s : State} {f : Focus} {i : Instr}

/-- The header and the length of a loop form are legal: no LE, and a body of 1 to 4,096 bundles. -/
def State.loopLegal (s : State) (f : Focus) (i : Instr) : Prop := hdrLE f.word = false ∧ 0 < s.loopLen f i ∧ s.loopLen f i ≤ 4096

/-- A loop form fails its check when it is not legal, or when it would push a seventh entry. -/
theorem State.syncBad_loop_iff (loop : isLoop i = true) :
    s.syncBad f i = true ↔ ¬s.loopLegal f i ∨ (s.loopCount f i ≠ 0 ∧ 6 ≤ f.loops.length) := by
  have bad : s.syncBad f i = (hdrLE f.word || decide (s.loopLen f i = 0) || decide (s.loopLen f i > 4096) ||
      (s.loopCount f i != 0 && decide (f.loops.length ≥ 6))) := by
    cases i with
    | loop | loopx => simp [State.syncBad, waitCapable, State.loopBad, isLoop, State.breaks]
    | _ => contradiction
  rw [bad]
  simp only [State.loopLegal, Bool.or_eq_true, Bool.and_eq_true, decide_eq_true_eq, bne_iff_ne, Decidable.not_and_iff_not_or_not, Bool.not_eq_false, Nat.not_lt,
    Nat.le_zero, Nat.not_le, or_assoc]

/-- The state with an entry for a loop form's body pushed (R109). -/
def State.loopPushed (s : State) (f : Focus) (n : Nat) (count : BitVec 32) : State :=
  s.modCtx f.core f.ctx fun k => { k with loops := ⟨f.idx + 1, f.idx + BitVec.ofNat 12 n, count, 0⟩ :: k.loops }

theorem State.loopPush_of_zero (h : s.loopCount f i = 0) :
    s.loopPush f i = s.modFocus fun g => { g with lr := some (f.idx + BitVec.ofNat 12 (1 + s.loopLen f i)) } :=
  if_pos h

theorem State.loopPush_of_ne_zero (h : s.loopCount f i ≠ 0) : s.loopPush f i = s.loopPushed f (s.loopLen f i) (s.loopCount f i) :=
  if_neg h

/-- An admitted loop form skips its body, pushes an entry, or traps. -/
theorem exec_loop_cases {name : String} (ran : exec i s = syncSlot i name s fun f => s.loopPush f i) (loop : isLoop i = true) (h : s.admits f i) :
    (s.loopLegal f i → s.loopCount f i = 0 →
      exec i s = .next (s.modFocus fun g => { g with lr := some (f.idx + BitVec.ofNat 12 (1 + s.loopLen f i)) })) ∧
    (s.loopLegal f i → s.loopCount f i ≠ 0 → f.loops.length < 6 → exec i s = .next (s.loopPushed f (s.loopLen f i) (s.loopCount f i))) ∧
    (¬s.loopLegal f i ∨ (s.loopCount f i ≠ 0 ∧ 6 ≤ f.loops.length) → exec i s = .next (s.raise f (partOf i) 0x01 0)) := by
  have passes (legal : s.loopLegal f i) (room : s.loopCount f i ≠ 0 → f.loops.length < 6) : exec i s = .next (s.loopPush f i) := by
    refine ran.trans (syncSlot_go name _ h (Bool.eq_false_iff.mpr fun bad => ?_))
    obtain illegal | ⟨counts, full⟩ := (State.syncBad_loop_iff loop).mp bad
    · exact illegal legal
    · exact Nat.not_lt.mpr full (room counts)
  refine ⟨fun legal zero => ?_, fun legal counts room => ?_, fun bad => ?_⟩
  · rw [passes legal fun counts => absurd zero counts, State.loopPush_of_zero zero]
  · rw [passes legal fun _ => room, State.loopPush_of_ne_zero counts]
  · exact ran.trans (syncSlot_bad name _ h.1 ((State.syncBad_loop_iff loop).mpr bad))

/-! ### The breaks (R109) -/

theorem State.syncBad_lbrkU : s.syncBad f .lbrkU = f.loops.isEmpty := by
  simp [State.syncBad, waitCapable, State.loopBad, isLoop, State.breaks]

theorem State.syncBad_lbrk {a : Src} : s.syncBad f (.lbrk a) = (s.breaks f (.lbrk a) && f.loops.isEmpty) := by
  simp [State.syncBad, waitCapable, State.loopBad, isLoop]

theorem State.loopBreak_of_cons {e : LoopEntry} {rest : List LoopEntry} (stack : (s.ctx f.core f.ctx).loops = e :: rest) :
    s.loopBreak f = (s.modCtx f.core f.ctx fun k => { k with loops := rest }).modFocus fun g => { g with lr := some (e.stop + 1) } := by
  rw [State.loopBreak, stack]

/-- An admitted form that breaks traps without an entry, and else pops the innermost one. -/
theorem exec_break_cases {name : String} {go : Focus → State} (ran : exec i s = syncSlot i name s go) (breaks : go f = s.loopBreak f)
    (bad : s.syncBad f i = f.loops.isEmpty) (h : s.admits f i) :
    (f.loops = [] → exec i s = .next (s.raise f (partOf i) 0x01 0)) ∧
      ∀ e rest, f.loops ≠ [] → (s.ctx f.core f.ctx).loops = e :: rest →
        exec i s = .next ((s.modCtx f.core f.ctx fun k => { k with loops := rest }).modFocus fun g => { g with lr := some (e.stop + 1) }) := by
  refine ⟨fun none => ran.trans (syncSlot_bad name _ h.1 (by rw [bad, none]; rfl)), fun e rest some stack => ?_⟩
  rw [ran, syncSlot_go name _ h (by rw [bad]; exact List.isEmpty_eq_false_iff.mpr some), breaks, State.loopBreak_of_cons stack]

end

/-! ### The count at a loop's end (R109) -/

section
variable {i : BitVec 12} {e : LoopEntry}

theorem countAt_cons_done {rest : List LoopEntry} (here : e.stop = i) (last : e.count.toNat ≤ (e.idx + 1).toNat) : countAt i (e :: rest) = countAt i rest := by
  rw [countAt, if_pos here, if_neg (Nat.not_lt.mpr last)]

theorem countAt_cons_continues {rest : List LoopEntry} (here : e.stop = i) (more : (e.idx + 1).toNat < e.count.toNat) :
    countAt i (e :: rest) = ({ e with idx := e.idx + 1 } :: rest, some e.start) := by
  rw [countAt, if_pos here, if_pos more]

theorem countAt_elsewhere {out : List LoopEntry} (elsewhere : ∀ e ∈ out.head?, e.stop ≠ i) : countAt i out = (out, none) := by
  cases out with
  | nil => rfl
  | cons e rest => rw [countAt, if_neg (elsewhere e rfl)]

/-- Entries that end here with their last iteration are popped. -/
theorem countAt_done_append {done : List LoopEntry} (h : ∀ e ∈ done, e.stop = i ∧ e.count.toNat ≤ (e.idx + 1).toNat) (out : List LoopEntry) :
    countAt i (done ++ out) = countAt i out := by
  induction done with
  | nil => rfl
  | cons e done ih =>
    obtain ⟨⟨here, last⟩, rest⟩ := List.forall_mem_cons.mp h
    rw [List.cons_append, countAt_cons_done here last, ih rest]

end

/-! ### The loop indices (R107) -/

theorem Focus.lp_of_some {f : Focus} {n : BitVec 3} {e : LoopEntry} (h : f.loops[n.toNat]? = some e) : f.lp n = e.idx := by
  rw [Focus.lp, h]
  rfl

theorem Focus.lp_of_none {f : Focus} {n : BitVec 3} (h : f.loops.length ≤ n.toNat) : f.lp n = 0 := by
  rw [Focus.lp, List.getElem?_eq_none h]
  rfl

theorem Focus.lp_congr {f g : Focus} (h : g.loops = f.loops) (n : BitVec 3) : g.lp n = f.lp n := by
  rw [Focus.lp, Focus.lp, h]

/-- The bundle in issue is still there with the loop indices it reads. -/
def State.keepsLoopsRead (s t : State) : Prop := t.focus.map Focus.loops = s.focus.map Focus.loops

section
variable {s t u : State}

theorem State.keepsLoopsRead_of_focus (h : t.focus = s.focus) : s.keepsLoopsRead t := congrArg (Option.map Focus.loops) h

/-- A change of the bundle in issue that leaves its loop indices. -/
theorem State.keepsLoopsRead_modFocus {g : Focus → Focus} (hg : ∀ f, (g f).loops = f.loops) (h : s.keepsLoopsRead t) : s.keepsLoopsRead (t.modFocus g) := by
  refine Eq.trans ?_ h
  change (t.focus.map g).map Focus.loops = _
  rw [Option.map_map]
  exact congrArg (fun k => t.focus.map k) (funext hg)

theorem State.keepsLoopsRead_loopPush (s : State) (f : Focus) (i : Instr) : s.keepsLoopsRead (s.loopPush f i) := by
  by_cases zero : s.loopCount f i = 0
  · rw [State.loopPush_of_zero zero]
    exact State.keepsLoopsRead_modFocus (fun _ => rfl) rfl
  · rw [State.loopPush_of_ne_zero zero]
    exact State.keepsLoopsRead_of_focus rfl

theorem State.keepsLoopsRead_loopBreak (s : State) (f : Focus) : s.keepsLoopsRead (s.loopBreak f) := by
  unfold State.loopBreak
  split
  · exact State.keepsLoopsRead_modFocus (fun _ => rfl) (State.keepsLoopsRead_of_focus rfl)
  · rfl

theorem State.keepsLoopsRead_syncSlot {i : Instr} {name : String} {go : Focus → State} (h : syncSlot i name s go = .next t)
    (effect : ∀ f, s.keepsLoopsRead (go f)) : s.keepsLoopsRead t := by
  obtain ⟨f, -, rfl | ⟨c, a, rfl⟩⟩ := slotRun_cases h
  · exact effect f
  · exact State.keepsLoopsRead_of_focus rfl

theorem exec_loopEndCount_keepsLoopsRead (h : exec .loopEndCount s = .next t) : s.keepsLoopsRead t := by
  change execLoopEndCount s = _ at h
  unfold execLoopEndCount at h
  split at h
  · split at h
    · injection h with h
      subst h
      exact State.keepsLoopsRead_modFocus (fun _ => rfl) (State.keepsLoopsRead_of_focus rfl)
    · contradiction
  · contradiction

/-- A form that changes the loop stack leaves the indices that its bundle reads (R107). -/
theorem exec_loopForm_keepsLoopsRead {i : Instr} (loop : isLoopForm i = true) (h : exec i s = .next t) : s.keepsLoopsRead t := by
  cases i with
  | loop | loopx => exact State.keepsLoopsRead_syncSlot h fun f => s.keepsLoopsRead_loopPush f _
  | lbrk a =>
    refine State.keepsLoopsRead_syncSlot h fun f => ?_
    split
    · exact s.keepsLoopsRead_loopBreak f
    · rfl
  | lbrkU => exact State.keepsLoopsRead_syncSlot h s.keepsLoopsRead_loopBreak
  | _ => contradiction

end

end Sys2Proof.Machine

open Sys2Proof Sys2Proof.Machine in
/-- Settles O31, form by form: `loop` and `loopx` share one check and one step, and so do the breaks. -/
theorem loopForms : Obligations.LoopForms := by
  intro s f a b len pushed into loops breaks
  refine ⟨fun h => syncSlot_go "NOP_Y" _ h rfl, exec_loop_cases (name := "LOOP") rfl rfl, exec_loop_cases (name := "LOOPX") rfl rfl,
    fun zero h => ?_, fun more => ?_, exec_break_cases (name := "LBRK_U") rfl rfl State.syncBad_lbrkU⟩
  · have stays : s.breaks f (.lbrk a) = false := by rw [State.breaks, zero]; rfl
    refine (syncSlot_go "LBRK" _ h (by rw [State.syncBad_lbrk, stays, Bool.false_and])).trans (congrArg _ ?_)
    rw [stays, if_neg Bool.false_ne_true]
  · have taken : s.breaks f (.lbrk a) = true := bne_iff_ne.mpr more
    exact exec_break_cases (name := "LBRK") rfl (if_pos taken) (by rw [State.syncBad_lbrk, taken, Bool.true_and])

open Sys2Proof Sys2Proof.Machine in
/-- Settles O38: the entries that are done are popped one by one, and the first of the others decides. -/
theorem loopEndsCountFromTheInside : Obligations.LoopEndsCountFromTheInside := by
  intro i done out finished
  refine ⟨fun e here more => ?_, fun elsewhere => ?_⟩
  · rw [countAt_done_append finished, countAt_cons_continues here more]
  · rw [countAt_done_append finished, countAt_elsewhere elsewhere]

open Sys2Proof Sys2Proof.Machine in
/-- Settles O39: a bundle takes the stack of its context with it when it comes into issue, and no form that changes the stack changes that copy. -/
theorem loopIndices : Obligations.LoopIndices := by
  refine ⟨fun s c k w n => ⟨fun e at_n => Focus.lp_of_some at_n, fun short => Focus.lp_of_none short, rfl⟩, fun s t f i form hf h g hg n => ?_⟩
  have kept : s.keepsLoopsRead t := by
    obtain loop | rfl := form
    · exact exec_loopForm_keepsLoopsRead loop h
    · exact exec_loopEndCount_keepsLoopsRead h
  rw [State.keepsLoopsRead, hf, hg] at kept
  exact Focus.lp_congr (Option.some.inj kept) n

end

section
/-!
PROOFS. A scalar load of a byte that the memory lists twice (R54, R104): no run has such a memory.
-/

namespace Sys2Proof.Machine

/-- lbu of local byte 0 into x1. -/
def byteLoad : LdRec :=
  { kind := .scal 1 false, ea := 0, dest := .x 1, wen := allLanes, tagWant := none, unit := none }

/-- Its read, due from cycle 0 on (R167). -/
def byteRead : Access :=
  { due := 0, byTick := false, party := .scalar, always := false, prio := 0, ctx := 0, lk := 0, issued := 0, part := 1, eng := 0, bundle := 0,
    rd := byteLoad.chunks, wr := [], tagR := none, tagW := [], zero := [], hold := none, act := .load byteLoad, lost := [] }

/-- After reset with that read due on core 0, and the byte listed twice in memory, each time as 1. -/
def listedTwice : State :=
  { State.reset.modCore 0 (fun k => { k with acc := [byteRead] }) with mem := [(localPa 0 0, 1), (localPa 0 0, 1)] }

theorem listedTwice_core : listedTwice.core 0 = { Core.reset with acc := [byteRead] } := by
  rw [← State.reset_core 0]
  exact State.core_modCore State.reset 0 fun k => { k with acc := [byteRead] }

theorem listedTwice_ctx (k : CtxId) : listedTwice.ctx 0 k = Ctx.reset := by
  rw [State.ctx, listedTwice_core]
  exact Core.reset_ctx k

theorem listedTwice_byte : listedTwice.mem.byte (localPa 0 0) = 1 := rfl

/-- The load reads the span of its chunk, to which both listings add. -/
theorem listedTwice_loaded : ((listedTwice.performAll 0).core 0).results.map (fun r => r.val.extractLsb' 0 8) = [2] := by
  decide +kernel

end Sys2Proof.Machine

open Sys2Proof Sys2Proof.Machine in
/-- Refutes O60, by its scalar load: it compares the byte loaded with `Memory.byte`, the first listing of an address, where the model loads by `Memory.span`, the sum of all listings. In `listedTwice` they differ. A memory in canonical form lists no address twice, and no run leaves that form (O6, O7), but the statement is over every state and asks for no such form. This says nothing about its other clauses. -/
theorem not_loadsAndStoresPerform : ¬ Obligations.LoadsAndStoresPerform := by
  intro h
  obtain ⟨-, loads, -⟩ := h
  have alone : (listedTwice.core 0).acc = [byteRead] := congrArg Core.acc listedTwice_core
  have running : (listedTwice.core 0).frozen = false := congrArg Core.frozen listedTwice_core
  have free (k : CtxId) : (listedTwice.ctx 0 k).debt = 0 := congrArg Ctx.debt (listedTwice_ctx k)
  have empty : (listedTwice.ctx 0 0).wh = [] := congrArg Ctx.wh (listedTwice_ctx 0)
  obtain ⟨scalar, -⟩ := loads listedTwice 0 byteRead byteLoad [] alone (Nat.zero_le _) running free rfl (by decide)
    (congrArg (List.map _) empty) (fun _ none => nomatch none)
  obtain ⟨lands, -⟩ := scalar 1 false rfl (.inl rfl) rfl (by decide)
  obtain ⟨r, sent, -, -, -, -, -, -, bytes, -⟩ := lands fun _ _ => rfl
  have stated : r.val.extractLsb' 0 8 = 1 := (bytes 0 (by decide)).trans listedTwice_byte
  have loaded : r.val.extractLsb' 0 8 ∈ [2] := listedTwice_loaded ▸ List.mem_map_of_mem sent
  rw [stated] at loaded
  exact absurd loaded (by decide)

end

section
/-!
PROOFS. The LFSR states of a context: its lanes apart, their step (R125), and their seeds (R127).
-/

namespace Sys2Proof.Machine

/-! ### One lane set among 128 (R125) -/

theorem lfsrMask_bit (i : Nat) : (0xFFFF : Lfsrs).getLsbD i = decide (i < 16) := by
  have ones : Nat.testBit 0xFFFF i = decide (i < 16) := Nat.testBit_two_pow_sub_one 16 i
  rw [BitVec.ofNat_eq_ofNat, BitVec.getLsbD_ofNat, ones, Bool.and_eq_right_iff_imp, decide_eq_true_eq, decide_eq_true_eq]
  exact fun inside => Nat.lt_trans inside (by decide)

/-- A bit of the states after a set: from the new state within the lane's 16 bits, as it was outside them. -/
theorem lfsrSet_bit (s : Lfsrs) (v : BitVec 16) (l : Nat) {k : Nat} (hk : k < 2048) :
    (lfsrSet s l v).getLsbD k = if l * 16 ≤ k ∧ k < l * 16 + 16 then v.getLsbD (k - l * 16) else s.getLsbD k := by
  simp only [lfsrSet, BitVec.getLsbD_or, BitVec.getLsbD_and, BitVec.getLsbD_not, BitVec.getLsbD_shiftLeft, BitVec.getLsbD_setWidth, lfsrMask_bit, hk]
  split
  next inside =>
    simp [show ¬ k < l * 16 by omega, show k - l * 16 < 16 by omega, show k - l * 16 < 2048 by omega]
  next outside =>
    obtain below | above : k < l * 16 ∨ 16 ≤ k - l * 16 := by omega
    · simp [below]
    · simp [above]

theorem lfsrGet_lfsrSet_same (s : Lfsrs) (v : BitVec 16) {l : Nat} (h : l < 128) : lfsrGet (lfsrSet s l v) l = v := by
  ext i hi
  rw [lfsrGet, BitVec.getElem_extractLsb', lfsrSet_bit s v l (by omega), if_pos (by omega), Nat.add_sub_cancel_left, BitVec.getLsbD_eq_getElem hi]

theorem lfsrGet_lfsrSet_of_ne (s : Lfsrs) (v : BitVec 16) {l j : Nat} (h : j < 128) (ne : j ≠ l) : lfsrGet (lfsrSet s l v) j = lfsrGet s j := by
  ext i hi
  rw [lfsrGet, lfsrGet, BitVec.getElem_extractLsb', BitVec.getElem_extractLsb', lfsrSet_bit s v l (by omega), if_neg (by omega)]

theorem FpEnv.draw_sr (v : FpEnv) (l : Nat) :
    v.draw .sr l = ((lfsrGet v.lfsr l).toNat, { v with lfsr := lfsrSet v.lfsr l (lfsrStep (lfsrGet v.lfsr l)) }) := rfl

/-! ### The step (R125) -/

theorem lfsrStep_eq (s : BitVec 16) :
    lfsrStep s = (s >>> 1) ||| ((BitVec.ofBool (s.getLsbD 0 ^^ s.getLsbD 2 ^^ s.getLsbD 3 ^^ s.getLsbD 5)).zeroExtend 16 <<< 15) := by
  have top (b : Bool) : (if b then 1 else 0 : BitVec 16) = (BitVec.ofBool b).zeroExtend 16 := by cases b <;> rfl
  rw [lfsrStep, top]
  simp only [Bool.xor_assoc]

/-- Only 0 and 1 are shifted to 0, and the step of 1 sets bit 15. -/
theorem lfsrStep_ne_zero {s : BitVec 16} (h : s ≠ 0) : lfsrStep s ≠ 0 := by
  intro stepped
  obtain ⟨shifted, -⟩ := BitVec.or_eq_zero_iff.mp stepped
  have one : s = 1 := by bv_omega
  exact absurd (one ▸ stepped) (by decide)

/-! ### The seeds (R127) -/

theorem lfsrGet_lfsrSeed (seed : BitVec 16) {l : Nat} (h : l < 128) :
    lfsrGet (lfsrSeed seed) l = if seed + BitVec.ofNat 16 l = 0 then 0xFFFF else seed + BitVec.ofNat 16 l := by
  have sum : (seed.toNat + l) % 65536 = (seed + BitVec.ofNat 16 l).toNat := by
    rw [BitVec.toNat_add, BitVec.toNat_ofNat, Nat.add_mod_mod]
  rw [lfsrGet, Nat.mul_comm, lfsrSeed, extract_pack 16 128 2048 _ l h (by decide), sum]
  generalize seed + BitVec.ofNat 16 l = state
  by_cases zero : state = 0
  · rw [zero]; rfl
  · have : state.toNat ≠ 0 := fun h => zero (BitVec.eq_of_toNat_eq h)
    simp only [if_neg zero, if_neg this, BitVec.ofNat_toNat, BitVec.setWidth_eq]

theorem lfsrGet_lfsrSeed_ne_zero (seed : BitVec 16) {l : Nat} (h : l < 128) : lfsrGet (lfsrSeed seed) l ≠ 0 := by
  rw [lfsrGet_lfsrSeed seed h]
  split
  · decide
  · assumption

end Sys2Proof.Machine

open Sys2Proof Sys2Proof.Machine in
/-- Settles O12: a draw sets one lane, which no other lane sees; a step to zero would have to start at zero; a seed that falls on zero is replaced. -/
theorem lfsrStates : Obligations.LfsrStates := by
  refine ⟨fun v l j hl hj => ?_, fun _ => lfsrStep_ne_zero, lfsrStep_eq, fun seed _ => lfsrGet_lfsrSeed_ne_zero seed⟩
  rw [FpEnv.draw_sr]
  refine ⟨rfl, ?_⟩
  split
  next same =>
    rw [same]
    exact lfsrGet_lfsrSet_same v.lfsr _ hl
  next other => exact lfsrGet_lfsrSet_of_ne v.lfsr _ hj other

end

section
/-!
PROOFS. Vector forms on masks and by masks: comparison, mask logic and counts, vsel (R151 to R154), and the moves and rank forms with operands of class x or tables (R163, R217, R220, R221).
-/

namespace Sys2Proof.Machine

/-! ### Counting and searching a mask (R154) -/

theorem popUpTo_eq_countP (m : MaskReg) (n : Nat) : popUpTo m n = (List.range n).countP fun k => m.getLsbD k := by
  induction n with
  | zero => rfl
  | succ n ih =>
    rw [popUpTo, ih, List.range_succ, List.countP_append, List.countP_singleton]
    cases m.getLsbD n <;> rfl

theorem firstSet_of_none (m : MaskReg) (n k : Nat) (clear : ∀ j, k ≤ j → j < k + n → m.getLsbD j = false) : firstSet m n k = k + n := by
  induction n generalizing k with
  | zero => rfl
  | succ n ih =>
    have here : m.getLsbD k = false := clear k (by omega) (by omega)
    have above : firstSet m n (k + 1) = k + 1 + n := ih (k + 1) fun j _ _ => clear j (by omega) (by omega)
    rw [firstSet, here, if_neg Bool.false_ne_true, above]
    omega

theorem firstSet_of_lowest {m : MaskReg} {p : Nat} (set : m.getLsbD p = true) (n k : Nat) (low : k ≤ p) (high : p < k + n)
    (clear : ∀ j, k ≤ j → j < p → m.getLsbD j = false) : firstSet m n k = p := by
  induction n generalizing k with
  | zero => omega
  | succ n ih =>
    rw [firstSet]
    obtain rfl | below : p = k ∨ k < p := by omega
    · rw [if_pos set]
    · rw [clear k (Nat.le_refl k) below, if_neg Bool.false_ne_true]
      exact ih (k + 1) below (by omega) fun j _ => clear j (by omega)

/-! ### Lanes of a register value (R69) -/

theorem splat_lane (x : Lane) {l : Nat} (h : l < 128) : (splat x).extractLsb' (32 * l) 32 = x := by
  have constant : List.replicate 128 x.toNat = (List.range 128).map fun _ => x.toNat := by
    rw [List.map_const', List.length_range]
  rw [splat, pack, constant, extract_pack 32 128 4096 _ l h (by decide), BitVec.ofNat_toNat, BitVec.setWidth_eq]

/-- Two register values that agree on every lane are one. -/
theorem VReg.eq_of_lanes {v w : VReg} (same : ∀ l < 128, v.extractLsb' (32 * l) 32 = w.extractLsb' (32 * l) 32) : v = w := by
  apply BitVec.eq_of_getLsbD_eq
  intro i hi
  have bit := congrArg (·.getLsbD (i % 32)) (same (i / 32) (by omega))
  simpa only [BitVec.getLsbD_extractLsb', Nat.mod_lt i (by decide : 0 < 32), decide_true, Bool.true_and, Nat.div_add_mod] using bit

/-! ### Selection by a mask (R115, R152) -/

theorem evenLanes_bit : ∀ l < 128, (0x55555555555555555555555555555555 : MaskReg).getLsbD l = decide (l % 2 = 0) := by decide

/-- Lane l is governed by bit gov(l, F): for 64-bit elements the odd lanes take the bit of the even lane below. -/
theorem govLanes_bit (w : Nat) (m : MaskReg) {l : Nat} (h : l < 128) : (govLanes w m).getLsbD l = m.getLsbD (govLane w l) := by
  unfold govLanes govLane
  split
  · simp only [BitVec.getLsbD_or, BitVec.getLsbD_and, BitVec.getLsbD_shiftLeft, evenLanes_bit l h, evenLanes_bit (l - 1) (by omega), h]
    obtain even | odd : l % 2 = 0 ∨ l % 2 = 1 := by omega
    · obtain rfl | below : l = 0 ∨ (l - 1) % 2 = 1 := by omega
      · simp
      · simp [even, below]
    · simp [odd, show l ≠ 0 by omega, show (l - 1) % 2 = 0 by omega]
  · rfl

/-- The 32 bits of a lane are all its mask bit. -/
theorem laneBits_bit (m : MaskReg) {l j : Nat} (hl : l < 128) (hj : j < 32) : (laneBits m).getLsbD (32 * l + j) = m.getLsbD l := by
  have lane : (laneBits m).extractLsb' (32 * l) 32 = BitVec.ofNat 32 (if m.getLsbD l then 0xFFFFFFFF else 0) :=
    extract_pack 32 128 4096 _ l hl (by decide)
  have bit := congrArg (·.getLsbD j) lane
  simp only [BitVec.getLsbD_extractLsb', hj, decide_true, Bool.true_and] at bit
  rw [bit]
  cases m.getLsbD l
  · exact BitVec.getLsbD_zero
  · exact (BitVec.getLsbD_allOnes (v := 32)).trans (decide_eq_true hj)

theorem vSel_lane (i : VIn) {l : Nat} (h : l < 128) :
    (vSel i).val.extractLsb' (32 * l) 32 =
      if i.mask.getLsbD (govLane i.fmt.width l) then i.a.extractLsb' (32 * l) 32 else i.b.extractLsb' (32 * l) 32 := by
  apply BitVec.eq_of_getLsbD_eq
  intro j hj
  have inside : 32 * l + j < 4096 := by omega
  simp only [vSel, BitVec.getLsbD_extractLsb', BitVec.getLsbD_or, BitVec.getLsbD_and, BitVec.getLsbD_not, laneBits_bit _ h hj, govLanes_bit _ _ h, inside]
  cases i.mask.getLsbD (govLane i.fmt.width l) <;> simp [BitVec.getLsbD_extractLsb']

theorem govLane_lt (w : Nat) {l : Nat} (h : l < 128) : govLane w l < 128 := by
  unfold govLane
  split
  · omega
  · exact h

theorem vSel_of_allOnes {i : VIn} (h : i.mask = BitVec.allOnes 128) : (vSel i).val = i.a := by
  refine VReg.eq_of_lanes fun l hl => ?_
  rw [vSel_lane i hl, h, BitVec.getLsbD_allOnes, decide_eq_true (govLane_lt _ hl), if_pos rfl]

/-! ### A form without draws (R126, R144) -/

theorem State.drawn_self (s : State) (f : Focus) : s.drawn f (s.ctx f.core f.ctx).lfsr = s := by
  have context : (s.core f.core).setCtx f.ctx (s.ctx f.core f.ctx) = s.core f.core :=
    congrArg (fun xs => { s.core f.core with ctxs := xs }) (Vector.set_getElem_self f.ctx.isLt)
  have core : s.setCore f.core (s.core f.core) = s :=
    congrArg (fun xs => { s with cores := xs }) (Vector.set_getElem_self f.core.isLt)
  exact (congrArg (s.setCore f.core) context).trans core

/-- The result of a form that draws nothing and raises no flag. -/
theorem State.resultV_pure (s : State) (f : Focus) (o : VOps) (lat : Nat) (unit : Fin 8) {r : VOut} (pure : r.env = (s.vin f o).env) :
    s.resultV f o lat unit r = s.result f (vPart o) lat (destV o.d o.nw) r.val r.wen (some unit) 0 := by
  have draws : s.drawn f r.env.lfsr = s := pure ▸ s.drawn_self f
  rw [State.resultV, draws, pure]
  rfl

end Sys2Proof.Machine

open Sys2Proof Sys2Proof.Machine in
/-- Settles O22: each form is a mask form of its bitwise operation. -/
theorem maskForms : Obligations.MaskForms := by
  refine fun s f o => ⟨fun _ => ⟨rfl, rfl⟩, fun _ => rfl, ?_⟩
  rintro i g (⟨rfl, rfl⟩ | ⟨rfl, rfl⟩ | ⟨rfl, rfl⟩ | ⟨rfl, rfl⟩) h
  · exact ⟨_, fun _ _ => BitVec.getLsbD_and, slotGo_go "MAND" _ h⟩
  · exact ⟨_, fun _ _ => BitVec.getLsbD_or, slotGo_go "MOR" _ h⟩
  · exact ⟨_, fun _ _ => BitVec.getLsbD_xor, slotGo_go "MXOR" _ h⟩
  · refine ⟨_, fun k hk => ?_, slotGo_go "MNOT" _ h⟩
    rw [BitVec.getLsbD_not, decide_eq_true hk, Bool.true_and]

open Sys2Proof Sys2Proof.Machine in
/-- Settles O23: both forms splat their number, which is the count of the set bits and the place of the lowest. -/
theorem maskCounts : Obligations.MaskCounts := by
  intro s f o
  refine ⟨fun h => ⟨_, fun l hl => ?_, slotGo_go "MPOP" _ h⟩, fun h => ⟨_, slotGo_go "MFIRST" _ h, fun k hk set clear l hl => ?_, fun clear l hl => ?_⟩⟩
  · rw [splat_lane _ hl, popUpTo_eq_countP]
  · rw [splat_lane _ hl, firstSet_of_lowest set 128 0 (Nat.zero_le k) (by omega) fun j _ => clear j]
  · rw [splat_lane _ hl, firstSet_of_none _ 128 0 fun j _ _ => clear j (by omega)]

open Sys2Proof Sys2Proof.Machine in
/-- Settles O24: each lane is chosen by the bit that governs it, and vsel draws nothing. -/
theorem vectorSelect : Obligations.VectorSelect := by
  intro s f o h
  refine ⟨(vSel (s.vin f o)).val, fun l hl => vSel_lane _ hl, fun zero => vSel_of_allOnes ?_, ?_⟩
  · exact (congrArg (s.ctx f.core f.ctx).mr zero).trans (Ctx.mr_zero _)
  · exact (vecForm_go h).trans (congrArg _ (s.resultV_pure f o 2 (vUnit o) rfl))

open Sys2Proof Sys2Proof.Machine in
/-- Settles O26, form by form; the table vrecon reads is the one its number names. -/
theorem vectorCompareMoveAndRankForms : Obligations.VectorCompareMoveAndRankForms := by
  refine ⟨fun _ _ _ => slotGo_go "VCMP" _, fun s f o =>
    ⟨slotGo_go "VFILL" _, slotGo_go "VEXT" _, slotGo_go "VINS" _, slotGo_go "VRANK" _, fun h t ht => ?_, slotGo_go "VRTAB" _⟩⟩
  obtain rfl : t = ⟨o.fn.toNat % 4, Nat.mod_lt _ (by decide)⟩ := Fin.ext ht
  exact slotGo_go "VRECON" _ h

end

section
/-!
PROOFS. What slot forms leave of the memories (R167, R174), and the load-slot and store-slot forms at their issue (R170, R173, R174, R179 to R186).
-/

namespace Sys2Proof.Machine

theorem State.memEq.sameMemory {s t : State} (h : s.memEq t) : s.sameMemory t := by
  obtain ⟨mem, host, tags, poison⟩ := h
  exact ⟨fun a => by rw [mem], fun a => by rw [host], tags, poison⟩

section
variable {s : State} {f : Focus} {i : Instr} {part align : Nat} (closed : s.unwatched f)
include closed

/-- A form that loads into latch bl reads at issue + 1, or traps. -/
theorem exec_load_cases {kind : LdKind} {ea : Nat} {dest : Dest} {wen : MaskReg} {tag : Option (BitVec 16)} :
    let l : LdRec := { kind := kind, ea := ea, dest := dest, wen := wen, tagWant := tag, unit := some 3 }
    (s.admits f i → exec i s = .next (s.load f part align .load l)) → s.admits f i →
      (s.reachesPad f ea align l.touched → exec i s = .next (s.addAccess f.core (s.loadAccess f part .load l))) ∧
        ∀ bad, accessBad ((s.core f.core).lcOf f.ctx) ea align l.touched = some bad → exec i s = .next (s.raise f part 0x03 (BitVec.ofNat 64 bad)) :=
  fun ran h => ⟨fun reach => (ran h).trans (congrArg _ (State.load_of_reaches closed reach)),
    fun _ fails => (ran h).trans (congrArg _ (State.load_of_bad fails))⟩

/-- A form that stores takes an entry, or traps. -/
theorem exec_storeAt_cases {ea : Nat} {touched : List Nat} {touch : Nat → Bool} {w : WKind}
    (ran : s.admits f i → exec i s = .next (s.storeAt f part ea align touched touch w)) (h : s.admits f i) :
    (s.reachesPad f ea align touched → s.hasRoom f → exec i s = .next (s.withhold f part w)) ∧
    (s.reachesPad f ea align touched → ¬s.hasRoom f → exec i s = .next (s.raise f part 0x12 0)) ∧
      ∀ bad, accessBad ((s.core f.core).lcOf f.ctx) ea align touched = some bad → exec i s = .next (s.raise f part 0x03 (BitVec.ofNat 64 bad)) :=
  ⟨fun reach room => (ran h).trans (congrArg _ (State.storeAt_of_room closed reach room)),
    fun reach full => (ran h).trans (congrArg _ (State.storeAt_of_full reach full)), fun _ fails => (ran h).trans (congrArg _ (State.storeAt_of_bad fails))⟩

/-- A form that stores chunks and no tag checks the chunks that it writes. -/
theorem exec_storeW_cases {ea : Nat} {wr : List ChunkW} (ran : s.admits f i → exec i s = .next (s.storeW f part ea align wr none)) (h : s.admits f i) :
    (s.reachesPad f ea align (wr.map ChunkW.addr) → s.hasRoom f → exec i s = .next (s.withhold f part (.store wr none))) ∧
    (s.reachesPad f ea align (wr.map ChunkW.addr) → ¬s.hasRoom f → exec i s = .next (s.raise f part 0x12 0)) ∧
      ∀ bad, accessBad ((s.core f.core).lcOf f.ctx) ea align (wr.map ChunkW.addr) = some bad →
        exec i s = .next (s.raise f part 0x03 (BitVec.ofNat 64 bad)) :=
  exec_storeAt_cases closed (fun h => (ran h).trans (congrArg _ State.storeW_untagged)) h

end

/-! ### Forms that choose by an operand -/

section
variable {s : State} {f : Focus}

theorem exec_vlds_of_stride {o : LdOps} (stride : (s.readX f o.b).toNat % 64 = 0) (h : s.admits f (.vlds o)) :
    exec (.vlds o) s = .next (s.load f 5 64 .load
      { kind := .vlds (s.readX f o.b), ea := s.eaL f o, dest := destV o.d o.nw, wen := s.maskL f o.mask, tagWant := none, unit := some 3 }) :=
  (slotGo_go "VLDS" _ h).trans (congrArg _ (if_neg (Decidable.not_not.mpr stride)))

theorem exec_vlds_of_bad_stride {o : LdOps} (stride : (s.readX f o.b).toNat % 64 ≠ 0) (h : s.admits f (.vlds o)) :
    exec (.vlds o) s = .next (s.raise f 5 0x03 (BitVec.ofNat 64 (s.eaL f o))) :=
  (slotGo_go "VLDS" _ h).trans (congrArg _ (if_pos stride))

variable {o : StOps}

/-- The chunks of vst: 512 bytes under the lanes of its mask (R182). -/
def State.vstChunks (s : State) (f : Focus) (o : StOps) : List ChunkW :=
  chunksFor (s.eaT f o) 512 (s.readV f o.b).toNat fun i => (s.maskL f o.mask).getLsbD (i / 4)

theorem exec_vst_of_untagged (untagged : o.k = false) (h : s.admits f (.vst o)) :
    exec (.vst o) s = .next (s.storeW f 6 (s.eaT f o) 512 (s.vstChunks f o) none) :=
  (slotGo_go "VST" _ h).trans (by rw [untagged]; rfl)

/-- With K, vst also checks EA, where its tag goes (R173, R183). -/
theorem exec_vst_of_tagged (tagged : o.k = true) (h : s.admits f (.vst o)) :
    exec (.vst o) s = .next (s.storeAt f 6 (s.eaT f o) 512 ((s.vstChunks f o).map ChunkW.addr ++ [s.eaT f o]) (touches (s.vstChunks f o))
      (.store (s.vstChunks f o) (some (tileOf (s.eaT f o), bits (s.readX f o.c) 0 16)))) :=
  (slotGo_go "VST" _ h).trans (by rw [tagged]; rfl)

theorem exec_vstm_of_nibbles (nibbles : o.nb = true) (h : s.admits f (.vstm o)) :
    exec (.vstm o) s = .next (s.storeW f 6 (s.eaT f o) 64
      (if s.maskL f o.mask = 0 then [] else [⟨s.eaT f o, bits (s.readV f o.b) (512 * o.fn.toNat) 512, s.maskL f o.mask, 0⟩]) none) :=
  (slotGo_go "VSTM" _ h).trans (congrArg _ (if_pos nibbles))

theorem exec_vstm_of_bytes (bytes : o.nb = false) (h : s.admits f (.vstm o)) :
    exec (.vstm o) s = .next (s.storeW f 6 (s.eaT f o) 128
      (chunksFor (s.eaT f o) 128 ((s.readV f o.b).toNat >>> (1024 * o.fn.toNat) % 2 ^ 1024) fun i => (s.maskL f o.mask).getLsbD i) none) :=
  (slotGo_go "VSTM" _ h).trans (congrArg _ (if_neg (Bool.eq_false_iff.mp bytes)))

theorem exec_vsts_of_stride (stride : (s.readX f o.c).toNat % 64 = 0) (h : s.admits f (.vsts o)) :
    exec (.vsts o) s = .next (s.storeW f 6 (s.eaT f o) 64 ((List.range 8).flatMap fun j =>
      chunksFor (BitVec.ofNat 64 (s.eaT f o) + BitVec.ofNat 64 j * s.readX f o.c).toNat 64 (bits (s.readV f o.b) (512 * j) 512 : BitVec 512).toNat
        fun i => (s.maskL f o.mask).getLsbD (16 * j + i / 4)) none) :=
  (slotGo_go "VSTS" _ h).trans (congrArg _ (if_neg (Decidable.not_not.mpr stride)))

theorem exec_vsts_of_bad_stride (stride : (s.readX f o.c).toNat % 64 ≠ 0) (h : s.admits f (.vsts o)) :
    exec (.vsts o) s = .next (s.raise f 6 0x03 (BitVec.ofNat 64 (s.eaT f o))) :=
  (slotGo_go "VSTS" _ h).trans (congrArg _ (if_pos stride))

end

end Sys2Proof.Machine

open Sys2Proof Sys2Proof.Machine in
/-- Settles O58: the memories, tags and poison marks stay the same data, so every byte reads as it did. -/
theorem slotFormsKeepMemory : Obligations.SlotFormsKeepMemory :=
  fun _ _ _ slot ran => (exec_slot_memEq slot ran).sameMemory

open Sys2Proof Sys2Proof.Machine in
/-- Settles O25: each load-slot form is a load of its record, each store-slot form a store of its entry, once its operand chooses which. -/
theorem vectorLoadsAndStores : Obligations.VectorLoadsAndStores := by
  refine ⟨fun s f o closed => ?_, fun s f o closed => ?_⟩
  · exact ⟨exec_load_cases closed (slotGo_go "VLD" _), exec_load_cases closed (slotGo_go "VLDB" _),
      fun stride => exec_load_cases closed (exec_vlds_of_stride stride), exec_vlds_of_bad_stride,
      exec_load_cases closed (slotGo_go "VLDM" _), exec_load_cases closed (slotGo_go "VLDH" _), exec_load_cases closed (slotGo_go "LDTAG" _)⟩
  · exact ⟨fun untagged => exec_storeW_cases closed (exec_vst_of_untagged untagged), fun tagged => exec_storeAt_cases closed (exec_vst_of_tagged tagged),
      fun nibbles => exec_storeW_cases closed (exec_vstm_of_nibbles nibbles), fun bytes => exec_storeW_cases closed (exec_vstm_of_bytes bytes),
      fun stride => exec_storeW_cases closed (exec_vsts_of_stride stride), exec_vsts_of_bad_stride,
      exec_storeW_cases closed (slotGo_go "VSTH" _), exec_storeAt_cases closed (slotGo_go "TZERO" _),
      exec_storeAt_cases closed (slotGo_go "AMO" _), exec_storeAt_cases closed (slotGo_go "AMO_CAS" _)⟩

end

section
/-!
PROOFS. The rows of engine, withhold buffer and ring when what they wait for is due (R175, R230, R233, R236, R244, R248, R273, R282, R285, R288).
-/

namespace Sys2Proof.Machine

section
variable {s : State} {c : CoreId}

/-! ### Withhold buffer and engine (R175, R230, R233, R248) -/

theorem exec_withholdRelease {k : CtxId} {e : WEntry} {es : List WEntry}
    (due : ((s.ctx c k).wh.filter fun e => e.rel.any fun r => decide (r ≤ (s.core c).cyc)) = e :: es) :
    exec (.withholdRelease c k) s = .next ((s.modCtx c k fun x =>
      { x with wh := x.wh.filter fun e => !e.rel.any fun r => decide (r ≤ (s.core c).cyc) }).release c k (s.core c).cyc (e :: es)) := by
  change execWithholdRelease c k s = _
  rw [execWithholdRelease, due]
  rfl

section
variable {m : EngCmd}

/-- The first command of the queue whose next piece stands on this cycle (R230). -/
def Core.pieceDue (k : Core) : Option EngCmd := k.cmds.find? fun m => decide (m.next < m.pieces) && decide (m.slot + m.next ≤ k.cyc)

/-- The state after the next piece of a command has taken its slot. -/
def State.tookSlot (s : State) (c : CoreId) (m : EngCmd) : State := s.modCore c fun k => k.modCmd m fun x => { x with next := x.next + 1 }

theorem exec_enginePiece_of_rrd (due : (s.core c).pieceDue = some m) (rrd : m.kind = .rrd) :
    exec (.enginePiece c) s = .next ((s.tookSlot c m).sendRrd c m m.next) := by
  change execEnginePiece c s = _
  unfold execEnginePiece
  dsimp only
  rw [show List.find? _ _ = some m from due]
  dsimp only
  rw [rrd]
  rfl

theorem exec_enginePiece_of_local (due : (s.core c).pieceDue = some m) (reads : m.kind ≠ .rrd) :
    exec (.enginePiece c) s = .next ((s.tookSlot c m).addAccess c (m.access (s.core c).cyc (m.pieceReads m.next) [] (.piece m m.next))) := by
  change execEnginePiece c s = _
  unfold execEnginePiece
  dsimp only
  rw [show List.find? _ _ = some m from due]
  dsimp only
  split
  · exact absurd ‹m.kind = .rrd› reads
  · rfl

theorem exec_cpRedInplaceEnqueue (due : (s.core c).cmdWait.find? (fun m => decide (m.slot ≤ (s.core c).cyc)) = some m) (room : (s.core c).cmds.length < 16) :
    exec (.cpRedInplaceEnqueue c) s = .next (s.modCore c fun k =>
      { k with cmdWait := k.cmdWait.erase m, cmds := k.cmds ++ [{ m with slot := max k.cyc k.afterQueue }] }) := by
  have free : ¬(s.core c).queueFull = true := by
    rw [Core.queueFull, decide_eq_true_eq]
    omega
  change execCpRedInplaceEnqueue c s = _
  simp only [execCpRedInplaceEnqueue, due, if_neg free]

theorem exec_mcastOutcome (due : (s.core c).mcasts.find? (fun m => decide (m.due ≤ (s.core c).cyc) && m.settled) = some m) :
    exec (.mcastOutcome c) s = .next (s.modCore c fun k => ({ k with mcasts := k.mcasts.filter fun x => !x.same m }).addResult
      ⟨m.ctx, m.lk, m.issued, 7, (s.core c).cyc, false, destX m.d m.nw, m.failed.zeroExtend 4096, allLanes, some 5, 0, false⟩) := by
  change execMcastOutcome c s = _
  simp only [execMcastOutcome, due]

end

/-! ### Timed accesses and reports (R236, R244) -/

section
variable {w : Wire} (due : s.wire.find? (fun w => w.target == c && decide (w.acc.due ≤ s.now)) = some w)
include due

theorem exec_timedRemoteArrival_of_owned (owned : ∀ b ∈ w.acc.banks, s.ownedBy c w.part b = true) :
    exec (.timedRemoteArrival c) s = .next (State.addAccess { s with wire := s.wire.erase w } c w.acc) := by
  have not_foreign : ∀ b ∈ w.acc.banks, ¬(!s.ownedBy c w.part b) = true := fun b hb => by rw [owned b hb]; decide
  have none_foreign : w.acc.banks.find? (fun b => !State.ownedBy { s with wire := s.wire.erase w } c w.part b) = none :=
    List.find?_eq_none.mpr fun b hb => not_foreign b hb
  change execTimedRemoteArrival c s = _
  simp only [execTimedRemoteArrival, due, none_foreign]

theorem exec_timedRemoteArrival_of_foreign (foreign : ∃ b ∈ w.acc.banks, s.ownedBy c w.part b = false) :
    ∃ a, exec (.timedRemoteArrival c) s = .next (State.failAcc { s with wire := s.wire.erase w } c w.acc 0x21 a) := by
  obtain ⟨b, hb, not_owned⟩ := foreign
  obtain ⟨first, found⟩ : ∃ b, w.acc.banks.find? (fun b => !State.ownedBy { s with wire := s.wire.erase w } c w.part b) = some b :=
    Option.isSome_iff_exists.mp (List.find?_isSome.mpr ⟨b, hb, congrArg not not_owned⟩)
  refine ⟨podAddr s.pf.pkg.toNat (localPa c (((w.acc.claims.find? fun q => bankOf q.2 == first).map Prod.snd).getD 0)), ?_⟩
  change execTimedRemoteArrival c s = _
  simp only [execTimedRemoteArrival, due, found]

end

theorem exec_remoteFailureReport {r : Report} (due : (s.core c).reportDue s.now = some r) :
    exec (.remoteFailureReport c) s = .next (s.modCore c fun k => { k with reports := k.reports.erase r }.addTrap r.trap) := by
  change execRemoteFailureReport c s = _
  rw [execRemoteFailureReport, due]

/-! ### The ring (R273, R282, R285, R288) -/

theorem exec_haulPassage (due : s.passageDue c = true) :
    exec (.haulPassage c) s = .next
      (if skipAt (stageOf c) s.now ≤ 5 then s.passSystem c (skipAt (stageOf c) s.now) else s.passUser c (skipAt (stageOf c) s.now)) := by
  change execHaulPassage c s = _
  rw [execHaulPassage, if_pos due]

theorem exec_boardExhausted {u : HaulOp} (out : (s.core c).exhausted s.now = some u) :
    exec (.boardExhausted c) s = .next (((s.dropHaul c u).wakeAt c u.ctx (u.after + 362)).addResult c
      (u.result (u.after + 362) true false (destX u.d u.nw) (BitVec.ofNat 4096 0x10000))) := by
  change execBoardExhausted c s = _
  rw [execBoardExhausted, out]

theorem exec_fallbackCheck {u : HaulOp} (due : (s.core c).fbCheck = some u) :
    exec (.fallbackCheck c) s = .next ((s.putHaul c u { u with after := u.after + 360 }).fbRead c { u with after := 0 } 0
      ((s.core c).cyc + 2 * fbTime c u.skip + 2)) := by
  change execFallbackCheck c s = _
  rw [execFallbackCheck, due]

end

end Sys2Proof.Machine

open Sys2Proof Sys2Proof.Machine in
/-- Settles O45, row by row. -/
theorem engineWithholdAndHaulRows : Obligations.EngineWithholdAndHaulRows := by
  refine ⟨fun s c k => ?_, fun s c => ?_⟩
  · exact ⟨fun _ _ due => exec_withholdRelease due, fun _ due => ⟨exec_enginePiece_of_rrd due, exec_enginePiece_of_local due⟩,
      fun _ due room => exec_cpRedInplaceEnqueue due room, fun _ due => exec_mcastOutcome due,
      fun _ due => ⟨exec_timedRemoteArrival_of_owned due, exec_timedRemoteArrival_of_foreign due⟩, fun _ due => exec_remoteFailureReport due⟩
  · exact ⟨fun due => ⟨fun sys => (exec_haulPassage due).trans (congrArg _ (if_pos sys)),
        fun user => (exec_haulPassage due).trans (congrArg _ (if_neg (Nat.not_le.mpr user)))⟩,
      fun _ out => exec_boardExhausted out, fun _ due => exec_fallbackCheck due⟩

end

section
/-!
PROOFS. The landing entries of untimed requests: replies that are due, races, timeouts and spoilt replies (R177, R239 to R242, R247, R269).
-/

namespace Sys2Proof.Machine

theorem Core.landing_of_due {k : Core} {e : Fin 64} {kind : UKind} {r : UReq} {p : Reply} (req : k.land[e].req = some r)
    (held : k.land[e].freeAt = none) (is : r.kind = kind) (due : ∃ d, r.due = some d ∧ d ≤ k.cyc) (reply : r.reply = some p) :
    k.landing e kind = some (r, p) := by
  have come : r.isDue k.cyc = true := by
    obtain ⟨d, at_d, past⟩ := due
    rw [UReq.isDue, at_d]
    exact decide_eq_true past
  simp only [Core.landing, req, held, reply, if_pos (And.intro is come), Option.map_some]

theorem Core.timedOut_of_late {k : Core} {e : Fin 64} {r : UReq} (req : k.land[e].req = some r) (held : k.land[e].freeAt = none)
    (missing : r.reply = none) (late : timeoutPeriods ≤ r.late) : k.timedOut e = some r := by
  simp only [Core.timedOut, req, held]
  exact if_pos ⟨by rw [missing]; rfl, late⟩

section
variable {s : State} {c : CoreId} {e : Fin 64} {r : UReq} {p : Reply}

/-! ### Replies that are due (R240 to R242) -/

/-- The state whose landing entry is freed on the next cycle (R239). -/
def State.freed (s : State) (c : CoreId) (e : Fin 64) : State := s.modCore c fun k => k.freeNext e

theorem State.freed_cyc : ((s.freed c e).core c).cyc = (s.core c).cyc := by
  rw [State.freed, State.core_modCore]
  rfl

/-- The state in which a reply's race mark has become a trap (R269). -/
def State.raced (s : State) (c : CoreId) (e : Fin 64) (r : UReq) (a : Word) : State := (s.freed c e).modCore c fun k => k.addTrap (r.trap 0x40 a)

/-- The write of the chunks that a gld has brought (R240). -/
def UReq.landingWrite (r : UReq) (cyc : Nat) (p : Reply) : Access :=
  { due := cyc, byTick := false, party := .landing, always := false, prio := 0, ctx := r.ctx, lk := r.lk, issued := r.issued, part := 7, eng := 1,
    bundle := r.bundle, rd := [], wr := zipWrites (chunkVas r.loc p.data.length) p.data, tagR := none, tagW := [], zero := [], hold := none,
    act := .write, lost := [] }

/-- The old value that a gatom returns (R177, R242). -/
def UReq.value (r : UReq) (cyc : Nat) (p : Reply) : Result :=
  ⟨r.ctx, r.lk, r.issued, 7, cyc, false, destX r.d r.nw, (amoOld r.fp p.old).zeroExtend 4096, allLanes, some 5, 0, true⟩

theorem exec_gldLanding (due : (s.core c).landing e .gld = some (r, p)) :
    (∀ a, p.race = some a → exec (.gldLanding c e) s = .next (s.raced c e r a)) ∧
      (p.race = none → exec (.gldLanding c e) s = .next ((s.freed c e).addAccess c (r.landingWrite (s.core c).cyc p))) := by
  constructor
  · intro a race
    change execGldLanding c e s = _
    simp only [execGldLanding, due, race]
    rfl
  · intro quiet
    rw [← State.freed_cyc (e := e)]
    change execGldLanding c e s = _
    simp only [execGldLanding, due, quiet]
    rfl

theorem exec_gstAck (due : (s.core c).landing e .gst = some (r, p)) :
    (∀ a, p.race = some a → exec (.gstAck c e) s = .next (s.raced c e r a)) ∧ (p.race = none → exec (.gstAck c e) s = .next (s.freed c e)) := by
  constructor
  · intro a race
    change execGstAck c e s = _
    simp only [execGstAck, due, race]
    rfl
  · intro quiet
    change execGstAck c e s = _
    simp only [execGstAck, due, quiet]
    rfl

/-- A gatom reaches neither register nor latch just when its destination is x0 (R242). -/
theorem UReq.reachesNothing_iff : (!r.nw && r.d == 0) = true ↔ r.nw = false ∧ r.d = 0 := by
  rw [Bool.and_eq_true, Bool.not_eq_true', beq_iff_eq]

theorem exec_gatomValue (due : (s.core c).landing e .gatom = some (r, p)) :
    (∀ a, p.race = some a → exec (.gatomValue c e) s = .next (s.raced c e r a)) ∧
      (p.race = none → exec (.gatomValue c e) s = .next
        (if !r.nw && r.d == 0 then s.freed c e else (s.freed c e).addResult c (r.value (s.core c).cyc p))) := by
  constructor
  · intro a race
    change execGatomValue c e s = _
    simp only [execGatomValue, due, race]
    rfl
  · intro quiet
    rw [← State.freed_cyc (e := e), apply_ite Host.Outcome.next]
    change execGatomValue c e s = _
    simp only [execGatomValue, due, quiet]
    rfl

/-! ### Timeouts and spoilt replies (R247) -/

/-- What a timeout makes of its core. -/
def Core.timeOut (k : Core) (e : Fin 64) (r : UReq) : Core :=
  ({ k.modEntry e LandEntry.free with timeout := satAdd k.timeout 1 }).addTrap (r.trap 0x14 (BitVec.ofNat 64 r.va))

theorem Core.timeOut_entry (k : Core) : (k.timeOut e r).land[e] = k.land[e].free :=
  Vector.getElem_set_self e.isLt

theorem exec_landingTimeout (out : (s.core c).timedOut e = some r) : exec (.landingTimeout c e) s = .next (s.modCore c fun k => k.timeOut e r) := by
  change execLandingTimeout c e s = _
  rw [execLandingTimeout, out]
  rfl

theorem exec_spoil {m : ReplyMsg} (spoilt : s.replies.find? (fun m => decide (m.at_ ≤ s.now) && m.core == c.val && !s.replyFits m) = some m) :
    exec (.spoil c) s = .next (({ s with replies := s.replies.erase m }).modCore c fun k => { k with spoil := satAdd k.spoil 1 }) := by
  change execSpoil c s = _
  rw [execSpoil, spoilt]

end

end Sys2Proof.Machine

open Sys2Proof Sys2Proof.Machine in
/-- Settles O46: a due reply is what its entry lands, a late request what it times out, and a reply at the head that fits no request is the first such. -/
theorem landingRows : Obligations.LandingRows := by
  intro s c e r p k u due raced
  have lands {kind : UKind} (h : due kind) : k.landing e kind = some (r, p) := by
    obtain ⟨req, held, is, come, reply⟩ := h
    exact Core.landing_of_due req held is come reply
  refine ⟨fun h => exec_gldLanding (lands h), fun h => exec_gstAck (lands h), fun h => ?_, fun req held missing late => ?_, fun m rest queue come mine misfit => ?_,
    fun m spoilt => exec_spoil spoilt⟩
  · obtain ⟨race, value⟩ := exec_gatomValue (lands h)
    refine ⟨race, fun quiet nw d => (value quiet).trans (congrArg _ (if_pos (UReq.reachesNothing_iff.mpr ⟨nw, d⟩))),
      fun quiet wanted => (value quiet).trans (congrArg _ (if_neg fun none_reached => ?_))⟩
    obtain ⟨nw, d⟩ := UReq.reachesNothing_iff.mp none_reached
    exact wanted.elim (fun onlyLatch => Bool.noConfusion (nw.symm.trans onlyLatch)) (· d)
  · have entry : ((s.modCore c fun k => k.timeOut e r).core c).land[e] = k.land[e].free := by rw [State.core_modCore, Core.timeOut_entry]
    refine ⟨_, exec_landingTimeout (Core.timedOut_of_late req held missing late), ?_, ?_, ?_, ?_, ?_⟩
    · rw [entry]; rfl
    · rw [entry]; rfl
    · rw [entry]; rfl
    · rw [State.core_modCore]; rfl
    · rw [State.core_modCore]; rfl
  · have first : s.replies.find? (fun m => decide (m.at_ ≤ s.now) && m.core == c.val && !s.replyFits m) = some m := by
      rw [queue]
      exact List.find?_cons_of_pos (by simp [come, mine, misfit])
    rw [exec_spoil first, queue, List.erase_cons_head]

end

section
/-!
PROOFS. The matrix forms at their issue (R191, R202 to R212, R225) and the release of accumulators (R196, R197, R213).
-/

namespace Sys2Proof.Machine

section
variable {s : State} {f : Focus}

/-! ### A planned form (R191, R319) -/

theorem State.matRun_of_passes {p : MatPlan} {also : State → State} (passes : s.planFails f p = none) :
    s.matRun f p also = (also (s.planEnter f p)).backTrap f (p.loads && p.path == .face) := by
  rw [State.matRun, passes]

theorem State.matRun_of_fails {p : MatPlan} {also : State → State} {c : Nat} {a : Word} (fails : s.planFails f p = some (c, a)) :
    s.matRun f p also = (s.raise f 4 c a).backTrap f p.loads := by
  rw [State.matRun, fails]

/-- A matrix form that runs a plan enters when the plan passes its checks, u being what it then answers, and traps with the check that fails. -/
theorem exec_plan_cases {i : Instr} {p : MatPlan} {also : State → State} {u : State}
    (ran : s.admits f i → s.matBad f i = false → exec i s = .next (s.matRun f p also)) (changed : also (s.planEnter f p) = u)
    (h : s.admits f i) (legal : s.matBad f i = false) :
    (s.planFails f p = none → exec i s = .next (u.backTrap f (p.loads && p.path == .face))) ∧
      ∀ c a, s.planFails f p = some (c, a) → exec i s = .next ((s.raise f 4 c a).backTrap f p.loads) := by
  refine ⟨fun passes => ?_, fun c a fails => ?_⟩
  · rw [ran h legal, State.matRun_of_passes passes, changed]
  · rw [ran h legal, State.matRun_of_fails fails]

end

/-! ### A table without some of its keys -/

theorem tabGet?_filter_of_kept {α : Type} {l : List (Nat × α)} {keep : Nat → Bool} {k : Nat} (kept : keep k = true) :
    tabGet? (l.filter fun p => keep p.1) k = tabGet? l k := by
  have same : (fun p : Nat × α => decide (keep p.1 = true ∧ (p.1 == k) = true)) = fun p => p.1 == k := by
    funext p
    by_cases at_ : p.1 = k <;> simp [at_, kept]
  rw [tabGet?, tabGet?, List.find?_filter, same]

theorem tabGet?_filter_of_dropped {α : Type} {l : List (Nat × α)} {keep : Nat → Bool} {k : Nat} (dropped : keep k = false) :
    tabGet? (l.filter fun p => keep p.1) k = none := by
  have absent : (l.filter fun p => keep p.1).find? (fun p => p.1 == k) = none := by
    rw [List.find?_eq_none]
    intro p listed at_
    have kept := (List.mem_filter.mp listed).2
    rw [beq_iff_eq.mp at_, dropped] at kept
    exact Bool.noConfusion kept
  rw [tabGet?, absent, Option.map_none]

/-! ### Names released (R196, R213) -/

theorem accKey_name {n r : Nat} (row : r < 64) : accKey n r / 64 = n := by
  unfold accKey
  omega

/-- One name released: no row of its current version stands, and the name is clear. -/
def LaunchCore.relName (l : LaunchCore) (n : Nat) : LaunchCore :=
  { l with
    slotCur := tabDel l.slotCur n
    accOver := l.accOver.filter (fun r => r.1 / 64 != n)
    accClr := l.accClr ||| (1 <<< n)
    accErrOver := l.accErrOver.filter (fun e => e / 129 / 64 != n) }

section
variable {l : LaunchCore} {n p r : Nat} {ns : List Nat} {c : CtxId}

theorem LaunchCore.relNames_eq : l.relNames c ns = (ns.foldl LaunchCore.relName l).hold c ns := rfl

theorem LaunchCore.relName_accClr (name : p < 24) : (l.relName n).accClr.getLsbD p = (l.accClr.getLsbD p || decide (p = n)) := by
  have bit : ((1 : BitVec 24) <<< n).getLsbD p = decide (p = n) := by
    change (1#24 <<< n).getLsbD p = _
    rw [BitVec.getLsbD_shiftLeft, BitVec.getLsbD_one, Bool.eq_iff_iff]
    simp only [Bool.and_eq_true, Bool.not_eq_true', decide_eq_true_eq, decide_eq_false_iff_not]
    omega
  exact (BitVec.getLsbD_or ..).trans (congrArg _ bit)

/-- A release makes every row of its name read zero, and no other name's. -/
theorem LaunchCore.relName_accRow (name : p < 24) (row : r < 64) : (l.relName n).accRow p r = if p = n then 0 else l.accRow p r := by
  have rows : (l.relName n).accOver = l.accOver.filter fun q => q.1 / 64 != n := rfl
  unfold LaunchCore.accRow
  rw [rows, LaunchCore.relName_accClr name]
  by_cases released : p = n
  · rw [tabGet?_filter_of_dropped (keep := fun k => k / 64 != n) (by simp [accKey_name row, released])]
    simp [released]
  · rw [tabGet?_filter_of_kept (keep := fun k => k / 64 != n) (by simp [accKey_name row, released])]
    simp only [released, decide_false, Bool.or_false, if_false]
    rfl

theorem LaunchCore.hold_accRow : (l.hold c ns).accRow p r = l.accRow p r := by
  unfold LaunchCore.hold
  induction ns generalizing l with
  | nil => rfl
  | cons n ns ih =>
    rw [List.foldl_cons, ih]
    split <;> rfl

theorem LaunchCore.foldl_relName_accRow (name : p < 24) (row : r < 64) :
    (ns.foldl LaunchCore.relName l).accRow p r = if p ∈ ns then 0 else l.accRow p r := by
  induction ns generalizing l with
  | nil => rfl
  | cons n ns ih =>
    rw [List.foldl_cons, ih, LaunchCore.relName_accRow name row]
    by_cases later : p ∈ ns
    · rw [if_pos later, if_pos (List.mem_cons_of_mem n later)]
    · simp only [List.mem_cons, later, or_false, if_false]

theorem LaunchCore.relNames_accRow (name : p < 24) (row : r < 64) :
    (l.relNames c ns).accRow p r = if p ∈ ns then 0 else l.accRow p r := by
  rw [LaunchCore.relNames_eq, LaunchCore.hold_accRow, LaunchCore.foldl_relName_accRow name row]

end

/-! ### mrel (R197, R213) -/

section
variable {s : State} {f : Focus} {o : MOps} {l : LaunchCore} {ns : List Nat}

/-- Of a form that touches no memory, takes no path and writes no name, only its own checks can fail when its names stand below ACCS and no other context holds them. -/
theorem State.matFail_of_names {own : List (Nat × Word)} (hl : (s.core f.core).lcOf f.ctx = some l)
    (legal : ∀ n ∈ ns, n < l.accs ∧ l.heldByOther f.ctx n = false) : s.matFail f ns own [] none false = lowest own := by
  have below : ns.any (fun n => decide (n ≥ l.accs)) = false := by
    rw [List.any_eq_false]
    intro n named
    simpa using (legal n named).1
  have free : ns.any (fun n => l.heldByOther f.ctx n) = false := by
    rw [List.any_eq_false]
    intro n named
    simp [(legal n named).2]
  unfold State.matFail
  simp [hl, below, free, accessBad]

/-- The names that mrel releases (R213). -/
def State.relOperand (s : State) (f : Focus) (o : MOps) : List Nat := (List.range 24).filter fun n => (s.readX f o.a).getLsbD n

/-- The state with names released. -/
def State.released (s : State) (f : Focus) (ns : List Nat) : State :=
  s.modCore f.core fun k => { k.modLc (s.focusLk f) (fun l => l.relNames f.ctx ns) with dbg := { k.dbg with profLast := s.profTag f } }

theorem State.released_lcOf (hl : (s.core f.core).lcOf f.ctx = some l) :
    ((s.released f ns).core f.core).lcOf f.ctx = some (l.relNames f.ctx ns) := by
  have key := Core.lcOf_key hl
  have bound : ((s.core f.core).ctx f.ctx).lk = some (s.focusLk f) := by
    rw [State.focusLk, State.ctx, key, Option.getD_some]
  rw [State.released, State.core_modCore]
  exact (Core.lcOf_of rfl rfl).trans ((Core.lcOf_modLc bound fun l => l.relNames_lk _ _).trans (congrArg _ hl))

theorem exec_mrel (h : s.admits f (.mrel o)) (hl : (s.core f.core).lcOf f.ctx = some l)
    (legal : ∀ n ∈ s.relOperand f o, n < l.accs ∧ l.heldByOther f.ctx n = false) :
    exec (.mrel o) s = .next (if (s.relOperand f o).any (fun n => (s.core f.core).toLand (s.focusLk f) n) then s.raise f 4 0x11 0
      else s.released f (s.relOperand f o)) := by
  refine (matSlot_go "MREL" _ h rfl).trans (congrArg _ ?_)
  change (match s.matFail f (s.relOperand f o)
      (if (s.relOperand f o).any (fun n => (s.core f.core).toLand (s.focusLk f) n) then [(0x11, 0)] else []) [] none false with
    | some (c, a) => s.raise f 4 c a
    | none => s.released f (s.relOperand f o)) = _
  rw [State.matFail_of_names hl legal]
  cases (s.relOperand f o).any fun n => (s.core f.core).toLand (s.focusLk f) n <;> rfl

end

end Sys2Proof.Machine

open Sys2Proof Sys2Proof.Machine in
/-- Settles O28: once the names are legal, a row that is still to land is the one check left, and a release clears name by name. -/
theorem matrixRelease : Obligations.MatrixRelease := by
  intro s f o l _ h hl legal
  have ran := exec_mrel h hl legal
  refine ⟨fun landed => ?_, fun ⟨n, named, owed⟩ => ?_⟩
  · have none_owed : ¬(s.relOperand f o).any (fun n => (s.core f.core).toLand (s.focusLk f) n) = true := fun some_owed => by
      obtain ⟨n, named, owed⟩ := List.any_eq_true.mp some_owed
      rw [landed n named] at owed
      exact Bool.noConfusion owed
    refine ⟨_, _, ran.trans (congrArg _ (if_neg none_owed)), State.released_lcOf hl, fun n name r row => ?_⟩
    exact LaunchCore.relNames_accRow name row
  · exact ran.trans (congrArg _ (if_pos (List.any_eq_true.mpr ⟨n, named, owed⟩)))

open Sys2Proof Sys2Proof.Machine in
/-- Settles O27: each form is the run of its plan, with what it changes at once. -/
theorem matrixForms : Obligations.MatrixForms := fun _ _ _ =>
  ⟨exec_plan_cases (matSlot_go "MCFG" _) rfl, exec_plan_cases (matSlot_go "MWBANK" _) rfl, exec_plan_cases (matSlot_go "MWLD" _) rfl,
    exec_plan_cases (matSlot_go "MSC" _) rfl, exec_plan_cases (matSlot_go "MMA" _) rfl, exec_plan_cases (matSlot_go "MMA_T" _) rfl,
    exec_plan_cases (matSlot_go "MMA_R" _) rfl, exec_plan_cases (matSlot_go "MMR" _) rfl, exec_plan_cases (matSlot_go "MATT" _) rfl,
    exec_plan_cases (matSlot_go "MXT" _) rfl, exec_plan_cases (matSlot_go "MDR" _) rfl⟩

end

section
/-!
PROOFS. The engine commands at their issue (R229 to R235, R248).
-/

namespace Sys2Proof.Machine

section
variable {s : State} {f : Focus} {i : Instr} {o : COps}

/-! ### A form of the copy slot with its checks (R228, R319) -/

/-- A copy slot form with an illegal operand value raises trap 0x01 (R92, R232). -/
theorem copySlot_bad (name : String) (go : Focus → State) (h : s.focus = some f) (hb : s.copyBad f i = true) :
    copySlot i name s go = .next (s.raise f (partOf i) 0x01 0) := by
  unfold copySlot slotRun State.formCheck
  rw [h]
  simp [hb]

/-- The trap of the failing check with the lowest cause, or what the form does when every check passes (R319). -/
def State.checked (s : State) (f : Focus) (fails : List (Nat × Word)) (done : State) : State :=
  match lowest fails with
  | some (c, a) => s.raise f 7 c a
  | none => done

theorem exec_checked_cases {fails : List (Nat × Word)} {done : State} (ran : exec i s = .next (s.checked f fails done)) :
    (lowest fails = none → exec i s = .next done) ∧ ∀ c a, lowest fails = some (c, a) → exec i s = .next (s.raise f 7 c a) := by
  refine ⟨fun passes => ?_, fun c a fails => ?_⟩
  · rw [ran, State.checked, passes]
  · rw [ran, State.checked, fails]

/-! ### The engine queue (R230) -/

/-- The failing check of a full engine queue (R230). -/
def Core.queueFails (k : Core) : List (Nat × Word) := if k.cmds.length ≥ 16 then [(0x11, 0)] else []

/-- A command stands last in the queue, with its first slot (R230). -/
def State.queued (s : State) (f : Focus) (m : EngCmd) : State :=
  s.modCore f.core fun k => { k with cmds := k.cmds ++ [{ m with slot := max ((s.core f.core).cyc + 15) (s.core f.core).afterQueue }] }

theorem State.enqueue_eq_checked {fails : List (Nat × Word)} {m : EngCmd} :
    s.enqueue f fails m = s.checked f (fails ++ (s.core f.core).queueFails) (s.queued f m) := by
  have room : (if (s.core f.core).queueFull then [(0x11, 0)] else []) = (s.core f.core).queueFails := by
    simp only [Core.queueFull, Core.queueFails, decide_eq_true_eq]
  rw [State.enqueue, room]
  rfl

/-- An admitted engine command whose operand values are legal joins the queue, or traps. -/
theorem exec_queued_cases {p : List (Nat × Word) × EngCmd} (ran : s.admits f i → s.copyBad f i = false → exec i s = .next (s.enqueue f p.1 p.2))
    (h : s.admits f i) (legal : s.copyBad f i = false) :
    (lowest (p.1 ++ (s.core f.core).queueFails) = none → exec i s = .next (s.queued f p.2)) ∧
      ∀ c a, lowest (p.1 ++ (s.core f.core).queueFails) = some (c, a) → exec i s = .next (s.raise f 7 c a) :=
  exec_checked_cases ((ran h legal).trans (congrArg _ State.enqueue_eq_checked))

/-! ### cp.red (R232, R233) -/

theorem State.copyBad_cpRed : s.copyBad f (.cpRed o) = (!o.inplace && s.readX f o.c == s.readX f o.b) := rfl

theorem exec_cpRed_of_queued (queued : o.inplace = false) (h : s.admits f (.cpRed o)) (legal : s.copyBad f (.cpRed o) = false) :
    exec (.cpRed o) s = .next (s.enqueue f (s.redPlan f o).1 (s.redPlan f o).2) := by
  refine (copySlot_go "CP_RED" _ h legal).trans (congrArg _ ?_)
  rw [queued, if_neg Bool.false_ne_true]

/-- Into its own local source a cp.red that is not in place traps (R232). -/
theorem exec_cpRed_of_own_source (queued : o.inplace = false) (h : s.admits f (.cpRed o)) (own : s.readX f o.c = s.readX f o.b) :
    exec (.cpRed o) s = .next (s.raise f 7 0x01 0) :=
  copySlot_bad "CP_RED" _ h.1 (by rw [State.copyBad_cpRed, queued, own, beq_self_eq_true]; rfl)

/-- In place a cp.red is withheld (R233). -/
theorem exec_cpRed_of_inplace (inplace : o.inplace = true) (h : s.admits f (.cpRed o)) :
    exec (.cpRed o) s = .next (s.checked f ((s.redPlan f o).1 ++ s.whFull f) (s.withhold f 7 (.cpRed (s.redPlan f o).2))) := by
  refine (copySlot_go "CP_RED" _ h (by rw [State.copyBad_cpRed, inplace]; rfl)).trans (congrArg _ ?_)
  rw [inplace, if_pos rfl]
  rfl

/-! ### mcast (R248) -/

/-- An mcast takes its place in the queue and reads its member table at issue + 1 (R230, R248). -/
def State.mcastQueued (s : State) (f : Focus) (o : COps) : State :=
  s.modCore f.core fun k =>
    { k with
      cmds := k.cmds ++ [s.mcastCmd f o]
      mcasts := k.mcasts ++ [s.mcastCmd f o]
      acc := k.acc ++ [f.access s 7 1 .engine (s.cycle f + 1) [(s.readX f o.b).toNat] [] (.table (s.mcastCmd f o))] }

theorem exec_mcast (h : s.admits f (.mcast o)) : exec (.mcast o) s = .next (s.checked f (s.mcastFails f o) (s.mcastQueued f o)) :=
  copySlot_go "MCAST" _ h rfl

end

end Sys2Proof.Machine

open Sys2Proof Sys2Proof.Machine in
/-- Settles O29: each command is a run of its checks, and then joins the queue or, in place, the withhold buffer. -/
theorem engineCommands : Obligations.EngineCommands := by
  intro s f o k first full queued
  exact ⟨exec_queued_cases (copySlot_go "CP" _), exec_queued_cases (copySlot_go "RWR" _), exec_queued_cases (copySlot_go "RRD" _),
    fun apart => exec_queued_cases (exec_cpRed_of_queued apart), exec_cpRed_of_own_source,
    fun inplace h => exec_checked_cases (exec_cpRed_of_inplace inplace h), fun h => exec_checked_cases (exec_mcast h)⟩

end

section
/-!
PROOFS. The untimed and remote forms at their issue, the translation of a handle, and the starts and selections of transfer programs (R174, R237 to R242, R249, R306).
-/

namespace Sys2Proof.Machine

section
variable {s : State} {f : Focus} {o : COps}

/-! ### Forms that are withheld or take a landing entry (R237, R239 to R242) -/

theorem exec_ramo (h : s.admits f (.ramo o)) :
    exec (.ramo o) s = .next (s.checked f (s.ramoFails f o) (s.withhold f 7
      (.ramo (podOf (s.handleOf f o.a) (s.readX f o.b).toNat) (s.readX f o.b).toNat o.fn.toNat (o.fmt == .fp32) (lo32 (s.readX f o.c))))) :=
  copySlot_go "RAMO" _ h rfl

/-- What a form makes of the state with the landing entry it takes (R239). -/
def State.withEntry (s : State) (f : Focus) (take : Fin 64 → State) : State :=
  match (s.core f.core).freeEntry with
  | some e => take e
  | none => s

theorem State.withEntry_of_some {take : Fin 64 → State} {e : Fin 64} (free : (s.core f.core).freeEntry = some e) : s.withEntry f take = take e := by
  rw [State.withEntry, free]

/-- A request of a block takes its entry and leaves at once (R240, R241). -/
def State.leaves (s : State) (f : Focus) (r : UReq) (ready : Bool) (e : Fin 64) : State :=
  (s.takeEntry f.core e r).sendReq f.core e r ready (bareChunks r.pas)

/-- The read of a gst's data at issue + 1 (R241). -/
def State.gstRead (s : State) (f : Focus) (o : COps) (e : Fin 64) : Access :=
  f.access s 7 6 .engine (s.cycle f + 1) (chunkVas (s.readX f o.c).toNat o.num) [] (.gstRd e.val)

/-- A gatom takes its entry, and waits in the withhold buffer (R239, R242). -/
def State.gatomTakes (s : State) (f : Focus) (o : COps) (e : Fin 64) : State :=
  (s.takeEntry f.core e (s.ureq f o .gatom (s.readX f o.b).toNat 0 [podOf (s.handleOf f o.a) (s.readX f o.b).toNat])).withhold f 7 (.gatom e.val)

theorem exec_gld (h : s.admits f (.gld o)) :
    exec (.gld o) s = .next (s.checked f (s.blockFails f o true false) (s.withEntry f (s.leaves f (s.blockReq f o .gld) true))) := by
  refine (copySlot_go "GLD" _ h rfl).trans (congrArg _ ?_)
  rw [State.checked, State.withEntry]
  cases lowest (s.blockFails f o true false) <;> cases (s.core f.core).freeEntry <;> rfl

theorem exec_gst (h : s.admits f (.gst o)) :
    exec (.gst o) s = .next (s.checked f (s.blockFails f o false true)
      (s.withEntry f fun e => (s.leaves f (s.blockReq f o .gst) false e).addAccess f.core (s.gstRead f o e))) := by
  refine (copySlot_go "GST" _ h rfl).trans (congrArg _ ?_)
  rw [State.checked, State.withEntry]
  cases lowest (s.blockFails f o false true) <;> cases (s.core f.core).freeEntry <;> rfl

theorem exec_gatom (h : s.admits f (.gatom o)) :
    exec (.gatom o) s = .next (s.checked f (s.gatomFails f o) (s.withEntry f (s.gatomTakes f o))) := by
  refine (copySlot_go "GATOM" _ h rfl).trans (congrArg _ ?_)
  rw [State.checked, State.withEntry]
  cases lowest (s.gatomFails f o) <;> cases (s.core f.core).freeEntry <;> rfl

/-- With an entry free, an admitted form that takes one performs when its checks pass. -/
theorem exec_entry_of_free {i : Instr} {fails : List (Nat × Word)} {take : Fin 64 → State} {e : Fin 64}
    (ran : s.admits f i → exec i s = .next (s.checked f fails (s.withEntry f take))) (free : (s.core f.core).freeEntry = some e)
    (h : s.admits f i) (passes : lowest fails = none) : exec i s = .next (take e) :=
  ((exec_checked_cases (ran h)).1 passes).trans (congrArg _ (State.withEntry_of_some free))

/-! ### xlat (R64, R238) -/

/-- Is a walk under way for the handle of an xlat (R238)? -/
def State.walks (s : State) (f : Focus) (o : COps) : Bool := (s.core f.core).walks.any fun w => w.ctx == f.ctx && w.d == bits o.d 0 3

/-- The walk that an xlat starts, with its end (R238). -/
def State.walkOf (s : State) (f : Focus) (o : COps) (ends : Nat) : Walk :=
  { ctx := f.ctx, lk := s.focusLk f, issued := s.cycle f, bundle := f.idx, d := bits o.d 0 3, va := (s.readX f o.a).toNat, ends := ends, res := none }

/-- The state with the walk of an xlat under way. -/
def State.walkStarted (s : State) (f : Focus) (o : COps) (ends : Nat) : State :=
  (s.modCore f.core fun k => { k with walks := k.walks ++ [s.walkOf f o ends] }).tickFree

/-- The ticks that the walk of an xlat takes (R64). -/
def State.walkTicks (s : State) (f : Focus) (o : COps) : Nat :=
  if s.cached (dieOf f.core) (s.partOf (s.focusLk f)) (s.readX f o.a).toNat then Config.walkTime s.freeCtr % 160 + 1 else Config.walkTime s.freeCtr + 1

theorem State.walkTicks_pos : 0 < s.walkTicks f o := by
  unfold State.walkTicks
  split <;> exact Nat.succ_pos _

theorem exec_xlat (h : s.admits f (.xlat o)) :
    exec (.xlat o) s = .next (if s.walks f o then s.raise f 7 0x11 0 else s.walkStarted f o (s.now + s.walkTicks f o)) :=
  copySlot_go "XLAT" _ h rfl

/-! ### lnk.run and lnk.sel (R249, R306) -/

section
variable {l : Launch} {prog variant b : Nat} (bound : s.launch (s.focusLk f) = some l)
  (effective : ((s.readX f o.b).toNat + s.lnkShift l) % 2 ^ 64 = b)
include bound effective

/-- lnk.run answers its status; a start with status 0 that is neither running nor pending becomes the pending one (R249). -/
theorem exec_lnkRun (named : (s.readX f o.a).toNat = prog) (h : s.admits f (.lnkRun o)) :
    exec (.lnkRun o) s = .next ((if s.runStatus l prog b = 0 ∧ !l.pod.startIs s.now prog b then
      s.modPod l.key fun p => { p with pendRun := some (prog, b), ready := none } else s).resultX f 7 2 o.d o.nw 5 (BitVec.ofNat 64 (s.runStatus l prog b))) := by
  subst effective named
  refine (copySlot_go "LNK_RUN" _ h rfl).trans (congrArg _ ?_)
  rw [bound]

/-- lnk.sel answers its status; a selection with status 0 becomes the pending one (R306). -/
theorem exec_lnkSel (named : (s.readX f o.a).toNat = variant) (h : s.admits f (.lnkSel o)) :
    exec (.lnkSel o) s = .next ((if s.selStatus l variant b = 0 then s.modPod l.key fun p => { p with pendSel := some (variant, b) } else s).resultX
      f 7 2 o.d o.nw 5 (BitVec.ofNat 64 (s.selStatus l variant b))) := by
  subst effective named
  refine (copySlot_go "LNK_SEL" _ h rfl).trans (congrArg _ ?_)
  rw [bound]

theorem exec_lnkRun_of_stays (named : (s.readX f o.a).toNat = prog) (h : s.admits f (.lnkRun o))
    (stays : s.runStatus l prog b ≠ 0 ∨ l.pod.startIs s.now prog b = true) :
    exec (.lnkRun o) s = .next (s.resultX f 7 2 o.d o.nw 5 (BitVec.ofNat 64 (s.runStatus l prog b))) := by
  have kept : ¬(s.runStatus l prog b = 0 ∧ (!l.pod.startIs s.now prog b) = true) := by
    rintro ⟨zero, other⟩
    rw [Bool.not_eq_true'] at other
    exact stays.elim (· zero) fun same => Bool.noConfusion (other.symm.trans same)
  rw [exec_lnkRun bound effective named h, if_neg kept]

theorem exec_lnkRun_of_starts (named : (s.readX f o.a).toNat = prog) (h : s.admits f (.lnkRun o)) (zero : s.runStatus l prog b = 0)
    (other : l.pod.startIs s.now prog b = false) :
    exec (.lnkRun o) s = .next ((s.modPod l.key fun p => { p with pendRun := some (prog, b), ready := none }).resultX f 7 2 o.d o.nw 5 0) := by
  rw [exec_lnkRun bound effective named h, if_pos ⟨zero, by rw [other]; rfl⟩, zero]
  rfl

theorem exec_lnkSel_cases (named : (s.readX f o.a).toNat = variant) (h : s.admits f (.lnkSel o)) :
    (s.selStatus l variant b ≠ 0 → exec (.lnkSel o) s = .next (s.resultX f 7 2 o.d o.nw 5 (BitVec.ofNat 64 (s.selStatus l variant b)))) ∧
      (s.selStatus l variant b = 0 →
        exec (.lnkSel o) s = .next ((s.modPod l.key fun p => { p with pendSel := some (variant, b) }).resultX f 7 2 o.d o.nw 5 0)) := by
  rw [exec_lnkSel bound effective named h]
  refine ⟨fun refused => ?_, fun zero => ?_⟩
  · rw [if_neg refused]
  · rw [if_pos zero, zero]
    rfl

end

end

end Sys2Proof.Machine

open Sys2Proof Sys2Proof.Machine in
/-- Settles O30: each form is a run of its checks; xlat asks for a walk under way, and the link forms for their status. -/
theorem untimedRemoteAndLinkForms : Obligations.UntimedRemoteAndLinkForms := by
  constructor
  · intro s f o va handle fails
    have traps {i : Instr} {l : List (Nat × Word)} {done : State} (ran : s.admits f i → exec i s = .next (s.checked f l done)) : fails i l :=
      fun h => (exec_checked_cases (ran h)).2
    refine ⟨fun h => (exec_checked_cases (exec_ramo h)).1, traps exec_ramo,
      fun e free => ⟨exec_entry_of_free exec_gld free, exec_entry_of_free exec_gst free, exec_entry_of_free exec_gatom free⟩,
      traps exec_gld, traps exec_gst, traps exec_gatom, fun h => ⟨fun busy => ?_, fun idle => ?_⟩⟩
    · exact (exec_xlat h).trans (congrArg _ (if_pos busy))
    · exact ⟨_, Nat.lt_add_of_pos_right State.walkTicks_pos, (exec_xlat h).trans (congrArg _ (if_neg (Bool.eq_false_iff.mp idle)))⟩
  · intro s f o l bound a b
    exact ⟨fun h => ⟨exec_lnkRun_of_stays bound rfl rfl h, exec_lnkRun_of_starts bound rfl rfl h⟩, exec_lnkSel_cases bound rfl rfl⟩

end

section
/-!
PROOFS. guard, bar and fence (R82, R246, R263, R264, R271, R272).
-/

namespace Sys2Proof.Machine

section
variable {s : State} {f : Focus} {a : Src} {comm : Bool} {level kind : BitVec 2} {scope : BitVec 3}

/-! ### Their checks (R82, R271) -/

theorem State.syncBad_guard : s.syncBad f (.guard a) = false := rfl

theorem State.syncBad_fence : s.syncBad f (.fence kind scope) = false := rfl

theorem State.syncBad_bar : s.syncBad f (.bar comm level) = (!hdrWT f.word || ((s.ctx f.core f.ctx).bars level).getLsbD 0 != comm) := by
  simp [State.syncBad, waitCapable, State.loopBad, isLoop, State.breaks]

/-! ### guard (R246) -/

/-- DEBT of the bundle's context is repaid: its launch is charged, and the next bundle waits for what is left of n cycles (R246). -/
def State.repaid (s : State) (f : Focus) (n : Nat) : State :=
  let debt := (s.ctx f.core f.ctx).debt
  (s.modCore f.core fun k =>
    { k.modLc (s.focusLk f) (fun l => { l with scyc := l.scyc + debt.toNat }) with
      issueFrom := s.cycle f + 1 + n - debt.toNat
      paidcnt := k.paidcnt + debt }).modCtx f.core f.ctx fun x => { x with debt := 0 }

theorem exec_guard (h : s.admits f (.guard a)) :
    exec (.guard a) s = .next (if (s.ctx f.core f.ctx).debt.toNat > (lo32 (s.readX f a)).toNat
      then s.raise f 8 0x13 ((s.ctx f.core f.ctx).debt.zeroExtend 64) else s.repaid f (lo32 (s.readX f a)).toNat) :=
  syncSlot_go "GUARD" _ h State.syncBad_guard

theorem State.repaid_core {n : Nat} :
    (s.repaid f n).core f.core =
      { (s.core f.core).modLc (s.focusLk f) (fun l => { l with scyc := l.scyc + (s.ctx f.core f.ctx).debt.toNat }) with
        issueFrom := s.cycle f + 1 + n - (s.ctx f.core f.ctx).debt.toNat
        paidcnt := (s.core f.core).paidcnt + (s.ctx f.core f.ctx).debt }.modCtx f.ctx fun x => { x with debt := 0 } := by
  rw [State.repaid, State.modCtx, State.core_modCore, State.core_modCore]

theorem State.repaid_debt {n : Nat} : ((s.repaid f n).ctx f.core f.ctx).debt = 0 := by
  rw [State.ctx, State.repaid_core, Core.ctx_modCtx]

/-- A repaid DEBT counts in SCYC of the launch (R85, R246). -/
theorem State.repaid_scyc {n : Nat} {l : LaunchCore} (hl : (s.core f.core).lc (s.focusLk f) = some l) :
    (((s.repaid f n).core f.core).lc (s.focusLk f)).map LaunchCore.scyc = some (l.scyc + (s.ctx f.core f.ctx).debt.toNat) := by
  have charged := Core.lc_modLc (s.core f.core) (s.focusLk f) (g := fun l => { l with scyc := l.scyc + (s.ctx f.core f.ctx).debt.toNat }) fun _ => rfl
  rw [hl] at charged
  rw [State.repaid_core]
  exact congrArg (Option.map LaunchCore.scyc) charged

/-! ### bar (R271, R272) -/

/-- The context waits at the barrier of a level, and its core may arrive (R272). -/
def State.waitsAt (s : State) (f : Focus) (level : BitVec 2) : State :=
  (s.block f (.bar (level.toNat + 1) ((s.ctx f.core f.ctx).bars level).toNat)).tryArrive f.core (s.focusLk f)

theorem exec_bar (wt : hdrWT f.word = true) (phase : ((s.ctx f.core f.ctx).bars level).getLsbD 0 = comm) (h : s.admits f (.bar comm level)) :
    exec (.bar comm level) s = .next (s.waitsAt f level) :=
  syncSlot_go "BAR" _ h (by rw [State.syncBad_bar, wt, phase, bne_self_eq_false]; rfl)

theorem exec_bar_of_bad (bad : hdrWT f.word = false ∨ ((s.ctx f.core f.ctx).bars level).getLsbD 0 ≠ comm) (h : s.admits f (.bar comm level)) :
    exec (.bar comm level) s = .next (s.raise f 8 0x01 0) :=
  syncSlot_bad "BAR" _ h.1 (by simpa [State.syncBad_bar] using bad)

/-! ### fence (R263, R264) -/

theorem exec_fence (h : s.admits f (.fence kind scope)) :
    exec (.fence kind scope) s = .next (if scope.toNat ≤ 1 then s else s.modCore f.core fun k =>
      { k with fence := some ⟨f.ctx, kind.getLsbD 0, kind.getLsbD 1, scope.toNat, false⟩ }) :=
  syncSlot_go "FENCE" _ h State.syncBad_fence

end

end Sys2Proof.Machine

open Sys2Proof Sys2Proof.Machine in
/-- Settles O32: guard compares DEBT with its operand, bar its phase with the count, and fence its scope with that of a core. -/
theorem guardBarrierAndFence : Obligations.GuardBarrierAndFence := by
  refine ⟨fun s f a h => ⟨fun above => ?_, fun within => ?_⟩, fun s f comm level kind scope => ⟨fun h => ?_, fun h => ⟨fun near => ?_, fun wide => ?_⟩⟩⟩
  · exact (exec_guard h).trans (congrArg _ (if_pos above))
  · refine ⟨_, (exec_guard h).trans (congrArg _ (if_neg (Nat.not_lt.mpr within))), State.repaid_debt, ?_, ?_, fun _ => State.repaid_scyc⟩
    · rw [State.repaid_core]; rfl
    · rw [State.repaid_core]; rfl
  · exact ⟨fun wt phase => exec_bar wt phase h, fun bad => exec_bar_of_bad bad h⟩
  · exact (exec_fence h).trans (congrArg _ (if_pos near))
  · exact (exec_fence h).trans (congrArg _ (if_neg (Nat.not_le.mpr wide)))

end

section
/-!
PROOFS. A gatom at its home where the memory lists the first byte of its word twice (R54, R242, R268): no run has such a memory.
-/

namespace Sys2Proof.Machine

/-- A gatom of another package that adds 0 to the word at HBM address 0. -/
def addZero : HomeReq :=
  { kind := .gatom, lk := 0, held := false, pkg := 1, core := 0, entry := 0, gen := 0, chunks := [(0, 0, 0)], op := 0, fp := false, b := 0,
    die := none, vec := none, at_ := 0, who := ⟨2048, 0, Vector.replicate 3 0⟩, part := 1, ready := true }

/-- After reset with that request at its home, die 0 watched for partition 1 (R266), the last two bytes of the shadow entry of sector 0 undefined under their key (R359), and byte 0 listed twice in memory, each time as 1. -/
def watchedTwice : State :=
  { State.reset.modVf 0 (fun v => { v with racepol := 1 }) with
    pf := { State.reset.pf with partmap := State.reset.pf.partmap.set 0 1 }
    scrambled := [(shadowAddr 0 + 6, shadowAddr 0 + 8, 0)]
    mem := [(0, 1), (0, 1)]
    homeQ := [addZero] }

theorem watchedTwice_homeMay : watchedTwice.homeMay addZero = true := by decide +kernel

/-- The shadow entry of sector 0 names no writer, so nothing races. -/
theorem watchedTwice_races : watchedTwice.races addZero = [] := by
  rw [← List.isEmpty_iff]
  decide +kernel

/-- While some byte is undefined, the word is read byte by byte, each byte by its first listing; 0 is added to that. -/
theorem watchedTwice_stated :
    (watchedTwice.homeWrite 1 0 4 (amoValue 0 false (BitVec.ofNat 32 (watchedTwice.homeRead 1 0 4)) 0).toNat 0).mem.byte 0 = 1 := by
  decide +kernel

/-- Once the shadow of its sector is written no byte is undefined, and the word is read as a span, to which both listings add. -/
theorem watchedTwice_written : (((watchedTwice.dropReq 0).noteRace addZero []).homeAtom addZero).mem.byte 0 = 2 := by
  decide +kernel

/-- A gatom of another package without a race is performed after its shadow is written (R242, R268). -/
theorem exec_homeApplyWrite_of_far_gatom {s : State} {n : Nat} {q : HomeReq} (queued : s.homeQ[n]? = some q) (may : s.homeMay q = true)
    (far : q.die = none) (kind : q.kind = .gatom) (quiet : s.races q = []) :
    exec (.homeApplyWrite n) s = .next (((s.dropReq n).noteRace q []).homeAtom q) := by
  have unnumbered : (s.dropReq n).reqDone q = s.dropReq n := by rw [State.reqDone, far]; rfl
  change execHomeApplyWrite n s = _
  simp [execHomeApplyWrite, queued, may, kind, quiet, unnumbered, raceMark]

end Sys2Proof.Machine

open Sys2Proof Sys2Proof.Machine in
/-- Refutes O47, by its gatom clause: it takes the old value from the state before the request, where the model writes the shadow of the word's sector first (R268). In `watchedTwice` that ends the last undefined range, so that `State.hbm` changes from reading byte by byte (`Memory.byte`, the first listing of an address) to reading a span (`Memory.span`, the sum of all listings), and the two differ. A memory in canonical form lists no address twice, and no run leaves that form (O6, O7), but the statement is over every state and asks for no such form. This says nothing about its other clauses. -/
theorem not_homeRows : ¬ Obligations.HomeRows := by
  intro h
  obtain ⟨-, -, -, atoms⟩ := h watchedTwice 0 addZero rfl watchedTwice_homeMay
  obtain ⟨t, ran, stated, -⟩ := atoms rfl watchedTwice_races 0 0 0 [] rfl
  rw [exec_homeApplyWrite_of_far_gatom rfl watchedTwice_homeMay rfl rfl watchedTwice_races] at ran
  injection ran with same
  have byte := congrArg (fun m : Memory => m.byte 0) stated
  rw [← same] at byte
  exact absurd (watchedTwice_written.symm.trans (byte.trans watchedTwice_stated)) (by decide)

end

section
/-!
PROOFS. The launches and the management registers: which operations leave them as they stand, and what a stop or a notice makes of a launch (R311, R325).
-/

namespace Sys2Proof.Machine

/-- The launches and the management registers stand as they did. -/
def State.sameLaunches (s t : State) : Prop := t.launches = s.launches ∧ t.pf = s.pf

section
variable {s t u : State}

theorem State.sameLaunches.refl (s : State) : s.sameLaunches s := ⟨rfl, rfl⟩

theorem State.sameLaunches.trans (h : State.sameLaunches s t) (h' : t.sameLaunches u) : s.sameLaunches u :=
  ⟨h'.1.trans h.1, h'.2.trans h.2⟩

theorem State.sameLaunches_foldl {α : Type} {g : State → α → State} (keeps : ∀ (u : State) a, u.sameLaunches (g u a)) (l : List α) (s : State) :
    s.sameLaunches (l.foldl g s) :=
  List.foldlRecOn l g (State.sameLaunches.refl s) fun u hu a _ => hu.trans (keeps u a)

theorem State.sameLaunches.launch (h : s.sameLaunches t) (lk : Nat) : t.launch lk = s.launch lk := by
  rw [State.launch, h.1, State.launch]

end

section
variable (s : State)

theorem State.sameLaunches_modCore (c : CoreId) (g : Core → Core) : s.sameLaunches (s.modCore c g) := ⟨rfl, rfl⟩

theorem State.sameLaunches_modCtx (c : CoreId) (k : CtxId) (g : Ctx → Ctx) : s.sameLaunches (s.modCtx c k g) := ⟨rfl, rfl⟩

theorem State.sameLaunches_modDie (d : Fin 9) (g : Die → Die) : s.sameLaunches (s.modDie d g) := ⟨rfl, rfl⟩

theorem State.sameLaunches_tickFree : s.sameLaunches s.tickFree := ⟨rfl, rfl⟩

/-! ### What leaves the package (R297, R323) -/

theorem State.sameLaunches_queuePacket (p : Nat) (h : FlitHdr) (b : PacketWire) : s.sameLaunches (s.queuePacket p h b) := by
  rw [State.queuePacket]
  dsimp only
  repeat' split
  all_goals exact ⟨rfl, rfl⟩

theorem State.sameLaunches_sendOpen (kind dst part : Nat) (b : PacketBody) : s.sameLaunches (s.sendOpen kind dst part b) := by
  rw [State.sendOpen]
  split
  · exact .refl s
  · dsimp only
    refine State.sameLaunches.trans ?_ (State.sameLaunches_queuePacket ..)
    repeat' split
    all_goals exact ⟨rfl, rfl⟩

theorem State.sameLaunches_sendFlit (port slot : Nat) (h : FlitHdr) (pay : BitVec 1024) (mark : BitVec 16) :
    s.sameLaunches (s.sendFlit port slot h pay mark) := by
  rw [State.sendFlit]
  repeat' split
  all_goals exact ⟨rfl, rfl⟩

theorem State.sameLaunches_postRecord (lk : Nat) (t : Trap) (gcid flags : Nat) : s.sameLaunches (s.postRecord lk t gcid flags) := by
  rw [State.postRecord]
  dsimp only
  repeat' split
  all_goals exact ⟨rfl, rfl⟩

theorem State.cores_postRecord (lk : Nat) (t : Trap) (gcid flags : Nat) : (s.postRecord lk t gcid flags).cores = s.cores := by
  rw [State.postRecord]
  dsimp only
  repeat' split
  all_goals rfl

/-! ### Work that goes (R177, R250, R285, R320, R325) -/

theorem State.sameLaunches_cancelReqs (c : CoreId) (p : Fin 64 → UReq → Bool) : s.sameLaunches (s.cancelReqs c p) := by
  refine State.sameLaunches_foldl (fun u e => ?_) _ s
  dsimp only
  repeat' split
  · refine State.sameLaunches_foldl (g := fun s (q : HomeReq) => _) (fun u q => ?_) _ _
    split <;> exact ⟨rfl, rfl⟩
  · exact .refl u
  · exact .refl u

theorem State.sameLaunches_dropClaims (c : CoreId) (i : CtxId) : s.sameLaunches (s.dropClaims c i) := by
  refine State.sameLaunches_foldl (fun u n => ?_) _ s
  dsimp only
  split <;> exact ⟨rfl, rfl⟩

theorem State.sameLaunches_dropWire (p : Access → Bool) : s.sameLaunches (s.dropWire p) := ⟨rfl, rfl⟩

theorem State.sameLaunches_discard (c : CoreId) (i : CtxId) (n : Nat) : s.sameLaunches (s.discard c i n) := by
  rw [State.discard]
  exact (State.sameLaunches_cancelReqs ..).trans ((State.sameLaunches_dropClaims ..).trans
    ((State.sameLaunches_modCore ..).trans (State.sameLaunches_dropWire ..)))

theorem State.sameLaunches_stopOn (c : CoreId) (lk : Nat) : s.sameLaunches (s.stopOn c lk) := by
  rw [State.stopOn]
  refine State.sameLaunches.trans (State.sameLaunches_foldl (fun u i => ?_) _ s) (State.sameLaunches_modCore ..)
  split
  · exact (u.sameLaunches_discard c i 0).trans (State.sameLaunches_modCore ..)
  · exact .refl u

/-! ### Banks and locks (R48, R89, R336) -/

theorem State.sameLaunches_tryLock (c : CoreId) (lk : Nat) (m : BitVec 16) : s.sameLaunches (s.tryLock c lk m).2 := by
  rw [State.tryLock]
  split
  · dsimp only
    split <;> exact ⟨rfl, rfl⟩
  · exact .refl s

theorem State.sameLaunches_retryLocks (c : CoreId) : s.sameLaunches (s.retryLocks c) := by
  refine State.sameLaunches_foldl (fun u i => ?_) _ s
  dsimp only
  split
  · split
    · exact .refl u
    · split <;> exact u.sameLaunches_tryLock ..
  · exact .refl u

theorem State.sameLaunches_zeroBank (c : CoreId) (b : Nat) : s.sameLaunches (s.zeroBank c b) := ⟨rfl, rfl⟩

theorem State.sameLaunches_zeroBanks (c : CoreId) (bs : List Nat) : s.sameLaunches (bs.foldl (fun s b => s.zeroBank c b) s) :=
  State.sameLaunches_foldl (fun u b => u.sameLaunches_zeroBank c b) bs s

theorem State.sameLaunches_parkCore (lk : Nat) (c : CoreId) : s.sameLaunches (s.parkCore lk c) := by
  rw [State.parkCore]
  split
  · exact .refl s
  · exact (State.sameLaunches_zeroBanks ..).trans ((State.sameLaunches_modCore ..).trans (State.sameLaunches_retryLocks ..))

/-! ### Barriers that complete (R267, R273) -/

theorem State.sameLaunches_releaseEvent (c : CoreId) (k : CtxId) (sc n : Nat) : s.sameLaunches (s.releaseEvent c k sc n) := by
  rw [State.releaseEvent]
  generalize noted : s.modCtx c k _ = u
  have noted : s.sameLaunches u := noted ▸ s.sameLaunches_modCtx c k _
  refine noted.trans (State.sameLaunches.trans (State.sameLaunches.trans (State.sameLaunches_foldl ?homes _ u)
    (State.sameLaunches_foldl ?packages _ _)) (State.sameLaunches_modCtx ..))
  case homes =>
    intro u d
    split
    · exact u.sameLaunches_modDie ..
    · exact .refl u
  case packages => exact fun u p => u.sameLaunches_sendOpen ..

theorem State.sameLaunches_barDone (c : CoreId) (k : CtxId) (level n : Nat) : s.sameLaunches (s.barDone c k level n) := by
  rw [State.barDone]
  generalize counted : s.modCtx c k _ = u
  have counted : s.sameLaunches u := counted ▸ s.sameLaunches_modCtx c k _
  refine (counted.trans (u.sameLaunches_releaseEvent c k (barScope level) n)).trans ?_
  split
  · exact (State.sameLaunches_modCtx ..).trans (State.sameLaunches_modCtx ..)
  · exact State.sameLaunches_modCtx ..

theorem State.sameLaunches_barWake (c : CoreId) (lk n : Nat) : s.sameLaunches (s.barWake c lk n) := by
  refine State.sameLaunches_foldl (fun u i => ?_) _ s
  dsimp only
  split
  · split
    · exact u.sameLaunches_barDone ..
    · exact .refl u
  · exact .refl u

theorem State.sameLaunches_sendBarrier (l : Launch) (pay : BitVec 1024) (but : Option Nat) : s.sameLaunches (s.sendBarrier l pay but) := by
  refine State.sameLaunches_foldl (fun u p => ?_) _ s
  split
  · split
    · dsimp only
      split
      · exact State.sameLaunches_sendFlit ..
      · exact .refl u
    · exact .refl u
  · exact .refl u

end

/-! ### What becomes of each launch -/

section
variable {s : State} {m : Launch} {lk : Nat}

theorem State.mem_modLaunch {f : Launch → Launch} :
    m ∈ (s.modLaunch lk f).launches ↔ ∃ l ∈ s.launches, (if l.key = lk then f l else l) = m :=
  List.mem_map

/-- A notice reaches no part of a launch but its pod side (R311, R312). -/
theorem State.mem_flood {n : Notice} (h : m ∈ (s.flood n).launches) : ∃ l ∈ s.launches, ∃ p, m = { l with pod := p } := by
  rw [State.flood] at h
  split at h
  · exact ⟨m, h, m.pod, rfl⟩
  · dsimp only at h
    rw [(State.sameLaunches_foldl (fun u p => ?_) _ _).1] at h
    · obtain ⟨l, hl, rfl⟩ := List.mem_map.mp h
      split
      · exact ⟨l, hl, _, rfl⟩
      · exact ⟨l, hl, l.pod, rfl⟩
    · split
      · exact u.sameLaunches_queuePacket ..
      · exact .refl u

/-- A notice leaves the management registers but for the record of it (R311). -/
theorem State.pf_flood (n : Notice) : ∃ seen, (s.flood n).pf = { s.pf with seen := seen } := by
  rw [State.flood]
  split
  · exact ⟨s.pf.seen, rfl⟩
  · refine ⟨n :: s.pf.seen, (State.sameLaunches_foldl (fun u p => ?_) _ _).2⟩
    split
    · exact u.sameLaunches_queuePacket ..
    · exact .refl u

theorem State.mem_floodLoss {l : Launch} (h : m ∈ (s.floodLoss l).launches) : ∃ l ∈ s.launches, ∃ p, m = { l with pod := p } := by
  rw [State.floodLoss] at h
  split at h
  · exact State.mem_flood h
  · exact ⟨m, h, m.pod, rfl⟩

theorem State.pf_floodLoss (l : Launch) : ∃ seen, (s.floodLoss l).pf = { s.pf with seen := seen } := by
  rw [State.floodLoss]
  split
  · exact State.pf_flood _
  · exact ⟨s.pf.seen, rfl⟩

/-- What a stop makes of a launch on its package (R325). -/
def Launch.stop (l : Launch) : Launch := { l with stopped := true, yreq := none, pod := { l.pod with pendRun := none, pendSel := none } }

theorem State.sameLaunches_stopLaunch : ∃ u, s.sameLaunches u ∧ s.stopLaunch lk = u.modLaunch lk Launch.stop := by
  refine ⟨_, State.sameLaunches_foldl (fun u c => ?_) _ s, rfl⟩
  split
  · exact u.sameLaunches_stopOn ..
  · exact .refl u

theorem State.mem_stopLaunch : m ∈ (s.stopLaunch lk).launches ↔ ∃ l ∈ s.launches, (if l.key = lk then l.stop else l) = m := by
  obtain ⟨u, ⟨launches, -⟩, is⟩ := State.sameLaunches_stopLaunch (s := s) (lk := lk)
  rw [is, State.mem_modLaunch, launches]

theorem State.pf_stopLaunch : (s.stopLaunch lk).pf = s.pf := by
  obtain ⟨u, ⟨-, pf⟩, is⟩ := State.sameLaunches_stopLaunch (s := s) (lk := lk)
  rw [is]
  exact pf

/-- A launch that is stopped stays so when its end is told (R311, R325). -/
theorem State.stopped_of_mem_tellAbort (all : ∀ l ∈ s.launches, l.key = lk → l.stopped = true) (h : m ∈ (s.tellAbort lk).launches)
    (own : m.key = lk) : m.stopped = true := by
  rw [State.tellAbort] at h
  split at h
  · split at h
    · obtain ⟨l, hl, p, rfl⟩ := State.mem_floodLoss h
      exact all l hl own
    · exact all m h own
  · exact all m h own

theorem State.stopped_of_mem_stopLaunch (h : m ∈ (s.stopLaunch lk).launches) (own : m.key = lk) : m.stopped = true := by
  obtain ⟨l, -, rfl⟩ := State.mem_stopLaunch.mp h
  split at own
  next => rw [if_pos ‹_›]; rfl
  next other => exact absurd own other

end

end Sys2Proof.Machine

end

section
/-!
PROOFS. Traps: the one that is taken (R319), the rollback and what it restores (R316, R320, R324), the abort (R325) and the runtime's decisions (R326).
-/

namespace Sys2Proof.Machine

/-! ### The trap with the lowest cause (R319) -/

theorem lowestTrap_eq_none_iff {ts : List Trap} : lowestTrap ts = none ↔ ts = [] := by
  cases ts with
  | nil => exact ⟨fun _ => rfl, fun _ => rfl⟩
  | cons t ts =>
    refine ⟨fun h => ?_, fun h => nomatch h⟩
    rw [lowestTrap] at h
    split at h
    · split at h <;> contradiction
    · contradiction

/-- It is one of the list, and its cause is not above that of any other. -/
theorem lowestTrap_spec {ts : List Trap} {t : Trap} (h : lowestTrap ts = some t) : t ∈ ts ∧ ∀ u ∈ ts, t.cause ≤ u.cause := by
  induction ts generalizing t with
  | nil => contradiction
  | cons a ts ih =>
    rw [lowestTrap] at h
    split at h
    next b least =>
      obtain ⟨member, below⟩ := ih least
      split at h <;> cases h
      next less =>
        exact ⟨.tail _ member, List.forall_mem_cons.mpr ⟨Nat.le_of_lt less, below⟩⟩
      next more =>
        exact ⟨.head _, List.forall_mem_cons.mpr ⟨Nat.le_refl _, fun u hu => Nat.le_trans (Nat.le_of_not_lt more) (below u hu)⟩⟩
    next none =>
      cases h
      rw [lowestTrap_eq_none_iff.mp none]
      exact ⟨.head _, by simp⟩

section
variable {k : Core} {i : CtxId}

/-- A context takes a trap of its own only where none of its traps is older than its checkpoint; a containment's goes first, else the one with the lowest cause (R319, R338). -/
theorem Core.trapOf_spec {t : Trap} (h : k.trapOf i = some t) :
    t ∈ k.traps ∧ t.ctx = i ∧ (∀ u ∈ k.traps, u.ctx = i → k.stale u = false) ∧
      (t.pod = false → ∀ u ∈ k.traps, u.ctx = i → u.pod = false ∧ t.cause ≤ u.cause) := by
  have mem {u : Trap} : u ∈ k.traps.filter (fun t => t.ctx == i) ↔ u ∈ k.traps ∧ u.ctx = i := by simp
  rw [Core.trapOf] at h
  split at h
  · contradiction
  next fresh =>
    have fresh : ∀ u ∈ k.traps, u.ctx = i → k.stale u = false := by
      simpa using fresh
    rcases Option.or_eq_some_iff.mp h with pod | ⟨noPod, least⟩
    · obtain ⟨hk, hi⟩ := mem.mp (List.mem_of_find?_eq_some pod)
      have isPod := List.find?_some pod
      exact ⟨hk, hi, fresh, fun notPod => Bool.noConfusion (isPod.symm.trans notPod)⟩
    · obtain ⟨member, below⟩ := lowestTrap_spec least
      obtain ⟨hk, hi⟩ := mem.mp member
      refine ⟨hk, hi, fresh, fun _ u hu own => ⟨?_, below u (mem.mpr ⟨hu, own⟩)⟩⟩
      simpa using List.find?_eq_none.mp noPod u (mem.mpr ⟨hu, own⟩)

/-- With a trap of its own to take, a context takes none only where one of its traps is older than its checkpoint (R319). -/
theorem Core.stale_of_trapOf_eq_none (h : k.trapOf i = none) {u : Trap} (hu : u ∈ k.traps) (own : u.ctx = i) :
    ∃ v ∈ k.traps, v.ctx = i ∧ k.stale v = true := by
  have mem : u ∈ k.traps.filter (fun t => t.ctx == i) := by simp [hu, own]
  rw [Core.trapOf] at h
  split at h
  next old => simpa [and_assoc] using old
  next =>
    rw [Option.or_eq_none_iff, lowestTrap_eq_none_iff] at h
    rw [h.2] at mem
    contradiction

theorem Core.staleTrap_spec {lk : Nat} {t : Trap} (h : k.staleTrap lk = some t) :
    t ∈ k.traps ∧ t.lk = lk ∧ k.stale t = true ∧ ∀ u ∈ k.traps, u.lk = lk → k.stale u = true → t.cause ≤ u.cause := by
  have mem {u : Trap} : u ∈ k.traps.filter (fun t => t.lk == lk && k.stale t) ↔ u ∈ k.traps ∧ u.lk = lk ∧ k.stale u = true := by simp
  rw [Core.staleTrap] at h
  split at h
  · contradiction
  next =>
    obtain ⟨member, below⟩ := lowestTrap_spec h
    obtain ⟨hk, hlk, old⟩ := mem.mp member
    exact ⟨hk, hlk, old, fun u hu same older => below u (mem.mpr ⟨hu, same, older⟩)⟩

end
end Sys2Proof.Machine

open Sys2Proof Sys2Proof.Machine in
/-- Settles O44, by what the choice among the traps of a list gives. -/
theorem trapsTaken : Obligations.TrapsTaken := by
  intro k i
  refine ⟨fun t taken => ?_, fun none u hu own => Core.stale_of_trapOf_eq_none none hu own, fun lk t => Core.staleTrap_spec⟩
  obtain ⟨hk, own, fresh, least⟩ := Core.trapOf_spec taken
  exact ⟨hk, own, fresh t hk own, fun notPod u hu mine => ⟨fresh u hu mine, least notPod u hu mine⟩⟩

namespace Sys2Proof.Machine

/-! ### Rollback (R320, R321, R324) -/

section
variable {s : State} {c : CoreId} {k : CtxId} {tr : Trap} {b : Bool}

theorem exec_rollback (taken : (s.core c).trapOf k = some tr) : exec (.rollback c k) s = .next (s.rollBack c k tr) := by
  change execRollback c k s = _
  rw [execRollback, taken]

theorem State.rollBack_core :
    (s.rollBack c k tr).core c = ((s.discard c k (s.ctx c k).ck.issued).core c).beTrapped k tr := by
  rw [State.rollBack, State.core_modCore]

/-- What is left of a context that takes a trap: its released entries, no wait, and the trap (R320). -/
theorem State.rollBack_ctx : ∃ x : Ctx, (s.rollBack c k tr).ctx c k =
    { x.drop with st := .trapped, rb := some (tr, false), rbAt := ((s.discard c k (s.ctx c k).ck.issued).core c).cyc } := by
  obtain ⟨x, dropped⟩ := State.discard_ctx s c k (s.ctx c k).ck.issued
  refine ⟨x, ?_⟩
  rw [State.ctx, State.rollBack_core, Core.beTrapped_ctx, ← State.ctx, dropped]

/-- Where no result was on its way at the CK bundle, every register of the copy is defined (R78, R316). -/
theorem Ctx.restore_of_closed {x : Ctx} {q : Ckpt} {free : Nat → BitVec 4096} (closed : q.open_ = []) :
    x.restore q free = { x with
      pc := q.pc, pending := q.pending, loops := q.loops, x := q.x, v := q.v, m := q.m, th := q.th, debt := q.debt
      fpflags := q.fpflags ||| x.lateFl, lfsr := q.lfsr, rtab := q.rtab, barcnt := q.barcnt } := by
  rw [Ctx.restore, closed]
  rfl

/-- The state in which a context has its checkpoint back, before the steward decides (R316, R320). -/
def State.restored (s : State) (c : CoreId) (k : CtxId) (tr : Trap) : State :=
  let u := s.noteLoc c fun
    | .reg _ i _ _ _ true => i == k
    | _ => false
  (u.modCore c fun q => q.restoreCtx k tr fun n => u.freeV (100 + n)).tickFree

theorem State.cores_noteLoc {p : ErrLoc → Bool} : (s.noteLoc c p).cores = s.cores := by
  rw [State.noteLoc]
  split <;> rfl

theorem State.restored_core : ∃ free, (s.restored c k tr).core c = (s.core c).restoreCtx k tr free := by
  rw [State.restored]
  generalize noted : s.noteLoc c _ = u
  have same : u.cores = s.cores := noted ▸ State.cores_noteLoc
  rw [State.tickFree_core, State.core_modCore, State.core_of same]
  exact ⟨_, rfl⟩

/-- What the steward does with a trap whose rollback is complete: its record, its place, and the abort or the resume (R323, R324, R326). -/
def State.steward (s : State) (c : CoreId) (k : CtxId) (tr : Trap) : Out :=
  let (flags, ab) := s.decideTrap c tr
  let s := s.postRecord tr.lk tr (s.gcid c.val k.val).toNat flags
  let s := if tr.auto then s.modLaunch tr.lk fun l => l.notePlace (tr.place c.val) else s
  if ab then .next (s.decideAbort tr.lk 9 tr.cause c.val)
  else if tr.auto then .next (s.modCtx c k fun x => { x with wakeCyc := some ((s.core c).cyc + 1) })
  else .next s

/-- The steward leaves the contexts of the core as they are, but for the cycle on which the one resumed at once wakes (R324). -/
theorem State.steward_ctx : ∃ t w, s.steward c k tr = .next t ∧ t.ctx c k = { s.ctx c k with wakeCyc := w } ∧ ∀ j ≠ k, t.ctx c j = s.ctx c j := by
  rw [State.steward]
  dsimp only
  generalize noted : (if tr.auto then _ else _ : State) = u
  have same : u.cores = s.cores := by
    rw [← noted]
    split <;> exact State.cores_postRecord ..
  split
  · exact ⟨_, (s.ctx c k).wakeCyc, rfl, State.ctx_of same c k, fun j _ => State.ctx_of same c j⟩
  · split
    · refine ⟨_, _, rfl, (State.ctx_modCtx ..).trans (by rw [State.ctx_of same]), fun j other => ?_⟩
      rw [State.ctx_modCtx_ne _ _ _ _ _ other, State.ctx_of same]
    · exact ⟨_, (s.ctx c k).wakeCyc, rfl, State.ctx_of same c k, fun j _ => State.ctx_of same c j⟩

theorem exec_rollbackComplete (landed : s.rolledBack c k = true) (taken : (s.ctx c k).rb = some (tr, b)) :
    exec (.rollbackComplete c k) s = if tr.pod then .next (s.restored c k tr) else (s.restored c k tr).steward c k tr := by
  change execRollbackComplete c k s = _
  rw [execRollbackComplete, landed, taken]
  rfl

/-- A completed rollback gives the context its checkpoint, and leaves the other contexts of the core (R316, R320). -/
theorem exec_rollbackComplete_ctx (landed : s.rolledBack c k = true) (taken : (s.ctx c k).rb = some (tr, b)) :
    ∃ t free w, exec (.rollbackComplete c k) s = .next t ∧
      t.ctx c k = { (s.ctx c k).restore (s.ctx c k).ck free with rb := some (tr, true), wakeCyc := w } ∧ ∀ j ≠ k, t.ctx c j = s.ctx c j := by
  obtain ⟨free, core⟩ := State.restored_core (s := s) (c := c) (k := k) (tr := tr)
  have own : (s.restored c k tr).ctx c k = { (s.ctx c k).restore (s.ctx c k).ck free with rb := some (tr, true) } := by
    rw [State.ctx, core, Core.restoreCtx_ctx]
    rfl
  have other : ∀ j ≠ k, (s.restored c k tr).ctx c j = s.ctx c j := fun j h => by
    rw [State.ctx, core, Core.restoreCtx_ctx_ne _ _ _ _ _ h, State.ctx]
  have ran := exec_rollbackComplete landed taken
  by_cases pod : tr.pod = true
  · exact ⟨_, free, _, ran.trans (if_pos pod), own, other⟩
  · obtain ⟨t, w, decided, woken, kept⟩ := State.steward_ctx (s := s.restored c k tr) (c := c) (k := k) (tr := tr)
    exact ⟨t, free, w, ran.trans ((if_neg pod).trans decided), woken.trans (by rw [own]), fun j h => (kept j h).trans (other j h)⟩

end
end Sys2Proof.Machine

open Sys2Proof Sys2Proof.Machine in
/-- Settles O43: what the decision after the rollback changes of the context is not of the checkpoint. -/
theorem rollbackRestoresTheCheckpoint : Obligations.RollbackRestoresTheCheckpoint := by
  rintro s c k tr _ landed taken rfl closed
  obtain ⟨t, free, w, ran, own, other⟩ := exec_rollbackComplete_ctx landed taken
  rw [Ctx.restore_of_closed closed] at own
  refine ⟨t, ran, ?_⟩
  rw [own]
  exact ⟨rfl, rfl, rfl, rfl, rfl, rfl, rfl, rfl, rfl, rfl, rfl, rfl, rfl, other⟩

namespace Sys2Proof.Machine

/-! ### The abort and the runtime's decisions (R325, R326) -/

section
variable {s : State}

theorem exec_abort {lk : Nat} (due : s.abortDue lk = true) :
    exec (.abort lk) s = .next (((s.noteStale lk).stopLaunch lk).tellAbort lk) := by
  change execAbort lk s = _
  rw [execAbort, if_pos due]

/-- A launch whose abort is due is stopped wherever it stands (R325). -/
theorem exec_abort_stops {lk : Nat} (due : s.abortDue lk = true) :
    ∃ t, exec (.abort lk) s = .next t ∧ ∀ l ∈ t.launches, l.key = lk → l.stopped = true :=
  ⟨_, exec_abort due, fun _ => State.stopped_of_mem_tellAbort fun _ => State.stopped_of_mem_stopLaunch⟩

section
variable {vf : Fin 9} {val : BitVec 64} {d : CoreId} {i : CtxId} {m : Nat}

theorem exec_trapcmdResume_of_other (other : val.extractLsb' 24 2 ≠ 1#2) : exec (.trapcmdResume vf val) s = .next s := if_pos other

theorem exec_trapcmdAbort_of_other (other : val.extractLsb' 24 2 ≠ 2#2) : exec (.trapcmdAbort vf val) s = .next s := if_pos other

theorem exec_trapcmdResume_of_miss (action : val.extractLsb' 24 2 = 1#2) (miss : s.trapTarget vf val = none) :
    exec (.trapcmdResume vf val) s = .next (s.badCmd vf) := by
  refine (if_neg (not_not_intro action)).trans ?_
  rw [miss]

theorem exec_trapcmdAbort_of_miss (action : val.extractLsb' 24 2 = 2#2) (miss : s.trapTarget vf val = none) :
    exec (.trapcmdAbort vf val) s = .next (s.badCmd vf) := by
  refine (if_neg (not_not_intro action)).trans ?_
  rw [miss]

/-- A resume wakes the context that it names where its rollback is complete (R321, R326). -/
theorem exec_trapcmdResume_of_target (action : val.extractLsb' 24 2 = 1#2) (target : s.trapTarget vf val = some (d, i, m)) :
    exec (.trapcmdResume vf val) s =
      if (s.ctx d i).rolledBack then .next (s.modCtx d i fun x => { x with wakeTick := some s.now }) else .next (s.badCmd vf) := by
  refine (if_neg (not_not_intro action)).trans ?_
  rw [target]

/-- An abort ends the launch of the context that it names where that has rolled back or waits at a yield point (R325, R326, R333). -/
theorem exec_trapcmdAbort_of_target (action : val.extractLsb' 24 2 = 2#2) (target : s.trapTarget vf val = some (d, i, m)) :
    exec (.trapcmdAbort vf val) s =
      if (s.ctx d i).rolledBack || (s.ctx d i).wait == .yield then
        .next (s.decideAbort m 9 (((s.ctx d i).rb.map fun r => r.1.cause).getD 0) d.val) else .next (s.badCmd vf) := by
  refine (if_neg (not_not_intro action)).trans ?_
  rw [target]

end

/-- The context that takes a trap is Trapped with it; its unreleased entries, its waits and its other traps go (R319, R320). -/
theorem exec_rollback_ctx {c : CoreId} {k : CtxId} {tr : Trap} (taken : (s.core c).trapOf k = some tr) :
    ∃ t, exec (.rollback c k) s = .next t ∧ (t.ctx c k).st = .trapped ∧ (t.ctx c k).rb = some (tr, false) ∧
      (∀ u ∈ (t.core c).traps, u.ctx ≠ k) ∧ (∀ e ∈ (t.ctx c k).wh, e.rel.isSome = true) ∧ (t.ctx c k).wait = .none := by
  obtain ⟨x, own⟩ := State.rollBack_ctx (s := s) (c := c) (k := k) (tr := tr)
  refine ⟨_, exec_rollback taken, ?_⟩
  rw [own, State.rollBack_core]
  exact ⟨rfl, rfl, fun u => Core.beTrapped_traps _ _ _ u, fun e he => (List.mem_filter.mp he).2, rfl⟩

end
end Sys2Proof.Machine

open Sys2Proof Sys2Proof.Machine in
/-- Settles O42, row by row. -/
theorem trapRows : Obligations.TrapRows := by
  intro s c k vf val lk
  refine ⟨fun tr => exec_rollback_ctx, fun tr b landed taken => ?_, exec_abort_stops, exec_trapcmdResume_of_other, exec_trapcmdAbort_of_other,
    fun action d i m target => ?_, fun action d i m target => ?_,
    fun miss => ⟨fun action => exec_trapcmdResume_of_miss action miss, fun action => exec_trapcmdAbort_of_miss action miss⟩⟩
  · obtain ⟨t, free, w, ran, own, -⟩ := exec_rollbackComplete_ctx landed taken
    exact ⟨t, free, ran, by rw [own], by rw [own, Core.restoreCtx_ctx]; rfl⟩
  · have ran := exec_trapcmdResume_of_target action target
    exact ⟨fun back => ran.trans (if_pos back), fun not => ran.trans (if_neg (Bool.eq_false_iff.mp not))⟩
  · have ran := exec_trapcmdAbort_of_target action target
    refine ⟨fun named => ran.trans (if_pos (by simpa using named)), fun not away => ran.trans (if_neg (by simpa using ⟨not, away⟩))⟩

end

section
/-!
PROOFS. System registers (R290), and the forms that trap, break or end (R291, R292, R348).
-/

namespace Sys2Proof.Machine

section
variable {s : State} {f : Focus} {a : Src} {d : BitVec 5} {nw : Bool} {n : BitVec 8}

/-! ### Their checks (R82, R292) -/

theorem State.syncBad_sysrd : s.syncBad f (.sysrd d nw n) = false := rfl

theorem State.syncBad_syswr : s.syncBad f (.syswr a n) = false := rfl

theorem State.syncBad_trap : s.syncBad f (.trap a) = false := rfl

theorem State.syncBad_ebrk : s.syncBad f .ebrk = false := rfl

theorem State.syncBad_endCtx : s.syncBad f .endCtx = !hdrCK f.word := by
  simp [State.syncBad, waitCapable, State.loopBad, isLoop, State.breaks]

/-! ### System registers (R290) -/

theorem exec_sysrd (h : s.admits f (.sysrd d nw n)) :
    exec (.sysrd d nw n) s = .next (s.resultX f 8 2 d nw 6 (s.sysReg f.core f.ctx n.toNat)) :=
  syncSlot_go "SYSRD" _ h State.syncBad_sysrd

theorem exec_syswr (h : s.admits f (.syswr a n)) :
    exec (.syswr a n) s = .next (s.result f 8 2 (if n = 0x10 then .fpflags else .srseed) ((s.readX f a).zeroExtend 4096) allLanes none 0) :=
  syncSlot_go "SYSWR" _ h State.syncBad_syswr

/-- GCID: package, core and context in their fields (R290). -/
theorem State.sysReg_gcid {c : CoreId} {k : CtxId} : s.sysReg c k 0x05 = BitVec.ofNat 64 (2048 * s.pf.pkg.toNat + 4 * c.val + k.val) := by
  change zext64 (s.gcid c.val k.val) = _
  have pkg := s.pf.pkg.isLt
  have core := c.isLt
  have ctx := k.isLt
  rw [State.gcid, zext64]
  apply BitVec.eq_of_toNat_eq
  simp
  omega

/-! ### trap, ebrk and end (R291, R292) -/

theorem exec_trap (h : s.admits f (.trap a)) : exec (.trap a) s = .next (s.raise f 8 0x50 (s.readX f a)) :=
  syncSlot_go "TRAP" _ h State.syncBad_trap

/-- The core halts after part 8 of the bundle in issue, with reason 2 (R346, R348). -/
def State.haltAfter (s : State) (f : Focus) : State :=
  (s.haltMid f 2 8 0x1FF 0).modCore f.core fun k => { k with held := k.held.map fun h => { h with part := 9 } }

theorem exec_ebrk (h : s.admits f .ebrk) :
    exec .ebrk s = .next (if s.isOpen (s.partOf (s.focusLk f)) 0 then s.haltAfter f else s.raise f 8 0x61 0) :=
  syncSlot_go "EBRK" _ h State.syncBad_ebrk

theorem State.haltAfter_focus : (s.haltAfter f).focus = none := rfl

/-- What a halt in the middle of a bundle makes of the core (R346, R348). -/
def Core.haltedAt (k : Core) (f : Focus) (reason part : Nat) (done : BitVec 9) (exempt : BitVec 4) (now : Nat) : Core :=
  { k with
    held := some { f with part := part, done := done, exempt := exempt }
    mid := true
    dbg := { k.dbg with
      halted := true
      rec0 := haltWord f.ctx.val reason (done &&& BitVec.ofNat 9 (2 ^ (part + 1) - 1)) part f.idx
      rec1 := BitVec.ofNat 64 now } }

theorem State.haltMid_core {r p : Nat} {d : BitVec 9} {e : BitVec 4} :
    (s.haltMid f r p d e).core f.core = (s.core f.core).haltedAt f r p d e s.now :=
  State.core_modCore s f.core fun k => k.haltedAt f r p d e s.now

theorem State.haltAfter_core : (s.haltAfter f).core f.core =
    { (s.core f.core).haltedAt f 2 8 0x1FF 0 s.now with held := some { f with part := 9, done := 0x1FF, exempt := 0 } } := by
  rw [State.haltAfter, State.core_modCore, State.haltMid_core]
  rfl

theorem exec_endCtx (h : s.admits f .endCtx) (ck : hdrCK f.word = true) :
    exec .endCtx s = .next ((s.modCtx f.core f.ctx fun k => { k with st := .ended }).tryArrive f.core (s.focusLk f)) :=
  syncSlot_go "END" _ h (by rw [State.syncBad_endCtx, ck]; rfl)

theorem exec_endCtx_of_bad (h : s.admits f .endCtx) (bad : hdrCK f.word = false) : exec .endCtx s = .next (s.raise f 8 0x01 0) :=
  syncSlot_bad "END" _ h.1 (by rw [State.syncBad_endCtx, bad]; rfl)

end
end Sys2Proof.Machine

open Sys2Proof Sys2Proof.Machine in
/-- Settles O35: the value of each number is what `State.sysReg` gives for it. -/
theorem systemRegisters : Obligations.SystemRegisters := by
  intro s f a d nw
  dsimp only
  have reads {n : BitVec 8} {v : Word} (is : s.sysReg f.core f.ctx n.toNat = v) (h : s.admits f (.sysrd d nw n)) :
      exec (.sysrd d nw n) s = .next (s.resultX f 8 2 d nw 6 v) := is ▸ exec_sysrd h
  exact ⟨reads rfl, reads rfl, reads rfl, reads rfl, reads State.sysReg_gcid, reads rfl, reads rfl, reads rfl, reads rfl, reads rfl, reads rfl,
    reads rfl, reads rfl, reads rfl, reads rfl, reads rfl, reads rfl, reads rfl, reads rfl, exec_syswr, exec_syswr⟩

open Sys2Proof Sys2Proof.Machine in
/-- Settles O36, form by form. -/
theorem trapBreakEnd : Obligations.TrapBreakEnd := by
  refine fun s f a => ⟨exec_trap, fun h => ⟨fun closed => ?_, fun open_ => ?_⟩, fun h => ⟨exec_endCtx h, exec_endCtx_of_bad h⟩⟩
  · exact (exec_ebrk h).trans (congrArg _ (if_neg (Bool.eq_false_iff.mp closed)))
  · refine ⟨_, (exec_ebrk h).trans (congrArg _ (if_pos open_)), State.haltAfter_focus, ?_⟩
    rw [State.haltAfter_core]
    exact ⟨rfl, rfl, rfl⟩

end

section
/-!
PROOFS. Bit errors (R328): a register word that does not exist.
-/

namespace Sys2Proof.Machine

/-- A register word of a class that does not exist is outside the memories, and an error there does nothing. -/
theorem exec_softError_reg_of_no_class {s : State} {c : CoreId} {k : CtxId} {cls num w : Nat} {fast hard : Bool} (none_ : regWords cls = none) :
    exec (.softError (.reg c k cls num w fast) hard) s = .next s := by
  change execSoftError (.reg c k cls num w fast) hard s = _
  rw [execSoftError, none_]
  exact if_neg Bool.false_ne_true

end Sys2Proof.Machine

open Sys2Proof Sys2Proof.Machine in
/-- Refutes O57, by its clause on register words, which quantifies over every class number: there are the classes 0 to 3 (x, v, m and th), and a hard
error of a word of class 4 leaves the reset state as it is, with nothing noted. It says nothing against the other clauses. -/
theorem not_softErrorRows : ¬ Obligations.SoftErrorRows := by
  intro h
  obtain ⟨-, noted, -⟩ := h .reset 0 0 0 (.hbm 0) true
  obtain ⟨t, ran, isIn⟩ := noted 0 4 0 0
  rw [exec_softError_reg_of_no_class rfl] at ran
  cases ran
  exact absurd isIn (by decide)

end

section
/-!
PROOFS. Pre-emption and partition swaps (R333, R334, R336, R337).
-/

namespace Sys2Proof.Machine

section
variable {s : State} {m : Launch} {lk part : Nat}

/-! ### A swap-out brings a Saved launch back (R336) -/

/-- A resume fixes Yr of its launch, and leaves the management registers (R334). -/
theorem State.sameLaunches_resume (l : Launch) : ∃ u : State, ∃ yr, (s.modLaunch l.key fun x => { x with yr := some yr }).sameLaunches u ∧
    s.resume l = { u with lastPart := l.part } := by
  refine ⟨_, _, (State.sameLaunches_tickFree _).trans (State.sameLaunches_foldl (fun u r => ?_) l.recs _), rfl⟩
  split
  · exact State.sameLaunches_foldl (fun u i => u.sameLaunches_modCtx ..) _ u
  · exact .refl u

theorem State.mem_resume {l : Launch} (h : m ∈ (s.resume l).launches) : ∃ l ∈ s.launches, ∃ yr, m = { l with yr := yr } := by
  obtain ⟨u, yr, ⟨launches, -⟩, is⟩ := State.sameLaunches_resume (s := s) l
  rw [is] at h
  obtain ⟨l', hl, rfl⟩ := State.mem_modLaunch.mp (launches ▸ h)
  split
  · exact ⟨l', hl, _, rfl⟩
  · exact ⟨l', hl, l'.yr, rfl⟩

theorem State.pf_resume (l : Launch) : (s.resume l).pf = s.pf := by
  obtain ⟨u, yr, ⟨-, pf⟩, is⟩ := State.sameLaunches_resume (s := s) l
  rw [is]
  exact pf

theorem State.swapResume_cases : s.swapResume part = s ∨ ∃ l, s.swapResume part = s.resume l := by
  rw [State.swapResume]
  split
  · cases s.resumable part [] with
    | none => exact .inl rfl
    | some l => exact .inr ⟨l, rfl⟩
  · exact .inl rfl

theorem State.mem_swapResume (h : m ∈ (s.swapResume part).launches) : ∃ l ∈ s.launches, ∃ yr, m = { l with yr := yr } := by
  obtain is | ⟨l, is⟩ := State.swapResume_cases (s := s) (part := part) <;> rw [is] at h
  · exact ⟨m, h, m.yr, rfl⟩
  · exact State.mem_resume h

theorem State.pf_swapResume : (s.swapResume part).pf = s.pf := by
  obtain is | ⟨l, is⟩ := State.swapResume_cases (s := s) (part := part) <;> rw [is]
  exact State.pf_resume l

/-! ### The partition is parked (R336) -/

/-- A launch of the partition goes to the parked storage, with its record (R322, R336). -/
def State.parkLaunch (s : State) (l : Launch) : State := (s.modLaunch l.key fun x => { x with parked := true, yreq := none }).swapRecord l

theorem State.mem_parkLaunch {l : Launch} (h : m ∈ (s.parkLaunch l).launches) :
    m ∈ s.launches ∨ ∃ l ∈ s.launches, m = { l with parked := true, yreq := none } := by
  rw [State.parkLaunch, State.swapRecord, (State.sameLaunches_postRecord ..).1] at h
  obtain ⟨l', hl, rfl⟩ := State.mem_modLaunch.mp h
  split
  · exact .inr ⟨l', hl, rfl⟩
  · exact .inl hl

theorem State.mem_parkLaunches {ls : List Launch} (h : m ∈ (ls.foldl State.parkLaunch s).launches) :
    m ∈ s.launches ∨ ∃ l ∈ s.launches, m = { l with parked := true, yreq := none } := by
  induction ls generalizing s with
  | nil => exact .inl h
  | cons l ls ih =>
    obtain hm | ⟨l', hl', rfl⟩ := ih h
    · exact State.mem_parkLaunch hm
    · obtain hl' | ⟨l'', hl'', rfl⟩ := State.mem_parkLaunch hl'
      · exact .inr ⟨l', hl', rfl⟩
      · exact .inr ⟨l'', hl'', rfl⟩

theorem State.pf_parkLaunches (ls : List Launch) : (ls.foldl State.parkLaunch s).pf = s.pf :=
  List.foldlRecOn (motive := fun u : State => u.pf = s.pf) ls _ rfl fun _ hu _ _ => (State.sameLaunches_postRecord ..).2.trans hu

/-- What parking makes of the launches and the management registers (R336). -/
theorem State.park_spec (ys began : Nat) : ∃ (u : State) (ls : List Launch), s.sameLaunches u ∧
    (s.park part ys began).launches = (ls.foldl State.parkLaunch u).launches ∧
    ∃ n, (s.park part ys began).pf = { s.pf with swap := none, swapResult := 0, swapCycles := n } := by
  let ls := (s.launchesOf part).filter fun l => l.st == .saved
  let u := ls.foldl (fun s l => l.coreIds.foldl (fun s c => s.parkCore l.key c) s) s
  have cores : s.sameLaunches u := State.sameLaunches_foldl (fun v l => State.sameLaunches_foldl (fun v c => v.sameLaunches_parkCore l.key c) _ v) ls s
  refine ⟨u, ls, cores, rfl, BitVec.ofNat 32 ((ls.foldl State.parkLaunch u).now - began), ?_⟩
  rw [← cores.2, ← State.pf_parkLaunches (s := u) ls]
  rfl

theorem State.mem_parkIfDone (h : m ∈ (s.parkIfDone part).launches) :
    m ∈ s.launches ∨ ∃ l ∈ s.launches, m = { l with parked := true, yreq := none } := by
  rw [State.parkIfDone] at h
  split at h
  · split at h
    · obtain ⟨u, ls, ⟨same, -⟩, launches, -⟩ := State.park_spec (s := s) (part := part) _ _
      rw [← same]
      exact State.mem_parkLaunches (launches ▸ h)
    · exact .inl h
  · exact .inl h

/-! ### What a swap command leaves in SWAPST (R336, R337) -/

/-- A swap of the partition is in progress with RESULT 1, or it is over with RESULT 0. -/
def State.swapStands (s : State) (p : BitVec 4) : Prop :=
  s.pf.swapPart = p ∧ ((s.pf.swap.isSome = true ∧ s.pf.swapResult = 1) ∨ (s.pf.swap = none ∧ s.pf.swapResult = 0))

theorem State.swapStands_of_pf {t : State} {p : BitVec 4} (h : s.swapStands p) (pf : t.pf = s.pf) : t.swapStands p := by
  rw [State.swapStands, pf]
  exact h

/-- A swap that ends leaves RESULT 0. -/
theorem State.swapStands_of_ended {t : State} {p : BitVec 4} {n : BitVec 32} (h : s.swapStands p)
    (pf : t.pf = { s.pf with swap := none, swapResult := 0, swapCycles := n }) : t.swapStands p := by
  rw [State.swapStands, pf]
  exact ⟨h.1, .inr ⟨rfl, rfl⟩⟩

theorem State.swapStands_parkIfDone {p : BitVec 4} (h : s.swapStands p) : (s.parkIfDone part).swapStands p := by
  rw [State.parkIfDone]
  split
  · split
    · obtain ⟨_, _, _, _, _, registers⟩ := State.park_spec (s := s) (part := part) _ _
      exact State.swapStands_of_ended h registers
    · exact h
  · exact h

theorem State.swapStands_unparkDone {p : BitVec 4} (h : s.swapStands p) : (s.unparkDone part).swapStands p := by
  rw [State.unparkDone]
  split
  · split
    · exact State.swapStands_of_ended h rfl
    · exact h
  · exact h

theorem State.launches_unparkDone : (s.unparkDone part).launches = s.launches := by
  rw [State.unparkDone]
  split
  · split <;> rfl
  · rfl

theorem State.sameLaunches_rejudgeYields (l : Launch) : s.sameLaunches (s.rejudgeYields l) :=
  State.sameLaunches_foldl (fun u c => State.sameLaunches_foldl (fun u i => u.sameLaunches_modCtx c i _) _ u) _ s

/-! ### Yield saves and resumes (R333, R334, R337) -/

theorem exec_yieldSave {l : Launch} (is : s.launch lk = some l) (yields : s.yielded l = true) (due : ∃ t, l.ys = some t ∧ t ≤ s.now) :
    ∃ t, exec (.yieldSave lk) s = .next t ∧ ∀ m ∈ t.launches, m.key = lk → m.st = .saved ∧ m.yreq = none := by
  obtain ⟨ys, hys, at_⟩ := due
  have due : (s.yielded l && l.ys.any fun t => decide (t ≤ s.now)) = true := by
    rw [yields, hys]
    exact decide_eq_true at_
  change ∃ t, execYieldSave lk s = .next t ∧ _
  rw [execYieldSave, is]
  refine ⟨_, if_pos due, fun m hm own => ?_⟩
  have saved (m' : Launch) (h : m' ∈ ((l.coreIds.foldl (fun s c => s.saveCore lk (l.yreq == some .iteration) c) s).modLaunch lk fun x =>
      { x with st := .saved, yreq := none, yieldAt := none, swapSaved := l.yreq == some .node }).launches) (own : m'.key = lk) :
      m'.st = .saved ∧ m'.yreq = none := by
    obtain ⟨l', -, rfl⟩ := State.mem_modLaunch.mp h
    split at own
    next => rw [if_pos ‹_›]; exact ⟨rfl, rfl⟩
    next other => exact absurd own other
  obtain here | ⟨m', here, rfl⟩ := State.mem_parkIfDone hm
  · obtain ⟨m', first, yr, rfl⟩ := State.mem_swapResume here
    exact saved m' first own
  · obtain ⟨m'', first, yr, rfl⟩ := State.mem_swapResume here
    exact ⟨(saved m'' first own).1, rfl⟩

/-- A launch that comes back is bound again (R334). -/
def Launch.back (x : Launch) : Launch := { x with st := .bound, yr := none, ys := none, parked := false, swapSaved := false }

theorem State.bound_of_mem_back (h : m ∈ (s.modLaunch lk Launch.back).launches) (own : m.key = lk) : m.st = .bound ∧ m.yr = none := by
  obtain ⟨l, -, rfl⟩ := State.mem_modLaunch.mp h
  split at own
  next => rw [if_pos ‹_›]; exact ⟨rfl, rfl⟩
  next other => exact absurd own other

theorem exec_preemptResume {l : Launch} (is : s.launch lk = some l) (due : s.resumeDue l = true) (stored : l.parked = false ∨ s.isParked l.part = true) :
    ∃ t, exec (.preemptResume lk) s = .next t ∧ ∀ m ∈ t.launches, m.key = lk → m.st = .bound ∧ m.yr = none := by
  change ∃ t, execPreemptResume lk s = .next t ∧ _
  rw [execPreemptResume, is]
  dsimp only
  rw [if_pos due]
  by_cases parked : l.parked = true
  · rw [if_pos parked]
    obtain ⟨q, hq⟩ : ∃ q, s.parked.find? (fun q => q.part == l.part) = some q :=
      Option.isSome_iff_exists.mp (List.find?_isSome.mpr (List.any_eq_true.mp (stored.resolve_left (by simp [parked]))))
    rw [hq]
    refine ⟨_, rfl, fun m hm own => State.bound_of_mem_back (s := s.unpark q l) ?_ own⟩
    rw [State.launches_unparkDone] at hm
    exact hm
  · rw [if_neg parked]
    refine ⟨_, rfl, fun m hm own => ?_⟩
    split at hm
    · obtain ⟨m', hm', rfl⟩ := State.mem_modLaunch.mp hm
      split at own
      next mine =>
        rw [if_pos mine]
        exact State.bound_of_mem_back (m := m') hm' mine
      next other => exact absurd own other
    · exact State.bound_of_mem_back hm own

/-! ### Swap commands (R336, R337) -/

variable {a : Agent} {p : BitVec 4}

/-- SWAPCMD of the owner for a partition that exists, while no swap runs (R336). -/
def State.swapAdmits (s : State) (a : Agent) (p : BitVec 4) : Prop := s.owns a = true ∧ (p ≠ 0 ∧ p.toNat ≤ 9) ∧ s.pf.swap = none

theorem exec_swap_of_no_part (own : s.owns a = true) (no : p = 0 ∨ 9 < p.toNat) :
    exec (.swapOut a p) s = .next s ∧ exec (.swapIn a p) s = .next s := by
  change execSwapOut a p s = _ ∧ execSwapIn a p s = _
  rw [execSwapOut, execSwapIn, own]
  exact ⟨if_pos no, if_pos no⟩

theorem exec_swap_of_running (own : s.owns a = true) (part : p ≠ 0 ∧ p.toNat ≤ 9) (runs : s.pf.swap.isSome = true) :
    exec (.swapOut a p) s = .next (s.swapRefused p 4) ∧ exec (.swapIn a p) s = .next (s.swapRefused p 4) := by
  have exists_ : ¬(p = 0 ∨ p.toNat > 9) := not_or.mpr ⟨part.1, Nat.not_lt.mpr part.2⟩
  change execSwapOut a p s = _ ∧ execSwapIn a p s = _
  rw [execSwapOut, execSwapIn, own]
  exact ⟨(if_neg exists_).trans (if_pos runs), (if_neg exists_).trans (if_pos runs)⟩

/-- A swap-out as it starts: it is named in SWAPST, and every bound launch of the partition is to yield at a node boundary (R336). -/
def State.swapOutStart (s : State) (p : BitVec 4) : State :=
  { s with
    pf := { s.pf with swapPart := p, swapResult := 1, swap := some (p.toNat, true, s.now, none) }
    launches := s.launches.map fun (l : Launch) =>
      if l.part = p.toNat ∧ l.st = LaunchSt.bound then { l with yreq := some .node, yieldAt := none, ys := none } else l }

/-- What a swap-out answers once it is admitted: its two refusals in their order, and its start (R336; log entry 41). -/
theorem exec_swapOut (h : s.swapAdmits a p) : exec (.swapOut a p) s =
    if !s.swappable p.toNat then .next (s.swapRefused p 2)
    else if (s.diesOf p.toNat).any (fun d => (dieOf? d).any fun e => (s.die e).parked.isSome) then .next (s.swapRefused p 3)
    else .next (((((s.swapOutStart p).launchesOf p.toNat).foldl State.rejudgeYields (s.swapOutStart p)).swapResume p.toNat).parkIfDone p.toNat) := by
  obtain ⟨own, part, idle⟩ := h
  have exists_ : ¬(p = 0 ∨ p.toNat > 9) := not_or.mpr ⟨part.1, Nat.not_lt.mpr part.2⟩
  change execSwapOut a p s = _
  rw [execSwapOut, own, idle]
  exact if_neg exists_

/-- A swap-in as it starts, with its cycle Yr (R337). -/
def State.swapInStart (s : State) (p : BitVec 4) (yr : Nat) : State :=
  { s with
    pf := { s.pf with swapPart := p, swapResult := 1, swap := some (p.toNat, false, s.now, some yr) }
    launches := s.launches.map fun (l : Launch) => if l.part = p.toNat ∧ l.parked then { l with yr := some yr } else l }

theorem exec_swapIn_of_not_parked (h : s.swapAdmits a p) (none_ : s.parked.find? (fun q => q.part == p.toNat) = none) :
    exec (.swapIn a p) s = .next (s.swapRefused p 3) := by
  obtain ⟨own, part, idle⟩ := h
  have exists_ : ¬(p = 0 ∨ p.toNat > 9) := not_or.mpr ⟨part.1, Nat.not_lt.mpr part.2⟩
  change execSwapIn a p s = _
  rw [execSwapIn, own, idle, none_]
  exact if_neg exists_

theorem exec_swapIn_of_parked {q : Parked} (h : s.swapAdmits a p) (is : s.parked.find? (fun q => q.part == p.toNat) = some q)
    (dies : s.diesOf p.toNat = q.dies) : ∃ yr, exec (.swapIn a p) s = .next ((s.swapInStart p yr).tickFree.unparkDone p.toNat) := by
  obtain ⟨own, part, idle⟩ := h
  have exists_ : ¬(p = 0 ∨ p.toNat > 9) := not_or.mpr ⟨part.1, Nat.not_lt.mpr part.2⟩
  change ∃ yr, execSwapIn a p s = _
  rw [execSwapIn, own, idle, is]
  exact ⟨_, (if_neg exists_).trans (if_neg (not_not_intro dies))⟩

/-- Does a die of the partition hold a parked one (R336)? -/
theorem State.any_parked_iff : ((s.diesOf part).any fun d => (dieOf? d).any fun e => (s.die e).parked.isSome) = true ↔
    ∃ d : Fin 9, d.val ∈ s.diesOf part ∧ (s.die d).parked ≠ none := by
  simp only [List.any_eq_true, dieOf?, Option.any_eq_true, Option.isSome_iff_ne_none]
  constructor
  · rintro ⟨d, hd, e, he, parked⟩
    split at he
    · cases he
      exact ⟨_, hd, parked⟩
    · cases he
  · rintro ⟨d, hd, parked⟩
    exact ⟨d.val, hd, d, dif_pos d.isLt, parked⟩

theorem exec_swapOut_starts (h : s.swapAdmits a p) (swappable : s.swappable p.toNat = true)
    (free : ∀ d : Fin 9, d.val ∈ s.diesOf p.toNat → (s.die d).parked = none) : ∃ t, exec (.swapOut a p) s = .next t ∧ t.swapStands p := by
  have free : ¬ ((s.diesOf p.toNat).any fun d => (dieOf? d).any fun e => (s.die e).parked.isSome) = true := fun any =>
    have ⟨d, hd, parked⟩ := State.any_parked_iff.mp any
    parked (free d hd)
  refine ⟨_, (exec_swapOut h).trans ((if_neg (by rw [swappable]; exact Bool.false_ne_true)).trans (if_neg free)), ?_⟩
  have starts : (s.swapOutStart p).swapStands p := ⟨rfl, .inl ⟨rfl, rfl⟩⟩
  have judged := State.sameLaunches_foldl (fun (u : State) l => u.sameLaunches_rejudgeYields l) ((s.swapOutStart p).launchesOf p.toNat) (s.swapOutStart p)
  exact State.swapStands_parkIfDone (State.swapStands_of_pf starts (State.pf_swapResume.trans judged.2))

end
end Sys2Proof.Machine

open Sys2Proof Sys2Proof.Machine in
/-- Settles O50: the yield save and the resume, then the swap commands with their refusals in the model's order. -/
theorem preemptionAndSwapRows : Obligations.PreemptionAndSwapRows := by
  intro s a p lk
  refine ⟨fun l => exec_yieldSave, fun l => exec_preemptResume, fun own => ⟨exec_swap_of_no_part own, fun nz le => exec_swap_of_running own ⟨nz, le⟩,
    fun nz le idle away => ?_, fun nz le idle no => ?_, fun nz le idle may holds => ?_, fun nz le idle => exec_swapOut_starts ⟨own, ⟨nz, le⟩, idle⟩,
    fun nz le idle dies parked => ?_⟩⟩
  · refine exec_swapIn_of_not_parked ⟨own, ⟨nz, le⟩, idle⟩ (List.find?_eq_none.mpr ?_)
    exact List.any_eq_false.mp away
  · exact (exec_swapOut ⟨own, ⟨nz, le⟩, idle⟩).trans (if_pos (by rw [no]; rfl))
  · exact (exec_swapOut ⟨own, ⟨nz, le⟩, idle⟩).trans
      ((if_neg (by rw [may]; exact Bool.false_ne_true)).trans (if_pos (State.any_parked_iff.mpr holds)))
  · obtain ⟨q, hq⟩ := Option.isSome_iff_exists.mp (List.find?_isSome.mpr (List.any_eq_true.mp parked))
    obtain ⟨yr, ran⟩ := exec_swapIn_of_parked ⟨own, ⟨nz, le⟩, idle⟩ hq (dies q hq)
    have starts : (s.swapInStart p yr).swapStands p := ⟨rfl, .inl ⟨rfl, rfl⟩⟩
    exact ⟨_, ran, State.swapStands_unparkDone (State.swapStands_of_pf starts (State.sameLaunches_tickFree _).2)⟩

end

section
/-!
PROOFS. Debug commands (R342 to R345), watch reports (R351), and the debug policy (R360, R361).
-/

namespace Sys2Proof.Machine

section
variable {s : State} {vf : Fin 9} {cmd : BitVec 64} {n part : Nat} {c : CoreId}

theorem State.vfs_modVf {f : Vf → Vf} : (s.modVf vf f).vfs[vf] = f s.vfs[vf] :=
  Vector.getElem_set_self _

/-! ### A command of this package (R342, R343) -/

/-- DBGCMD with BUSY at 1 (R343). -/
theorem State.dbgCommand_of_busy {data : Word} (busy : s.vfs[vf].dbgbusy = true) : s.dbgCommand vf n cmd data = s := if_pos busy

theorem State.dbgCommand_of_forward {data : Word} (idle : s.vfs[vf].dbgbusy = false) (fwd : dbgFwd cmd = true) :
    s.dbgCommand vf n cmd data = s.dbgForward vf n cmd data := by
  rw [State.dbgCommand, idle]
  exact if_pos fwd

theorem State.dbgCommand_of_own {data : Word} (idle : s.vfs[vf].dbgbusy = false) (own : dbgFwd cmd = false) :
    let r := s.dbgLocal (vf.val + 1) n cmd data
    s.dbgCommand vf n cmd data = (r.1.dbgResult vf n r.2.1 r.2.2).dbgEnd vf r.2.1 := by
  rw [State.dbgCommand, idle, own]
  rfl

/-- A command that ends with an error returns nothing. -/
theorem State.dbgCommand_of_error {data : Word} {e : BitVec 3} (idle : s.vfs[vf].dbgbusy = false) (own : dbgFwd cmd = false)
    (is : s.dbgLocal (vf.val + 1) n cmd data = (s, e, 0)) (error : e ≠ 0) : s.dbgCommand vf n cmd data = s.dbgEnd vf e := by
  rw [State.dbgCommand_of_own idle own, is, State.dbgResult]
  rw [if_neg fun h => error h.2]

/-- Numbers 1 to 10 name commands while the package runs. -/
theorem dbgCommand_exists (running : s.pf.stopped = false) (named : 1 ≤ n ∧ n ≤ 10) :
    ¬(n = 0 ∨ 10 < n ∨ (s.pf.stopped && !(n == 3 || n == 5 || n == 7)) = true) := by
  rw [running, Bool.false_and]
  rintro (zero | above | stopped)
  · omega
  · omega
  · cases stopped

theorem State.dbgLocal_of_closed {data : Word} (running : s.pf.stopped = false) (named : 1 ≤ n ∧ n ≤ 10)
    (closed : s.dbgAllowed part n (dbgSel cmd) = false) : s.dbgLocal part n cmd data = (s, 1, 0) := by
  rw [State.dbgLocal]
  dsimp only
  rw [if_neg (dbgCommand_exists running named), closed]
  rfl

/-- Command n, 1 to 8, on a core of the partition (R343). -/
def State.dbgAct (s : State) (c : CoreId) (n : Nat) (cmd data : Word) : State × BitVec 3 × Word :=
  let halted := (s.core c).dbg.halted || s.pf.stopped
  if n = 1 then (s.modCore c fun k => k.askHalt 1 s.now, 0, 0)
  else if n = 2 then (if halted then (s.modCore c Core.unhalt, 0, 0) else (s, 2, 0))
  else if n = 3 ∨ n = 5 ∨ n = 7 then s.dbgRead c (dbgCtx cmd) n (dbgSel cmd) halted
  else let r := s.dbgWrite c (dbgCtx cmd) n (dbgSel cmd) data halted; (r.1, r.2, 0)

/-- What a command for one core answers once the policy lets it (R343). -/
theorem State.dbgLocal_of_open {data : Word} (running : s.pf.stopped = false) (named : 1 ≤ n ∧ n ≤ 8)
    (opened : s.dbgAllowed part n (dbgSel cmd) = true) :
    s.dbgLocal part n cmd data = (s.dbgCoreOf part cmd).elim (s, 3, 0) fun c => s.dbgAct c n cmd data := by
  rw [State.dbgLocal]
  dsimp only
  rw [if_neg (dbgCommand_exists running (by omega)), opened, if_neg (show ¬(n = 9 ∨ n = 10) by omega)]
  cases s.dbgCoreOf part cmd <;> rfl

/-! ### The commands as DBGCMD brings them -/

/-- What O54 says of an instruction that brings command n. -/
theorem exec_dbgCommand {i : Instr} (named : 1 ≤ n ∧ n ≤ 10) (is : exec i s = .next (s.dbgCommand vf n cmd s.vfs[vf].dbgdata)) :
    let r := s.dbgLocal (vf.val + 1) n cmd s.vfs[vf].dbgdata
    (s.vfs[vf].dbgbusy = true → exec i s = .next s) ∧
    (s.vfs[vf].dbgbusy = false → dbgFwd cmd = false →
      exec i s = .next ((r.1.dbgResult vf n r.2.1 r.2.2).dbgEnd vf r.2.1) ∧
      (s.pf.stopped = false → s.dbgAllowed (vf.val + 1) n (dbgSel cmd) = false → exec i s = .next (s.dbgEnd vf 1)) ∧
      (s.pf.stopped = false → s.dbgAllowed (vf.val + 1) n (dbgSel cmd) = true → n ≤ 8 → s.dbgCoreOf (vf.val + 1) cmd = none →
        exec i s = .next (s.dbgEnd vf 3))) ∧
    (s.vfs[vf].dbgbusy = false → dbgFwd cmd = true → exec i s = .next (s.dbgForward vf n cmd s.vfs[vf].dbgdata)) := by
  rw [is]
  refine ⟨fun busy => congrArg _ (State.dbgCommand_of_busy busy), fun idle own => ⟨congrArg _ (State.dbgCommand_of_own idle own),
    fun running closed => congrArg _ ?_, fun running opened le away => congrArg _ ?_⟩, fun idle fwd => congrArg _ (State.dbgCommand_of_forward idle fwd)⟩
  · exact State.dbgCommand_of_error idle own (State.dbgLocal_of_closed running named closed) (by decide)
  · refine State.dbgCommand_of_error idle own ?_ (by decide)
    rw [State.dbgLocal_of_open running ⟨named.1, le⟩ opened, away]
    rfl

/-- A halt asks the core to halt with reason 1 (R348). -/
theorem State.req_dbgCommand_halt {data : Word} (idle : s.vfs[vf].dbgbusy = false) (own : dbgFwd cmd = false) (running : s.pf.stopped = false)
    (opened : s.isOpen (vf.val + 1) 0 = true) (core : s.dbgCoreOf (vf.val + 1) cmd = some c) :
    ((s.dbgCommand vf 1 cmd data).core c).dbg.req = (s.core c).dbg.req ++ [(1, s.now)] := by
  have allowed : s.dbgAllowed (vf.val + 1) 1 (dbgSel cmd) = true := by
    rw [State.dbgAllowed, running]
    exact opened
  have is : s.dbgLocal (vf.val + 1) 1 cmd data = (s.modCore c fun k => k.askHalt 1 s.now, 0, 0) := by
    rw [State.dbgLocal_of_open running (by decide) allowed, core]
    rfl
  rw [State.dbgCommand_of_own idle own, is]
  exact congrArg (fun k : Core => k.dbg.req) (State.core_modCore s c fun k => k.askHalt 1 s.now)

/-! ### The profile control (R354) -/

/-- Command 8 on register 0x0D, with the other fields of the command as they were. -/
def profctlCmd (cmd : Word) : Word := cmd &&& ~~~0xFFFFFFFF ||| 0xD

theorem bits_profctlCmd {lo w : Nat} :
    bits (profctlCmd cmd) lo w = bits cmd lo w &&& (~~~0xFFFFFFFF : Word).extractLsb' lo w ||| (0xD : Word).extractLsb' lo w := by
  rw [bits, profctlCmd, BitVec.extractLsb'_or, BitVec.extractLsb'_and]
  rfl

theorem dbgSel_profctlCmd : dbgSel (profctlCmd cmd) = 0xD := by
  rw [dbgSel, bits_profctlCmd, show (~~~0xFFFFFFFF : Word).extractLsb' 0 32 = 0#32 by decide, BitVec.and_zero, BitVec.zero_or]
  rfl

theorem dbgCore_profctlCmd : dbgCore (profctlCmd cmd) = dbgCore cmd := by
  rw [dbgCore, bits_profctlCmd, show (~~~0xFFFFFFFF : Word).extractLsb' 42 9 = BitVec.allOnes 9 by decide,
    show (0xD : Word).extractLsb' 42 9 = 0#9 by decide, BitVec.and_allOnes, BitVec.or_zero]
  rfl

theorem dbgFwd_profctlCmd : dbgFwd (profctlCmd cmd) = dbgFwd cmd := by
  rw [dbgFwd, profctlCmd, BitVec.getLsbD_or, BitVec.getLsbD_and, show (~~~0xFFFFFFFF : Word).getLsbD 51 = true by decide,
    show (0xD : Word).getLsbD 51 = false by decide, Bool.and_true, Bool.or_false]
  rfl

theorem prof_write_clr {d : Debug} {data : Word} : (d.write 0xD (data ||| 2)).prof = [] := by
  have clr : (data ||| 2).getLsbD 1 = true := by
    rw [BitVec.getLsbD_or]
    exact Bool.or_true _
  exact if_pos clr

/-- CLR empties the profile table of the core. -/
theorem exec_profctlClr (idle : s.vfs[vf].dbgbusy = false) (own : dbgFwd cmd = false) (running : s.pf.stopped = false)
    (registers : s.isOpen (vf.val + 1) 1 = true) (profile : s.isOpen (vf.val + 1) 3 = true) (core : s.dbgCoreOf (vf.val + 1) cmd = some c) :
    ∃ t, exec (.profctlClr vf cmd) s = .next t ∧ (t.core c).dbg.prof = [] ∧ t.vfs[vf].dbgerr = 0 := by
  have core : s.dbgCoreOf (vf.val + 1) (profctlCmd cmd) = some c := by
    rw [State.dbgCoreOf, dbgCore_profctlCmd]
    exact core
  have allowed : s.dbgAllowed (vf.val + 1) 8 (dbgSel (profctlCmd cmd)) = true := by
    rw [State.dbgAllowed, running, registers, profile, Bool.or_true]
    rfl
  have is : s.dbgLocal (vf.val + 1) 8 (profctlCmd cmd) (s.vfs[vf].dbgdata ||| 2) =
      (s.modCore c fun k => { k with dbg := k.dbg.write 0xD (s.vfs[vf].dbgdata ||| 2) }, 0, 0) := by
    rw [State.dbgLocal_of_open running (by decide) allowed, core]
    change s.dbgAct c 8 (profctlCmd cmd) (s.vfs[vf].dbgdata ||| 2) = _
    rw [State.dbgAct, dbgSel_profctlCmd]
    rfl
  refine ⟨_, congrArg Host.Outcome.next ((State.dbgCommand_of_own idle (dbgFwd_profctlCmd.trans own)).trans (by rw [is])), ?_, ?_⟩
  · exact (congrArg (fun k : Core => k.dbg.prof) (State.core_modCore s c fun k => { k with dbg := k.dbg.write 0xD (s.vfs[vf].dbgdata ||| 2) })).trans
      prof_write_clr
  · exact congrArg Vf.dbgerr State.vfs_modVf

/-! ### Watch reports (R351) -/

theorem filter_const_true {α : Type} {l : List α} : (l.filter fun _ => true) = l := List.filter_eq_self.mpr fun _ _ => rfl

theorem filter_const_false {α : Type} {l : List α} : (l.filter fun _ => false) = [] := List.filter_eq_nil_iff.mpr fun _ _ => Bool.false_ne_true

/-- The log of a core's watchpoints. -/
def watchLog (d : Debug) : Vector (Vector Word 4) 16 × BitVec 4 × BitVec 16 := (d.wlog, d.wnext, d.wtotal)

/-- A record that is put into the log leaves the rest. -/
theorem req_posts (l : List WatchRec) (d : Debug) : (l.foldl (fun d r => d.post r.words) d).req = d.req :=
  List.foldlRecOn (motive := fun x : Debug => x.req = d.req) l _ rfl fun _ h _ _ => h

/-- The debug registers of a core after its due records, `due`, have been put into the log (R342, R351). -/
def watchReported (d : Debug) (now : Nat) (halts : Bool) (due : List WatchRec) : Debug :=
  let p := due.foldl (fun d r => d.post r.words) d
  { p with
    pend := d.pend.filter fun r => !decide (r.due ≤ now)
    req := if halts && due.any WatchRec.halt then p.req ++ [(4, now)] else p.req }

theorem exec_watchReport (due : (s.core c).watchDue s.now = true) : ∃ t, exec (.watchReport c) s = .next t ∧
    (t.core c).dbg = watchReported (s.core c).dbg s.now (s.isOpen (s.partOfCore c) 0)
      (((s.core c).dbg.pend.filter fun r => decide (r.due ≤ s.now)).filter fun _ => s.isOpen (s.partOfCore c) 2) := by
  refine ⟨_, if_pos due, ?_⟩
  rw [State.core_modCore]
  rfl

theorem watchReported_of_closed {d : Debug} {now : Nat} {halts : Bool} :
    watchLog (watchReported d now halts []) = watchLog d ∧ (watchReported d now halts []).req = d.req :=
  ⟨rfl, if_neg (by rw [List.any_nil, Bool.and_false]; exact Bool.false_ne_true)⟩

theorem req_watchReported_of_halt {d : Debug} {now : Nat} {due : List WatchRec} (halt : ∃ r ∈ due, r.halt = true) :
    (watchReported d now true due).req = d.req ++ [(4, now)] := by
  rw [watchReported]
  dsimp only
  rw [req_posts, List.any_eq_true.mpr halt]
  rfl

/-! ### The debug policy (R360, R361) -/

theorem State.vfs_closeDebug (open_ : BitVec 5) : (s.closeDebug part open_).vfs = s.vfs := by
  refine List.foldlRecOn (motive := fun u : State => u.vfs = s.vfs) (List.finRange 324) _ rfl fun u h d _ => ?_
  split <;> exact h

/-- What a policy closes is no register of a virtual function. -/
theorem State.vfs_commit {ok : Bool} {open_ : BitVec 5} : ((if ok then s.closeDebug part open_ else s).tickFree).vfs = s.vfs := by
  rw [State.tickFree_vfs]
  split
  · exact State.vfs_closeDebug open_
  · rfl

/-- A record that passes opens its access bits; another opens nothing, and takes nothing back (log entry 64). -/
theorem exec_dbgpolCommit :
    let r : BitVec 1024 := BitVec.ofNat 1024 (s.vfs[vf].window.span 0 128)
    let ok := s.policyOk vf r (s.vfs[vf].window.span 128 sigBytes)
    ∃ t, exec (.dbgpolCommit vf) s = .next t ∧ t.vfs[vf].polst = (if ok then 1 else 2) ∧
      t.vfs[vf].open_ = if ok then r.extractLsb' 288 5 else s.vfs[vf].open_ := by
  intro r ok
  refine ⟨_, rfl, ?_⟩
  rw [State.vfs_commit, State.vfs_modVf]
  change (if ok then _ else _ : Vf).polst = _ ∧ (if ok then _ else _ : Vf).open_ = _
  cases ok with
  | true => exact ⟨rfl, rfl⟩
  | false => exact ⟨rfl, rfl⟩

end
end Sys2Proof.Machine

open Sys2Proof Sys2Proof.Machine in
/-- Settles O54: the commands by what each answers, then the timeout, the reports, the commit and the profile control. -/
theorem debugCommandsAndRows : Obligations.DebugCommandsAndRows := by
  refine ⟨fun s vf cmd => ⟨exec_dbgCommand (by decide) rfl, exec_dbgCommand (by decide) rfl, exec_dbgCommand (by decide) rfl,
    exec_dbgCommand (by decide) rfl, exec_dbgCommand (by decide) rfl, exec_dbgCommand (by decide) rfl, exec_dbgCommand (by decide) rfl,
    exec_dbgCommand (by decide) rfl, exec_dbgCommand (by decide) rfl, exec_dbgCommand (by decide) rfl,
    fun c idle own running opened core => ⟨_, rfl, State.req_dbgCommand_halt idle own running opened core⟩⟩,
    fun s vf c cmd => ⟨fun late => if_pos late, fun due => ?_, exec_dbgpolCommit, exec_profctlClr⟩⟩
  obtain ⟨t, ran, is⟩ := exec_watchReport due
  refine ⟨t, ran, by rw [is]; rfl, fun opened => ⟨?_, fun halts halt => ?_⟩, fun closed => ?_⟩
  · rw [is, opened, filter_const_true]
    rfl
  · rw [is, opened, halts, filter_const_true]
    exact req_watchReported_of_halt halt
  · rw [is, closed, filter_const_false]
    exact watchReported_of_closed

end

section
/-!
PROOFS. SPDM, TDISP and keys (R355 to R358), and heat (R364).
-/

namespace Sys2Proof.Machine

section
variable {s : State} {fn : Fin 10} {vf : Fin 9}

/-! ### SPDM (R355) -/

/-- A request that SPDM answers gets one response. -/
theorem exec_spdmPlain {i : Instr} {req resp : Nat} {given : List (BitVec 512)} (is : exec i s = .next (s.spdmPlain fn req resp given)) :
    ∃ t body, exec i s = .next t ∧ t.outbox = (s.now, Output.spdm fn.val resp body) :: s.outbox := ⟨_, _, is, rfl⟩

theorem State.session_setSession {v : Nat} : (s.setSession fn v).session fn = v := Vector.getElem_set_self _

theorem exec_keyExchange {bs : List (BitVec 8)} :
    ∃ t, exec (.keyExchange fn bs) s = .next t ∧ t.session fn = if Config.spdmAccepts 0xE4 bs s.freeCtr then 1 else s.session fn := by
  change ∃ t, execKeyExchange fn bs s = .next t ∧ _
  rw [execKeyExchange]
  split
  · exact ⟨_, rfl, State.session_setSession⟩
  · exact ⟨_, rfl, rfl⟩

theorem exec_finish {bs : List (BitVec 8)} : ∃ t, exec (.finish fn bs) s = .next t ∧
    t.session fn = if s.session fn = 1 ∧ Config.spdmAccepts 0xE5 bs s.freeCtr then 2 else s.session fn := by
  change ∃ t, execFinish fn bs s = .next t ∧ _
  rw [execFinish]
  split
  · exact ⟨_, rfl, State.session_setSession⟩
  · exact ⟨_, rfl, rfl⟩

theorem exec_endSession : ∃ t, exec (.endSession fn) s = .next t ∧ t.session fn = if s.session fn = 2 then 0 else s.session fn := by
  change ∃ t, execEndSession fn s = .next t ∧ _
  rw [execEndSession]
  split
  · exact ⟨_, rfl, State.session_setSession⟩
  · exact ⟨_, rfl, rfl⟩

/-! ### Keys (R357, R358, R360) -/

theorem vfOf_succ {v : Fin 9} (is : fn.val = v.val + 1) : vfOf fn.val = some v := by
  rw [vfOf, dif_pos (by omega)]
  exact congrArg some (Fin.ext (by simp [is]))

section
variable {v : Fin 9} {slot : BitVec 8} {c : BitVec 256}

theorem State.keys_otherKeys {p : Nat → Bool} : (s.otherKeys vf p).vfs[v].keys = s.vfs[v].keys := by
  change (s.vfs.set vf.val { s.vfs[vf] with keyGen := s.vfs[vf].keyGen + 1 })[v.val].keys = _
  rw [Vector.getElem_set]
  split
  next same => cases Fin.ext same; rfl
  next => rfl

theorem State.keys_ite_otherKeys {b : Prop} [Decidable b] {p : Nat → Bool} : (if b then s.otherKeys vf p else s).vfs[v].keys = s.vfs[v].keys := by
  split
  · exact State.keys_otherKeys
  · rfl

theorem exec_ideKmRequest (is : fn.val = v.val + 1) : exec (.ideKmRequest fn c) s = .next (s.modVf v fun x => { x with ide := some c }) := by
  change execIdeKmRequest fn c s = _
  rw [execIdeKmRequest, vfOf_succ is]

theorem exec_keyset_of_session (is : fn.val = v.val + 1) {k : Fin 4} (names : slot.toNat = k.val + 1) (session : s.session fn = 2)
    (free : s.partBound fn.val = false) : ∃ t, exec (.keyset fn slot c) s = .next t ∧ t.vfs[v].keys[k] = some c := by
  change ∃ t, execKeyset fn slot c s = .next t ∧ _
  rw [execKeyset, vfOf_succ is]
  dsimp only
  rw [if_neg (not_not_intro session), free, if_neg Bool.false_ne_true, dif_pos (by omega)]
  refine ⟨_, rfl, ?_⟩
  have key : ((s.modVf v fun x => { x with keys := x.keys.set (slot.toNat - 1) (some c) (by omega) }).vfs[v]).keys[k] = some c := by
    rw [State.vfs_modVf]
    simp [names]
  exact (congrArg (fun ks : Vector (Option (BitVec 256)) 4 => ks[k]) State.keys_ite_otherKeys).trans key

theorem exec_keyset_of_no_session (is : fn.val = v.val + 1) (session : s.session fn ≠ 2) :
    ∃ t, exec (.keyset fn slot c) s = .next t ∧ t.vfs = s.vfs := by
  change ∃ t, execKeyset fn slot c s = .next t ∧ _
  rw [execKeyset, vfOf_succ is]
  exact ⟨_, if_pos session, rfl⟩

theorem exec_tenantPublicKeyDelivery {pk : BitVec 512} (is : fn.val = v.val + 1) (session : s.session fn = 2) (unlocked : s.vfs[v].tdisp = .unlocked) :
    ∃ t, exec (.tenantPublicKeyDelivery v pk) s = .next t ∧ t.vfs[v].pubkey = some pk := by
  have own : fn = ⟨v.val + 1, by omega⟩ := Fin.ext is
  exact ⟨_, if_pos ⟨own ▸ session, unlocked⟩, congrArg Vf.pubkey (State.vfs_modVf (s := s) (f := fun x => { x with pubkey := some pk }))⟩

end

/-! ### TDISP (R357) -/

theorem State.tdisp_tdispTo {t : Tdisp} : (s.tdispTo vf t).vfs[vf].tdisp = t := congrArg Vf.tdisp State.vfs_modVf

theorem exec_tdispRequest_lock (unlocked : s.vfs[vf].tdisp = .unlocked) :
    ∃ t, exec (.tdispRequest vf .lock) s = .next t ∧ t.vfs[vf].tdisp = .locked := by
  change ∃ t, execTdispRequest vf .lock s = .next t ∧ _
  rw [execTdispRequest]
  · exact ⟨_, rfl, State.tdisp_tdispTo⟩
  · exact unlocked

theorem exec_tdispRequest_start (locked : s.vfs[vf].tdisp = .locked) :
    ∃ t, exec (.tdispRequest vf .start) s = .next t ∧ t.vfs[vf].tdisp = .run := by
  change ∃ t, execTdispRequest vf .start s = .next t ∧ _
  rw [execTdispRequest]
  · exact ⟨_, rfl, State.tdisp_tdispTo⟩
  · exact locked

theorem exec_tdispRequest_stop : ∃ t, exec (.tdispRequest vf .stop) s = .next t ∧ t.vfs[vf].tdisp = .unlocked :=
  ⟨_, rfl, State.tdisp_tdispTo⟩

theorem exec_tlpOutsideStream (runs : s.vfs[vf].tdisp = .run) : ∃ t, exec (.tlpOutsideStream vf) s = .next t ∧ t.vfs[vf].tdisp = .error :=
  ⟨_, if_pos runs, State.tdisp_tdispTo⟩

/-! ### The hottest reading (R364) -/

theorem State.hottest_die : ∃ d : Fin 9, ((List.finRange 9).map s.dieHeat).foldl max 0 = s.dieHeat d ∧ ∀ e, s.dieHeat e ≤ s.dieHeat d := by
  obtain ⟨hot, is⟩ := Option.isSome_iff_exists.mp (List.isSome_max?_of_mem (List.mem_map_of_mem (f := s.dieHeat) (List.mem_finRange (0 : Fin 9))))
  obtain ⟨isIn, most⟩ := List.max?_eq_some_iff.mp is
  obtain ⟨d, -, rfl⟩ := List.mem_map.mp isIn
  refine ⟨d, ?_, fun e => most _ (List.mem_map_of_mem (List.mem_finRange e))⟩
  rw [List.foldl_max, is]
  exact Nat.zero_max _

theorem exec_tmaxUpdate : ∃ t, exec .tmaxUpdate s = .next t ∧ (∀ d : Fin 9, min (s.dieHeat d) 255 ≤ t.pf.tmax.toNat) ∧
    ∃ d : Fin 9, t.pf.tmax.toNat ≤ s.dieHeat d := by
  obtain ⟨d, is, most⟩ := s.hottest_die
  have tmax : (BitVec.ofNat 8 (min (((List.finRange 9).map s.dieHeat).foldl max 0) 255)).toNat = min (s.dieHeat d) 255 := by
    rw [is, BitVec.toNat_ofNat]
    omega
  have above (e : Fin 9) : min (s.dieHeat e) 255 ≤ min (s.dieHeat d) 255 := by
    have least := most e
    omega
  exact ⟨_, rfl, fun e => Nat.le_trans (above e) (Nat.le_of_eq tmax.symm), d, Nat.le_trans (Nat.le_of_eq tmax) (Nat.min_le_left ..)⟩

/-! ### The thermal trip (R364) -/

/-- A launch as decided aborts, stops and notices leave it: its state stays, a stop and an abort stay. -/
def Launch.evolves (l m : Launch) : Prop :=
  m.key = l.key ∧ m.st = l.st ∧ (l.stopped = true → m.stopped = true) ∧ (l.abort.isSome = true → m.abort.isSome = true)

/-- The launch has stopped, and unless it had ended an abort is decided for it. -/
def Launch.tripped (m : Launch) : Prop := m.stopped = true ∧ (m.st ≠ .ended → m.abort.isSome = true)

/-- What the trip does about a launch (R364). -/
def State.tripStop (s : State) (l : Launch) : State := ((s.decideAbort l.key 9 0 0).stopLaunch l.key).floodLoss l

variable {l m : Launch} {ls : List Launch}

theorem Launch.evolves.refl : l.evolves l := ⟨rfl, rfl, fun h => h, fun h => h⟩

theorem Launch.evolves.trans {n : Launch} (h : l.evolves m) (h' : m.evolves n) : l.evolves n := by
  obtain ⟨key, st, stopped, abort⟩ := h
  obtain ⟨key', st', stopped', abort'⟩ := h'
  exact ⟨key'.trans key, st'.trans st, stopped' ∘ stopped, abort' ∘ abort⟩

theorem Launch.tripped.evolves {n : Launch} (h : m.tripped) (e : m.evolves n) : n.tripped := by
  obtain ⟨-, st, stopped, abort⟩ := e
  exact ⟨stopped h.1, fun live => abort (h.2 (st ▸ live))⟩

theorem State.mem_decideAbort {lk status cause core : Nat} (h : m ∈ (s.decideAbort lk status cause core).launches) :
    ∃ l ∈ s.launches, l.evolves m ∧ (l.key = lk → m.st ≠ .ended → m.abort.isSome = true) := by
  obtain ⟨l, hl, rfl⟩ := State.mem_modLaunch.mp h
  refine ⟨l, hl, ?_⟩
  split
  next own =>
    split
    next => exact ⟨⟨rfl, rfl, id, fun _ => rfl⟩, fun _ _ => rfl⟩
    next no =>
      refine ⟨.refl, fun _ live => ?_⟩
      simpa [live, Option.isSome_iff_ne_none] using no
  next other => exact ⟨.refl, fun own => absurd own other⟩

theorem State.mem_tripStop (h : m ∈ (s.tripStop l).launches) : ∃ m₀ ∈ s.launches, m₀.evolves m ∧ (m₀.key = l.key → m.tripped) := by
  obtain ⟨m₂, h₂, p, rfl⟩ := State.mem_floodLoss h
  obtain ⟨m₁, h₁, rfl⟩ := State.mem_stopLaunch.mp h₂
  obtain ⟨m₀, h₀, evolves, decided⟩ := State.mem_decideAbort h₁
  refine ⟨m₀, h₀, ?_⟩
  split
  next own =>
    have stop : m₁.evolves { m₁.stop with pod := p } := ⟨rfl, rfl, fun _ => rfl, id⟩
    exact ⟨evolves.trans stop, fun own' => ⟨rfl, decided own'⟩⟩
  next other =>
    have stay : m₁.evolves { m₁ with pod := p } := ⟨rfl, rfl, id, id⟩
    exact ⟨evolves.trans stay, fun own => absurd (evolves.1.trans own) other⟩

/-- After the trip every launch is one from before, and one of those that it stops is tripped. -/
theorem State.mem_tripStops (h : m ∈ (ls.foldl State.tripStop s).launches) :
    ∃ m₀ ∈ s.launches, m₀.evolves m ∧ ∀ l ∈ ls, m₀.key = l.key → m.tripped := by
  induction ls generalizing s with
  | nil => exact ⟨m, h, .refl, fun _ no => nomatch no⟩
  | cons l ls ih =>
    rw [List.foldl_cons] at h
    obtain ⟨m₁, h₁, later, rest⟩ := ih h
    obtain ⟨m₀, h₀, first, this⟩ := State.mem_tripStop h₁
    refine ⟨m₀, h₀, first.trans later, List.forall_mem_cons.mpr ⟨fun own => (this own).evolves later, fun l' hl' own => rest l' hl' (first.1.trans own)⟩⟩

theorem State.trip_tripStops : (ls.foldl State.tripStop s).pf.trip = s.pf.trip := by
  refine List.foldlRecOn (motive := fun u : State => u.pf.trip = s.pf.trip) ls _ rfl fun u hu l _ => ?_
  obtain ⟨seen, pf⟩ := State.pf_floodLoss (s := (u.decideAbort l.key 9 0 0).stopLaunch l.key) l
  rw [State.tripStop, pf, State.pf_stopLaunch]
  exact hu

/-- TRIP is set, with the die that reads 105 °C. -/
def State.tripNoted (s : State) (die : Fin 9) : State :=
  { s with pf := { s.pf with trip := true, tripDie := BitVec.ofNat 4 die.val, hot := s.pf.hot ||| ((1 : BitVec 9) <<< die.val) } }

/-- The launches that the trip stops. -/
def State.tripLaunches (s : State) : List Launch := s.launches.filter fun l => (l.st == .bound || l.st == .saved) && !l.stopped

theorem exec_thermalTrip {die : Fin 9} (due : s.tripDue die = true) :
    exec (.thermalTrip die) s = .next (s.tripLaunches.foldl State.tripStop (s.tripNoted die)) := if_pos due

theorem State.tripped_of_live {die : Fin 9} (h : m ∈ (s.tripLaunches.foldl State.tripStop (s.tripNoted die)).launches) (live : m.st = .bound ∨ m.st = .saved) :
    m.stopped = true ∧ (m.abort.isSome = true ∨ ∃ m₀ ∈ s.launches, m₀.key = m.key ∧ m₀.stopped = true) := by
  obtain ⟨m₀, h₀, ⟨key, st, stopped, -⟩, all⟩ := State.mem_tripStops h
  by_cases before : m₀.stopped = true
  · exact ⟨stopped before, .inr ⟨m₀, h₀, key.symm, before⟩⟩
  · have chosen : ((m₀.st == .bound || m₀.st == .saved) && !m₀.stopped) = true := by
      rw [← st]
      simpa [before] using live
    obtain ⟨halted, abort⟩ := all m₀ (List.mem_filter.mpr ⟨h₀, chosen⟩) rfl
    refine ⟨halted, .inl (abort fun ended => ?_)⟩
    rw [ended] at live
    exact live.elim nofun nofun

end
end Sys2Proof.Machine

open Sys2Proof Sys2Proof.Machine in
/-- Settles O56: a lemma for each request and row. -/
theorem trustRows : Obligations.TrustRows := by
  intro s fn vf off len n c idx code slot bs pk die
  refine ⟨exec_spdmPlain rfl, exec_spdmPlain rfl, exec_spdmPlain rfl, exec_spdmPlain rfl, exec_spdmPlain rfl, exec_spdmPlain rfl, ⟨_, _, rfl, rfl⟩, rfl,
    exec_keyExchange, exec_finish, exec_endSession,
    fun v is => ⟨exec_ideKmRequest is, fun k names session free => exec_keyset_of_session is names session free, exec_keyset_of_no_session is,
      exec_tenantPublicKeyDelivery is⟩,
    exec_tdispRequest_lock, exec_tdispRequest_start, exec_tdispRequest_stop, exec_tlpOutsideStream, exec_tmaxUpdate,
    fun due => ⟨_, exec_thermalTrip due, State.trip_tripStops, fun m hm => State.tripped_of_live hm⟩⟩

end

section
/-!
PROOFS. Transfer programs and faults (R304 to R313), barriers of the pod (R274, R307), what arrives over links (R296, R297, R308 to R311), and the time base (R298, R299).
-/

namespace Sys2Proof.Machine

section
variable {s : State} {lk entry : Nat} {l m : Launch}

/-! ### The pod side of a launch -/

/-- What a change of the pod side of the launches of a key makes of each of them. -/
theorem State.mem_modPod {f : PodSt → PodSt} (h : m ∈ (s.modPod lk f).launches) (own : m.key = lk) :
    ∃ l ∈ s.launches, l.key = lk ∧ m = { l with pod := f l.pod } := by
  obtain ⟨l, hl, rfl⟩ := State.mem_modLaunch.mp h
  split at own
  next mine => exact ⟨l, hl, mine, if_pos mine⟩
  next other => exact absurd own other

theorem State.launch_modLaunch {f : Launch → Launch} (keeps : ∀ l, (f l).key = l.key) : (s.modLaunch lk f).launch lk = (s.launch lk).map f := by
  have same : ((fun l : Launch => l.key == lk) ∘ fun l => if l.key = lk then f l else l) = fun l => l.key == lk := by
    funext l
    dsimp only [Function.comp]
    split
    · rw [keeps]
    · rfl
  rw [State.launch, State.modLaunch, List.find?_map, same, State.launch]
  cases found : s.launches.find? fun l => l.key == lk with
  | none => rfl
  | some l => exact congrArg some (if_pos (beq_iff_eq.mp (List.find?_some (p := fun l : Launch => l.key == lk) found)))

theorem State.launch_modPod {f : PodSt → PodSt} : (s.modPod lk f).launch lk = (s.launch lk).map fun l => { l with pod := f l.pod } :=
  State.launch_modLaunch fun _ => rfl

/-! ### Transfer programs (R304 to R306, R310) -/

theorem exec_programStart {r : Run} (is : s.launch lk = some l) (due : s.programDue l = true) (next : s.nextRun l = some r) :
    ∃ t, exec (.programStart lk) s = .next t ∧ ∀ m ∈ t.launches, m.key = lk → m.pod.running = some r ∧ m.pod.pendRun = none := by
  change ∃ t, execProgramStart lk s = .next t ∧ _
  rw [execProgramStart, is]
  dsimp only
  rw [due, next]
  refine ⟨_, rfl, fun m hm own => ?_⟩
  obtain ⟨l', -, -, rfl⟩ := State.mem_modPod hm own
  exact ⟨rfl, rfl⟩

/-- A flow of the running program of a launch, by their numbers. -/
def State.flowOf (s : State) (lk entry : Nat) : Option Flow := ((s.launch lk).bind fun m => m.flow entry).map Prod.snd

theorem State.sameLaunches.flowOf {t : State} (h : s.sameLaunches t) : t.flowOf lk entry = s.flowOf lk entry := by
  rw [State.flowOf, h.launch, State.flowOf]

variable {r : Run} {w : Flow}

theorem State.flowOf_modFlow {f : Flow → Flow} (is : s.launch lk = some l) (has : l.flow entry = some (r, w)) (keeps : ∀ w, (f w).idx = w.idx) :
    (s.modFlow lk entry f).flowOf lk entry = some (f w) := by
  obtain ⟨r', running, found⟩ := Option.bind_eq_some_iff.mp has
  obtain ⟨w', found, pair⟩ := Option.map_eq_some_iff.mp found
  cases pair
  have same : ((fun w : Flow => w.idx == entry) ∘ fun w => if w.idx = entry then f w else w) = fun w => w.idx == entry := by
    funext w
    dsimp only [Function.comp]
    split
    · rw [keeps]
    · rfl
  have changed : (r.flows.map fun w => if w.idx = entry then f w else w).find? (fun w => w.idx == entry) = some (f w) := by
    rw [List.find?_map, same, found]
    exact congrArg some (if_pos (beq_iff_eq.mp (List.find?_some (p := fun w : Flow => w.idx == entry) found)))
  rw [State.flowOf, State.modFlow, State.launch_modPod, is]
  simp [Launch.flow, running, changed]

/-- A flit leaves over a link that is up (R304, R309). -/
theorem State.outbox_sendFlit {port slot : Nat} {h : FlitHdr} {pay : BitVec 1024} {mark : BitVec 16} (up : ∃ q : Fin 12, q.val = port ∧ s.ports[q].st = 2) :
    (s.sendFlit port slot h pay mark).outbox = (s.now, .flit port slot h pay mark) :: s.outbox := by
  obtain ⟨q, rfl, up⟩ := up
  rw [State.sendFlit, dif_pos q.isLt]
  split
  next => rfl
  next down => exact absurd up down

theorem exec_send (is : s.launch lk = some l) (has : l.flow entry = some (r, w)) (kind : peKind w.entry = 0) (due : s.sendDue r w = true) :
    ∃ t, exec (.send lk entry) s = .next t ∧ (t.flowOf lk entry).map Flow.sent = some (w.sent + 1) ∧
      ∀ x pay mark, w.held w.sent = some x → x.data = some (pay, mark) → (∃ q : Fin 12, q.val = peOport w.entry ∧ s.ports[q].st = 2) →
        let dst := l.podmap.getD (s.targetOf l r.variant r.prog l.podmap.length l.lpkg w.entry) 0
        let sealed := flitSeal ((vfOf l.part).bind fun n => s.vfs[n].keys[2]) (s.flitIv l r l.lpkg w.entry w.sent) pay
        t.outbox = (s.now, .flit (peOport w.entry) (slotFrom (r.b + peToff w.entry) w.sent)
          (mkHdr s.pf.pkg.toNat 0 dst l.part s.pf.inc (s.incOf dst) sealed.2) sealed.1 mark) :: s.outbox := by
  change ∃ t, execSend lk entry s = .next t ∧ _
  rw [execSend, is]
  dsimp only
  rw [has]
  dsimp only
  rw [if_pos ⟨kind, due⟩]
  have counted := State.flowOf_modFlow (f := fun w => { w with sent := w.sent + 1, buf := w.buf.filter fun h => h.n != w.sent }) is has fun _ => rfl
  split
  next pay mark held =>
    refine ⟨_, rfl, ?_, ?_⟩
    · rw [(State.sameLaunches_sendFlit ..).flowOf, counted]
      rfl
    · intro x pay' mark' held' data up
      cases held.symm.trans held'
      cases data
      exact State.outbox_sendFlit up
  next empty =>
    refine ⟨_, rfl, by rw [counted]; rfl, ?_⟩
    rintro ⟨n, at_, hdr, data⟩ pay mark held rfl
    exact absurd held (empty n at_ hdr pay mark)

theorem exec_fwd (is : s.launch lk = some l) (has : l.flow entry = some (r, w)) (kind : peKind w.entry = 1) (due : s.sendDue r w = true) :
    ∃ t, exec (.fwd lk entry) s = .next t ∧ (t.flowOf lk entry).map Flow.sent = some (w.sent + 1) ∧
      ((∃ q : Fin 12, q.val = peOport w.entry ∧ s.ports[q].st = 2) →
        (∀ x h pay mark, w.held w.sent = some x → x.hdr = some h → x.data = some (pay, mark) → x.at_ + 64 ≤ w.outTick r.b w.sent →
          t.outbox = (s.now, .flit (peOport w.entry) (slotFrom (r.b + peToff w.entry) w.sent) h pay mark) :: s.outbox) ∧
        (w.held w.sent = none → t.outbox = (s.now, .flit (peOport w.entry) (slotFrom (r.b + peToff w.entry) w.sent)
          (s.voidHdr l ((s.neighbour (peOport w.entry)).getD 0)) 0 0) :: s.outbox)) := by
  change ∃ t, execFwd lk entry s = .next t ∧ _
  rw [execFwd, is]
  dsimp only
  rw [has]
  dsimp only
  rw [if_pos ⟨kind, due⟩]
  have counted := State.flowOf_modFlow
    (f := fun w => { w with sent := w.sent + 1, buf := w.buf.filter fun h => h.n != w.sent || decide (w.seen ≤ w.sent) }) is has fun _ => rfl
  split
  next h pay mark held =>
    refine ⟨_, rfl, ?_, fun up => ⟨?_, fun none_ => ?_⟩⟩
    · rw [(State.sameLaunches_sendFlit ..).flowOf, counted]
      rfl
    · intro x h' pay' mark' held' hdr data inTime
      obtain ⟨is', -⟩ := Option.filter_eq_some_iff.mp held
      cases held'.symm.trans is'
      cases hdr
      cases data
      exact State.outbox_sendFlit up
    · rw [none_] at held
      cases held
  next empty =>
    refine ⟨_, rfl, ?_, fun up => ⟨?_, fun none_ => State.outbox_sendFlit up⟩⟩
    · rw [(State.sameLaunches_sendFlit ..).flowOf, counted]
      rfl
    · rintro ⟨n, at_, hdr, data⟩ h pay mark held rfl rfl inTime
      exact absurd (Option.filter_eq_some_iff.mpr ⟨held, decide_eq_true inTime⟩) (empty _ _ _ _ _)

theorem exec_recv {h : HeldFlit} (is : s.launch lk = some l) (has : l.flow entry = some (r, w)) (due : s.recvDue w = some h) :
    ∃ t, exec (.recv lk entry) s = .next t ∧ (t.flowOf lk entry).map Flow.wrote = some (w.wrote + 1) ∧
      (h.data = none → t.cores = s.cores) ∧
      ∀ pay mark c a src e, h.data = some (pay, mark) → regionOf (peLaddr w.entry + 128 * h.n) = .pad c a →
        s.sourceOf l r.variant r.prog (l.podmap.length + 1) l.lpkg w.entry = some (src, e) →
        ∃ x : Access, (t.core c).acc = (s.core c).acc ++ [x] ∧ x.due = s.now ∧ x.byTick = true ∧ x.always = true ∧
          x.party = .link (peIport w.entry) ∧
          x.wr = flitChunks a (flitOpen ((vfOf l.part).bind fun n => s.vfs[n].keys[2]) (s.flitIv l r src e h.n) pay) mark ∧
          x.tagW = if peK w.entry then [(tileOf a, peTag w.entry)] else [] := by
  change ∃ t, execRecv lk entry s = .next t ∧ _
  rw [execRecv, is]
  dsimp only
  rw [has]
  dsimp only
  rw [due]
  dsimp only
  have counted := State.flowOf_modFlow (f := fun w => { w with wrote := w.wrote + 1, buf := w.buf.filter fun x => x.n != h.n }) is has fun _ => rfl
  split
  next pay mark c a src e data region source =>
    refine ⟨_, rfl, ?_, fun void => ?_, ?_⟩
    · rw [State.addAccess, (State.sameLaunches_modCore ..).flowOf, counted]
      rfl
    · rw [data] at void
      cases void
    · intro pay' mark' c' a' src' e' data' region' source'
      cases data.symm.trans data'
      cases region.symm.trans region'
      cases source.symm.trans source'
      exact ⟨_, congrArg Core.acc (State.core_modCore _ _ _), rfl, rfl, rfl, rfl, rfl, rfl⟩
  next rest =>
    refine ⟨_, rfl, by rw [counted]; rfl, fun _ => rfl, fun pay mark c a src e data region source => ?_⟩
    exact absurd source (rest pay mark c a src e data region)

theorem exec_linkFault_of_flow (is : s.launch lk = some l) (has : l.flow entry = some (r, w)) (missing : s.missingFlit r w = true) :
    exec (.linkFault lk entry) s = .next ((s.linkFault l (peIport w.entry)).modFlow lk entry fun w => { w with seen := w.seen + 1, wrote := w.wrote + 1 }) := by
  have key : l.key = lk := beq_iff_eq.mp (List.find?_some (p := fun l : Launch => l.key == lk) is)
  change execLinkFault lk entry s = _
  rw [execLinkFault, is]
  dsimp only
  rw [has, ← key]
  exact if_pos missing

/-! ### Barriers of the pod (R274, R307) -/

/-- What a step for each level brings about for the launches of a key, and no later step undoes, holds of every level once all are done. -/
theorem State.all_of_mem_foldl {step : State → Nat → State} {P : Nat → PodSt → Prop}
    (each : ∀ {s : State} {m : Launch} {n : Nat}, m ∈ (step s n).launches → m.key = lk →
      P n m.pod ∧ ∃ m₀ ∈ s.launches, m₀.key = lk ∧ ∀ k, P k m₀.pod → P k m.pod)
    {ns : List Nat} (h : m ∈ (ns.foldl step s).launches) (own : m.key = lk) :
    (∀ n ∈ ns, P n m.pod) ∧ ∃ m₀ ∈ s.launches, m₀.key = lk ∧ ∀ k, P k m₀.pod → P k m.pod := by
  induction ns generalizing s with
  | nil => exact ⟨nofun, m, h, own, fun _ holds => holds⟩
  | cons n ns ih =>
    rw [List.foldl_cons] at h
    obtain ⟨rest, m₁, h₁, mine₁, kept⟩ := ih h
    obtain ⟨this, m₀, h₀, mine₀, kept₀⟩ := each h₁ mine₁
    exact ⟨List.forall_mem_cons.mpr ⟨kept n this, rest⟩, m₀, h₀, mine₀, fun k holds => kept k (kept₀ k holds)⟩

/-- An arrival of a level by a package has been carried. -/
def PodSt.hears (p : PodSt) (level idx : Nat) : Prop := ∃ h ∈ p.heard, h.1 = level ∧ h.2.2.1 = idx

/-- What a pod side holds once an arrival is carried. -/
def PodSt.hear (p : PodSt) (level inst idx slot : Nat) : PodSt :=
  if p.heard.any fun h => h.1 == level && h.2.1 == inst && h.2.2.1 == idx then p else { p with heard := p.heard ++ [(level, inst, idx, slot)] }

theorem PodSt.hears_hear_self {p : PodSt} {level inst idx slot : Nat} : (p.hear level inst idx slot).hears level idx := by
  rw [PodSt.hear]
  split
  next already =>
    obtain ⟨h, isIn, is⟩ := List.any_eq_true.mp already
    simp only [Bool.and_eq_true, beq_iff_eq] at is
    exact ⟨h, isIn, is.1.1, is.2⟩
  next => exact ⟨_, List.mem_append_right _ (List.mem_singleton_self _), rfl, rfl⟩

theorem PodSt.hears_hear {p : PodSt} {n i level inst idx slot : Nat} (h : p.hears n i) : (p.hear level inst idx slot).hears n i := by
  rw [PodSt.hear]
  split
  · exact h
  · obtain ⟨x, isIn, is⟩ := h
    exact ⟨x, List.mem_append_left _ isIn, is⟩

/-- Carrying an arrival changes what is heard, and may fix the completion tick (R307). -/
theorem State.mem_hearArrival {level inst idx slot : Nat} (h : m ∈ (s.hearArrival lk level inst idx slot).launches) (own : m.key = lk) :
    ∃ l ∈ s.launches, l.key = lk ∧ ∃ due, m = { l with pod := { l.pod.hear level inst idx slot with due := due } } := by
  have heard {m : Launch} (h : m ∈ (s.modPod lk fun p => p.hear level inst idx slot).launches) (own : m.key = lk) :
      ∃ l ∈ s.launches, l.key = lk ∧ ∃ due, m = { l with pod := { l.pod.hear level inst idx slot with due := due } } := by
    obtain ⟨l, hl, mine, rfl⟩ := State.mem_modPod h own
    exact ⟨l, hl, mine, _, rfl⟩
  rw [State.hearArrival] at h
  dsimp only at h
  split at h
  · split at h
    · split at h
      · obtain ⟨l', hl', mine, rfl⟩ := State.mem_modPod h own
        obtain ⟨l, hl, mine, -, rfl⟩ := heard hl' mine
        exact ⟨l, hl, mine, _, rfl⟩
      · exact heard h own
    · exact heard h own
  · exact heard h own

/-- The arrival of a launch at level n goes out and is carried (R274, R307). -/
def State.carryArrival (lk : Nat) (l : Launch) (s : State) (n : Nat) : State :=
  let i := s.barInst l n
  let first := ((l.pod.heard.find? fun h => h.1 == n && h.2.1 == i && h.2.2.1 == l.lpkg).map fun h => h.2.2.2).getD s.now
  (s.sendBarrier l (barPayload l.id n i l.lpkg first) none).hearArrival lk n i l.lpkg first

theorem State.hears_of_mem_carryArrival {n : Nat} (h : m ∈ (s.carryArrival lk l n).launches) (own : m.key = lk) :
    m.pod.hears n l.lpkg ∧ ∃ m₀ ∈ s.launches, m₀.key = lk ∧ ∀ k, m₀.pod.hears k l.lpkg → m.pod.hears k l.lpkg := by
  obtain ⟨m₀, h₀, mine, due, rfl⟩ := State.mem_hearArrival h own
  rw [(State.sameLaunches_sendBarrier ..).1] at h₀
  exact ⟨PodSt.hears_hear_self (p := m₀.pod), m₀, h₀, mine, fun k => PodSt.hears_hear⟩

theorem exec_podBarrierSlot (is : s.launch lk = some l) (due : s.barSlotDue l = true) :
    ∃ t, exec (.podBarrierSlot lk) s = .next t ∧ ∀ m ∈ t.launches, m.key = lk → ∀ n ∈ s.barReady l, m.pod.hears n l.lpkg := by
  refine ⟨(s.barReady l).foldl (State.carryArrival lk l) s, ?_, fun m hm own =>
    (State.all_of_mem_foldl (P := fun n p => p.hears n l.lpkg) State.hears_of_mem_carryArrival hm own).1⟩
  change execPodBarrierSlot lk s = _
  rw [execPodBarrierSlot, is]
  exact if_pos due

/-- The index of a level among the two of the pod. -/
def barIdx (n : Nat) : Fin 2 := ⟨(n - 3) % 2, Nat.mod_lt _ (by decide)⟩

/-- No barrier of level n is under way: no part of this package, no completion tick. -/
def PodSt.idle (p : PodSt) (n : Nat) : Prop := p.due[barIdx n] = none ∧ p.part[barIdx n] = none

/-- Barrier i of level n ends. -/
def PodSt.complete (p : PodSt) (n i : Nat) : PodSt :=
  { p with
    due := p.due.set (barIdx n).val none (barIdx n).isLt, part := p.part.set (barIdx n).val none (barIdx n).isLt
    heard := p.heard.filter fun h => !(h.1 == n && h.2.1 == i) }

theorem PodSt.idle_complete_self {p : PodSt} {n i : Nat} : (p.complete n i).idle n :=
  ⟨Vector.getElem_set_self _, Vector.getElem_set_self _⟩

theorem getElem_set_none {α : Type} {v : Vector (Option α) 2} {a b : Fin 2} (h : v[b] = none) : (v.set a.val none a.isLt)[b] = none := by
  change (v.set a.val none a.isLt)[b.val] = none
  rw [Vector.getElem_set]
  split
  · rfl
  · exact h

theorem PodSt.idle_complete {p : PodSt} {k n i : Nat} (h : p.idle k) : (p.complete n i).idle k :=
  ⟨getElem_set_none h.1, getElem_set_none h.2⟩

/-- A barrier of level n completes for a launch (R273, R274, R307). -/
def State.completeBarrier (lk : Nat) (l : Launch) (s : State) (n : Nat) : State :=
  let i := s.barInst l n
  let s := s.modPod lk fun p => p.complete n i
  l.coreIds.foldl (fun s c => (s.modCore c fun k => k.modLc lk fun x => x.addDone n).barWake c lk s.now) s

theorem State.idle_of_mem_completeBarrier {n : Nat} (h : m ∈ (s.completeBarrier lk l n).launches) (own : m.key = lk) :
    m.pod.idle n ∧ ∃ m₀ ∈ s.launches, m₀.key = lk ∧ ∀ k, m₀.pod.idle k → m.pod.idle k := by
  rw [State.completeBarrier, (State.sameLaunches_foldl (fun u c => (u.sameLaunches_modCore c _).trans (State.sameLaunches_barWake ..)) _ _).1] at h
  obtain ⟨m₀, h₀, mine, rfl⟩ := State.mem_modPod h own
  exact ⟨PodSt.idle_complete_self, m₀, h₀, mine, fun k => PodSt.idle_complete⟩

theorem exec_podBarrierComplete (is : s.launch lk = some l) (due : s.barOverDue l = true) :
    ∃ t, exec (.podBarrierComplete lk) s = .next t ∧ ∀ m ∈ t.launches, m.key = lk → ∀ n ∈ l.barOver s.now, m.pod.idle n := by
  refine ⟨(l.barOver s.now).foldl (State.completeBarrier lk l) s, ?_, fun m hm own =>
    (State.all_of_mem_foldl (P := fun n p => p.idle n) State.idle_of_mem_completeBarrier hm own).1⟩
  change execPodBarrierComplete lk s = _
  rw [execPodBarrierComplete, is]
  exact if_pos due

/-! ### Containment (R312, R313, R338) -/

theorem State.sameLaunches_podTraps (cause addr flags : Nat) : s.sameLaunches (s.podTraps l cause addr flags) :=
  State.sameLaunches_foldl (fun u _ => (u.sameLaunches_postRecord ..).trans (State.sameLaunches_modCore ..)) _ s

/-- Neither a start nor a selection is pending. -/
def PodSt.clear (p : PodSt) : Prop := p.pendRun = none ∧ p.pendSel = none

/-- An abort that is decided leaves the pod side. -/
theorem State.pod_of_mem_decideAbort {status cause core : Nat} (h : m ∈ (s.decideAbort lk status cause core).launches) :
    ∃ l ∈ s.launches, m.key = l.key ∧ m.pod = l.pod := by
  obtain ⟨l, hl, rfl⟩ := State.mem_modLaunch.mp h
  refine ⟨l, hl, ?_⟩
  split
  · split <;> exact ⟨rfl, rfl⟩
  · exact ⟨rfl, rfl⟩

/-- An episode that ends the launch settles its pod side, whether or not an abort is still to be decided. -/
theorem State.clear_of_ended {f : PodSt → PodSt} (clears : ∀ p, (f p).clear) {stopped : Bool} {cause addr flags : Nat}
    (h : m ∈ (if stopped then s.modPod lk f else ((s.modPod lk f).podTraps l cause addr flags).decideAbort lk 10 cause 0).launches) (own : m.key = lk) :
    m.pod.clear := by
  have settled {m : Launch} (h : m ∈ (s.modPod lk f).launches) (own : m.key = lk) : m.pod.clear := by
    obtain ⟨l, -, -, rfl⟩ := State.mem_modPod h own
    exact clears l.pod
  split at h
  · exact settled h own
  · obtain ⟨m₀, h₀, key, pod⟩ := State.pod_of_mem_decideAbort h
    rw [(State.sameLaunches_podTraps ..).1] at h₀
    exact pod ▸ settled h₀ (key ▸ own)

theorem exec_containment {d : Nat} (is : s.launch lk = some l) (due : s.containDue l = true) (first : l.pod.firstNotice = some d) :
    ∃ t, exec (.containment lk) s = .next t ∧ ∀ m ∈ t.launches, m.key = lk → m.pod.clear := by
  change ∃ t, execContainment lk s = .next t ∧ _
  rw [execContainment, is]
  dsimp only
  rw [due, first]
  dsimp only
  split
  · split
    · exact ⟨_, rfl, fun m hm own => State.clear_of_ended (fun p => ⟨rfl, rfl⟩) hm own⟩
    · refine ⟨_, rfl, fun m hm own => ?_⟩
      obtain ⟨l', -, -, rfl⟩ := State.mem_modPod hm own
      exact ⟨rfl, rfl⟩
  · exact ⟨_, rfl, fun m hm own => State.clear_of_ended (fun p => ⟨rfl, rfl⟩) hm own⟩

theorem exec_containmentResume (is : s.launch lk = some l) (due : s.podResumeDue l = true) :
    ∃ t, exec (.containmentResume lk) s = .next t ∧ ∀ m ∈ t.launches, m.key = lk → m.pod.res = none := by
  change ∃ t, execContainmentResume lk s = .next t ∧ _
  rw [execContainmentResume, is]
  dsimp only
  rw [if_pos due]
  refine ⟨_, rfl, fun m hm own => ?_⟩
  obtain ⟨l', -, -, rfl⟩ := State.mem_modPod hm own
  rfl

/-! ### Ports and links (R299, R300, R309, R311) -/

variable {p : Fin 12}

theorem exec_elasticBufferFault (out : s.ports[p].elastic < 4 ∨ 28 < s.ports[p].elastic) : exec (.elasticBufferFault p) s =
    .next ((s.portLaunches p.val).foldl (fun s l => s.linkFault l p.val) (s.setFault p.val)) := if_pos out

theorem exec_guardInterval (due : s.guardDue p = true) :
    exec (.guardInterval p) s = .next { s with ports := s.ports.set p { s.ports[p] with elastic := 16 } } := if_pos due

/-- A notice leaves LOCK. -/
theorem State.lock_flood (n : Notice) : (s.flood n).pf.lock = s.pf.lock := by
  obtain ⟨seen, pf⟩ := State.pf_flood (s := s) n
  rw [pf]

theorem State.lock_linkFault (port : Nat) : (s.linkFault l port).pf.lock = s.pf.lock := by
  have fault : (s.setFault port).pf = s.pf := by
    rw [State.setFault]
    split <;> rfl
  rw [State.linkFault, ← fault]
  split
  · rfl
  · exact State.lock_flood _

theorem exec_lockLoss (locked : s.pf.lock = true) (far : 32 < s.pf.tbOffset.natAbs) :
    ∃ t, exec .lockLoss s = .next t ∧ t.pf.lock = false := by
  refine ⟨_, if_pos (by rw [locked]; exact decide_eq_true far), ?_⟩
  exact List.foldlRecOn (motive := fun u : State => u.pf.lock = false) _ _ rfl fun u h l _ => (u.lock_linkFault (l := l) _).trans h

/-- A link that is not up brings nothing (R309). -/
theorem exec_arrivals_of_down {slot : Nat} {h : BitVec 128} {pay : BitVec 1024} {mark : BitVec 16} {b : PacketWire} {n : Notice} (down : s.ports[p].st ≠ 2) :
    exec (.flitArrival p slot h pay mark) s = .next s ∧ exec (.openPacketArrival p h b) s = .next s ∧ exec (.faultNotice p n) s = .next s :=
  ⟨if_pos down, if_pos down, if_neg down⟩

theorem exec_faultNotice {n : Notice} (up : s.ports[p].st = 2) : exec (.faultNotice p n) s = .next (s.flood n) := if_pos up

theorem exec_retrainingDone_of_idle {x y : BitVec 32} {fl : BitVec 12} (idle : s.ports[p].st ≠ 1) : exec (.retrainingDone p x y fl) s = .next s :=
  if_pos idle

theorem exec_retrainingDone_of_eq {x y : BitVec 32} {fl : BitVec 12} (trains : s.ports[p].st = 1) (agree : x = y) :
    exec (.retrainingDone p x y fl) s = .next { s with ports := s.ports.set p { s.ports[p] with st := 2, flight := fl } } :=
  (if_neg (not_not_intro trains)).trans (if_pos agree)

theorem exec_retrainingDone_of_ne {x y : BitVec 32} {fl : BitVec 12} (trains : s.ports[p].st = 1) (differ : x ≠ y) :
    ∃ t, exec (.retrainingDone p x y fl) s = .next t ∧ t.ports[p].st = 3 :=
  ⟨_, (if_neg (not_not_intro trains)).trans (if_neg differ), congrArg Port.st (Vector.getElem_set_self _)⟩

/-! ### Flits and open packets arrive (R296, R297, R308, R310) -/

section
variable {slot : Nat} {h : BitVec 128} {pay : BitVec 1024} {mark : BitVec 16} {b : PacketWire}

/-- A port notes the tick of its last flit. -/
def State.notePort (s : State) (p : Fin 12) : State := { s with ports := s.ports.set p { s.ports[p] with lastSched := s.now } }

theorem exec_flitArrival_of_bad (up : s.ports[p].st = 2) (bad : 5 < hdrKind h ∨ s.incBad h = true) :
    exec (.flitArrival p slot h pay mark) s = .next ((s.notePort p).countInc p) :=
  (if_neg (not_not_intro up)).trans (if_pos bad)

theorem exec_flitArrival_of_good (up : s.ports[p].st = 2) (kind : hdrKind h ≤ 5) (good : s.incBad h = false) :
    ∃ t, exec (.flitArrival p slot h pay mark) s = .next t ∧ (3 ≤ hdrKind h → t = s.notePort p) := by
  have good : ¬(hdrKind h > 5 ∨ (s.notePort p).incBad h = true) := not_or.mpr ⟨Nat.not_lt.mpr kind, Bool.eq_false_iff.mp good⟩
  change ∃ t, execFlitArrival p slot h pay mark s = .next t ∧ _
  rw [execFlitArrival, if_neg (not_not_intro up)]
  dsimp only
  split
  next bad => exact absurd bad good
  next =>
    split
    next barrier => exact ⟨_, rfl, fun other => absurd other (by omega)⟩
    next data => exact ⟨_, rfl, fun other => absurd other (by omega)⟩
    next void => exact ⟨_, rfl, fun other => absurd other (by omega)⟩
    next => exact ⟨_, rfl, fun _ => rfl⟩

theorem exec_openPacketArrival_of_kind (up : s.ports[p].st = 2) (kind : hdrKind h < 3 ∨ 5 < hdrKind h) :
    exec (.openPacketArrival p h b) s = .next (s.countInc p) :=
  (if_neg (not_not_intro up)).trans (if_pos kind)

theorem exec_openPacketArrival_of_bad (up : s.ports[p].st = 2) (bad : s.incBad h = true) (other : isAnnounce b = false) :
    exec (.openPacketArrival p h b) s = .next (s.countInc p) := by
  by_cases kind : hdrKind h < 3 ∨ 5 < hdrKind h
  · exact exec_openPacketArrival_of_kind up kind
  · exact (if_neg (not_not_intro up)).trans ((if_neg kind).trans (if_pos (by rw [bad, other]; rfl)))

/-- A packet of an open kind that keeps the incarnation rule goes on, or acts where it ends. -/
theorem exec_openPacketArrival_of_good (up : s.ports[p].st = 2) (least : 3 ≤ hdrKind h) (most : hdrKind h ≤ 5) (good : s.incBad h = false) :
    exec (.openPacketArrival p h b) s =
      if hdrDst h ≠ s.pf.pkg.toNat then .next ((s.openPort (hdrDst h)).elim s fun q => s.queuePacket q h b)
      else if mustSeal h && !isSealed b then .next (s.countBad (some 4))
      else .next (s.openEnd p h b) := by
  refine (if_neg (not_not_intro up)).trans ((if_neg (by omega)).trans ((if_neg (by rw [good, Bool.and_false]; exact Bool.false_ne_true)).trans ?_))
  cases s.openPort (hdrDst h) <;> rfl

theorem exec_openPacketArrival_of_far (up : s.ports[p].st = 2) (least : 3 ≤ hdrKind h) (most : hdrKind h ≤ 5) (good : s.incBad h = false)
    (far : hdrDst h ≠ s.pf.pkg.toNat) {q : Nat} (way : s.openPort (hdrDst h) = some q) :
    exec (.openPacketArrival p h b) s = .next (s.queuePacket q h b) := by
  rw [exec_openPacketArrival_of_good up least most good, if_pos far, way]
  rfl

theorem exec_openPacketArrival_of_clear (up : s.ports[p].st = 2) (least : 3 ≤ hdrKind h) (most : hdrKind h ≤ 5) (good : s.incBad h = false)
    (here : hdrDst h = s.pf.pkg.toNat) (unsealed : hdrPart h = 0) {d : PacketBody} :
    exec (.openPacketArrival p h (.clear d)) s = .next (s.openPacket p h d) := by
  have may : ¬(mustSeal h && !isSealed (.clear d)) = true := by
    rw [mustSeal, unsealed]
    simp
  rw [exec_openPacketArrival_of_good up least most good, if_neg (not_not_intro here), if_neg may]
  rfl

theorem exec_openPacketArrival_of_sealed (up : s.ports[p].st = 2) (least : 3 ≤ hdrKind h) (most : hdrKind h ≤ 5) (good : s.incBad h = false)
    (here : hdrDst h = s.pf.pkg.toNat) {iv : BitVec 96} {text : List Nat} {n : Fin 9} {d : PacketBody} (part : vfOf (hdrPart h) = some n)
    (tag : Config.openTag s.vfs[n].keys[3] iv text = hdrTag h) (words : packetOfWords (padWords s.vfs[n].keys[3] iv 0 text) = some d) :
    exec (.openPacketArrival p h (.sealed iv text)) s = .next (s.openPacket p h d) := by
  have may : ¬(mustSeal h && !isSealed (.sealed iv text)) = true := by
    rw [isSealed, Bool.not_true, Bool.and_false]
    exact Bool.false_ne_true
  rw [exec_openPacketArrival_of_good up least most good, if_neg (not_not_intro here), if_neg may]
  simp only [State.openEnd, part, Option.bind_some, wireOk, wireBody, words, tag, beq_self_eq_true, if_true]

end

/-! ### The time base (R298, R299) -/

/-- LOCK comes with the fourth offset in a row that is below a quarter tick (R299). -/
theorem streak_iff {near : Prop} [Decidable near] {streak : Nat} : 4 ≤ (if near then streak + 1 else 0) ↔ near ∧ 3 ≤ streak := by
  split
  next is => simp only [is, true_and]; omega
  next no => simp [no]

/-- Neither a step of TBNOW nor a loss of LOCK that is to come is a change of the management registers. -/
theorem State.pf_ite_now {c : Prop} [Decidable c] {n : Nat} : (if c then { s with now := n } else s).pf = s.pf := by
  split <;> rfl

theorem State.pf_ite_todo {c : Prop} [Decidable c] {is : List Instr} : (if c then { s with todo := is } else s).pf = s.pf := by
  split <;> rfl

theorem exec_timeExchange (t1 t2 t3 t4 : Nat) : ∃ t, exec (.timeExchange t1 t2 t3 t4) s = .next t ∧
    t.pf.tbOffset = (((t2 : Int) - t1) - ((t4 : Int) - t3)) / 2 ∧ (s.pf.lock = true → t.pf.lock = true) ∧
    (s.pf.lock = false → t.pf.lock = decide (t.pf.tbOffset.natAbs < 4 ∧ 3 ≤ s.pf.streak)) := by
  change ∃ t, execTimeExchange t1 t2 t3 t4 s = .next t ∧ _
  rw [execTimeExchange]
  refine ⟨_, rfl, ?_⟩
  rw [State.pf_ite_now, State.pf_ite_todo]
  refine ⟨rfl, fun locked => by rw [locked]; rfl, fun unlocked => ?_⟩
  rw [unlocked, Bool.false_or]
  exact decide_eq_decide.mpr streak_iff

end
end Sys2Proof.Machine

open Sys2Proof Sys2Proof.Machine in
/-- Settles O55: a lemma for each row. -/
theorem podAndLinkRows : Obligations.PodAndLinkRows := by
  refine ⟨fun s lk entry p l => ⟨fun is => ⟨fun r => exec_programStart is, fun r w has => ⟨exec_send is has, exec_fwd is has, fun h => exec_recv is has,
      exec_linkFault_of_flow is has⟩, exec_podBarrierSlot is, fun due => ?_, fun d => exec_containment is, exec_containmentResume is⟩,
      exec_elasticBufferFault, exec_guardInterval, exec_lockLoss⟩,
    fun s p slot h pay m b n x y fl t1 t2 t3 t4 => ⟨exec_arrivals_of_down, fun up => ⟨exec_flitArrival_of_bad up, exec_flitArrival_of_good up,
      exec_openPacketArrival_of_kind up, exec_openPacketArrival_of_bad up,
      fun least most good far q => exec_openPacketArrival_of_far up least most good far,
      fun least most good here unsealed d is => is ▸ exec_openPacketArrival_of_clear up least most good here unsealed,
      fun least most good here iv text k d is part tag words => is ▸ exec_openPacketArrival_of_sealed up least most good here part tag words,
      exec_faultNotice up⟩, exec_retrainingDone_of_idle, fun trains => ⟨exec_retrainingDone_of_eq trains, exec_retrainingDone_of_ne trains⟩,
      exec_timeExchange t1 t2 t3 t4⟩⟩
  obtain ⟨t, ran, idle⟩ := exec_podBarrierComplete is due
  exact ⟨t, ran, fun m hm own => ⟨idle m hm own 3, idle m hm own 4⟩⟩

end
